-- ==== Sys2Proof/Word.lean ====
section
/-!
DEFINITION. The words of the ZS-7384 and the plain data that commands carry.

Bit vectors stand for what the manual numbers in bits (R4); a field read out of a word is a Nat.
A row (R71) is 4,096 bits, little-endian under R5: byte b of the row is bits [8b + 7:8b].
-/
namespace Sys2Proof

abbrev Byte := BitVec 8
abbrev Half := BitVec 16
abbrev Word := BitVec 32
abbrev Dword := BitVec 64
abbrev Row := BitVec 4096

/-- A context number, 0 to 7 (R250). -/
abbrev CtxId := Fin 8
/-- A core index, column × 12 + row (R7). -/
abbrev CoreId := Fin 384
/-- A chip-memory bank (R29). -/
abbrev BankId := Fin 512
/-- A link number 2p + h (R282). -/
abbrev LinkId := Fin 32
/-- A GDDR7 channel (R254). -/
abbrev ChanId := Fin 40
/-- A clock island: 0-383 cores, 384-385 memory mesh, 386 section sequencer, 387-388 link control,
389-428 GDDR7 controllers, 429-430 CXL ports, 431-446 link ports, 447 management (R458). -/
abbrev IslandId := Fin 448

/-- The die of an island (R12, R458): 0 W, 1 E. -/
def islandDie (i : IslandId) : Nat :=
  let n := i.val
  if n < 384 then n / 192 else if n ≤ 385 then n - 384 else if n = 386 then 0 else if n ≤ 388 then n - 387
  else if n ≤ 428 then (n - 389) / 20 else if n ≤ 430 then n - 429 else if n ≤ 446 then (n - 431) / 8 else 0

/-- Counted activities (R465). -/
inductive Activity where
  | arrayVector
  | vectorInstr (cls : Nat)
  | coreRow | chipRow | meshFlit | linkFlit | gddrBurst
  deriving DecidableEq, Repr

/-- Events of an island in a loop period (R465). -/
abbrev Counts := List (IslandId × Activity × Nat)

/-- What the power controller has of a loop period that ends: the input power over PMBus in mW, and what each island counted (R464,
R465). -/
structure Period where
  measured : Nat
  counts : Counts := []
  deriving DecidableEq, Repr

/-- What starts a droop: the island's own supply, or the input of its die, in mW, above the die's limit (R469, R470). -/
inductive DroopCause where
  | supply
  | limit (draw : Nat)
  deriving DecidableEq, Repr

/-- A sparse table: keys strictly rising, no entry equal to the table's default. -/
abbrev Tab (α : Type) := List (Nat × α)

namespace Tab
variable {α : Type}

/-- The value at a key; the default where the key is not listed. -/
def get (d : α) : Tab α → Nat → α
  | [], _ => d
  | (k, v) :: t, i => if i = k then v else get d t i

/-- The table without a key. -/
def erase (t : Tab α) (i : Nat) : Tab α := t.filter fun p => p.1 != i

/-- An entry put before the first greater key. -/
def place : Tab α → Nat → α → Tab α
  | [], i, x => [(i, x)]
  | (k, v) :: t, i, x => if i < k then (i, x) :: (k, v) :: t else (k, v) :: place t i x

/-- The table with one key set, its form kept. -/
def set [DecidableEq α] (d : α) (t : Tab α) (i : Nat) (x : α) : Tab α :=
  if x = d then erase t i else place (erase t i) i x

/-- Keys strictly rising from a bound, no entry equal to the default. -/
def wfFrom [DecidableEq α] (d : α) : Nat → Tab α → Bool
  | _, [] => true
  | lo, (k, v) :: t => decide (lo ≤ k) && decide (v ≠ d) && wfFrom d (k + 1) t

/-- The one form of a sparse table. -/
def wf [DecidableEq α] (d : α) (t : Tab α) : Bool := wfFrom d 0 t

end Tab

/-- A command of a ring, named by context, SEQ, and a number that tells it from others of that SEQ in flight (R411, R418). -/
structure CmdRef where
  ctx : CtxId
  seq : Word
  nth : Nat := 0
  deriving DecidableEq, Repr

/-- A packet (R292): common header, bytes 16-31 and 32-47, and its payload of rows or SI24 blocks. -/
structure Packet where
  ptype : BitVec 4
  status : BitVec 4 := 0
  dst : BitVec 20
  src : BitVec 20
  window : BitVec 12 := 0
  nrows : BitVec 4 := 0
  wgen : BitVec 16 := 0
  tag : BitVec 24 := 0
  ext1 : BitVec 128 := 0
  ext2 : BitVec 128 := 0
  rows : List Row := []
  blocks : List (BitVec 3104) := []
  /-- The payload of a NOTICE, up to 64 bytes, completed with zeros. -/
  note : BitVec 512 := 0
  deriving DecidableEq, Repr

/-- What a scrub or patrol read finds in its row (R95, R258, R503). -/
inductive Finding where
  | clean
  | corrected
  | uncorrectable (sectors : BitVec 16)
  deriving DecidableEq, Repr

/-- What the link receivers of the memory mesh find in a row in flight (R95, R96): the link, 0 and 1 for the pintle links received
by die W and die E and a higher number for any other, and the finding. -/
structure Transit where
  link : Nat := 2
  finding : Finding := .clean
  deriving DecidableEq, Repr

/-- What the check bits of an accumulator entry or a vector-register lane word show when it is read (R73). -/
inductive OperandCheck where
  | clean
  | corrected
  | double
  deriving DecidableEq, Repr

/-- A vector instruction as it issues: its word, and what the check bits of the operands it reads show (R73, R140). -/
structure VecIssue where
  word : BitVec 64
  check : OperandCheck := .clean
  deriving DecidableEq, Repr

/-- A commit of one column: what the check bits of its accumulator entry show where the mode reads it (R73, R131). -/
structure ColumnCommit where
  column : Fin 128
  check : OperandCheck := .clean
  deriving DecidableEq, Repr

/-- A row that is read: its address, what its bank's or channel's code finds in it, and what the links find (R80, R95). -/
structure RowRead where
  addr : BitVec 52
  found : Finding := .clean
  transit : Transit := {}
  deriving DecidableEq, Repr

/-- The sectors of a written row that come poisoned, and what the links find in it (R95, R96). -/
structure RowPoison where
  poison : BitVec 16 := 0
  transit : Transit := {}
  deriving DecidableEq, Repr

/-- Who makes an engine operation: the context of a local issuer, or none, and the entry that it goes through (R92). -/
structure Requester where
  ctx : Option CtxId
  handle : Half
  deriving DecidableEq, Repr

/-- A row that sparing can move: of a core-memory bank or of a chip-memory bank (R98). -/
inductive SparePlace where
  | core (core : CoreId) (bank : Fin 8) (row : Fin 384)
  | chip (bank : BankId) (row : Fin 1024)
  deriving DecidableEq, Repr

/-- The four waits that the collective wait bounds (R435), in the order of its table. -/
inductive CollWait where
  | senderRetry
  | ownerCompletion
  | memberVerdict
  | bucketWait
  deriving DecidableEq, Repr

/-- What enumeration of a CXL port finds (R262, R263, R535): capacity in 256 MiB units, lanes, rate code. -/
structure CxlFound where
  units : Nat := 0
  lanes : BitVec 5 := 0
  code : BitVec 3 := 0
  deriving DecidableEq, Repr

/-- What training finds at power-up or device reset: the rate index k of 32 + 4k Gbit/s at which every channel
trains, none where some channel fails at 32 (R255, R256, then the lowest failing channel), and the CXL ports. -/
structure Training where
  rate : Option (Fin 5)
  failing : ChanId := 0
  cxl0 : CxlFound := {}
  cxl1 : CxlFound := {}
  deriving DecidableEq, Repr

/-- The conditions of the last item of R524. -/
inductive ModuleFault where
  | powerStage
  | pintle
  | managementWatchdog
  deriving DecidableEq, Repr

end Sys2Proof
end

