-- ==== Sys2Proof/Syntax.lean ====
section
/-!
DEFINITION. The commands of the ZS-7384: one constructor per row of spec/opcode_table.json, in the table's order.

A ring command names an accepted entry by context and SEQ: its payload is the one the device copied at ENTRY_FETCH
(R406). What a command reads from host memory, and what a physical event finds, are operands.
A sequencer word is its 128 bits and a vector instruction its 64 bits; OP and OPCODE are those of the row.
-/
namespace Sys2Proof

inductive Instr where
  /-- R406: A host write of DOORBELL sets the TAIL of submission ring CTX, so that the device fetches entries up to TAIL − 1. -/
  | doorbell (value : Word)
  /-- R407: A host write of CQ_DOORBELL frees completion entries up to HEAD. -/
  | cqDoorbell (value : Word)
  /-- R405: Writing SQ_CTRL with ENABLE set and a valid SIZE enables ring c, resets SQ_HEAD and clears the ring's sequence state; an invalid SIZE leaves the ring disabled. -/
  | sqEnable (ring : CtxId) (size : BitVec 4)
  /-- R405: Writing SQ_CTRL with ENABLE clear stops further fetches from the ring, while commands already accepted continue. -/
  | sqDisable (ring : CtxId) (size : BitVec 4)
  /-- R409: Writing CQ_CTRL with ENABLE set and a valid SIZE resets CQ_TAIL and PHASE and treats the whole ring as free. -/
  | cqEnable (size : BitVec 4)
  /-- R409: Writing CQ_CTRL with ENABLE clear stops the acceptance of new entries from every submission ring at once. -/
  | cqDisable (size : BitVec 4)
  /-- R409: Once every accepted command has committed and its entry has been written, ENABLE reads 0 and the base and size may change. -/
  | cqDisableTakesEffect
  /-- R8: An RW1C write to IRQ_PENDING clears the fired bits of the vectors it names. -/
  | irqPendingClear (value : Word)
  /-- R403: A write to a BAR0 register without behaviour of its own (CQ_BASE, SQ_BASE, IRQ_COALESCE, MSI-X table) stores the value, or ignores a bad access. -/
  | registerWrite (offset : BitVec 16) (bytes : Nat) (value : Dword)
  /-- R408: When the completion ring has room and the ring holds fewer than 64 open commands, the device fetches and accepts the next submission entry and checks it under R413. -/
  | entryFetch (ring : CtxId) (entry : BitVec 512)
  /-- R417: The completion writer commits a record's status and slot, makes the writes the status requires, and writes the entry to the completion ring. -/
  | completionCommit (cmd : CmdRef)
  /-- R410: When the coalescing delay has passed since a vector's first uncounted record, the vector fires. -/
  | irqCoalesceDelayExpiry (vector : CtxId)
  /-- R415: Agrees the command protocol version with the host. -/
  | protocolOpen (cmd : CmdRef)
  /-- R421: A command that does nothing. -/
  | nop (cmd : CmdRef)
  /-- R418: Aborts a target command named by context and SEQ, whose outcome is settled by what has already been committed. -/
  | abort (cmd : CmdRef)
  /-- R421: Opens a context with its save area and time slice. -/
  | contextOpen (cmd : CmdRef)
  /-- R426: Closes a context once its ring is idle, unless it still owns a window, a collective or the job. -/
  | contextClose (cmd : CmdRef)
  /-- R86: Writes a device keyring entry, either at once or held until the resident context's next hinge. -/
  | keyringWrite (cmd : CmdRef)
  /-- R260: Sets the GDDR7 direct size D while no context is open. -/
  | gddrLayout (cmd : CmdRef)
  /-- R422: Copies rows from host memory into a device entry. -/
  | dataPut (cmd : CmdRef) (host : List Row)
  /-- R422: Copies rows from a device entry into host memory. -/
  | dataGet (cmd : CmdRef)
  /-- R226: Runs a section list, with an optional step, replay mode, replay-run flag, update binding, gather list and exchange list. -/
  | run (cmd : CmdRef)
  /-- R299: Sets the device ID and ID_BASE. -/
  | deviceIdSet (cmd : CmdRef)
  /-- R300: Rewrites entries of the destination table. -/
  | routeWrite (cmd : CmdRef)
  /-- R305: Opens a window on a device keyring entry, optionally setting its generation. -/
  | windowOpen (cmd : CmdRef)
  /-- R308: Starts the hasp: the window becomes closing and its GEN increases by 1. -/
  | windowClose (cmd : CmdRef)
  /-- R308: When a closing window's ACTIVE reaches 0, it becomes closed, takes the new service generation, and its close command completes. -/
  | haspComplete (window : BitVec 12)
  /-- R304: Returns the fields of a window. -/
  | windowStatus (cmd : CmdRef)
  /-- R424: Sends local rows to a remote window in one WRITE request. -/
  | remoteWrite (cmd : CmdRef)
  /-- R424: Reads rows from a remote window into local rows. -/
  | remoteRead (cmd : CmdRef)
  /-- R424: Issues a FETCH_ADD to a remote window and returns the value. -/
  | remoteFetchAdd (cmd : CmdRef)
  /-- R316: Opens a collective from its descriptor and captures its bucket list. -/
  | collectiveOpen (cmd : CmdRef)
  /-- R317: Disarms a collective's slots and stops its sender, completing when the sender's requests are acknowledged. -/
  | collectiveClose (cmd : CmdRef)
  /-- R322: Arms a range of buckets for a step as member and as owner. -/
  | bucketArm (cmd : CmdRef)
  /-- R334: Waits for a bucket's verdict for a step. -/
  | bucketWait (cmd : CmdRef)
  /-- R345: Accepts a switch of a collective to a new layout epoch and bucket list. -/
  | layoutSwitch (cmd : CmdRef)
  /-- R345: When no bucket is armed and every owner verdict notice is acknowledged, the epoch changes, the new list is captured and the command completes. -/
  | layoutSwitchEffect (collective : BitVec 16)
  /-- R369: Opens a job with its ID, job seed and group table. -/
  | jobOpen (cmd : CmdRef)
  /-- R370: Fences the job if it is not fenced, waits for its requests, then discards the job. -/
  | jobClose (cmd : CmdRef)
  /-- R373: Sends a barrier arrival to the group's keyholder. -/
  | barrierEnter (cmd : CmdRef)
  /-- R377: The keyholder writes rows to every member's broadcast window. -/
  | groupBroadcast (cmd : CmdRef)
  /-- R379: Writes a link-stream table entry and empties its buffer. -/
  | streamBind (cmd : CmdRef)
  /-- R513: Writes telemetry records from the latest samples into an entry. -/
  | telemetryRead (cmd : CmdRef)
  /-- R518: Writes black-box records from the live ring or a freeze slot into an entry. -/
  | blackboxRead (cmd : CmdRef)
  /-- R501: BLACKBOX_READ with bit 112 set reads audit records. -/
  | auditRead (cmd : CmdRef)
  /-- R438: Command that triggers an engine reset, optionally without suspect replay. -/
  | engineReset (cmd : CmdRef)
  /-- R450: Command that triggers a device reset. -/
  | deviceReset (cmd : CmdRef)
  /-- R454: Records an event for a peer and marks or unmarks that peer. -/
  | peerNotice (cmd : CmdRef)
  /-- R456: Ends the job's runs and waits, closes its collectives and stops its streams and exchanges. -/
  | jobFence (cmd : CmdRef)
  /-- R491: Writes a challenge record for a role. -/
  | roleChallenge (cmd : CmdRef)
  /-- R492: Verifies a credential and a signed response, and grants the role. -/
  | roleResponse (cmd : CmdRef) (host : List Byte)
  /-- R493: Ends the role held other than operator. -/
  | roleDrop (cmd : CmdRef)
  /-- R487: Serves one SPDM request from host memory. -/
  | spdmMessage (cmd : CmdRef) (request : List Byte)
  /-- R464: Sets the power cap and the power mode. -/
  | powerSet (cmd : CmdRef)
  /-- R447: Sets the deadbolt reset count and window. -/
  | resetLimitsSet (cmd : CmdRef)
  /-- R421: Writes the link split, traffic-class weights, response timeout, GDDR7 ceiling and CXL interleave for the next device reset. -/
  | linkConfigSet (cmd : CmdRef)
  /-- R300: Writes the destination-table defaults to flash. -/
  | routeDefaultsWrite (cmd : CmdRef)
  /-- R483: FIRMWARE_UPDATE STAGE loads an image into the inactive slot and verifies every section. -/
  | firmwareStage (cmd : CmdRef) (image : List Byte)
  /-- R483: FIRMWARE_UPDATE ACTIVATE makes the staged slot active for the next boot. -/
  | firmwareActivate (cmd : CmdRef)
  /-- R483: FIRMWARE_UPDATE COMMIT raises the ROLLBACK count to the running image's SVN. -/
  | firmwareCommit (cmd : CmdRef)
  /-- R449: Clears deadbolt and its history, and performs a device reset. -/
  | deadboltClear (cmd : CmdRef)
  /-- R463: Commits pending row remaps and queued core remaps. -/
  | remapCommit (cmd : CmdRef)
  /-- R478: Sets fuse bits of a field from host memory. -/
  | fuseProgram (cmd : CmdRef) (host : List Byte)
  /-- R495: Unlocks the debug access port until the next power-up or PERST#. -/
  | debugUnlock (cmd : CmdRef)
  /-- R123: Loads a stationary set of the array by the normal or the transposed path. -/
  | sload (core : CoreId) (word : BitVec 128)
  /-- R115: A stationary load completes and its set becomes valid. -/
  | sloadSetValid (core : CoreId)
  /-- R122: Streams moving vectors through a stationary set into the accumulator memory. -/
  | mmul (core : CoreId) (word : BitVec 128)
  /-- R121: A moving vector issues once its segment is present, its set is valid and its interval has passed. -/
  | vectorIssue (core : CoreId) (parityError : Bool)
  /-- R131: A column's partial sum updates its accumulator entry under ACCMODE. -/
  | accumulatorCommit (core : CoreId) (commit : ColumnCommit)
  /-- R166: Copies rows between entries of any tiers. -/
  | rmov (core : CoreId) (word : BitVec 128)
  /-- R166: A row move completes when every row has been committed. -/
  | rmovComplete (core : CoreId)
  /-- R169: Rewrites fields of a loaded core keyring entry. -/
  | kset (core : CoreId) (word : BitVec 128)
  /-- R176: Runs a tiling descriptor: checks it, stages operands and issues the product's array operations. -/
  | tile (core : CoreId) (word : BitVec 128)
  /-- R178: After an output tile's last K sub-tile, the sequencer writes v63 and runs the epilogue. -/
  | tileEpilogue (core : CoreId)
  /-- R179: When an L1 output tile's epilogues complete, its SC rows are copied to C or sent on OUT_CHANNEL. -/
  | tileShip (core : CoreId)
  /-- R179: A TILE completes, and with DONE_EN set it sends a done token. -/
  | tileComplete (core : CoreId)
  /-- R185: Claims a range from a work counter and writes the result into a lane. -/
  | wclaim (core : CoreId) (word : BitVec 128)
  /-- R200: Sends entry rows or a register as data tokens on a channel. -/
  | csend (core : CoreId) (word : BitVec 128)
  /-- R208: Receives data tokens from a channel into rows or a register. -/
  | crecv (core : CoreId) (word : BitVec 128)
  /-- R205: Sends one control token or done token. -/
  | ctok (core : CoreId) (word : BitVec 128)
  /-- R205: Receives one control token or done token into a lane. -/
  | ctake (core : CoreId) (word : BitVec 128)
  /-- R240: Places a TILE at the tail of the deferred-work queue. -/
  | wqueue (core : CoreId) (word : BitVec 128)
  /-- R244: Stalls until every deferred entry queued before it has completed. -/
  | wfence (core : CoreId) (word : BitVec 128)
  /-- R245: Stashes rows out to a compressed buffer, or reads them back in. -/
  | stash (core : CoreId) (word : BitVec 128)
  /-- R230: Ends the core's program for the section, or counts a loop and jumps. -/
  | seqj (core : CoreId) (word : BitVec 128)
  /-- R242: After 64 starved cycles, at a fence, at a full queue or after END, the head deferred entry starts or resumes. -/
  | deferredWorkStart (core : CoreId)
  /-- R242: At the end of an L1 output tile, deferred work suspends if the stalled channel now holds a token. -/
  | deferredWorkSuspend (core : CoreId)
  /-- R144: Vector no-operation. -/
  | vnop (core : CoreId) (issue : VecIssue)
  /-- R144: Wrapping integer add. -/
  | viadd (core : CoreId) (issue : VecIssue)
  /-- R144: Wrapping integer subtract. -/
  | visub (core : CoreId) (issue : VecIssue)
  /-- R147: Integer multiply, keeping the low half of each product. -/
  | vimul (core : CoreId) (issue : VecIssue)
  /-- R144: Saturating integer add. -/
  | viadds (core : CoreId) (issue : VecIssue)
  /-- R144: Saturating integer subtract. -/
  | visubs (core : CoreId) (issue : VecIssue)
  /-- R144: Signed integer minimum. -/
  | vimin (core : CoreId) (issue : VecIssue)
  /-- R144: Signed integer maximum. -/
  | vimax (core : CoreId) (issue : VecIssue)
  /-- R144: Bitwise AND. -/
  | vand (core : CoreId) (issue : VecIssue)
  /-- R144: Bitwise OR. -/
  | vor (core : CoreId) (issue : VecIssue)
  /-- R144: Bitwise XOR. -/
  | vxor (core : CoreId) (issue : VecIssue)
  /-- R144: Shift left. -/
  | vshl (core : CoreId) (issue : VecIssue)
  /-- R144: Arithmetic shift right. -/
  | vshra (core : CoreId) (issue : VecIssue)
  /-- R144: Logical shift right. -/
  | vshrl (core : CoreId) (issue : VecIssue)
  /-- R59: Floating-point add. -/
  | vadd (core : CoreId) (issue : VecIssue)
  /-- R59: Floating-point subtract. -/
  | vsub (core : CoreId) (issue : VecIssue)
  /-- R59: Floating-point multiply. -/
  | vmul (core : CoreId) (issue : VecIssue)
  /-- R59: Fused multiply-add with one rounding. -/
  | vfma (core : CoreId) (issue : VecIssue)
  /-- R146: Floating-point minimum. -/
  | vmin (core : CoreId) (issue : VecIssue)
  /-- R146: Floating-point maximum. -/
  | vmax (core : CoreId) (issue : VecIssue)
  /-- R144: Clears the sign bit. -/
  | vabs (core : CoreId) (issue : VecIssue)
  /-- R144: Inverts the sign bit. -/
  | vneg (core : CoreId) (issue : VecIssue)
  /-- R146: Compare equal into a mask. -/
  | vcmpeq (core : CoreId) (issue : VecIssue)
  /-- R146: Compare less-than into a mask. -/
  | vcmplt (core : CoreId) (issue : VecIssue)
  /-- R146: Compare less-or-equal into a mask. -/
  | vcmple (core : CoreId) (issue : VecIssue)
  /-- R146: Compare unordered into a mask. -/
  | vcmpun (core : CoreId) (issue : VecIssue)
  /-- R144: Sets a mask from a lane bound. -/
  | vmset (core : CoreId) (issue : VecIssue)
  /-- R144: AND of two masks. -/
  | vmand (core : CoreId) (issue : VecIssue)
  /-- R144: OR of two masks. -/
  | vmor (core : CoreId) (issue : VecIssue)
  /-- R144: XOR of two masks. -/
  | vmxor (core : CoreId) (issue : VecIssue)
  /-- R144: NOT of a mask. -/
  | vmnot (core : CoreId) (issue : VecIssue)
  /-- R148: Base-2 exponential. -/
  | vexp2 (core : CoreId) (issue : VecIssue)
  /-- R148: Base-2 logarithm. -/
  | vlog2 (core : CoreId) (issue : VecIssue)
  /-- R148: Reciprocal. -/
  | vrcp (core : CoreId) (issue : VecIssue)
  /-- R148: Reciprocal square root. -/
  | vrsqrt (core : CoreId) (issue : VecIssue)
  /-- R148: Hyperbolic tangent. -/
  | vtanh (core : CoreId) (issue : VecIssue)
  /-- R150: Fixed-tree sum over the active lanes. -/
  | vrsum (core : CoreId) (issue : VecIssue)
  /-- R150: Fixed-tree maximum over the active lanes. -/
  | vrmax (core : CoreId) (issue : VecIssue)
  /-- R151: One online-softmax step. -/
  | vsmx (core : CoreId) (issue : VecIssue)
  /-- R144: Rotates lanes. -/
  | vrot (core : CoreId) (issue : VecIssue)
  /-- R144: Moves a source to the destination. -/
  | vmov (core : CoreId) (issue : VecIssue)
  /-- R153: Converts between the lane format and a packed format. -/
  | vcvt (core : CoreId) (issue : VecIssue)
  /-- R155: Quantizes FP32 lanes into an SI24 block. -/
  | vqsi (core : CoreId) (issue : VecIssue)
  /-- R155: Widens a staged or accumulated SI24 block into FP32. -/
  | vdqsi (core : CoreId) (issue : VecIssue)
  /-- R156: Loads one row into a vector register. -/
  | vld (core : CoreId) (issue : VecIssue)
  /-- R156: Stores a vector register into one row. -/
  | vst (core : CoreId) (issue : VecIssue)
  /-- R161: Writes one generator output per active lane. -/
  | vrnd (core : CoreId) (issue : VecIssue)
  /-- R160: Reads lane or column flag words. -/
  | vflagrd (core : CoreId) (issue : VecIssue)
  /-- R160: Clears lane or column flag bits. -/
  | vflagclr (core : CoreId) (issue : VecIssue)
  /-- R192: A token arrives at an inbound channel end and is queued or spilled, with a parity check. -/
  | tokenArrival (core : CoreId) (port : Fin 4) (vc : Fin 8) (parityError : Bool)
  /-- R218: When queue slots 0–11 have room, the spill head moves into the queue. -/
  | spillRefill (core : CoreId) (channel : Fin 64)
  /-- R216: A credit reaches the sender of a channel. -/
  | creditReturn (core : CoreId) (channel : Fin 64)
  /-- R195: A pass-through route moves a token to its outbound channel. -/
  | routeForward (core : CoreId) (route : Fin 4)
  /-- R213: SELECT moves the data token from the indexed input to its output. -/
  | selectFire (core : CoreId)
  /-- R213: ROUTE moves a data token to the indexed output. -/
  | routeFire (core : CoreId)
  /-- R213: MERGE moves a token from the input whose turn it is. -/
  | mergeFire (core : CoreId)
  /-- R213: REPEAT sends one copy of its data token. -/
  | repeatFire (core : CoreId)
  /-- R214: A steering unit passes a complete set of end-of-tensor or done tokens. -/
  | steerEndPass (core : CoreId) (unit : Fin 4)
  /-- R222: The deadlock counter reaches 2^W, and the context faults with a snapshot. -/
  | streamDeadlock
  /-- R237: When the hinge conditions hold, the sequencer settles flags, completion, context switch, image loading, counter resets and gate requests. -/
  | hingeBegin
  /-- R237: When every gate and wake request has taken effect, the cores are released at ENTRY and the watchdogs start. -/
  | sectionStart
  /-- R104: A gate request reaches the head of its bank's queue, and the bank gates. -/
  | gateRequestEffect (bank : BankId)
  /-- R105: 1.2 µs after a late write, the bank is awake and serves its waiting requests. -/
  | bankWakeDone (bank : BankId)
  /-- R80: A bank serves a row read. -/
  | memoryMeshRowRead (issuer : Option CtxId) (read : RowRead)
  /-- R80: A bank commits a row write and acknowledges it. -/
  | memoryMeshRowWrite (issuer : Option CtxId) (addr : BitVec 52) (row : Row) (poison : RowPoison)
  /-- R269: A memory-side engine adds a staged SI24 block into an accumulated block and counts it against its slot. -/
  | accSi24 (issuer : Requester) (addr : BitVec 52) (header : BitVec 128) (block : BitVec 3104)
  /-- R185: An engine serves an atomic claim on a 32-bit word. -/
  | fadd32 (issuer : Requester) (addr : BitVec 52) (addend limit : Word)
  /-- R267: An engine writes one 32-bit word of a row. -/
  | wordWrite (addr : BitVec 52) (value : Word)
  /-- R356: An engine runs an update program: step check, UPDATING header, granules, final header and notice. -/
  | update (engine : Fin 8)
  /-- R356: When every granule write has committed, the engine writes the header and sends the completion notice. -/
  | updateProgramComplete (engine : Fin 8)
  /-- R100: Firmware copies a failing row into a spare, holding the bank's queue. -/
  | rowRemap (place : SparePlace) (afterPoison : Bool)
  /-- R503: The scrubber reads a core-memory row, and rewrites it if it corrected a sector. -/
  | coreMemoryScrub (core : CoreId) (bank : Fin 8) (finding : Finding)
  /-- R504: The scrubber visits a chip-memory row. -/
  | chipMemoryScrub (bank : BankId) (finding : Finding)
  /-- R505: On each 5 ms tick, the patrol scrub reads the next GDDR7 row of each channel. -/
  | patrolScrubTick (findings : List (ChanId × Finding))
  /-- R257: A channel performs its periodic read and write data retraining. -/
  | gddrRetraining (chan : ChanId)
  /-- R258: A GDDR7 transfer whose CRC fails is retried, or its sectors are poisoned. -/
  | gddrTransferRetry (addr : BitVec 52) (failures : Fin 5) (sectors : BitVec 16)
  /-- R265: A CXL port's link goes down in service. -/
  | cxlPortDown (port : Fin 2)
  /-- R325: Firmware reads the ready words every 2 µs, and the sender starts a bucket generation when a word reaches PARTS. -/
  | readyWordPoll (collective : BitVec 16) (bucket : Word)
  /-- R330: Firmware reads notice words, and an owner whose bucket is complete gives a verdict. -/
  | noticeWordPoll (collective : BitVec 16) (bucket : Word)
  /-- R338: When every scale write is acknowledged, the owner sends VERDICT_CLEAN, or abandons the attempt on a failed write. -/
  | scaleDistributionDone (collective : BitVec 16) (bucket : Word)
  /-- R329: A refused ACCUMULATE packet is resent after its backoff interval. -/
  | accumulateRetry (tag : BitVec 24)
  /-- R346: An EPOCH_DIFFERS retry still refused after 1 ms faults the context. -/
  | epochAhead (tag : BitVec 24)
  /-- R435: One of the four collective waits passes WAIT_MS, and the bucket is abandoned. -/
  | collectiveWaitTimeout (collective : BitVec 16) (bucket : Word) (wait : CollWait)
  /-- R362: A gather group starts when its START section has begun and fewer than 4 groups are in progress. -/
  | gatherGroupStart (ctx : CtxId)
  /-- R364: A forward gather reads the shard header again after its backoff interval. -/
  | gatherHeaderRetry (ctx : CtxId) (piece : Nat)
  /-- R364: A forward gather's WAIT_MS passes without the expected epoch. -/
  | gatherTimeout (ctx : CtxId) (piece : Nat)
  /-- R364: A group completes, its waiting accesses proceed, and the entry records EPOCH. -/
  | gatherGroupComplete (ctx : CtxId) (group : Nat)
  /-- R397: An exchange entry starts when its conditions and ready word allow, and a dispatch sends its count rows. -/
  | exchangeEntryStart (ctx : CtxId)
  /-- R391: A destination holding every count row of a round computes and sends its grants. -/
  | exchangeGrant (ctx : CtxId) (entry : Nat)
  /-- R393: A source holding every grant row sends its granted token rows. -/
  | exchangePayloadSend (ctx : CtxId) (entry : Nat)
  /-- R394: When every row has committed, the destination writes its count row and RECORDED, and the entry completes. -/
  | exchangeEntryComplete (ctx : CtxId) (entry : Nat)
  /-- R376: No barrier release arrives within WAIT_MS. -/
  | groupWaitTimeout (group : Fin 16)
  /-- R298: A request receives no READ_RESP within the response timeout. -/
  | remoteTimeout (tag : BitVec 24)
  /-- R307: An arriving WRITE packet is checked against its window and its rows are written. -/
  | write (via : Option LinkId) (packet : Packet)
  /-- R327: An arriving ACCUMULATE packet is checked and its blocks are matched and counted as one unit. -/
  | accumulate (via : Option LinkId) (packet : Packet)
  /-- R307: An arriving READ packet is checked and answered with rows. -/
  | read (via : Option LinkId) (packet : Packet)
  /-- R298: A response arrives and acknowledges its request, for the issuer to act on its STATUS. -/
  | readResp (via : Option LinkId) (packet : Packet)
  /-- R307: An arriving FETCH_ADD is checked and served as a claim. -/
  | fetchAdd (via : Option LinkId) (packet : Packet)
  /-- R389: An arriving EXCHANGE count, grant or payload packet is written to its window. -/
  | exchange (via : Option LinkId) (packet : Packet)
  /-- R374: The keyholder records a barrier arrival, and releases the barrier when all members have arrived. -/
  | barrier (via : Option LinkId) (packet : Packet)
  /-- R375: A member applies a release notice to its step and barrier sequence. -/
  | barrierRelease (via : Option LinkId) (packet : Packet)
  /-- R395: A peer's ready notice lets combine or redispatch rows be sent to it. -/
  | exchangeReady (via : Option LinkId) (packet : Packet)
  /-- R330: A member sets its bucket record clean. -/
  | verdictClean (via : Option LinkId) (packet : Packet)
  /-- R341: A member raises the bucket's scales, sets REPLAY and re-awaits its parts. -/
  | rescale (via : Option LinkId) (packet : Packet)
  /-- R330: A member records the ward-exhausted verdict. -/
  | verdictWardExhausted (via : Option LinkId) (packet : Packet)
  /-- R330: A member records the non-finite verdict. -/
  | verdictNonfinite (via : Option LinkId) (packet : Packet)
  /-- R301: A packet for another device is forwarded on its PRIMARY or ALTERNATE link, or answered NO_ROUTE. -/
  | packetForward (via : Option LinkId) (packet : Packet)
  /-- R381: An arriving stream flit delivers token and credit records to its link-stream entry. -/
  | streamFlit (via : LinkId) (stream : BitVec 16) (payload : BitVec 1920)
  /-- R382: A receive end sends its owed credits within 500 ns, or at once when 32 are owed. -/
  | streamCreditSend (stream : Fin 1024)
  /-- R287: A flit is accepted, or is discarded with a NAK, and its ACK, NAK and credits are applied. -/
  | flitReceive (link : LinkId) (flit : BitVec 2048) (clean : Bool)
  /-- R288: 1 ms with unacknowledged flits and no progress of ACK retrains the link. -/
  | ackTimeoutRetrain (link : LinkId)
  /-- R288: A link not up within 100 ms of a retrain goes down. -/
  | retrainTimeout (link : LinkId)
  /-- R312: A link loses its peer, which is detected within 10 µs, and its packets are rerouted or answered. -/
  | linkLoss (link : LinkId)
  /-- R312: A down link attempts training every 500 ms. -/
  | linkTrainAttempt (link : LinkId)
  /-- R284: Training reaches flit exchange at a width, and HELLO is sent. -/
  | linkTrained (link : LinkId) (failing : Byte)
  /-- R311: A peer's HELLO is answered with HELLO_ACK, and the version is agreed. -/
  | hello (link : LinkId) (message : Dword)
  /-- R311: A peer's HELLO_ACK brings the link up, or into version mismatch. -/
  | helloAck (link : LinkId) (message : Dword)
  /-- R313: A peer's state report is recorded and may clear a peer mark. -/
  | peerState (link : LinkId) (message : Dword)
  /-- R310: A peer's RETRAIN control message. -/
  | retrain (link : LinkId) (message : Dword)
  /-- R433: The section watchdog expires, and the context stops. -/
  | sectionTimeout
  /-- R434: A core retires nothing for 100 ms, and an engine reset starts. -/
  | coreProgressTimeout (core : CoreId)
  /-- R429: A context fault stops its cores and starts the drain. -/
  | contextStop (ctx : CtxId)
  /-- R429: When the drain finishes, the grid is cleared and the run's record is committed. -/
  | contextStopDrained (ctx : CtxId)
  /-- R430: A drain not finished in 1 ms starts an engine reset. -/
  | drainBoundExpiry
  /-- R439: An engine reset starts: fault record, state 4, fetching paused and cores stopped. -/
  | engineResetStart
  /-- R440: The compute-domain edge closes, and the compute domain is held in reset. -/
  | engineResetEdgeClosed
  /-- R439: The engine reset completes, fetching resumes, and replay begins or deadbolt is entered. -/
  | engineResetDone
  /-- R439: An engine reset not complete in 20 ms escalates to a device reset. -/
  | engineResetTimeout
  /-- R443: A replayable suspect's run starts sealed, in replay mode. -/
  | suspectReplayStart
  /-- R444: A replay completes or faults, and the suspect's outcome is recorded. -/
  | suspectReplayEnd
  /-- R444: A replay exceeds its watchdog, and the suspect is found guilty. -/
  | replayWatchdogExpiry
  /-- R451: A device reset starts: state 5, and the links go to electrical idle. -/
  | deviceResetStart
  /-- R451: The device reset reaches ready, and traffic resumes. -/
  | deviceResetDone (training : Training)
  /-- R450: Ready not reached within 2.5 s: state not ready and FAULT# asserted. -/
  | deviceResetTimeout
  /-- R428: A failure of link-domain or memory-domain logic triggers a device reset. -/
  | linkDomainFailure (memoryDomain : Bool)
  /-- R467: At the end of each loop period, the power controller sets F_T, the duty and the current limits. -/
  | capLoopPeriod (measured : Nat) (west east : Counts)
  /-- R465: Every 100 ms, the estimate gain is recalibrated against PMBus. -/
  | gainCalibration (die : Fin 2) (measured estimated : Nat)
  /-- R459: Every 32 cycles, an island moves one 5 MHz step toward its target. -/
  | frequencyStep (island : IslandId)
  /-- R470: A supply droop or a limit event is detected, and cycles are stretched. -/
  | droop (island : IslandId) (cause : DroopCause)
  /-- R471: Each 2 µs of one droop drops the island's frequency by 50 MHz. -/
  | droopStepDown (island : IslandId)
  /-- R471: The droop clears, and the stretch ends. -/
  | droopClear (island : IslandId) (limit : Bool)
  /-- R472: 256 cycles after a droop clears, the island ramps back toward the target then in force. -/
  | droopRecoveryWaitEnd (island : IslandId)
  /-- R473: Every 1 ms, firmware reads the sensors and adjusts each L_i. -/
  | thermalRead (cores : List Int) (dieW dieE : Int)
  /-- R474: A sensor at 120 °C trips the module off, and the trip is latched. -/
  | thermtrip (sensor : Option CoreId) (temperature : Int)
  /-- R462: Every 10 s, firmware reads the ageing monitors and lowers ceilings. -/
  | ageingMeasurement (core : CoreId) (measured : Nat)
  /-- R511: Every 100 ms, firmware samples the telemetry records. -/
  | telemetrySample (power1ms power100ms : Word) (energy : Dword)
  /-- R506: Relocates a flash block in steps of at most 2 ms. -/
  | wearLevelling
  /-- R516: A black-box freeze copy to flash ends, and a further copy may start. -/
  | freezeCopyDone
  /-- R499: An audit record becomes durable in flash, so that its event may proceed. -/
  | auditRecordDurable (written : Bool)
  /-- R493: A role other than operator ends 30 minutes after it was granted. -/
  | roleLapse
  /-- R519: Sideband MCTP control message. -/
  | mctpControl (request : List Byte)
  /-- R519: Sideband SPDM request served under R487. -/
  | mctpSpdm (request : List Byte)
  /-- R519: Sideband vendor request that reads telemetry records. -/
  | sbTelemetryRead (first : Word) (count : BitVec 16)
  /-- R519: Sideband vendor request that reads black-box records. -/
  | sbBlackboxRead (first : Word) (count : BitVec 16)
  /-- R519: Sideband vendor request that reads audit records. -/
  | sbAuditRead (first : Word) (count : BitVec 16)
  /-- R21: PERST# asserted resets all four domains. -/
  | perstAssert
  /-- R529: PERST# deasserted samples the straps and starts the boot ROM. -/
  | perstDeassert (sbSel : Bool) (sbAddr : BitVec 2)
  /-- R481: The ROM and stage 1 verify and measure the boot chain. -/
  | boot
  /-- R529: MOD_EN high with the input in range brings up the rails. -/
  | powerUp
  /-- R530: Ready not reached by P + 3,000 ms: not ready and FAULT#. -/
  | powerUpTimeout
  /-- R531: MOD_EN low powers the module down in order. -/
  | modEnFall
  /-- R532: Input below 46 V for 100 µs turns the power stages off. -/
  | lossOfInput
  /-- R521: Input above 57 V turns the stages off and latches FAULT#. -/
  | overVoltage
  /-- R524: A power stage failure, a pintle failure or the management watchdog asserts FAULT#. -/
  | moduleFailure (cause : ModuleFault)
  /-- R288: The physical layer of a link loses lock, and the link retrains. -/
  | phyLockLoss (link : LinkId)
  /-- R437: An uncorrectable error in the section sequencer or a stash engine, not attributable to one context, triggers an engine reset. -/
  | sequencerUncorrectableError
  /-- R529: At the end of power-up, GDDR7, CXL and link training are done, DEVICE_STATE becomes 1, vector 8 fires and PEER_STATE ready is sent. -/
  | powerUpReady (training : Training)
  /-- R245: A STASH operation completes when the stash engine has written its last record or row, releasing WAIT and counting toward the hinge. -/
  | stashComplete (core : CoreId)
  /-- R307: An arriving packet with a reserved PTYPE, or a NOTICE with a reserved NCODE, is answered with STATUS 10 MALFORMED. -/
  | malformedPacket (via : Option LinkId) (packet : Packet)
  /-- R519: A sideband MCTP message of any other type or request code is answered with an MCTP error response. -/
  | sbUnsupportedMessage (request : List Byte)
  /-- R525: 10 ms after the last event of an ALERT# pulse, the module releases ALERT#. -/
  | alertPulseEnd
  /-- R526: The input falls below 40 V, the standby circuit loses power, and the THERMTRIP# and over-voltage FAULT# latches clear. -/
  | standbySupplyLoss
  deriving DecidableEq, Repr

end Sys2Proof
end

