-- ==== Sys2Proof/Decode.lean ====
section
/-!
DEFINITION. The command that a word of the table's bits spells, and the commands that a core's program words spell.
spec/opcode_table.json gives no row any bits (every row's fields are empty), so no word of the table spells a command.
The encodings that the manual gives (sequencer words, vector instructions, submission entries, packets) are operands of commands; their
fields are read in Machine/Fields.lean.
-/
namespace Sys2Proof

/-- No row of the table gives bits. -/
def decodeTableWord (_nbits _w : Nat) : Option Instr := none

/-- OP of a sequencer word picks the operation; 0x0 and 0x3 are reserved (R163, R199, R240 to R245). -/
def decodeSequencer (c : CoreId) (w : BitVec 128) : Option Instr :=
  match w.toNat % 16 with
  | 0x1 => some (.sload c w)
  | 0x2 => some (.mmul c w)
  | 0x4 => some (.rmov c w)
  | 0x5 => some (.kset c w)
  | 0x6 => some (.tile c w)
  | 0x7 => some (.wclaim c w)
  | 0x8 => some (.csend c w)
  | 0x9 => some (.crecv c w)
  | 0xA => some (.ctok c w)
  | 0xB => some (.ctake c w)
  | 0xC => some (.wqueue c w)
  | 0xD => some (.wfence c w)
  | 0xE => some (.stash c w)
  | 0xF => some (.seqj c w)
  | _ => none

/-- OPCODE of a vector instruction picks the operation; other codes are reserved (R144). -/
def decodeVector (c : CoreId) (w : BitVec 64) (e : OperandCheck) : Option Instr :=
  match w.toNat % 256 with
  | 0x00 => some (.vnop c ⟨w, e⟩)
  | 0x01 => some (.viadd c ⟨w, e⟩)
  | 0x02 => some (.visub c ⟨w, e⟩)
  | 0x03 => some (.vimul c ⟨w, e⟩)
  | 0x04 => some (.viadds c ⟨w, e⟩)
  | 0x05 => some (.visubs c ⟨w, e⟩)
  | 0x06 => some (.vimin c ⟨w, e⟩)
  | 0x07 => some (.vimax c ⟨w, e⟩)
  | 0x08 => some (.vand c ⟨w, e⟩)
  | 0x09 => some (.vor c ⟨w, e⟩)
  | 0x0A => some (.vxor c ⟨w, e⟩)
  | 0x0B => some (.vshl c ⟨w, e⟩)
  | 0x0C => some (.vshra c ⟨w, e⟩)
  | 0x0D => some (.vshrl c ⟨w, e⟩)
  | 0x20 => some (.vadd c ⟨w, e⟩)
  | 0x21 => some (.vsub c ⟨w, e⟩)
  | 0x22 => some (.vmul c ⟨w, e⟩)
  | 0x23 => some (.vfma c ⟨w, e⟩)
  | 0x24 => some (.vmin c ⟨w, e⟩)
  | 0x25 => some (.vmax c ⟨w, e⟩)
  | 0x26 => some (.vabs c ⟨w, e⟩)
  | 0x27 => some (.vneg c ⟨w, e⟩)
  | 0x30 => some (.vcmpeq c ⟨w, e⟩)
  | 0x31 => some (.vcmplt c ⟨w, e⟩)
  | 0x32 => some (.vcmple c ⟨w, e⟩)
  | 0x33 => some (.vcmpun c ⟨w, e⟩)
  | 0x38 => some (.vmset c ⟨w, e⟩)
  | 0x39 => some (.vmand c ⟨w, e⟩)
  | 0x3A => some (.vmor c ⟨w, e⟩)
  | 0x3B => some (.vmxor c ⟨w, e⟩)
  | 0x3C => some (.vmnot c ⟨w, e⟩)
  | 0x40 => some (.vexp2 c ⟨w, e⟩)
  | 0x41 => some (.vlog2 c ⟨w, e⟩)
  | 0x42 => some (.vrcp c ⟨w, e⟩)
  | 0x43 => some (.vrsqrt c ⟨w, e⟩)
  | 0x44 => some (.vtanh c ⟨w, e⟩)
  | 0x50 => some (.vrsum c ⟨w, e⟩)
  | 0x51 => some (.vrmax c ⟨w, e⟩)
  | 0x52 => some (.vsmx c ⟨w, e⟩)
  | 0x53 => some (.vrot c ⟨w, e⟩)
  | 0x60 => some (.vmov c ⟨w, e⟩)
  | 0x61 => some (.vcvt c ⟨w, e⟩)
  | 0x62 => some (.vqsi c ⟨w, e⟩)
  | 0x63 => some (.vdqsi c ⟨w, e⟩)
  | 0x70 => some (.vld c ⟨w, e⟩)
  | 0x71 => some (.vst c ⟨w, e⟩)
  | 0x78 => some (.vrnd c ⟨w, e⟩)
  | 0x79 => some (.vflagrd c ⟨w, e⟩)
  | 0x7A => some (.vflagclr c ⟨w, e⟩)
  | _ => none

end Sys2Proof
end

