-- ==== Sys2Proof/Machine/Fields.lean ====
section
/-!
DEFINITION. Bit fields, byte order, serial-number arithmetic, counters, and the codes of the manual's tables.
-/
namespace Sys2Proof.Machine

/-- Field of w bits at bit lo, as a number (R4). -/
def fld {n : Nat} (v : BitVec n) (lo w : Nat) : Nat := (v.toNat >>> lo) % 2 ^ w

/-- Bit i (R4). -/
def bit {n : Nat} (v : BitVec n) (i : Nat) : Bool := v.toNat.testBit i

/-- v with the field of w bits at lo replaced. -/
def put {n : Nat} (v : BitVec n) (lo w x : Nat) : BitVec n :=
  let m := (2 ^ w - 1) <<< lo
  BitVec.ofNat n ((v.toNat &&& ((2 ^ n - 1) ^^^ m)) ||| ((x % 2 ^ w) <<< lo))

/-- A word of n bits from its fields (low bit, width, value); every other bit zero (R9). -/
def word (n : Nat) (fs : List (Nat × Nat × Nat)) : BitVec n :=
  BitVec.ofNat n (fs.foldl (fun a f => a ||| ((f.2.2 % 2 ^ f.2.1) <<< f.1)) 0)

/-- True as 1. -/
def b2n (b : Bool) : Nat := if b then 1 else 0

/-- The bytes of a word, byte 0 holding bits [7:0] (R5). -/
def toBytes {n : Nat} (v : BitVec n) (count : Nat) : List Byte :=
  (List.range count).map fun i => BitVec.ofNat 8 (v.toNat >>> (8 * i))

/-- The number that bytes hold, the first byte least significant (R5). -/
def ofBytes (bs : List Byte) : Nat :=
  (bs.zipIdx).foldl (fun a b => a ||| (b.1.toNat <<< (8 * b.2))) 0

/-- Two's complement reading of the low w bits. -/
def signed (w v : Nat) : Int :=
  let x := v % 2 ^ w
  if x < 2 ^ (w - 1) then (x : Int) else (x : Int) - (2 ^ w : Nat)

/-- The low w bits of an integer. -/
def wrap (w : Nat) (v : Int) : Nat := (v % ((2 ^ w : Nat) : Int)).toNat

/-- Ceiling division. -/
def ceilDiv (a b : Nat) : Nat := (a + b - 1) / b

/-! ### Serial-number arithmetic (R509) -/

def serDiff (n a b : Nat) : Nat := (a + 2 ^ n - b % 2 ^ n) % 2 ^ n

def serLater (n a b : Nat) : Bool :=
  let d := serDiff n a b
  decide (1 ≤ d) && decide (d < 2 ^ (n - 1))

def serEarlier (n a b : Nat) : Bool := decide (2 ^ (n - 1) < serDiff n a b)

def serUnordered (n a b : Nat) : Bool := decide (serDiff n a b = 2 ^ (n - 1))

/-- The signed difference a − b (R509). -/
def serSigned (n a b : Nat) : Int := signed n (serDiff n a b)

/-! ### Counters (R508) -/

/-- One more event on an error counter: count in [15:0], sticky saturated bit [16]. -/
def countErr (c : BitVec 17) : BitVec 17 :=
  if fld c 0 16 = 0xFFFF then BitVec.ofNat 17 0x1FFFF else c + 1

/-- One more event on a reset counter, which holds at 0xFFFF. -/
def countReset (c : Half) : Half := if c = 0xFFFF then c else c + 1

/-! ### Statuses (R427) -/

namespace St
abbrev complete : Half := 0x0000
abbrev aborted : Half := 0x0001
abbrev nothingToAbort : Half := 0x0002
abbrev opcodeUnknown : Half := 0x0003
abbrev payloadInvalid : Half := 0x0004
abbrev protocolNotOpen : Half := 0x0005
abbrev protocolMismatch : Half := 0x0006
abbrev seqOutOfOrder : Half := 0x0007
abbrev contextInvalid : Half := 0x0008
abbrev contextOpen : Half := 0x0009
abbrev roleDenied : Half := 0x000A
abbrev deviceNotReady : Half := 0x000B
abbrev deadbolt : Half := 0x000C
abbrev nothingToReplay : Half := 0x000D
abbrev contextReset : Half := 0x000E
abbrev jobFenced : Half := 0x000F
abbrev contextBusy : Half := 0x0010
abbrev keyEntryInvalid : Half := 0x0101
abbrev windowInvalid : Half := 0x0102
abbrev collectiveInvalid : Half := 0x0103
abbrev bucketInvalid : Half := 0x0104
abbrev scaleNotAgreed : Half := 0x0105
abbrev slotsExhausted : Half := 0x0106
abbrev updateProgramInvalid : Half := 0x0107
abbrev jobInvalid : Half := 0x0108
abbrev streamInvalid : Half := 0x0109
abbrev notKeyholder : Half := 0x010A
abbrev keyholderUnreachable : Half := 0x010B
abbrev keyEntryInUse : Half := 0x010C
abbrev wardExhausted : Half := 0x0201
abbrev gradientNonfinite : Half := 0x0202
abbrev stepSkew : Half := 0x0203
abbrev shardBusy : Half := 0x0204
abbrev shardInconsistent : Half := 0x0205
abbrev addressUnmapped : Half := 0x0301
abbrev operandParity : Half := 0x0302
abbrev keyInvalid : Half := 0x0303
abbrev keyAccessDenied : Half := 0x0304
abbrev keyFormatMismatch : Half := 0x0305
abbrev keyOutOfBounds : Half := 0x0306
abbrev poisonConsumed : Half := 0x0307
abbrev bankGatedRead : Half := 0x0308
abbrev gateDenied : Half := 0x0309
abbrev arrayOperandInvalid : Half := 0x030A
abbrev vectorInstructionInvalid : Half := 0x030B
abbrev seqOperationInvalid : Half := 0x030C
abbrev tileDescriptorInvalid : Half := 0x030D
abbrev shapeOverPlan : Half := 0x030E
abbrev channelMapInvalid : Half := 0x030F
abbrev tokenMismatch : Half := 0x0310
abbrev steerMismatch : Half := 0x0311
abbrev channelOverflow : Half := 0x0312
abbrev streamDeadlock : Half := 0x0313
abbrev sectionImageInvalid : Half := 0x0314
abbrev configOverwrite : Half := 0x0315
abbrev hingeTokensLeft : Half := 0x0316
abbrev stashFull : Half := 0x0317
abbrev stashCorrupt : Half := 0x0318
abbrev cxlPortDown : Half := 0x0319
abbrev remoteRefused : Half := 0x031A
abbrev remoteTimeout : Half := 0x031B
abbrev bucketOverCount : Half := 0x031C
abbrev epochAhead : Half := 0x031D
abbrev shardEpochAhead : Half := 0x031E
abbrev shardEpochChanged : Half := 0x031F
abbrev gatherListInvalid : Half := 0x0320
abbrev gatherTimeout : Half := 0x0321
abbrev exchangeInvalid : Half := 0x0322
abbrev exchangeNoDispatch : Half := 0x0323
abbrev exchangeOverLimit : Half := 0x0324
abbrev gatherShardInconsistent : Half := 0x0325
abbrev coreProgressTimeout : Half := 0x0340
abbrev sectionTimeout : Half := 0x0341
abbrev collectiveWaitTimeout : Half := 0x0342
abbrev groupWaitTimeout : Half := 0x0343
end St

/-! ### Arithmetic flags (R67): a set of bits -/

namespace Fl
abbrev nv : Nat := 1
abbrev dz : Nat := 2
abbrev ov : Nat := 4
abbrev uf : Nat := 8
abbrev nx : Nat := 16
abbrev sat : Nat := 32
abbrev wb : Nat := 64
end Fl

end Sys2Proof.Machine
end

