-- ==== Sys2Proof/Machine/Float.lean ====
section
/-!
DEFINITION. Element formats, exact values, the one rounding of R51 to R54, and arithmetic with its flags (R59, R146).

A finite value is an integer mantissa and a power of two, so every operation is exact until its one rounding.
-/
namespace Sys2Proof.Machine

/-- How a format encodes NaN (R36). -/
inductive NanKind where
  | ieee | e4m3 | none
  deriving DecidableEq, Repr

/-- A floating-point format of R36 or R57. -/
structure Fmt where
  width : Nat
  ew : Nat
  fw : Nat
  bias : Nat
  nan : NanKind
  deriving DecidableEq, Repr

namespace Fmt
def fp32 : Fmt := ⟨32, 8, 23, 127, .ieee⟩
def fp16 : Fmt := ⟨16, 5, 10, 15, .ieee⟩
def bf16 : Fmt := ⟨16, 8, 7, 127, .ieee⟩
def e5m2 : Fmt := ⟨8, 5, 2, 15, .ieee⟩
def e4m3 : Fmt := ⟨8, 4, 3, 7, .e4m3⟩
def e3m2 : Fmt := ⟨6, 3, 2, 3, .none⟩
def e2m3 : Fmt := ⟨6, 2, 3, 1, .none⟩
def e2m1 : Fmt := ⟨4, 2, 1, 1, .none⟩
/-- The 40-bit partial sum (R57). -/
def psum : Fmt := ⟨40, 8, 31, 127, .ieee⟩

/-- Bits of the largest finite magnitude (R36). -/
def maxBits (f : Fmt) : Nat :=
  match f.nan with
  | .ieee => (2 ^ f.ew - 1) * 2 ^ f.fw - 1
  | .e4m3 => 2 ^ (f.ew + f.fw) - 2
  | .none => 2 ^ (f.ew + f.fw) - 1

/-- Bits of infinity, where the format has one. -/
def infBits (f : Fmt) : Nat := (2 ^ f.ew - 1) * 2 ^ f.fw

/-- Bits of the canonical NaN (R38); of the 40-bit partial sum, the pattern of binary32's shape (R57; log 18). -/
def nanBits (f : Fmt) : Nat :=
  match f.nan with
  | .ieee => if f.width = 8 then 0x7F else f.infBits + 2 ^ (f.fw - 1)
  | .e4m3 => 0x7F
  | .none => 0

/-- Least exponent of a normal value. -/
def emin (f : Fmt) : Int := 1 - (f.bias : Int)
end Fmt

/-- An exact value: (−1)^neg × m × 2^e when finite. -/
inductive FVal where
  | nan
  | inf (neg : Bool)
  | fin (neg : Bool) (m : Nat) (e : Int)
  deriving DecidableEq, Repr

namespace FVal
def isNan : FVal → Bool
  | .nan => true
  | _ => false
def neg? : FVal → Bool
  | .nan => false
  | .inf s => s
  | .fin s _ _ => s
def flip : FVal → FVal
  | .nan => .nan
  | .inf s => .inf (!s)
  | .fin s m e => .fin (!s) m e
def isZero : FVal → Bool
  | .fin _ m _ => m == 0
  | _ => false
/-- Finite. -/
def isFin : FVal → Bool
  | .fin _ _ _ => true
  | _ => false
end FVal

/-- m × 2^k as a natural number, bits below the point dropped. -/
def shiftZ (m : Nat) (k : Int) : Nat := if 0 ≤ k then m <<< k.toNat else m >>> (-k).toNat

/-- The value of a bit pattern (R36, R37). -/
def fdecode (f : Fmt) (bits : Nat) : FVal :=
  let s := bits.testBit (f.width - 1)
  let ex := (bits >>> f.fw) % 2 ^ f.ew
  let fr := bits % 2 ^ f.fw
  let top := ex == 2 ^ f.ew - 1
  if f.nan = .ieee ∧ top = true then (if fr = 0 then .inf s else .nan)
  else if f.nan = .e4m3 ∧ top = true ∧ fr = 2 ^ f.fw - 1 then .nan
  else if ex = 0 then .fin s fr (f.emin - f.fw)
  else .fin s (2 ^ f.fw + fr) ((ex : Int) - f.bias - f.fw)

/-- The rounding of one result: nearest-even, or stochastic with its 16-bit value (R51). -/
inductive Rnd where
  | rne
  | stoch (r : Nat)
  deriving DecidableEq, Repr

/-- Round m × 2^(−d) to an integer, with whether it was inexact (R52, R53). -/
def roundShift (r : Rnd) (m : Nat) (d : Int) : Nat × Bool :=
  if d ≤ 0 then (m <<< (-d).toNat, false)
  else
    let k := d.toNat
    let keep := m >>> k
    let rest := m % 2 ^ k
    match r with
    | .rne =>
      let half := 2 ^ (k - 1)
      (if rest > half ∨ (rest = half ∧ keep % 2 = 1) then keep + 1 else keep, rest != 0)
    | .stoch x =>
      let top := if 16 ≤ k then rest >>> (k - 16) else rest <<< (16 - k)
      (keep + ((top + x) >>> 16), rest != 0)

/-- One rounding of a magnitude into a format: bits without sign, whether inexact, and whether tiny after rounding. -/
def roundMag (f : Fmt) (r : Rnd) (m : Nat) (e : Int) : Nat × Bool × Bool :=
  if m = 0 then (0, false, false)
  else
    let top : Int := (m.log2 : Int) + e
    let q : Int := max top f.emin - f.fw
    let (keep, nx) := roundShift r m (q - e)
    let k := (q - (f.emin - f.fw)).toNat
    let tiny :=
      if f.emin ≤ top then false
      else decide ((roundShift r m (top - f.fw - e)).1 < shiftZ 1 (f.emin - (top - f.fw)))
    (k * 2 ^ f.fw + keep, nx, tiny)

def signBit (f : Fmt) (s : Bool) : Nat := if s then 2 ^ (f.width - 1) else 0

/-- A value into a format under rounding r and the overflow control sat (R51, R52, R67): bits and flags. -/
def fencode (f : Fmt) (r : Rnd) (sat : Bool) (v : FVal) : Nat × Nat :=
  match v with
  | .nan => if f.nan = .none then (0, Fl.nv) else (f.nanBits, 0)
  | .inf s =>
    if f.nan = .ieee then (signBit f s + f.infBits, 0) else (signBit f s + f.maxBits, Fl.nv)
  | .fin s m e =>
    let (b, nx, tiny) := roundMag f r m e
    if f.maxBits < b then
      (signBit f s + (if sat ∨ f.nan ≠ .ieee then f.maxBits else f.infBits), Fl.ov ||| Fl.nx)
    else (signBit f s + b, (if nx then Fl.nx else 0) ||| (if nx && tiny then Fl.uf else 0))

/-! ### Exact arithmetic: the value, and NV or DZ -/

/-- Sum of exact values; an exact zero of opposite signs is +0 (R59). -/
def fsum (x y : FVal) : FVal × Nat :=
  match x, y with
  | .nan, _ => (.nan, 0)
  | _, .nan => (.nan, 0)
  | .inf a, .inf b => if a = b then (.inf a, 0) else (.nan, Fl.nv)
  | .inf a, _ => (.inf a, 0)
  | _, .inf b => (.inf b, 0)
  | .fin a m e, .fin b n g =>
    let lo := min e g
    let p : Int := (m <<< (e - lo).toNat : Nat)
    let q : Int := (n <<< (g - lo).toNat : Nat)
    let t := (if a then -p else p) + (if b then -q else q)
    if t = 0 then (.fin (a && b) 0 lo, 0) else (.fin (decide (t < 0)) t.natAbs lo, 0)

/-- Product of exact values. -/
def fprod (x y : FVal) : FVal × Nat :=
  match x, y with
  | .nan, _ => (.nan, 0)
  | _, .nan => (.nan, 0)
  | .inf a, .inf b => (.inf (a != b), 0)
  | .inf a, .fin b m _ => if m = 0 then (.nan, Fl.nv) else (.inf (a != b), 0)
  | .fin a m _, .inf b => if m = 0 then (.nan, Fl.nv) else (.inf (a != b), 0)
  | .fin a m e, .fin b n g => (.fin (a != b) (m * n) (e + g), 0)

/-- Integer square root by binary digits. -/
def isqrt (n : Nat) : Nat :=
  let k := n.log2 / 2 + 1
  (List.range (k + 1)).foldl (fun r i =>
    let t := r + 2 ^ (k - i)
    if t * t ≤ n then t else r) 0

/-- Quotient with 80 bits beyond the point and a sticky bit: enough for one correct rounding (R278 DIV). -/
def fquot (x y : FVal) : FVal × Nat :=
  match x, y with
  | .nan, _ => (.nan, 0)
  | _, .nan => (.nan, 0)
  | .inf _, .inf _ => (.nan, Fl.nv)
  | .inf a, .fin b _ _ => (.inf (a != b), 0)
  | .fin a _ e, .inf b => (.fin (a != b) 0 e, 0)
  | .fin a m e, .fin b n g =>
    if n = 0 then (if m = 0 then (.nan, Fl.nv) else (.inf (a != b), Fl.dz))
    else
      let k := 80 + n.log2
      let q := (m <<< k) / n
      let st := b2n ((m <<< k) % n != 0)
      (.fin (a != b) (2 * q + st) (e - g - k - 1), 0)

/-- Square root with a sticky bit (R278 SQRT). -/
def froot (x : FVal) : FVal × Nat :=
  match x with
  | .nan => (.nan, 0)
  | .inf a => if a then (.nan, Fl.nv) else (.inf false, 0)
  | .fin a m e =>
    if m = 0 then (.fin a 0 e, 0)
    else if a then (.nan, Fl.nv)
    else
      let odd := e % 2 = 1
      let m' := (if odd then 2 * m else m) <<< 160
      let e' := (if odd then e - 1 else e) - 160
      let q := isqrt m'
      (.fin false (2 * q + b2n (q * q != m')) (e' / 2 - 1), 0)

/-! ### Rounded arithmetic on bit patterns: bits and flags -/

/-- Round an exact result once. -/
def rounded (f : Fmt) (r : Rnd) (sat : Bool) (v : FVal × Nat) : Nat × Nat :=
  let (b, fl) := fencode f r sat v.1
  (b, v.2 ||| fl)

def fpAdd (f : Fmt) (r : Rnd) (sat : Bool) (a b : Nat) : Nat × Nat :=
  rounded f r sat (fsum (fdecode f a) (fdecode f b))
def fpSub (f : Fmt) (r : Rnd) (sat : Bool) (a b : Nat) : Nat × Nat :=
  rounded f r sat (fsum (fdecode f a) (fdecode f b).flip)
def fpMul (f : Fmt) (r : Rnd) (sat : Bool) (a b : Nat) : Nat × Nat :=
  rounded f r sat (fprod (fdecode f a) (fdecode f b))
def fpFma (f : Fmt) (r : Rnd) (sat : Bool) (a b c : Nat) : Nat × Nat :=
  let p := fprod (fdecode f a) (fdecode f b)
  /- a NaN addend makes a NaN from a NaN operand, so 0 × ∞ beside it raises nothing (R67) -/
  if (fdecode f c).isNan then (f.nanBits, 0)
  else if p.1.isNan then (f.nanBits, p.2)
  else rounded f r sat (fsum p.1 (fdecode f c))

/-- a < b of values that are not NaN; −0 below +0 when the order is total. -/
def fltVal (total : Bool) (x y : FVal) : Bool :=
  match x, y with
  | .nan, _ => false
  | _, .nan => false
  | .inf a, .inf b => a && !b
  | .inf a, _ => a
  | _, .inf b => !b
  | .fin a m e, .fin b n g =>
    let lo := min e g
    let p : Int := (m <<< (e - lo).toNat : Nat)
    let q : Int := (n <<< (g - lo).toNat : Nat)
    let t := if a then -p else p
    let u := if b then -q else q
    decide (t < u) || (total && decide (t = u) && a && !b)

/-- Minimum and maximum of IEEE 754-2019, no flag (R146). -/
def fpMin (f : Fmt) (a b : Nat) : Nat × Nat :=
  let x := fdecode f a
  let y := fdecode f b
  if x.isNan || y.isNan then (f.nanBits, 0) else (if fltVal true y x then b else a, 0)
def fpMax (f : Fmt) (a b : Nat) : Nat × Nat :=
  let x := fdecode f a
  let y := fdecode f b
  if x.isNan || y.isNan then (f.nanBits, 0) else (if fltVal true x y then b else a, 0)

/-- Comparisons of IEEE 754-2019 (R146): equal, less, less or equal, unordered. -/
inductive Cmp where
  | eq | lt | le | un
  deriving DecidableEq, Repr

def fpCmp (c : Cmp) (f : Fmt) (a b : Nat) : Bool :=
  let x := fdecode f a
  let y := fdecode f b
  if x.isNan || y.isNan then c == .un
  else
    match c with
    | .eq => !fltVal false x y && !fltVal false y x
    | .lt => fltVal false x y
    | .le => !fltVal false y x
    | .un => false

def intCmp (c : Cmp) (a b : Nat) : Bool :=
  match c with
  | .eq => decide (signed 32 a = signed 32 b)
  | .lt => decide (signed 32 a < signed 32 b)
  | .le => decide (signed 32 a ≤ signed 32 b)
  | .un => false

/-! ### Integers (R45, R147) -/

/-- Clamp to w bits of two's complement; SAT when it clamps. -/
def clampInt (w : Nat) (v : Int) : Nat × Nat :=
  let hi : Int := (2 ^ (w - 1) : Nat) - 1
  let lo : Int := -((2 ^ (w - 1) : Nat) : Int)
  if hi < v then (wrap w hi, Fl.sat) else if v < lo then (wrap w lo, Fl.sat) else (wrap w v, 0)

/-- A floating-point value to w bits of integer (R45). A finite value that clamps raises SAT, and NX beside it where the rounding
before the clamp was inexact: DESIGN CHOICE (log 119). -/
def toInt (w : Nat) (r : Rnd) (v : FVal) : Nat × Nat :=
  match v with
  | .nan => (0, Fl.nv)
  | .inf s => (if s then 2 ^ (w - 1) else 2 ^ (w - 1) - 1, Fl.nv)
  | .fin s m e =>
    let (k, nx) := roundShift r m (-e)
    let (b, fl) := clampInt w (if s then -(k : Int) else k)
    (b, fl ||| (if nx then Fl.nx else 0))

/-- An integer as an exact value. -/
def ofInt (v : Int) : FVal := .fin (decide (v < 0)) v.natAbs 0

end Sys2Proof.Machine
end

