-- ==== Sys2Proof/Machine/Blocks.lean ====
section
/-!
DEFINITION. Format codes (R82), element places (R41, R152), microscaling blocks (R39 to R43) and SI24 blocks (R46 to R50).
-/
namespace Sys2Proof.Machine

/-- The floating-point format of a code, MX element formats among them (R82). -/
def fmtOfCode (c : Nat) : Option Fmt :=
  match c with
  | 0x01 => some .fp32
  | 0x02 => some .fp16
  | 0x03 => some .bf16
  | 0x04 => some .e4m3
  | 0x05 => some .e5m2
  | 0x06 => some .e4m3
  | 0x07 => some .e5m2
  | 0x08 => some .e3m2
  | 0x09 => some .e2m3
  | 0x0A => some .e2m1
  | _ => none

def isMx (c : Nat) : Bool := decide (0x06 ≤ c) && decide (c ≤ 0x0B)

/-- Bits of one element of a code; 0 where the code has no elements of its own. -/
def codeWidth (c : Nat) : Nat :=
  if c = 0x01 ∨ c = 0x0C then 32
  else if c = 0x02 ∨ c = 0x03 ∨ c = 0x0D then 16
  else if c = 0x08 ∨ c = 0x09 then 6
  else if c = 0x0A then 4
  else if 0x04 ≤ c ∧ c ≤ 0x0E then 8
  else 0

/-- Elements in one row of a code (R41). -/
def elemsPerRow (c : Nat) : Nat := if codeWidth c = 6 then 640 else if codeWidth c = 0 then 512 else 4096 / codeWidth c

/-- MX blocks in one row (R94). -/
def blocksPerRow (c : Nat) : Nat := if isMx c then elemsPerRow c / 32 else 0

/-- Bit place of element i of a row (R41): six-bit elements stand in 24-bit groups of four. -/
def elemBit (c i : Nat) : Nat := i * codeWidth c

/-- Element i of a row. -/
def rowElem (c : Nat) (r : Row) (i : Nat) : Nat := fld r (elemBit c i) (codeWidth c)

/-- Bit place of element i of part p of a register (R152). -/
def partBit (c p i : Nat) : Nat := (p * 128 + i) * codeWidth c

/-- Parts of a register (R152). -/
def partsOf (c : Nat) : Nat := if codeWidth c = 0 then 0 else if codeWidth c = 6 then 5 else 32 / codeWidth c

/-- The value of an element under its block's scale (R40). -/
def mxValue (c scale bits : Nat) : FVal :=
  if scale = 0xFF then .nan
  else
    let k : Int := (scale : Int) - 127
    let v : FVal := if c = 0x0B then (let n := signed 8 bits; .fin (decide (n < 0)) n.natAbs (-6))
      else match fmtOfCode c with
        | some f => fdecode f bits
        | none => .nan
    match v with
    | .fin s m e => .fin s m (e + k)
    | x => x

/-- emax of R42. -/
def mxEmax (c : Nat) : Int :=
  if c = 0x06 then 8 else if c = 0x07 then 15 else if c = 0x08 then 4 else if c = 0x0B then 0 else 2

/-- floor(log₂) of the largest magnitude of finite values; none when every one is zero. -/
def maxExp (vs : List FVal) : Option Int :=
  vs.foldl (fun a v =>
    match v with
    | .fin _ m e => if m = 0 then a else
        let x : Int := (m.log2 : Int) + e
        some (match a with
          | none => x
          | some y => max x y)
    | _ => a) none

/-- One element of step 4 of R42: NX alone marks rounding and saturation (R43). -/
def mxElem (c : Nat) (r : Rnd) (e : Int) (v : FVal) : Nat × Nat :=
  match v with
  | .fin s m x =>
    if c = 0x0B then
      let (k, nx) := roundShift r m (-(x - e + 6))
      let q := min k 127
      (wrap 8 (if s then -(q : Int) else q), if nx || decide (127 < k) then Fl.nx else 0)
    else
      match fmtOfCode c with
      | some f =>
        let (b, fl) := fencode f r true (.fin s m (x - e))
        (b, if fl &&& Fl.nx = 0 then 0 else Fl.nx)
      | none => (0, 0)
  | _ => (0, 0)

/-- The values, with roundings, of one block into an MX format (R42, R43): scale, and element bits with flags. NV is
raised for each value that is NaN or infinite (R159). -/
def mxBlock (c : Nat) (vs : List (FVal × Rnd)) : Nat × List (Nat × Nat) :=
  if vs.any (fun v => !v.1.isFin) then (0xFF, vs.map fun v => (0, if v.1.isFin then 0 else Fl.nv))
  else
    match maxExp (vs.map (·.1)) with
    | none => (0, vs.map fun _ => (0, 0))
    | some x =>
      let e : Int := max (-127) (min 127 (x - mxEmax c))
      ((e + 127).toNat, vs.map fun v => mxElem c v.2 e v.1)

/-! ### SI24 -/

/-- One element of R47 and R48 against scale s: q as an integer, and flags WB, NX, NV. -/
def si24Elem (s : Nat) (r : Rnd) (v : FVal) : Int × Nat :=
  match v with
  | .fin g m e =>
    let (k, nx) := roundShift r m (-(e + 150 - s))
    let cl := min k (2 ^ 23 - 1)
    (if g then -(cl : Int) else cl, if 2 ^ 23 - 1 < k then Fl.wb ||| Fl.nx else if nx then Fl.nx else 0)
  | _ => (0, Fl.nv)

/-- HWE of R46. -/
def hwe (vs : List FVal) : Nat :=
  match maxExp vs with
  | none => 0
  | some x => (max 1 (min 254 (x + 127))).toNat

/-- Block word from its fields (R46). -/
def blockWord (s h : Nat) (wb nf : Bool) : Nat := s + h * 2 ^ 8 + b2n wb * 2 ^ 16 + b2n nf * 2 ^ 17

/-- One SI24 block of 128 values, absent ones zero: its 388 bytes as a number, and the flags per element (R47, R48, R155). -/
def si24Quantize (s : Nat) (vs : List (Option (FVal × Rnd))) : Nat × List Nat :=
  if s = 0xFF then
    (blockWord 0xFF (hwe (vs.filterMap (·.map (·.1)))) false true <<< 3072,
      vs.map fun v => if v.isSome then Fl.nv else 0)
  else
    let qs := vs.map fun v =>
      match v with
      | some (x, r) => si24Elem s r x
      | none => (0, 0)
    let body := (qs.zipIdx).foldl (fun a q => a ||| (wrap 24 q.1.1 <<< (24 * q.2))) 0
    let fls := qs.map (·.2)
    (body ||| (blockWord s (hwe (vs.filterMap (·.map (·.1)))) (fls.any (fun f => f &&& Fl.wb != 0))
      (fls.any (fun f => f &&& Fl.nv != 0)) <<< 3072), fls)

/-- The SI24 staged block held in a row (format 0x0F). -/
def stagedBlock (r : Row) : BitVec 3104 := BitVec.ofNat 3104 r.toNat

/-- q_i of a staged block (R46). -/
def si24Q (b : BitVec 3104) (i : Nat) : Int := signed 24 (fld b (24 * i) 24)

/-- The 32-bit block word of a staged block. -/
def si24Word (b : BitVec 3104) : Nat := fld b 3072 32

/-- Lane i of an accumulated block held in two rows, row 0 the lower (R50). -/
def accLane (rows : BitVec 8192) (i : Nat) : Int := signed 48 (fld rows (48 * i) 48)

/-- The accumulated block word: bytes 768 to 771 (R50). -/
def accWord (rows : BitVec 8192) : Nat := fld rows 6144 32

def twoRows (lo hi : Row) : BitVec 8192 := BitVec.ofNat 8192 (lo.toNat ||| (hi.toNat <<< 4096))
def lowRow (x : BitVec 8192) : Row := BitVec.ofNat 4096 x.toNat
def highRow (x : BitVec 8192) : Row := BitVec.ofNat 4096 (x.toNat >>> 4096)

/-- ACC_SI24 of R269: the accumulated block with a staged block added, and whether the scales mismatched. -/
def accumulate24 (acc : BitVec 8192) (b : BitVec 3104) : BitVec 8192 × Bool :=
  let w := accWord acc
  let v := si24Word b
  let sA := w % 256
  let sB := v % 256
  let fits := sB ≠ 0 ∧ sB ≠ 0xFF ∧ (sA = 0 ∨ sA = sB)
  let h := max ((w >>> 8) % 256) ((v >>> 8) % 256)
  let wb := w.testBit 16 || v.testBit 16
  let nf := w.testBit 17 || v.testBit 17
  if fits then
    let lanes := (List.range 128).foldl (fun a i => a ||| (wrap 48 (accLane acc i + si24Q b i) <<< (48 * i))) 0
    (put (put acc 0 6144 lanes) 6144 18 (blockWord sB h wb nf), false)
  else (put acc 6144 18 (blockWord sA h true nf), true)

/-- The value of an SI24 integer under a scale (R47). -/
def si24Value (s : Nat) (q : Int) : FVal := .fin (decide (q < 0)) q.natAbs ((s : Int) - 150)

end Sys2Proof.Machine
end

