-- ==== Sys2Proof/Config.lean ====
section
/-!
DEFINITION. What the manual leaves open, as constants without a body: nothing can evaluate them or prove a value of them.
-/
namespace Sys2Proof.Config

/-- Fresh values (log 2): entropy (R62, R309, R491), undefined contents and results. Applied to the counter State.free. -/
opaque freeValue : Nat → BitVec 4096

/-- The result a special function proposes for an input; taken where the bound of R148 allows it (R149; log 10).
The first argument numbers the function: 0 exp2, 1 log2, 2 reciprocal, 3 reciprocal root, 4 tanh. -/
opaque specialChoice : Nat → Word → Word

/-- The mask bit of a comparison, by opcode, of a packed BF16 lane whose two halves compare differently (R144; log 21). -/
opaque mixedCompare : Nat → Word → Word → Bool

/-- VCVT of an INT32 beyond the range of a narrower integer code, without saturation: the element in the low bits, and in bit 31
whether it raises SAT (R153; log 23). -/
opaque narrowedInt : Nat → Word → Word

/-- Lanes 6 and 7 of v63 where a tile has no SC row: lane, group, first m and first n of the tile (R178; log 54). -/
opaque epilogueLane : Nat → Nat → Nat → Nat → Word

/-- Bits [14:0] of the tag of a shipped row, by its SC row (R179; log 54). -/
opaque shipTag : Nat → BitVec 15

/-- SHA3-512 of FIPS 202 over bytes, uninterpreted (log 11). -/
opaque sha3 : List Byte → BitVec 512

/-- ML-DSA-87 verification of FIPS 204: public key, message, signature; uninterpreted (log 11). -/
opaque mlDsaVerify : List Byte → List Byte → List Byte → Bool

/-- ML-DSA-87 key generation of FIPS 204 from a seed: the public and the private key (R485; log 11). -/
opaque mlDsaKeygen : BitVec 256 → List Byte × List Byte

/-- SPDM 1.3 responses, whose formats are DMTF's and are not in the manual (log 12): one that is not signed, to a request, with the
certificate chain of slot 0 and what R487 fixes of the algorithms; and a CHALLENGE_AUTH or MEASUREMENTS response, built and signed from the
request, the measurements, the chain and the private key. -/
opaque spdmPlain : List Byte → List Byte → List Nat → List Byte
opaque spdmSigned : List Byte → List (BitVec 512) → List Byte → List Byte → List Byte

/-- The certificate chain that the maker provisions in flash; no command writes it (R485; log 9). -/
opaque certChain : List Byte

/-- The digests of measurement indices 5 and 6, over the settings in order and over the fuses and the debug state; the manual does not
say what bytes are hashed (R488; log 12). -/
opaque installerDigest : List Nat → BitVec 512
opaque fuseDigest : List Nat → Bool → BitVec 512

/-- The body of an MCTP control response and of an MCTP error response; the formats are DMTF's (log 12). -/
opaque mctpControl : List Byte → List Byte
opaque mctpError : List Byte → List Byte

/-- What fuses give one module and no rule fixes (log 7, log 9): the fused maximum frequency of a physical site (column × 13 + row),
the row of a column's unused site at shipment, and whether that site is a spare. -/
opaque fusedMax : Nat → Nat
opaque unusedSite : Nat → Nat
opaque spareColumn : Nat → Bool

/-- The frequency, in MHz, of the islands of CXL ports by the code of the trained rate, and of link ports (R458; log 26). -/
opaque cxlFrequency : Nat → Nat
opaque linkFrequency : Nat

/-- What test fixes of the activity estimate (R465; log 27): energy of an event of an island in pJ, leakage of a die at a temperature, the
fixed draw of the GDDR7 devices and of CXL, PCIe and the management island, in mW, and the conversion loss in thousandths of the rest. -/
opaque eventEnergy : Nat → Activity → Nat
opaque leakage : Nat → Int → Nat
opaque gddrDraw : Nat
opaque otherDraw : Nat
opaque conversionLoss : Nat

/-- Security fuses as provisioned by the maker, by code × 256 + index (R477), and the public key of each role anchor, which the
credential names and does not carry (R490, R492; log 9). -/
opaque shippedFuse : Nat → Nat
opaque anchorKey : Nat → List Byte

/-- Digests of the sections of the image as shipped, section 1 at 1 (R482; log 9). -/
opaque shippedDigest : Nat → BitVec 512

/-- Measurement of the boot ROM (R488 index 1; log 12). -/
opaque romMeasurement : BitVec 512

/-- DETAIL of the audit log's BOOT record for a slot (false A, true B) and an SVN, whose places in the word no rule gives (R496;
log 111). -/
opaque bootDetail : Bool → Nat → Word

end Sys2Proof.Config
end

