-- ==== Sys2Proof/Machine/State.lean ====
section
/-!
DEFINITION. The state of the ZS-7384 as plain data.

Field defaults are the values at reset: the moment at which the rails are up and PERST# is asserted, so that all four
reset domains stand at their reset values (R10, R21). Where the manual gives none, the log entry named is the model's.
-/
namespace Sys2Proof.Machine

/-- Why the block could stop. No command of this model does; the type is the interface's. -/
inductive Fault where
  /-- Raised by nothing: every fault of the manual is a next state (R428). Safe. -/
  | none
  deriving DecidableEq, Repr

/-- Why a command could be refused by the model. -/
inductive Refusal where
  /-- A command without a meaning yet, by its mnemonic. Raised only by Dispatch. Safe. -/
  | notModelled (mnemonic : String)
  deriving DecidableEq, Repr

/-- Memory of every tier by device physical address (R26): the bytes that are not zero. -/
abbrev Memory := List Host.Cell

/-! ### The module and its pins (19) -/

structure Module where
  /-- Standby circuit powered: the input exceeds 40 V (R521). -/
  standby : Bool := true
  /-- MOD_EN is high (R522). -/
  modEn : Bool := true
  /-- The rails are up (R529). -/
  powered : Bool := true
  /-- PERST# is asserted (R522). -/
  perst : Bool := true
  pwrGood : Bool := true
  /-- FAULT# asserted by a condition of R524 other than over-voltage. -/
  fault : Bool := false
  /-- The over-voltage latch of R521, which also asserts FAULT#. -/
  faultOv : Bool := false
  /-- The THERMTRIP# latch (R526). -/
  thermtrip : Bool := false
  /-- ALERT# driven low (R525). -/
  alert : Bool := false
  /-- The straps as last sampled (R523); pulled up (R522). -/
  sbSel : Bool := true
  sbAddr : BitVec 2 := 3
  /-- The boot chain has verified and stage 2 runs (R529 step 3). -/
  booted : Bool := false
  /-- This start of the management domain is a power-up, not a PERST# (R515 BOOT). -/
  coldBoot : Bool := true
  deriving DecidableEq, Repr

/-! ### The host interface (14) -/

/-- DEVICE_STATE [2:0] (R403). -/
inductive DevState where
  | booting | ready | notReady | deadbolt | engineReset | deviceReset
  deriving DecidableEq, Repr

/-- One submission ring (R403, R405, R412). -/
structure Ring where
  base : Dword := 0
  size : BitVec 4 := 0
  enable : Bool := false
  head : BitVec 12 := 0
  /-- TAIL of the last DOORBELL that counts (R406). -/
  tail : BitVec 12 := 0
  /-- The expected SEQ; none until the first entry after ENABLE (R412). -/
  expect : Option Word := none
  deriving DecidableEq, Repr

structure HostIf where
  ident : Word := 0x00017384
  protoMax : Word := 0x00000001
  state : DevState := .booting
  /-- PROTO_OPEN and the agreed version (R415). -/
  protoOpen : Bool := false
  major : Byte := 0
  minor : Byte := 0
  cqBase : Dword := 0
  cqSize : BitVec 4 := 0
  cqEnable : Bool := false
  /-- A clear of ENABLE has been written and has not taken effect (R409). -/
  cqDisabling : Bool := false
  cqTail : BitVec 14 := 0
  cqPhase : Bool := false
  /-- HEAD of the last CQ_DOORBELL (R407). -/
  cqHead : BitVec 14 := 0
  irqCoalesce : Word := 0
  irqPending : BitVec 16 := 0
  /-- Records of each of vectors 0-7 not yet counted by an interrupt (R410). -/
  uncounted : Tab Nat := []
  rings : Tab Ring := []
  /-- The MSI-X table: the 32-bit words from BAR0 offset 0x3000 that differ from their reset value (R402; log 5). -/
  msix : Tab Word := []
  /-- The MSI-X pending-bit array: masked vectors that wait to be sent (R402; log 5). -/
  msixPending : BitVec 16 := 0
  /-- Lower halves written of 64-bit registers, by offset (R403). -/
  halves : Tab Word := []
  deriving DecidableEq, Repr

/-- What the device sends toward the host: writes to host memory and MSI-X messages, oldest first (R407, R410). -/
inductive HostOut where
  | completion (index : BitVec 14) (entry : BitVec 256)
  | rows (addr : Dword) (rows : List Row)
  | bytes (addr : Dword) (data : List Byte)
  | msix (vector : BitVec 4)
  | sideband (data : List Byte)
  deriving DecidableEq, Repr

/-- A completion record before its slot is given (R411, R417). -/
structure Record where
  status : Half := 0
  detail : Word := 0
  result : Dword := 0
  flags : Byte := 0
  faultRef : Dword := 0
  deriving DecidableEq, Repr

/-- How far an accepted command is. -/
inductive Phase where
  /-- Accepted, not started. -/
  | waiting
  /-- Started: waits for what its rule names (a response, a verdict, a hinge, a reset). -/
  | running
  /-- Its audit BEGIN record is being made durable (R499). -/
  | begun
  /-- Its BEGIN is durable: its action may take effect (R499). -/
  | cleared
  /-- Its audit END record is being made durable (R499). -/
  | ending (r : Record)
  /-- Finished: its record is in the completion writer's queue (R417). -/
  | done (r : Record)
  deriving DecidableEq, Repr

/-- An accepted command whose record is not committed. -/
structure Cmd where
  ring : CtxId
  seq : Word
  /-- Its number among commands in flight of its ring and SEQ. -/
  nth : Nat := 0
  entry : BitVec 512
  phase : Phase := .waiting
  /-- Taken up, and waiting for what its own rule names (R414). -/
  taken : Bool := false
  /-- The command that an ABORT in progress aborts (R418). -/
  target : Option CmdRef := none
  /-- TAGs of the requests it waits for. -/
  tags : List Nat := []
  /-- Packets that await a TAG (R298). -/
  queue : List Packet := []
  /-- The worst answer so far of those requests: a status of R427, 0 for none. -/
  bad : Half := 0
  /-- A READ's response whose rows wait for the entry that they go into (R363, R396). -/
  resp : Option Packet := none
  /-- Bytes it read from host memory (R497 ARG_HASH). -/
  data : List Byte := []
  /-- A RUN that has begun. -/
  began : Bool := false
  /-- A run whose update binding passed its checks and was marked UPDATING (R358). -/
  bound : Bool := false
  deriving DecidableEq, Repr

/-! ### Contexts, runs and the grid (08, 12, 13, 15) -/

/-- The first fault of a context: its status, the FAULT_REF of its record, and the run's DETAIL (R421, R427, R431). -/
structure FirstFault where
  status : Half
  ref : Dword
  detail : Word := 0
  deriving DecidableEq, Repr

/-- One piece of a gather group (R361, R364). -/
structure GatherPiece where
  entry : BitVec 512
  /-- A header read is outstanding; its rows may be read; rows asked for so far. -/
  asking : Bool := false
  headerOk : Bool := false
  asked : Nat := 0
  /-- The header is read again after this interval, in µs. -/
  backoff : Option Nat := none
  /-- Rows whose READ_RESP is outstanding, by TAG. -/
  tags : List Nat := []
  complete : Bool := false
  deriving DecidableEq, Repr

/-- A gather group: the list entry of its first piece, and its buffer. -/
structure GatherGroup where
  first : Nat
  dst : Half
  regather : Bool
  pieces : List GatherPiece
  complete : Bool := false
  deriving DecidableEq, Repr

/-- One exchange entry in progress (R385-R397). -/
structure ExchEntry where
  /-- Its place in the list. -/
  index : Nat
  entry : BitVec 512
  desc : Row
  dseq : Half := 0
  /-- Destination: rounds granted. Source: rounds of counts sent. -/
  granted : Nat := 0
  counted : Nat := 0
  /-- Source: grant rows that have arrived, 2 × destination + round. -/
  grantsIn : List Nat := []
  /-- Rows this device is to receive, once that is known, and rows it has received. -/
  expect : Option Nat := none
  received : Nat := 0
  payloadSent : Bool := false
  /-- Peers this device has sent its combine or redispatch rows to, by member index. -/
  served : List Nat := []
  /-- Packets that await a TAG, and TAGs outstanding (R298). -/
  queue : List Packet := []
  tags : List Nat := []
  /-- Everything that R396 names has committed; RECORDED is set (R394). -/
  settled : Bool := false
  recorded : Bool := false
  complete : Bool := false
  deriving DecidableEq, Repr

/-- A count row or a ready notice of a peer that the exchange units hold: kind (0 count, 1 ready), window or group, DSEQ,
round or XKIND, and source (R391, R395). -/
structure Arrival where
  kind : Nat
  place : Nat
  dseq : Half
  sub : Nat
  src : BitVec 20
  deriving DecidableEq, Repr

/-- A RUN in progress (R226, R423). -/
structure RunSt where
  seq : Word
  nth : Nat := 0
  payload : BitVec 384
  /-- Row of the section header to run next or running now. -/
  cur : Half
  /-- Ordinal from 0 of the section running or next to run, and the number of sections started. -/
  ordinal : Nat := 0
  begun : Nat := 0
  /-- Sections left; none for a run until NEXT of 0xFFFF. -/
  left : Option Nat
  /-- The last hinge has passed. -/
  ended : Bool := false
  /-- Device entries marked RD_SEEN and WR_SEEN (R442). -/
  rdSeen : List Nat := []
  wrSeen : List Nat := []
  gatherNext : Nat := 0
  gathers : List GatherGroup := []
  exchNext : Nat := 0
  exchs : List ExchEntry := []
  /-- Accumulated grid time in µs (R443). -/
  gridTime : Nat := 0
  /-- The job seed when its first section began (R63). -/
  seed : Dword := 0
  /-- The status with which the run is being stopped (abort, fence, fault). -/
  stop : Option Half := none
  deriving DecidableEq, Repr

structure Context where
  isOpen : Bool := false
  save : Half := 0
  slice : BitVec 14 := 0
  accFlags : Byte := 0
  fault : Option FirstFault := none
  /-- A fault raised with no command in progress, to be reported (R427). -/
  unreported : Option FirstFault := none
  run : Option RunSt := none
  /-- The context's state stands in its save area (R251). -/
  switchedOut : Bool := false
  deriving DecidableEq, Repr

/-- What the section sequencer is doing. -/
inductive GridPhase where
  /-- No section holds the grid. -/
  | idle
  /-- A hinge has settled the last section; the next starts when gates and wakes have taken effect (R237). -/
  | starting
  /-- A section runs. -/
  | running
  /-- A context stop drains (R429). -/
  | draining
  /-- The compute domain is held by an engine or device reset. -/
  | held
  deriving DecidableEq, Repr

structure Grid where
  /-- The context that holds the grid, and the one whose contents stand in the cores (R250, R251). -/
  ctx : Option CtxId := none
  last : Option CtxId := none
  phase : GridPhase := .idle
  hdr : Row := 0
  /-- Row of the section list whose images are preloaded (R234), and the cores that were skipped. -/
  preload : Option Half := none
  preSkipped : List Nat := []
  /-- Time the resident context has held the grid, in µs of the local counter's stamp (R250). -/
  since : Dword := 0
  /-- When the time of the resident run was last added up (R443). -/
  mark : Dword := 0
  /-- Banks whose gate or wake request of this hinge has not taken effect (R106). -/
  waiting : List Nat := []
  /-- The sealed suspect replay in progress (R443). -/
  replay : Bool := false
  deriving DecidableEq, Repr

/-! ### A core (04-08) -/

/-- A lane generator: xorshift word and Weyl word (R60). -/
structure Gen where
  x : Dword := 1
  w : Dword := 0
  deriving DecidableEq, Repr

/-- One column of a stationary set: elements at 16 bits each, MX scales at 8 bits each. -/
structure StatCol where
  elems : Row := 0
  scales : BitVec 64 := 0
  deriving DecidableEq, Repr

structure StatSet where
  valid : Bool := false
  fmt : BitVec 5 := 0
  kv : Nat := 0
  nv : Nat := 0
  cols : Tab StatCol := []
  deriving DecidableEq, Repr

/-- An entry as captured when an access starts (R92): a core entry with its parent copy, or a device entry alone. -/
structure Cap where
  handle : Half := 0
  core : Option CoreId := none
  key : BitVec 128 := 0
  parent : BitVec 256 := 0
  deriving DecidableEq, Repr

/-- An array operation in the queue, with the entries captured when it issued (R92, R116). -/
structure ArrayOp where
  word : BitVec 128
  cap : Cap
  scale : Cap
  /-- FIRST and STRIDE of R114. -/
  first : Nat
  stride : Nat
  /-- Vectors issued so far. -/
  issued : Nat := 0
  /-- Rows that hold the segment read last, by entry row, in the feeders (R110). -/
  seen : List (Nat × Row) := []
  deriving DecidableEq, Repr

/-- A moving vector in flight (R120): its elements, its operation's fields, the set it meets and the columns not yet
committed. -/
structure Flight where
  elems : Row
  scales : BitVec 64
  set : Nat
  accMode : Nat
  entry : Nat
  len : Nat
  fmt : BitVec 5
  /-- The stationary registers that it meets (R125). -/
  stat : StatSet
  cols : List Nat
  deriving DecidableEq, Repr

/-- A token (R197): data in payload and tag, a control word or done word in the low bits of payload. -/
structure Token where
  kind : BitVec 2
  tag : Half := 0
  payload : BitVec 2048 := 0
  deriving DecidableEq, Repr

/-- An outstanding CRECV or CTAKE word and the rows it has taken (R204, R208). -/
structure RecvOp where
  word : BitVec 128
  /-- The entry captured when the word started (R92). -/
  cap : Cap := {}
  rows : Nat := 0
  half : Option (BitVec 2048) := none
  deriving DecidableEq, Repr

/-- A tile of one level: first indices and valid extents (R171). -/
structure Box where
  m : Nat
  n : Nat
  k : Nat
  g : Nat
  vm : Nat
  vn : Nat
  vk : Nat
  vg : Nat
  deriving DecidableEq, Repr

/-- One L0 tile of a TILE run with the L1 and L2 tiles that hold it (R176). -/
structure L0Tile where
  t0 : Box
  t1 : Box
  t2 : Box
  /-- First and last K sub-tile of its output tile. -/
  firstK : Bool
  lastK : Bool
  /-- The last output tile of its L1 output tile, which is then shipped. -/
  endL1 : Bool
  deriving DecidableEq, Repr

/-- The staged tile of one operand at one level: its first indices, and the buffer that holds it. -/
structure Staged where
  at' : Option (Nat × Nat × Nat) := none
  buf : Nat := 1
  deriving DecidableEq, Repr

/-- What remains of a TILE run (R175-R179). -/
structure TileRun where
  word : BitVec 128
  desc : Row
  /-- Entries captured at the start, and the entries that hold their scales (R175). -/
  caps : List Cap
  scales : List Cap := []
  /-- Members: A, B, C handles, M, and the FIRSTs (R181). -/
  members : List (BitVec 256)
  work : List L0Tile
  /-- L2 tiles of a run with WORK, by number, and whether a claim has returned EXHAUSTED (R187). -/
  l2 : List (List L0Tile) := []
  claimsDone : Bool := true
  /-- Stationary tile (g, k, n) held by the set last loaded (R176). -/
  held : Option (Nat × Nat × Nat) := none
  sa1 : Staged := {}
  sb1 : Staged := {}
  sa2 : Staged := {}
  sb2 : Staged := {}
  /-- Accumulator slots of output tiles whose K reduction is under way, and the next in rotation (R177). -/
  slots : List ((Nat × Nat × Nat) × Nat) := []
  nextSlot : Nat := 0
  /-- Output tiles that await their epilogue, with their slot. -/
  epilogues : List (L0Tile × Nat) := []
  /-- L1 output tiles whose epilogues are complete, by ordinal, and how many there have been. -/
  ships : List (Box × Nat) := []
  shipped : Nat := 0
  deferred : Bool := false
  /-- The last tile handed to the array ended an L1 output tile (R242). -/
  atEnd : Bool := false
  deriving DecidableEq, Repr

/-- State of the steering unit (R211-R215). -/
structure SteerSt where
  copies : Nat := 0
  turn : Nat := 0
  taken : Nat := 0
  ended : List Nat := []
  stopped : Bool := false
  deriving DecidableEq, Repr

structure Core where
  keys : Tab (BitVec 128) := []
  /-- Copies of the parents taken at the hinge, by core entry (R89, R91). -/
  parents : Tab (BitVec 256) := []
  vregs : Tab Row := []
  masks : Tab (BitVec 128) := []
  acc : Tab Row := []
  laneFlags : Tab Byte := []
  colFlags : Tab Byte := []
  summary : Byte := 0
  replayMode : Bool := false
  gens : Tab Gen := []
  set0 : StatSet := {}
  set1 : StatSet := {}
  /-- The set that the newest SLOAD names (R176). -/
  lastLoad : Nat := 1
  arrayQ : List ArrayOp := []
  flight : List Flight := []
  /-- Program index, program rows and image placement of the section (R228, R229). -/
  pc : Half := 0
  progFirst : Half := 0
  progRows : Half := 0
  loadRow : Nat := 0
  imgRows : Nat := 0
  /-- Rows targeted by a preload (R234). -/
  preRow : Nat := 0
  preRows : Nat := 0
  loops : Tab Word := []
  ended : Bool := false
  active : Bool := false
  /-- Outstanding RMOV, STASH and WAIT (R166, R245). -/
  moves : Nat := 0
  stashes : Nat := 0
  /-- CXL rows that outstanding row moves have written and no acknowledgement covers (R265). -/
  moveRows : List Nat := []
  /-- What a word with WAIT waits for: 0 nothing, 1 row moves, 2 stash, 3 TILE, 4 sends, 5 receives. -/
  waiting : Nat := 0
  /-- The word that the sequencer is stalled on: 256 × OP, and the channel of a channel word (R205, R210, R224, R242). -/
  stall : Option Nat := none
  /-- Handles whose entries the next word or instruction waits for (R363, R396, R434). -/
  heldBy : List Nat := []
  tile : Option TileRun := none
  /-- Deferred run that is suspended (R242). -/
  parked : Option TileRun := none
  /-- Deferred-work queue: words with captured shape (R240). -/
  deferred : List (BitVec 128 × (BitVec 128)) := []
  fencing : Bool := false
  chans : Tab (BitVec 128) := []
  /-- Receive queue and spill of each channel entry, oldest first. -/
  rxq : Tab (List Token) := []
  spill : Tab (List Token) := []
  spillHead : Tab Nat := []
  /-- The spill entry of each elastic channel as captured at the hinge (R219). -/
  spillCaps : Tab Cap := []
  /-- Credits of each send entry, tokens that wait for one, and credits on their way back to it. -/
  credits : Tab Nat := []
  txq : Tab (List Token) := []
  creditsBack : Tab Nat := []
  /-- Tokens on the link toward an inbound (port, VC), key 8 × port + VC. -/
  wire : Tab (List Token) := []
  /-- Outstanding CSEND words: channel, tokens that leave the channel up to and with its last one, and WAIT (R210). -/
  sends : List (Nat × Nat × Bool) := []
  recvs : List RecvOp := []
  routes : Tab Half := []
  routeReg : Tab (List Token) := []
  steer : Tab (BitVec 128) := []
  steerSt : Tab SteerSt := []
  vectors : Dword := 0
  vinstr : Dword := 0
  cmCorrected : BitVec 17 := 0
  obCorrected : BitVec 17 := 0
  deriving DecidableEq, Repr

/-! ### Memory: banks, channels, engines (03, 09) -/

inductive BankPower where
  | awake | gated | waking
  deriving DecidableEq, Repr

/-- A request in a bank's queue (R104, R105). -/
inductive BankReq where
  | read (issuer : Option CtxId) (addr : BitVec 52) (found : Finding) (transit : Transit)
  | write (issuer : Option CtxId) (addr : BitVec 52) (row : Row) (poison : BitVec 16) (transit : Transit)
  | acc (issuer : Option CtxId) (addr : BitVec 52) (header : BitVec 128) (block : BitVec 3104)
  | fadd (issuer : Option CtxId) (addr : BitVec 52) (addend limit : Word)
  | word (addr : BitVec 52) (value : Word)
  /-- A completion notice of an engine (R272). -/
  | notice (issuer : Option CtxId) (addr : BitVec 52) (word : Nat) (addend : Word)
  | gate
  deriving DecidableEq, Repr

structure Bank where
  power : BankPower := .awake
  queue : List BankReq := []
  lateWake : BitVec 17 := 0
  corrected : BitVec 17 := 0
  uncorrected : BitVec 17 := 0
  deriving DecidableEq, Repr

structure Channel where
  poisoned : Bool := false
  crcRetried : BitVec 17 := 0
  eccCorrected : BitVec 17 := 0
  uncorrected : BitVec 17 := 0
  retrainings : Nat := 0
  patrolRow : BitVec 25 := 0
  deriving DecidableEq, Repr

structure CxlPort where
  units : Nat := 0
  lanes : BitVec 5 := 0
  code : BitVec 3 := 0
  down : Bool := false
  poisonLines : BitVec 17 := 0
  deriving DecidableEq, Repr

/-- Answers of the memory mesh and of the engines to the commands that ask them, oldest first. -/
inductive MeshOut where
  | row (addr : BitVec 52) (row : Row) (poison : BitVec 16)
  | acked (addr : BitVec 52)
  | value (addr : BitVec 52) (word : Word)
  | accResult (addr : BitVec 52) (result : BitVec 8)
  | failed (addr : BitVec 52) (status : Half)
  deriving DecidableEq, Repr

structure MemSys where
  mem : Memory := []
  /-- Poisoned sectors: address divided by 32, strictly rising. -/
  poison : List Nat := []
  banks : Tab Bank := []
  chans : Tab Channel := []
  cxl : Tab CxlPort := []
  cxlInterleave : Bool := false
  gddrD : BitVec 6 := 0
  gddrRate : Byte := 0
  /-- Correctable errors per row place: times of the last ones (R98). -/
  errRows : List (SparePlace × List Dword) := []
  /-- Rows remapped into spares: bank key (384 × 8 core banks, then chip banks) and rows, pending and committed. -/
  remaps : List (SparePlace × Bool) := []
  /-- Corrections counted against the links of the memory mesh, by the number of Transit (R95, R512). -/
  linkCorrected : Tab (BitVec 17) := []
  /-- Failing rows kept for want of a spare and already recorded (R101). -/
  kept : List SparePlace := []
  out : List MeshOut := []
  deriving DecidableEq, Repr

/-- A memory-side engine: banks 0-511, GDDR7 channel c at 512 + c (R267, R270). -/
structure Engine where
  slots : Tab (BitVec 256) := []
  /-- Completed slots whose update program has not run, oldest first, and the one running (R281). -/
  updateQ : List Nat := []
  /-- The update in progress: its slot's value, descriptor, granules written, granules skipped. -/
  updating : Option (BitVec 256 × Row × Nat × Nat) := none
  scaleMismatch : BitVec 17 := 0
  overCount : BitVec 17 := 0
  stale : Dword := 0
  deriving DecidableEq, Repr

/-! ### Windows, fabric and links (10) -/

inductive WinState where
  | closed | opened | closing
  deriving DecidableEq, Repr

structure Window where
  state : WinState := .closed
  ops : BitVec 5 := 0
  ctx : BitVec 8 := 0
  gen : Half := 0
  handle : Half := 0
  dropped : BitVec 17 := 0
  active : BitVec 24 := 0
  service : Half := 0
  deriving DecidableEq, Repr

/-- Who issued an outstanding request, and so acts on its response (R298). -/
inductive Issuer where
  | bucket (ctx : CtxId) (coll bucket : Nat)
  | scale (ctx : CtxId) (coll bucket : Nat)
  | verdict (ctx : CtxId) (coll bucket : Nat)
  | gatherHdr (ctx : CtxId) (group piece : Nat)
  | gatherRow (ctx : CtxId) (group piece : Nat) (row : Nat)
  | exch (ctx : CtxId) (entry : Nat)
  | cmd (cmd : CmdRef)
  | notice (ctx : CtxId)
  | abandoned
  deriving DecidableEq, Repr

structure Req where
  tag : Nat
  issuer : Issuer
  packet : Packet
  /-- It was refused and waits to be sent again (R329): the interval in µs and the DETAIL of the refusal. -/
  retry : Bool := false
  interval : Nat := 0
  refusal : Nat := 0
  deriving DecidableEq, Repr

inductive LinkState where
  | down | training | up | retraining | mismatch
  deriving DecidableEq, Repr

/-- A flit that waits to be sent or acknowledged: its credit lane and its 2,048 bits (R285, R289). -/
structure Flit where
  lane : Nat
  bits : BitVec 2048
  /-- The link it came in by, when it is forwarded: its room there is held until it leaves (R302). -/
  via : Option LinkId := none
  /-- It ends the READ_RESP with which a request of a window retires (R307). -/
  retire : Option Nat := none
  deriving DecidableEq, Repr

structure Link where
  state : LinkState := .down
  width : BitVec 2 := 0
  vminor : Byte := 0
  vmajor : Byte := 0
  peerId : BitVec 20 := 0
  peerPort : BitVec 4 := 0
  peerHalf : BitVec 1 := 0
  /-- The peer's last reported STATE (R310): 0 ready, 1 out of service, 2 not ready. -/
  peerState : BitVec 3 := 0
  helloed : Bool := false
  txSeq : BitVec 12 := 0
  /-- Next SEQ expected, flits accepted since the last ACK returned, a NAK owed. -/
  rxSeq : BitVec 12 := 0
  rxAny : Bool := false
  naked : Bool := false
  nakOwed : Bool := false
  /-- The latest SEQ received while a replay is awaited (R287; log 138). -/
  nakSeen : BitVec 12 := 0
  replay : List Flit := []
  /-- Replays requested in a row without progress of ACK (R288). -/
  replays : Nat := 0
  /-- Credits held per lane, and credits owed to the peer per lane. -/
  credits : Tab Nat := []
  owed : Tab Nat := []
  rx : Tab (List (BitVec 2048)) := []
  tx : List Flit := []
  /-- Deficit round robin over lanes 0, 1 and 2: the lane that sent last, and the flits that each may yet send in this round (R290). -/
  turn : Nat := 0
  deficit : Tab Nat := []
  /-- Flits accepted whose ACK has not been returned. -/
  ackOwed : Bool := false
  /-- Flits handed to the lanes, oldest first. -/
  sent : List Flit := []
  flitsReplayed : Dword := 0
  crcErrors : BitVec 17 := 0
  downEvents : BitVec 17 := 0
  droppedPackets : BitVec 17 := 0
  deriving DecidableEq, Repr

structure LinkCfg where
  split : Half := 0
  w0 : BitVec 4 := 4
  w1 : BitVec 4 := 4
  w2 : BitVec 4 := 1
  timeout : BitVec 10 := 50
  ceiling : BitVec 3 := 4
  interleave : Bool := false
  deriving DecidableEq, Repr

structure Fabric where
  devId : Option (BitVec 20) := none
  idBase : BitVec 4 := 0
  routes : Tab Half := []
  routeDefaults : Tab Half := []
  marks : List Nat := []
  windows : Tab Window := []
  /-- Copies of every GEN in the management domain (R309). -/
  genCopy : Tab Half := []
  links : Tab Link := []
  cfg : LinkCfg := {}
  cfgNext : LinkCfg := {}
  reqs : List Req := []
  tagNext : BitVec 24 := 0
  /-- Packets this device has issued toward its own units, oldest first (R326). -/
  loop : List Packet := []
  localDropped : BitVec 17 := 0
  lateResponses : Dword := 0
  deriving DecidableEq, Repr

/-! ### Reduction, job, streams (11, 13) -/

/-- A bucket of an open collective: its list entry and what its attempt waits for. -/
structure Bucket where
  entry : BitVec 512 := 0
  awaiting : Bool := false
  /-- Claims on its ready word that a sealed replay has made since the word was written to 0 (R443). -/
  ignored : Nat := 0
  /-- Blocks not yet sent by the running sender; TAGs of its packets outstanding. -/
  sending : Option Nat := none
  tags : List Nat := []
  /-- Owner: slots armed, verdict given, notices and scale writes outstanding. -/
  armedOwner : Bool := false
  noticeTags : List Nat := []
  scaleTags : List Nat := []
  /-- Scale writes that await a TAG (R298). -/
  scaleQ : List Packet := []
  noticeQ : List Packet := []
  distributing : Bool := false
  /-- The VERDICT_CLEAN notices that the distribution holds back (R338). -/
  cleanQ : List Packet := []
  /-- Owner: the status that replaces COMPLETE in its BUCKET_WAIT (R357). -/
  refused : Half := 0
  deriving DecidableEq, Repr

structure Collective where
  desc : Row
  ctx : CtxId
  epoch : Byte
  buckets : Tab Bucket := []
  count : Nat
  /-- A switch accepted and not yet in effect, by its command (R345). -/
  switch : Option CmdRef := none
  deriving DecidableEq, Repr

/-- A barrier being collected by the keyholder (R374). -/
structure Barrier where
  arrived : List Nat := []
  skew : Bool := false
  advance : Option Bool := none
  deriving DecidableEq, Repr

structure Group where
  entry : BitVec 512
  /-- The keyholder, kept until the job closes (R371). -/
  holder : BitVec 20 := 0
  step : Word
  bseq : Word := 0
  barrier : Barrier := {}
  /-- The member's barrier outstanding (R373). -/
  entered : Option CmdRef := none
  /-- Release notices that await a TAG (R298). -/
  noticeQ : List Packet := []
  deriving DecidableEq, Repr

structure Job where
  id : Half
  seed : Dword
  ctx : CtxId
  groups : List Group
  fenced : Bool := false
  /-- A fence waits for the runs that it ends (R456 step 1). -/
  fencing : Bool := false
  deriving DecidableEq, Repr

structure Stream where
  entry : BitVec 128 := 0
  buf : List Token := []
  bufHead : Nat := 0
  credits : Nat := 0
  owed : Nat := 0
  partialBytes : List Byte := []
  /-- Records handed to the link, oldest first. -/
  out : List Byte := []
  deriving DecidableEq, Repr

/-! ### Power and clocks (16) -/

structure Island where
  /-- Frequency and target in MHz; none while the island stands at its frequency of R458 or R461 (log 26). -/
  freq : Option Nat := none
  target : Option Nat := none
  /-- A supply droop and a limit event that have not cleared (R470). -/
  supply : Bool := false
  limit : Bool := false
  /-- The 256-cycle wait after a droop is running (R471). -/
  recovering : Bool := false
  /-- The lowest target that arrived during a droop and waits (R472). -/
  held : Option Nat := none
  deriving DecidableEq, Repr

structure Power where
  cap : Nat := 2400
  estimated : Bool := false
  /-- Settings in flash, and those of the last POWER_SET that has completed, which apply from the next loop period (R464). -/
  capNext : Nat := 2400
  estimatedNext : Bool := false
  capReady : Nat := 2400
  estimatedReady : Bool := false
  ft : Nat := 1100
  /-- Duty in eighths. -/
  duty : Nat := 8
  /-- Gains of the two dies, in millionths (R465). -/
  gainW : Nat := 1000000
  gainE : Nat := 1000000
  /-- Limit of each die, in mW; none until the first loop period sets it (R469; log 26). -/
  dieLimit : Option Nat := none
  /-- Lowered ceilings by physical site, column × 13 + row, in MHz (R462). -/
  ceilings : Tab (Option Nat) := []
  /-- Thermal limits by core index, 0 at the largest value (R473). -/
  limits : Tab Nat := []
  islands : Tab Island := []
  temps : Tab Int := []
  dieTempW : Int := 0
  dieTempE : Int := 0
  /-- Sites queued for a remap, those of them recorded as without a spare, and sites whose remap is committed and pending (R463). -/
  remapQ : List Nat := []
  spareless : List Nat := []
  remapPending : List Nat := []
  /-- Columns whose unused site has changed since shipment, with its row; they hold no spare (R15; log 9). -/
  moved : List (Nat × Nat) := []
  deriving DecidableEq, Repr

/-! ### Security, flash, black box, telemetry, background (17, 18) -/

inductive Role where
  | operator | installer | maker
  deriving DecidableEq, Repr

/-- A firmware slot: its bytes, or the image as shipped, whose bytes the model does not hold (log 9). -/
structure Slot where
  image : List Byte := []
  shipped : Bool := false
  /-- Loaded by STAGE with every section verified. -/
  staged : Bool := false
  invalid : Bool := false
  deriving DecidableEq, Repr

/-- One copy of the active-slot record (R481): its sequence number and slot (false A, true B). -/
structure SlotRecord where
  seq : Word := 0
  slot : Bool := false
  valid : Bool := true
  deriving DecidableEq, Repr

structure Security where
  /-- Bits that FUSE_PROGRAM and COMMIT have set of each fuse field, key code × 256 + index (R477, R478; log 9). -/
  fuses : Tab Nat := []
  slotA : Slot := { shipped := true }
  slotB : Slot := {}
  /-- The two copies of the active-slot record (R481; log 9). -/
  rec0 : SlotRecord := {}
  rec1 : SlotRecord := {}
  /-- The identity key in the signing unit, public and private (R485): none until it is derived at BOOT. -/
  idKey : Option (List Byte × List Byte) := none
  running : Option Bool := none
  runningSvn : Nat := 0
  meas : Tab (BitVec 512) := []
  role : Role := .operator
  grantTime : Dword := 0
  credId : Dword := 0
  /-- Outstanding challenge: record, role, time (R491). -/
  challenge : Option (BitVec 1024 × BitVec 2 × Dword) := none
  challenges : Dword := 0
  refusals : List Dword := []
  lockout : Option Dword := none
  debugOpen : Bool := false
  auditLog : Tab (BitVec 2048) := []
  auditNext : Dword := 0
  /-- Records not yet durable, oldest first, with the command each belongs to. -/
  auditQ : List (BitVec 2048 × Option CmdRef) := []
  deriving DecidableEq, Repr

structure BlackBox where
  /-- The ring, oldest first: each record with its number since the ring was cleared. -/
  recs : List (Nat × BitVec 512) := []
  /-- Records numbered so far, the lost ones included. -/
  total : Nat := 0
  /-- SEQ of the next record, within this boot. -/
  seq : BitVec 48 := 0
  boot : Half := 0
  lost : BitVec 17 := 0
  /-- Numbers of the freezing records whose spans are being copied and wait to be (R516, R517). -/
  copying : Option Nat := none
  waiting : List Nat := []
  /-- Freeze slots in flash, newest first. -/
  slots : List (List (BitVec 512)) := []
  deriving DecidableEq, Repr

structure Telemetry where
  records : Tab (BitVec 512) := []
  energy : Dword := 0
  engineResets : Half := 0
  deviceResets : Half := 0
  deriving DecidableEq, Repr

structure Background where
  coreScrub : Tab Nat := []
  chipScrub : Tab Nat := []
  /-- Poisoned sectors that scrubs have met, by core bank (core × 8 + bank), 3,072 + chip bank and 3,584 + channel (R97). -/
  met : Tab (BitVec 17) := []
  wearSteps : Nat := 0
  deriving DecidableEq, Repr

/-! ### Resets (15) -/

inductive EngStep where
  | idle | triggered | started | edgeClosed
  deriving DecidableEq, Repr

structure Suspect where
  ctx : CtxId
  run : RunSt
  firstFault : Option FirstFault
  /-- Flags that the context had accumulated (R69). -/
  flags : Byte := 0
  /-- Aborted while held for replay (R452). -/
  aborted : Bool := false
  /-- 0 pending, 1 innocent, 2 inconclusive, 3 guilty (R444), 4 killed without a replay. -/
  outcome : Nat := 0
  deriving DecidableEq, Repr

structure ResetCtl where
  eng : EngStep := .idle
  trigger : Nat := 0
  trigCore : Option CoreId := none
  trigSeq : Word := 0
  /-- FAULT_REF of the reset's record (R439 step 1). -/
  ref : Dword := 0
  noReplay : Bool := false
  /-- Recovery from a replay: not counted (R444). -/
  recovery : Bool := false
  cmds : List CmdRef := []
  suspects : List Suspect := []
  /-- The suspect whose replay runs. -/
  replaying : Option Suspect := none
  history : List Dword := []
  limit : Nat := 3
  windowMin : Nat := 30
  enterDeadbolt : Bool := false
  /-- Deadbolt, as written to flash (R448). -/
  deadbolt : Bool := false
  dev : Bool := false
  /-- Ready was not reached: only PERST# or power-up recovers the device (R256, R450, R530). -/
  failed : Bool := false
  devWanted : Option Nat := none
  devCmd : Option CmdRef := none
  deriving DecidableEq, Repr

/-! ### The whole -/

structure State where
  /-- Commands that wait, first in first out. -/
  pending : List Instr
  /-- Index of the next free value (log 2). -/
  free : Nat
  /-- The management island's local counter, in µs (R510). -/
  time : Dword
  mod : Module
  host : HostIf
  cmds : List Cmd
  hostOut : List HostOut
  ctxs : Tab Context
  grid : Grid
  cores : Tab Core
  ms : MemSys
  keys : Tab (BitVec 256)
  /-- Keyring writes held until the resident context's hinge (R86). -/
  held : List CmdRef
  engines : Tab Engine
  fab : Fabric
  colls : List (Nat × Collective)
  job : Option Job
  /-- What the exchange units hold of their peers. -/
  arrivals : List Arrival
  streams : Tab Stream
  power : Power
  sec : Security
  bb : BlackBox
  tel : Telemetry
  bg : Background
  rst : ResetCtl
  deriving DecidableEq, Repr

/-- Reset: every field at the value of its structure, no command waiting. -/
def State.reset : State where
  pending := []
  free := 0
  time := 0
  mod := {}
  host := {}
  cmds := []
  hostOut := []
  ctxs := []
  grid := {}
  cores := []
  ms := {}
  keys := []
  held := []
  engines := []
  fab := {}
  colls := []
  job := none
  arrivals := []
  streams := []
  power := {}
  sec := {}
  bb := {}
  tel := {}
  bg := {}
  rst := {}

end Sys2Proof.Machine
end

