-- ==== Sys2Proof/Machine/Ops.lean ====
section
/-!
DEFINITION. The shared operations: state access, memory, the black box, pins and vectors, faults and command records.
-/
namespace Sys2Proof.Machine

/-! ### Access to the parts of the state -/

def State.core (s : State) (c : CoreId) : Core := Tab.get {} s.cores c.val
def State.setCore (s : State) (c : CoreId) (x : Core) : State := { s with cores := Tab.set {} s.cores c.val x }
def State.ctx (s : State) (c : CtxId) : Context := Tab.get {} s.ctxs c.val
def State.setCtx (s : State) (c : CtxId) (x : Context) : State := { s with ctxs := Tab.set {} s.ctxs c.val x }
def State.ring (s : State) (c : CtxId) : Ring := Tab.get {} s.host.rings c.val
def State.setRing (s : State) (c : CtxId) (x : Ring) : State :=
  { s with host := { s.host with rings := Tab.set {} s.host.rings c.val x } }
def State.key (s : State) (i : Nat) : BitVec 256 := Tab.get 0 s.keys i
def State.setKey (s : State) (i : Nat) (x : BitVec 256) : State := { s with keys := Tab.set 0 s.keys i x }
def State.engine (s : State) (e : Nat) : Engine := Tab.get {} s.engines e
def State.setEngine (s : State) (e : Nat) (x : Engine) : State := { s with engines := Tab.set {} s.engines e x }
def State.window (s : State) (w : Nat) : Window := Tab.get {} s.fab.windows w
def State.setWindow (s : State) (w : Nat) (x : Window) : State :=
  { s with fab := { s.fab with windows := Tab.set {} s.fab.windows w x } }
def State.link (s : State) (l : LinkId) : Link := Tab.get {} s.fab.links l.val
def State.setLink (s : State) (l : LinkId) (x : Link) : State :=
  { s with fab := { s.fab with links := Tab.set {} s.fab.links l.val x } }
def State.bank (s : State) (b : Nat) : Bank := Tab.get {} s.ms.banks b
def State.setBank (s : State) (b : Nat) (x : Bank) : State :=
  { s with ms := { s.ms with banks := Tab.set {} s.ms.banks b x } }
def State.chan (s : State) (c : Nat) : Channel := Tab.get {} s.ms.chans c
def State.setChan (s : State) (c : Nat) (x : Channel) : State :=
  { s with ms := { s.ms with chans := Tab.set {} s.ms.chans c x } }
def State.cxlPort (s : State) (p : Nat) : CxlPort := Tab.get {} s.ms.cxl p
def State.setCxl (s : State) (p : Nat) (x : CxlPort) : State :=
  { s with ms := { s.ms with cxl := Tab.set {} s.ms.cxl p x } }
def State.stream (s : State) (n : Nat) : Stream := Tab.get {} s.streams n
def State.setStream (s : State) (n : Nat) (x : Stream) : State := { s with streams := Tab.set {} s.streams n x }

/-- The collective open under an ID. -/
def State.coll (s : State) (id : Nat) : Option Collective := (s.colls.find? (·.1 == id)).map (·.2)
def State.setColl (s : State) (id : Nat) (x : Collective) : State :=
  { s with colls := s.colls.map fun p => if p.1 = id then (id, x) else p }

/-- A fresh free value of w bits (log 2). -/
def State.fresh (s : State) (w : Nat) : BitVec w × State :=
  ((Config.freeValue s.free).setWidth w, { s with free := s.free + 1 })

/-- The management domain runs: powered and PERST# deasserted. -/
def State.mgmtUp (s : State) : Bool := s.mod.powered && !s.mod.perst

/-- One microsecond of the local counter passes while the management domain runs (R510; log 1). -/
def tickIdle (s : State) : State := if s.mgmtUp then { s with time := s.time + 1 } else s

/-! ### Memory (R26, R71, R253) -/

namespace Mem

/-- The byte at an address; zero where none is listed. -/
def byte (m : Memory) (a : Nat) : Byte := Tab.get 0 m a

/-- The form of a memory: addresses strictly rising, no zero byte listed. -/
def wf (m : Memory) : Bool := Tab.wf 0 m

/-- The row of 512 bytes at an address. -/
def row (m : Memory) (a : Nat) : Row :=
  BitVec.ofNat 4096 <|
    m.foldl (fun acc c => if a ≤ c.1 ∧ c.1 < a + 512 then acc ||| (c.2.toNat <<< (8 * (c.1 - a))) else acc) 0

/-- The listed cells of a row. -/
def cells (a : Nat) (r : Row) : Memory :=
  (List.range 512).filterMap fun i =>
    let b : Byte := BitVec.ofNat 8 (r.toNat >>> (8 * i))
    if b = 0 then none else some (a + i, b)

/-- The memory with one whole row replaced (R71, R72). -/
def setRow (m : Memory) (a : Nat) (r : Row) : Memory :=
  m.filter (fun c => decide (c.1 < a)) ++ cells a r ++ m.filter (fun c => decide (a + 512 ≤ c.1))

/-- The memory with every byte of a range reading as zero. -/
def clear (m : Memory) (a n : Nat) : Memory := m.filter fun c => !(decide (a ≤ c.1) && decide (c.1 < a + n))

/-- 32-bit word w of a row. -/
def rowWord (r : Row) (w : Nat) : Word := BitVec.ofNat 32 (r.toNat >>> (32 * w))

/-- A row with 32-bit word w replaced. -/
def setWord (r : Row) (w : Nat) (x : Word) : Row := put r (32 * w) 32 x.toNat

end Mem

/-- Insertion into a strictly rising list. -/
def insertSorted (k : Nat) : List Nat → List Nat
  | [] => [k]
  | x :: t => if k < x then k :: x :: t else if k = x then x :: t else x :: insertSorted k t

/-- The regions of R26. -/
inductive Region where
  | gddr | cxl | chip | coreMem | config | unmapped
  deriving DecidableEq, Repr

/-- GDDR7 bytes in all: 320 GiB. -/
abbrev gddrBytes : Nat := 0x5000000000
abbrev cxlBase : Nat := 0x100000000000
abbrev chipBase : Nat := 0x200000000000
abbrev coreBase : Nat := 0x200010000000
abbrev configBase : Nat := 0x300000000000

/-- Capacity of the CXL tier in bytes (R263). -/
def cxlBytes (s : State) : Nat :=
  let c0 := (s.cxlPort 0).units * 0x10000000
  let c1 := (s.cxlPort 1).units * 0x10000000
  if s.ms.cxlInterleave then 2 * min c0 c1 else c0 + c1

/-- The CXL port of an address of the tier (R263). -/
def cxlPortOf (s : State) (a : Nat) : Nat :=
  let o := a - cxlBase
  if s.ms.cxlInterleave then (o / 4096) % 2
  else if o < (s.cxlPort 0).units * 0x10000000 then 0 else 1

/-- The region of an address; the upper 0.5 MiB of a core window and CXL beyond the capacity are unmapped (R26, R27). -/
def region (s : State) (a : Nat) : Region :=
  if a < gddrBytes then .gddr
  else if cxlBase ≤ a ∧ a < cxlBase + cxlBytes s then .cxl
  else if chipBase ≤ a ∧ a < chipBase + 0x10000000 then .chip
  else if coreBase ≤ a ∧ a < coreBase + 384 * 0x200000 ∧ (a - coreBase) % 0x200000 < 0x180000 then .coreMem
  else if configBase ≤ a ∧ a < configBase + 0x100000000 then .config
  else .unmapped

/-- The chip-memory bank of an address (R29). -/
def bankOf (a : Nat) : Nat := (a - chipBase) / 0x80000

/-- GDDR7 channel of an address, and its byte within the channel (R260, R261). -/
def channelOf (s : State) (a : Nat) : Nat × Nat :=
  let d := s.ms.gddrD.toNat * 0x10000000
  let h := 0x200000000 - d
  if a < 40 * h then
    let g := a / 4096
    let q := g / 40
    let f := (q ^^^ (q >>> 6) ^^^ (q >>> 12) ^^^ (q >>> 18)) &&& 0x3F
    ((g % 40 + f) % 40, q * 4096 + a % 4096)
  else
    let o := a - 40 * h
    (o / d, h + o % d)

/-- The memory-side engine at an address: bank, or 512 + channel (R267); none elsewhere (R266). -/
def engineOf (s : State) (a : Nat) : Option Nat :=
  match region s a with
  | .chip => some (bankOf a)
  | .gddr => some (512 + (channelOf s a).1)
  | _ => none

/-- Byte address of row n of a core's own memory, rows numbered in address order (R30, R90). -/
def coreRowAddr (c : Nat) (n : Nat) : Nat := coreBase + c * 0x200000 + n * 512

/-! ### The black box (R514-R517), vectors and ALERT# -/

/-- FAULT_REF of the next record: SEQ and BOOT (R514). -/
def State.nextRef (s : State) : Dword := word 64 [(0, 48, s.bb.seq.toNat), (48, 16, s.bb.boot.toNat)]

/-- ALERT# pulse (R525). -/
def pulseAlert (s : State) : State := { s with mod := { s.mod with alert := true } }

/-- Record n lies in a span of 2,048 that waits to be copied or is being copied (R516). -/
def bbProtected (b : BlackBox) (n : Nat) : Bool := (b.copying.toList ++ b.waiting).any fun k => decide (n ≤ k) && decide (k ≤ n + 2047)

/-- Append a record of a kind (R514): it takes the next SEQ even when it is lost for want of a slot (R516). -/
def bbAppend (s : State) (kind : Nat) (ctx : Option CtxId) (payload : BitVec 384) : State :=
  let b := s.bb
  let hdr := word 128 [(0, 48, b.seq.toNat), (48, 16, b.boot.toNat), (64, 48, s.time.toNat), (112, 8, kind),
    (120, 3, (ctx.map (·.val)).getD 0), (123, 1, b2n ctx.isSome)]
  let rec' : BitVec 512 := BitVec.ofNat 512 (hdr.toNat ||| (payload.toNat <<< 128))
  let n := b.total
  let b := { b with seq := b.seq + 1, total := n + 1 }
  if b.recs.length < 4096 then { s with bb := { b with recs := b.recs ++ [(n, rec')] } }
  else if b.recs.head?.any (fun r => bbProtected b r.1) then { s with bb := { b with lost := countErr b.lost } }
  else { s with bb := { b with recs := b.recs.drop 1 ++ [(n, rec')] } }

/-- A freeze on the newest record joins the copy that waits, whose span ends at it, or becomes one (R516). -/
def waitCopy (l : List Nat) (k : Nat) : List Nat :=
  match l with
  | [] => [k]
  | [_] => [k]
  | x :: t => x :: waitCopy t k

/-- Freeze on the newest record: one copy now, into the oldest of the 8 slots, or one further copy after the present ones (R516); ALERT# pulses (R525). -/
def bbFreeze (s : State) : State :=
  let k := s.bb.total - 1
  pulseAlert <|
    match s.bb.copying with
    | none => { s with bb := { s.bb with copying := some k, slots := s.bb.slots.take 7 } }
    | some _ => { s with bb := { s.bb with waiting := waitCopy s.bb.waiting k } }

/-- What a word of the MSI-X table holds at reset: the mask bit of each vector is set (log 5). -/
def msixReset (i : Nat) : Word := if i % 4 = 3 then 1 else 0

/-- A word of the MSI-X table. -/
def msixWord (h : HostIf) (i : Nat) : Word := Tab.get (msixReset i) h.msix i

/-- A vector is masked: bit 0 of the fourth word of its entry. -/
def msixMasked (h : HostIf) (v : Nat) : Bool := bit (msixWord h (4 * v + 3)) 0

/-- Vector v fires (R407, R410): its message goes out, or waits in the pending-bit array while the vector is masked (R402). -/
def fireVector (s : State) (v : Nat) : State :=
  let h := { s.host with irqPending := s.host.irqPending ||| BitVec.ofNat 16 (2 ^ v) }
  if msixMasked s.host v then { s with host := { h with msixPending := h.msixPending ||| BitVec.ofNat 16 (2 ^ v) } }
  else { s with host := h, hostOut := s.hostOut ++ [.msix (BitVec.ofNat 4 v)] }

/-- A change of DEVICE_STATE: vector 8 fires once and ALERT# pulses (R410, R525). -/
def setDevState (s : State) (d : DevState) : State :=
  if s.host.state = d then s
  else pulseAlert (fireVector { s with host := { s.host with state := d } } 8)

/-! ### Accepted commands and their records (R417, R427) -/

def Cmd.is (r : CmdRef) (c : Cmd) : Bool := decide (c.ring = r.ctx) && decide (c.seq = r.seq) && decide (c.nth = r.nth)

/-- The accepted command of a reference. -/
def State.cmd? (s : State) (r : CmdRef) : Option Cmd := s.cmds.find? (Cmd.is r)

/-- Replace the first element that meets a test. -/
def updFirst {α : Type} (p : α → Bool) (f : α → α) : List α → List α
  | [] => []
  | x :: t => if p x then f x :: t else x :: updFirst p f t

/-- Remove the first element that meets a test. -/
def dropFirst {α : Type} (p : α → Bool) : List α → List α
  | [] => []
  | x :: t => if p x then t else x :: dropFirst p t

def State.updCmd (s : State) (r : CmdRef) (f : Cmd → Cmd) : State := { s with cmds := updFirst (Cmd.is r) f s.cmds }

def State.setPhase (s : State) (r : CmdRef) (p : Phase) : State := s.updCmd r fun c => { c with phase := p }

/-- The command is finished with a record, unless it already is. -/
def State.finish (s : State) (r : CmdRef) (x : Record) : State :=
  s.updCmd r fun c =>
    match c.phase with
    | .done _ => c
    | _ => { c with phase := .done x }

/-- The command is finished with a status alone. -/
def State.finishSt (s : State) (r : CmdRef) (st : Half) : State := s.finish r { status := st }

def Cmd.opcode (c : Cmd) : Nat := fld c.entry 0 16
def Cmd.ordered (c : Cmd) : Bool := bit c.entry 16
/-- The 48-byte payload (R411). -/
def Cmd.payload (c : Cmd) : BitVec 384 := BitVec.ofNat 384 (c.entry.toNat >>> 128)
def Cmd.ref (c : Cmd) : CmdRef := ⟨c.ring, c.seq, c.nth⟩
def Cmd.isDone (c : Cmd) : Bool :=
  match c.phase with
  | .done _ => true
  | _ => false
def Cmd.isWaiting (c : Cmd) : Bool := decide (c.phase = .waiting)

/-- Commands of the ring accepted before this one and not completed. -/
def State.earlier (s : State) (c : Cmd) : List Cmd :=
  (s.cmds.takeWhile fun d => !(Cmd.is c.ref d)).filter fun d => decide (d.ring = c.ring)

/-- A command of the ring that has not been taken up holds back those behind it; a RUN that waits for an earlier RUN does not
(R414; log 130). -/
def State.holdsBack (s : State) (d : Cmd) : Bool :=
  d.isWaiting && !d.taken && !(d.opcode == 0x0201 && (s.earlier d).any fun e => e.opcode == 0x0201)

/-- A command may start (R414): in ring order, and with ORDERED once every earlier command of its ring has completed. -/
def State.mayStart (s : State) (c : Cmd) : Bool :=
  c.isWaiting && !(s.earlier c).any s.holdsBack && (!c.ordered || (s.earlier c).isEmpty)

/-- Job commands, JOB_CLOSE apart (R421, R456). -/
def fencedOps : List Nat :=
  [0x0201, 0x0303, 0x0306, 0x0307, 0x0308, 0x0401, 0x0402, 0x0403, 0x0404, 0x0405, 0x0501, 0x0503, 0x0504, 0x0505]

/-- The open job is fenced. -/
def State.fenced (s : State) : Bool := s.job.any (·.fenced)

/-- Take up an accepted command of an opcode that may start; without one the step does not take place (log 13). In a fenced job
a job command completes with JOB_FENCED (R456). -/
def State.take (s : State) (r : CmdRef) (opcode : Nat) (f : Cmd → State) : State :=
  match s.cmd? r with
  | some c =>
    if c.opcode = opcode ∧ s.mayStart c = true then
      (if s.fenced && fencedOps.contains opcode then s.finishSt r St.jobFenced else f c)
    else s
  | none => s

/-- Payloads of the accepted commands of an opcode that have not started, in order of acceptance. -/
def State.starting (s : State) (opcode : Nat) : List (BitVec 384) :=
  (s.cmds.filter fun c => c.opcode == opcode && c.isWaiting).map Cmd.payload

/-- A command that has been taken up waits for what its rule names. -/
def State.defer (s : State) (r : CmdRef) : State := s.updCmd r fun c => { c with taken := true }

/-! ### Context faults (R427, R431, R515) -/

/-- Fields of a FAULT record other than STATUS and CMD_SEQ (R515). -/
structure FaultInfo where
  core : Option CoreId := none
  word : BitVec 128 := 0
  handle : Half := 0
  index : Nat := 0
  aux : Nat := 0
  dst : Nat := 0
  window : Nat := 0
  offset : Nat := 0
  deriving DecidableEq, Repr

/-- Column and row of a core index (R6, R7). -/
def coreCol (c : CoreId) : Nat := c.val / 12
def coreRow (c : CoreId) : Nat := c.val % 12

def faultPayload (status : Half) (cmdSeq : Word) (i : FaultInfo) : BitVec 384 :=
  word 384 [(0, 16, status.toNat), (16, 5, (i.core.map coreCol).getD 0), (21, 4, (i.core.map coreRow).getD 0),
    (25, 1, b2n i.core.isSome), (32, 32, cmdSeq.toNat), (64, 128, i.word.toNat), (192, 16, i.handle.toNat),
    (208, 32, i.index), (240, 16, i.aux), (256, 20, i.dst), (276, 12, i.window), (288, 48, i.offset)]

/-- The command of a context's run. -/
def RunSt.ref (r : RunSt) (c : CtxId) : CmdRef := ⟨c, r.seq, r.nth⟩

/-- Requests of an issuer that meets a test are abandoned: their TAGs stay reserved until they end (R429). -/
def abandonReqs (s : State) (p : Issuer → Bool) : State :=
  { s with fab := { s.fab with reqs := s.fab.reqs.map fun r => if p r.issuer then { r with issuer := .abandoned } else r } }

/-- Requests of a run's gathers and exchanges are abandoned (R429 step 3). -/
def abandonRun (s : State) (c : CtxId) : State :=
  abandonReqs s fun i =>
    match i with
    | .gatherHdr d _ _ => d == c
    | .gatherRow d _ _ _ => d == c
    | .exch d _ => d == c
    | .notice d => d == c
    | _ => false

/-- The RUN of a context that has begun and whose record is not committed. -/
def endedRun (s : State) (c : CtxId) : Option Cmd := s.cmds.find? fun d => decide (d.ring = c) && d.began

/-- A completed run's record takes the fault that comes before its commit; a record with another status keeps it (R431; log 131). -/
def faultRecord (f : FirstFault) (c : Cmd) : Cmd :=
  match c.phase with
  | .done x =>
    if x.status = St.complete then { c with phase := .done { x with status := f.status, detail := f.detail, faultRef := f.ref } } else c
  | _ => c

/-- What a fault of a context does to its run (R431): the first fault stops the run that holds the grid, ends one that does not, and
decides the record of one that has ended and is not committed. None for a context without a run. -/
def faultRun (s : State) (c : CtxId) (f : FirstFault) : Option State :=
  let x := s.ctx c
  match x.run with
  | some r =>
    if x.fault.isSome || r.stop.isSome then some s
    else if s.grid.ctx = some c then some (s.setCtx c { x with fault := some f })
    else
      some (((abandonRun s c).setCtx c { x with run := none, switchedOut := false, accFlags := 0 }).finish (r.ref c)
        { status := f.status, detail := f.detail, faultRef := f.ref, flags := x.accFlags })
  | none =>
    match endedRun s c with
    | some d => some (s.updCmd d.ref (faultRecord f))
    | none => none

/-- The SEQ of the command in progress of a context: its run's (R515). -/
def State.runSeq (s : State) (c : CtxId) : Word := ((s.ctx c).run.map (·.seq)).getD 0

/-- A fault of a context: recorded and frozen (R515); its run takes it (R431), and without a run it is reported on the next completion
(R427). -/
def raiseFault (s : State) (ctx : Option CtxId) (status : Half) (i : FaultInfo := {}) (detail : Word := 0) : State :=
  match ctx with
  | none => bbFreeze (bbAppend s 1 none (faultPayload status 0 i))
  | some c =>
    let f : FirstFault := ⟨status, s.nextRef, detail⟩
    let s := bbFreeze (bbAppend s 1 (some c) (faultPayload status (s.runSeq c) i))
    match faultRun s c f with
    | some s => s
    | none =>
      let x := s.ctx c
      if x.unreported.isSome then s else s.setCtx c { x with unreported := some f }

/-- A command that does not run faults its context and completes with the fault's status (R427); a run in progress of the
context stops (R431). -/
def faultCmd (s : State) (c : Cmd) (st : Half) (i : FaultInfo := {}) (detail : Word := 0) : State :=
  let ref := s.nextRef
  let s := bbFreeze (bbAppend s 1 (some c.ring) (faultPayload st c.seq i))
  let s := (faultRun s c.ring ⟨st, ref, 0⟩).getD s
  s.finish c.ref { status := st, detail := detail, faultRef := ref }

/-- A fault raised by a core for the resident context. -/
def coreFault (s : State) (c : CoreId) (status : Half) (i : FaultInfo := {}) : State :=
  raiseFault s s.grid.ctx status { i with core := some c }

end Sys2Proof.Machine
end

