-- ==== Sys2Proof/Machine/Rows.lean ====
section
/-!
DEFINITION. Keyring entries and their row placement (R81 to R90), and rows of every tier with poison (R71, R96, R258 to R265).
-/
namespace Sys2Proof.Machine

/-! ### Handles and entries -/

/-- KR of a handle (R81). -/
def kr (h : Half) : Bool := bit h 15
/-- INDEX of a handle. -/
def hIndex (h : Half) : Nat := fld h 0 12

/-- The device entry that a device handle names: the empty entry where KR is 0 (R81). -/
def State.devEntry (s : State) (h : Half) : BitVec 256 := if kr h then s.key (hIndex h) else 0

namespace DE
def valid (e : BitVec 256) : Bool := bit e 0
def tier (e : BitVec 256) : Nat := fld e 1 3
def format (e : BitVec 256) : Nat := fld e 4 5
/-- Permission k of R83: 0 RD, 1 WR, 2 ACC, 3 FADD, 4 SPILL, 5 GATE, 6 WIN. -/
def perm (e : BitVec 256) (k : Nat) : Bool := bit e (9 + k)
def interleave (e : BitVec 256) : Nat := fld e 16 3
def ctxOk (e : BitVec 256) (c : CtxId) : Bool := bit e (24 + c.val)
def rows (e : BitVec 256) : Nat := fld e 32 32
def base (e : BitVec 256) : Nat := fld e 64 52
def scale (e : BitVec 256) : Half := BitVec.ofNat 16 (fld e 128 16)
def epochValid (e : BitVec 256) : Bool := bit e 144
def epoch (e : BitVec 256) : Nat := fld e 160 32
end DE

namespace CE
def valid (e : BitVec 128) : Bool := bit e 0
def isLocal (e : BitVec 128) : Bool := bit e 1
def format (e : BitVec 128) : Nat := fld e 2 5
def perm (e : BitVec 128) (k : Nat) : Bool := bit e (7 + k)
def parent (e : BitVec 128) : Nat := fld e 16 12
def offset (e : BitVec 128) : Nat := fld e 32 32
def rows (e : BitVec 128) : Nat := fld e 64 32
def scale (e : BitVec 128) : Half := BitVec.ofNat 16 (fld e 96 16)
end CE

/-- Permissions by place. -/
abbrev pRD : Nat := 0
abbrev pWR : Nat := 1
abbrev pACC : Nat := 2
abbrev pFADD : Nat := 3
abbrev pSPILL : Nat := 4
abbrev pGATE : Nat := 5
abbrev pWIN : Nat := 6

/-- Device physical address of row j of a device entry (R84). -/
def devRowAddr (e : BitVec 256) (j : Nat) : Nat :=
  let k := DE.interleave e
  if DE.tier e = 1 ∧ k ≠ 0 then
    let o := DE.base e - chipBase
    chipBase + (o / 0x80000 + j % 2 ^ k) * 0x80000 + o % 0x80000 + (j / 2 ^ k) * 512
  else DE.base e + j * 512

/-- The addresses of the rows of an entry from row o. -/
def devRows (e : BitVec 256) (o n : Nat) : List Nat := (List.range n).map fun j => devRowAddr e (o + j)

/-- The row of a device entry that stands at an address; none outside its rows (R84). -/
def entryRowAt (e : BitVec 256) (a : Nat) : Option Nat :=
  let k := DE.interleave e
  let j := if DE.tier e = 1 ∧ k ≠ 0 then
      ((a - chipBase) % 0x80000 - (DE.base e - chipBase) % 0x80000) / 512 * 2 ^ k +
        ((a - chipBase) / 0x80000 - (DE.base e - chipBase) / 0x80000)
    else (a - DE.base e) / 512
  if j < DE.rows e ∧ devRowAddr e j = a then some j else none

/-! ### Poison -/

/-- Poison mask of the row at an address (R96). -/
def poisonMask (p : List Nat) (a : Nat) : BitVec 16 :=
  BitVec.ofNat 16 <| p.foldl (fun m k => if a / 32 ≤ k ∧ k < a / 32 + 16 then m ||| (1 <<< (k - a / 32)) else m) 0

/-- First poisoned sector of a mask. -/
def firstSector (p : BitVec 16) : Nat := ((List.range 16).find? fun i => bit p i).getD 0

/-- The list with the row's sectors replaced by a mask. -/
def setPoison (p : List Nat) (a : Nat) (m : BitVec 16) : List Nat :=
  p.filter (fun k => decide (k < a / 32)) ++
    (List.range 16).filterMap (fun i => if bit m i then some (a / 32 + i) else none) ++
    p.filter (fun k => decide (a / 32 + 16 ≤ k))

/-- Sectors rounded up to whole 64-byte lines (R264). -/
def linePoison (m : BitVec 16) : BitVec 16 :=
  (List.range 8).foldl (fun a i => if bit m (2 * i) || bit m (2 * i + 1) then a ||| BitVec.ofNat 16 (3 <<< (2 * i)) else a) 0

/-- Poison-list entries of a channel (R259). -/
def poisonCount (s : State) (c : Nat) : Nat :=
  s.ms.poison.countP fun k => decide (k * 32 < gddrBytes) && decide ((channelOf s (k * 32)).1 = c)

/-- The channel is poisoned for want of room in its list: recorded once (R259). -/
def poisonChannel (s : State) (c : Nat) : State :=
  if (s.chan c).poisoned then s
  else bbAppend (s.setChan c { s.chan c with poisoned := true }) 0x0A none (word 384 [(208, 32, c)])

/-- The lowest n bits that stand in a mask. -/
def firstBits (n : Nat) (m : BitVec 16) : BitVec 16 :=
  BitVec.ofNat 16 ((((List.range 16).filter fun i => bit m i).take n).foldl (fun a i => a ||| (1 <<< i)) 0)

/-- Replace the poison of a row in its tier: sectors without poison leave the list, new ones are added while it has room, and one
that finds it full poisons the channel (R259). -/
def State.putPoison (s : State) (a : Nat) (m : BitVec 16) : State :=
  match region s a with
  | .gddr =>
    let c := (channelOf s a).1
    let old := poisonMask s.ms.poison a
    let gone := { s with ms := { s.ms with poison := setPoison s.ms.poison a (old &&& m) } }
    let fit := firstBits (16384 - poisonCount gone c) (m &&& ~~~old)
    let t := { s with ms := { s.ms with poison := setPoison s.ms.poison a ((old &&& m) ||| fit) } }
    if fit = m &&& ~~~old then t else poisonChannel t c
  | .cxl => { s with ms := { s.ms with poison := setPoison s.ms.poison a (linePoison m) } }
  | _ => { s with ms := { s.ms with poison := setPoison s.ms.poison a m } }

/-- A failed access: its status and what its fault record names. -/
structure Flt where
  status : Half
  info : FaultInfo := {}
  deriving DecidableEq, Repr

/-- The row and its poison, the bank's power apart (R97, R259, R264, R265). No row stands at an address of the configuration space:
such a request is answered as one to an unmapped address (DESIGN CHOICE, log 126). -/
def rawRead (s : State) (a : Nat) : Except Half (Row × BitVec 16) :=
  match region s a with
  | .unmapped => .error St.addressUnmapped
  | .config => .error St.addressUnmapped
  | .cxl =>
    if (s.cxlPort (cxlPortOf s a)).down then .error St.cxlPortDown
    else .ok (Mem.row s.ms.mem a, poisonMask s.ms.poison a)
  | .gddr => .ok (Mem.row s.ms.mem a,
      if (s.chan (channelOf s a).1).poisoned then 0xFFFF else poisonMask s.ms.poison a)
  | _ => .ok (Mem.row s.ms.mem a, poisonMask s.ms.poison a)

/-- Write one whole row with its poison, the bank's power apart (R72, R96). -/
def rawWrite (s : State) (a : Nat) (r : Row) (p : BitVec 16) : Except Half State :=
  let s' := { s with ms := { s.ms with mem := Mem.setRow s.ms.mem a r } }
  match region s a with
  | .unmapped => .error St.addressUnmapped
  | .config => .error St.addressUnmapped
  | .cxl => if (s.cxlPort (cxlPortOf s a)).down then .error St.cxlPortDown else .ok (s'.putPoison a p)
  | _ => .ok (s'.putPoison a p)

/-- A write that the tier accepts; nothing where it does not. -/
def rawPut (s : State) (a : Nat) (r : Row) (p : BitVec 16) : State :=
  match rawWrite s a r p with
  | .ok s' => s'
  | .error _ => s

/-- Counting of poisoned CXL lines read: 64 bytes each (R264, R512 POISON_LINES). -/
def countCxlPoison (s : State) (a : Nat) (m : BitVec 16) : State :=
  if region s a = .cxl ∧ m ≠ 0 then
    let p := cxlPortOf s a
    let n := ((List.range 8).filter fun i => bit m (2 * i) || bit m (2 * i + 1)).length
    s.setCxl p { s.cxlPort p with poisonLines := (List.range n).foldl (fun x _ => countErr x) (s.cxlPort p).poisonLines }
  else s

/-! ### Errors of rows (R95, R96, R98, R258) -/

/-- Device physical address of a spare-able row (R29, R30). -/
def placeAddr : SparePlace → Nat
  | .core c k n => coreBase + c.val * 0x200000 + (n.val * 8 + k.val) * 512
  | .chip b n => chipBase + b.val * 0x80000 + n.val * 512

/-- The die of a place: false W, true E (R29, R12). -/
def placeDie : SparePlace → Bool
  | .core c _ _ => decide (192 ≤ c.val)
  | .chip b _ => decide (256 ≤ b.val)

/-- 24 hours of the local counter. -/
abbrev dayUs : Nat := 86400000000

/-- One more correctable error of a row; 1,024 rows are tracked per die, the one whose last error is oldest giving way (R98). -/
def countRowError (s : State) (p : SparePlace) : State :=
  let t := s.ms.errRows
  let old := ((t.find? fun x => x.1 == p).map (·.2)).getD []
  let now := (old.filter fun u => decide ((s.time - u).toNat < dayUs)) ++ [s.time]
  let rest := t.filter fun x => x.1 != p
  let die := rest.filter fun x => placeDie x.1 == placeDie p
  let rest :=
    if old.isEmpty ∧ 1024 ≤ die.length then
      let oldest := die.foldl (fun (a : Option (SparePlace × List Dword)) x =>
        match a with
        | none => some x
        | some y => if x.2.getLast?.getD 0 < y.2.getLast?.getD 0 then some x else some y) none
      rest.filter fun x => some x != oldest
    else rest
  { s with ms := { s.ms with errRows := rest ++ [(p, now)] } }

/-- Poison sectors of the row at an address (R96). -/
def addPoison (s : State) (a : Nat) (m : BitVec 16) : State := s.putPoison a (poisonMask s.ms.poison a ||| m)

/-- What a read of GDDR7 reports (R258). -/
def channelFinding (s : State) (c a : Nat) (f : Finding) : State :=
  let x := s.chan c
  match f with
  | .clean => s
  | .corrected => s.setChan c { x with eccCorrected := countErr x.eccCorrected }
  | .uncorrectable m => addPoison (s.setChan c { x with uncorrected := countErr x.uncorrected }) a m

/-- The place of a row that sparing can move (R98). -/
def rowPlace (s : State) (a : Nat) : Option SparePlace :=
  match region s a with
  | .coreMem =>
    let n := (a - coreBase) % 0x200000 / 512
    some (.core (Fin.ofNat 384 ((a - coreBase) / 0x200000)) (Fin.ofNat 8 n) (Fin.ofNat 384 (n / 8)))
  | .chip => some (.chip (Fin.ofNat 512 (bankOf a)) (Fin.ofNat 1024 ((a - chipBase) % 0x80000 / 512)))
  | _ => none

/-- What a read of a bank's row finds: a correction is counted against the row and in its bank's or core's counter, an uncorrectable
error poisons (R95, R96, R98). -/
def placeFinding (s : State) (p : SparePlace) (f : Finding) : State :=
  match f with
  | .clean => s
  | .corrected =>
    countRowError (match p with
      | .core c _ _ => s.setCore c { s.core c with cmCorrected := countErr (s.core c).cmCorrected }
      | .chip b _ => s.setBank b.val { s.bank b.val with corrected := countErr (s.bank b.val).corrected }) p
  | .uncorrectable m =>
    addPoison (match p with
      | .core _ _ _ => s
      | .chip b _ => s.setBank b.val { s.bank b.val with uncorrected := countErr (s.bank b.val).uncorrected }) (placeAddr p) m

/-- What a read of a row finds, in its tier. -/
def rowFinding (s : State) (a : Nat) (f : Finding) : State :=
  match rowPlace s a, region s a, f with
  | some p, _, _ => placeFinding s p f
  | none, .gddr, _ => channelFinding s (channelOf s a).1 a f
  | none, .cxl, .uncorrectable m => addPoison s a m
  | _, _, _ => s

/-- A correction in transit counts against its link (R95). -/
def transitCount (s : State) (t : Transit) : State :=
  match t.finding with
  | .corrected =>
    { s with ms := { s.ms with linkCorrected := Tab.set 0 s.ms.linkCorrected t.link (countErr (Tab.get 0 s.ms.linkCorrected t.link)) } }
  | _ => s

/-- The sectors of a row in flight that an error in transit poisons (R96). -/
def transitPoison (t : Transit) : BitVec 16 :=
  match t.finding with
  | .uncorrectable m => m
  | _ => 0

/-- A scrub meets the poisoned sectors of a row: each is counted and stays poisoned (R97). -/
def scrubMeets (s : State) (k a : Nat) : State :=
  let n := ((List.range 16).filter fun i => bit (poisonMask s.ms.poison a) i).length
  { s with bg := { s.bg with met := Tab.set 0 s.bg.met k ((List.range n).foldl (fun x _ => countErr x) (Tab.get 0 s.bg.met k)) } }

end Sys2Proof.Machine
end

