-- ==== Sys2Proof/Machine/Engines.lean ====
section
/-!
DEFINITION. Memory-side engines (R267 to R275), and chip-memory banks with their gating and queues (R103 to R106).
-/
namespace Sys2Proof.Machine

/-- claim of R185: the new word and the value returned. -/
def claim (word d limit : Nat) : Nat × Nat :=
  if limit ≤ word then (word, 0xFFFFFFFF) else (min (word + d) limit, word)

/-! ### Bucket slots (R270, R271) -/

namespace SL
def armed (v : BitVec 256) : Bool := bit v 0
def complete (v : BitVec 256) : Bool := bit v 1
def wb (v : BitVec 256) : Bool := bit v 2
def nf (v : BitVec 256) : Bool := bit v 3
def collective (v : BitVec 256) : Nat := fld v 16 16
def bucket (v : BitVec 256) : Nat := fld v 32 32
def gen (v : BitVec 256) : Nat := fld v 64 16
def epoch (v : BitVec 256) : Nat := fld v 80 8
def ctx (v : BitVec 256) : Nat := fld v 88 8
def expected (v : BitVec 256) : Nat := fld v 96 25
def count (v : BitVec 256) : Nat := fld v 128 25
def notice (v : BitVec 256) : Half := BitVec.ofNat 16 (fld v 160 16)
def noticeWord (v : BitVec 256) : Nat := fld v 176 32
def update (v : BitVec 256) : Half := BitVec.ofNat 16 (fld v 208 16)
def updateRow (v : BitVec 256) : Nat := fld v 224 32
end SL

/-- Fields of the gradient header (R326). -/
structure GradHdr where
  coll : Nat
  bucket : Nat
  gen : Nat
  epoch : Nat
  deriving DecidableEq, Repr

def gradHdr (h : BitVec 128) : GradHdr := ⟨fld h 0 16, fld h 16 32, fld h 48 16, fld h 64 8⟩

/-- Results of R271 as DETAIL of R295; 6 stands for a poisoned target (R295 STATUS 9). -/
abbrev accOk : Nat := 0
abbrev accOver : Nat := 1
abbrev accStale : Nat := 2
abbrev accAhead : Nat := 3
abbrev accEpoch : Nat := 4
abbrev accNotArmed : Nat := 5
abbrev accPoisoned : Nat := 6

/-- Engine slots by number. -/
def Engine.slot (e : Engine) (i : Nat) : BitVec 256 := Tab.get 0 e.slots i
def Engine.setSlot (e : Engine) (i : Nat) (v : BitVec 256) : Engine := { e with slots := Tab.set 0 e.slots i v }

/-- The armed slot of a collective and bucket; the one of the header's epoch where several are armed. -/
def Engine.findSlot (e : Engine) (h : GradHdr) : Option Nat :=
  let m := fun (p : Nat × BitVec 256) => SL.armed p.2 && SL.collective p.2 == h.coll && SL.bucket p.2 == h.bucket
  match e.slots.find? fun p => m p && SL.epoch p.2 == h.epoch with
  | some p => some p.1
  | none => (e.slots.find? m).map (·.1)

/-- The result of R271 for n blocks as one unit (R327). -/
def matchSlot (v : BitVec 256) (h : GradHdr) (n : Nat) : Nat :=
  if SL.epoch v ≠ h.epoch then accEpoch
  else if h.gen = SL.gen v then
    if SL.complete v = true ∨ SL.expected v < SL.count v + n then accOver else accOk
  else if serLater 16 h.gen (SL.gen v) then accAhead
  else accStale

/-! ### Words and blocks at their rows -/

/-- A 32-bit word of a row rewritten, its poison kept. -/
def wordPut (s : State) (a w : Nat) (x : Word) : State :=
  match rawRead s a with
  | .ok (r, p) => rawPut s a (Mem.setWord r w x) p
  | .error _ => s

/-- FADD32 on an awake row: the value returned, none where the word's sector is poisoned (R97). -/
def faddAt (s : State) (a w : Nat) (d limit : Nat) : Option Nat × State :=
  match rawRead s a with
  | .ok (r, p) =>
    if bit p (w / 8) then (none, s)
    else
      let (x, v) := claim (Mem.rowWord r w).toNat d limit
      (some v, rawPut s a (Mem.setWord r w (BitVec.ofNat 32 x)) p)
  | .error _ => (none, s)

/-- Chip-memory bank of an address, if it has one. -/
def chipBank (s : State) (a : Nat) : Option Nat :=
  match region s a with
  | .chip => some (bankOf a)
  | _ => none

/-- A gate or wake request of a hinge has taken effect at a bank (R106). -/
def requestDone (s : State) (b : Nat) : State :=
  { s with grid := { s.grid with waiting := s.grid.waiting.filter fun x => x != b } }

/-- The bank is gated: its contents are lost (R104). -/
def gateBank (s : State) (b : Nat) : State :=
  let base := chipBase + b * 0x80000
  let s := requestDone (s.setBank b { s.bank b with power := .gated }) b
  { s with ms := { s.ms with
      mem := Mem.clear s.ms.mem base 0x80000,
      poison := s.ms.poison.filter fun k => !(decide (base ≤ k * 32) && decide (k * 32 < base + 0x80000)) } }

/-- A late write reaches a gated bank: it starts to wake and LATE_WAKE counts it (R105). -/
def lateWake (s : State) (b : Nat) (q : List BankReq) : State :=
  s.setBank b { s.bank b with power := .waking, lateWake := countErr (s.bank b).lateWake, queue := q }

/-- Claims that a sealed replay makes on the ready word of a bucket are counted, for the sender to leave out (R443); READY_HANDLE is
bits [143:128] of the descriptor (R315). -/
def replayClaim (s : State) (a w n : Nat) : State :=
  if !s.grid.replay then s
  else
    { s with colls := s.colls.map fun x =>
        let h : Half := BitVec.ofNat 16 (fld x.2.desc 128 16)
        (x.1, { x.2 with buckets := x.2.buckets.map fun b =>
          if b.1 % 128 = w ∧ devRowAddr (s.devEntry h) (b.1 / 128) = a then (b.1, { b.2 with ignored := b.2.ignored + n }) else b }) }

/-- What a word of memory holds. -/
def wordAt (s : State) (a w : Nat) : Nat := (Mem.rowWord (Mem.row s.ms.mem a) w).toNat

/-- A fault of the context that issued a request, where one did. -/
def faultIssuer (s : State) (c : Option CtxId) (st : Half) (a : Nat) (aux : Nat := 0) : State :=
  match c with
  | some c => raiseFault s (some c) st { index := a / 512, aux := aux }
  | none => s

/-- A notice's FADD32: a poisoned word faults the context that armed the slot (R97, R272). -/
def noticeServe (s : State) (c : Option CtxId) (a w addend : Nat) : State :=
  match faddAt s a w addend 0xFFFFFFFE with
  | (some _, s) => s
  | (none, s) => faultIssuer s c St.poisonConsumed a (w / 8)

/-- The completion notice of R272 on its word: served when the bank is awake, else it waits in the bank's queue. -/
def noticeAt (s : State) (c : Option CtxId) (a w : Nat) (addend : Nat) : State :=
  match chipBank s a with
  | none => noticeServe s c a w addend
  | some b =>
    let q := BankReq.notice c (BitVec.ofNat 52 a) w (BitVec.ofNat 32 addend)
    match (s.bank b).power with
    | .awake => noticeServe s c a w addend
    | .gated => lateWake s b [q]
    | .waking => s.setBank b { s.bank b with queue := (s.bank b).queue ++ [q] }

/-- Send the completion notice of a slot (R272). -/
def slotNotice (s : State) (v : BitVec 256) : State :=
  let e := s.devEntry (SL.notice v)
  let w := SL.noticeWord v
  noticeAt s (some (Fin.ofNat 8 (SL.ctx v))) (devRowAddr e (w / 128)) (w % 128) (if SL.wb v || SL.nf v then 0x10001 else 1)

/-- Contributions counted: COUNT rises, WB and NF are ORed, and at EXPECTED the slot is complete: a clean slot with a
program waits for it, every other sends its notice (R271, R272). -/
def countSlot (s : State) (e i : Nat) (n : Nat) (wb nf : Bool) : State :=
  let v := (s.engine e).slot i
  let v := put v 128 25 (SL.count v + n)
  let v := put v 2 2 (b2n (SL.wb v || wb) + 2 * b2n (SL.nf v || nf))
  if SL.count v = SL.expected v then
    let v := put v 1 1 1
    let s := s.setEngine e ((s.engine e).setSlot i v)
    if SL.update v ≠ 0 ∧ SL.wb v = false ∧ SL.nf v = false then
      s.setEngine e { s.engine e with updateQ := (s.engine e).updateQ ++ [i] }
    else slotNotice s v
  else s.setEngine e ((s.engine e).setSlot i v)

/-- Add one block into the accumulated block at an address (R269). -/
def addBlock (s : State) (e a : Nat) (b : BitVec 3104) : State :=
  match rawRead s a, rawRead s (a + 512) with
  | .ok (lo, p), .ok (hi, q) =>
    let (x, mis) := accumulate24 (twoRows lo hi) b
    let s := rawPut (rawPut s a (lowRow x) p) (a + 512) (highRow x) q
    if mis then s.setEngine e { s.engine e with scaleMismatch := countErr (s.engine e).scaleMismatch } else s
  | _, _ => s

/-- A block staged against another scale than that of the accumulated block at an address (R269). -/
def blockMismatch (s : State) (a : Nat) (b : BitVec 3104) : Bool :=
  match rawRead s a, rawRead s (a + 512) with
  | .ok (lo, _), .ok (hi, _) => (accumulate24 (twoRows lo hi) b).2
  | _, _ => false

/-- A sector of the block at an address is poisoned. -/
def blockPoisoned (s : State) (a : Nat) : Bool :=
  match rawRead s a, rawRead s (a + 512) with
  | .ok (_, p), .ok (_, q) => p != 0 || q != 0
  | _, _ => true

/-- ACC_SI24 of blocks at addresses on one awake engine, matched as one unit (R271, R327): the result and the state. A
mismatched block counts as a broken ward of the slot (R269, R336). -/
def accServe (s : State) (e : Nat) (h : GradHdr) (bs : List (Nat × BitVec 3104)) : Nat × State :=
  let g := s.engine e
  match g.findSlot h with
  | none => (accNotArmed, s)
  | some i =>
    let res := matchSlot (g.slot i) h bs.length
    if res = accOver then (res, s.setEngine e { g with overCount := countErr g.overCount })
    else if res = accStale then (res, s.setEngine e { g with stale := g.stale + BitVec.ofNat 64 bs.length })
    else if res ≠ accOk then (res, s)
    else if bs.any fun b => blockPoisoned s b.1 then (accPoisoned, s)
    else
      let t := bs.foldl (fun t b => addBlock t e b.1 b.2) s
      (accOk, countSlot t e i bs.length (bs.any fun b => blockMismatch s b.1 b.2 || (si24Word b.2).testBit 16)
        (bs.any fun b => (si24Word b.2).testBit 17))

/-! ### Bank queues (R104, R105) -/

def State.answer (s : State) (o : MeshOut) : State := { s with ms := { s.ms with out := s.ms.out ++ [o] } }

def fw (a : Nat) : BitVec 52 := BitVec.ofNat 52 a

/-- The row and the first poisoned sector of the block at an address (R97). -/
def blockSector (s : State) (a : Nat) : Nat × Nat :=
  match rawRead s a, rawRead s (a + 512) with
  | .ok (_, p), .ok (_, q) =>
    if p ≠ 0 then (a, firstSector p) else (a + 512, firstSector q)
  | _, _ => (a, 0)

/-- Serve one request at an engine: poison that it consumes faults the issuer (R97). -/
def serveReq (s : State) (b : Nat) (r : BankReq) : State :=
  match r with
  | .read _ a f t =>
    let s := transitCount (rowFinding s a.toNat f) t
    match rawRead s a.toNat with
    | .ok (x, p) => (countCxlPoison s a.toNat p).answer (.row a x (p ||| transitPoison t))
    | .error f => s.answer (.failed a f)
  | .write _ a x p t => (rawPut (transitCount s t) a.toNat x (p ||| transitPoison t)).answer (.acked a)
  | .acc c a h x =>
    let (res, s) := accServe s b (gradHdr h) [(a.toNat, x)]
    let s := if res = accPoisoned then (let q := blockSector s a.toNat
                                        faultIssuer s c St.poisonConsumed q.1 q.2) else s
    s.answer (.accResult a (BitVec.ofNat 8 res))
  | .fadd c a d l =>
    match faddAt s (a.toNat / 512 * 512) (a.toNat % 512 / 4) d.toNat l.toNat with
    | (some v, t) =>
      let n := wordAt t (a.toNat / 512 * 512) (a.toNat % 512 / 4) - wordAt s (a.toNat / 512 * 512) (a.toNat % 512 / 4)
      (if c.isSome ∧ c = s.grid.ctx then replayClaim t (a.toNat / 512 * 512) (a.toNat % 512 / 4) n else t).answer
        (.value a (BitVec.ofNat 32 v))
    | (none, s) => (faultIssuer s c St.poisonConsumed a.toNat (a.toNat % 512 / 32)).answer (.failed a St.poisonConsumed)
  | .word a x => (wordPut s (a.toNat / 512 * 512) (a.toNat % 512 / 4) x).answer (.acked a)
  | .notice c a w d => noticeServe s c a.toNat w d.toNat
  | .gate => gateBank s b

/-- Serve a queue in arrival order until it is empty or a write finds the bank gated behind a gate request. -/
def serveQueue (b : Nat) : List BankReq → State → State
  | [], s => s.setBank b { s.bank b with queue := [] }
  | r :: t, s =>
    if (s.bank b).power = .gated then
      match r with
      | .read c a _ _ => serveQueue b t ((faultIssuer s c St.bankGatedRead a.toNat).answer (.failed a St.bankGatedRead))
      | .gate => serveQueue b t s
      | _ => lateWake s b (r :: t)
    else serveQueue b t (serveReq s b r)

/-- The wake ends: the bank is awake and serves what waits (R105). -/
def wakeDone (s : State) (b : Nat) : State :=
  let x := s.bank b
  match x.power with
  | .waking =>
    let s := s.setBank b { x with power := .awake, queue := [] }
    serveQueue b x.queue (if x.queue.any (fun r => r == .gate) then s else requestDone s b)
  | _ => s

/-- An awake bank serves what its queue holds up to the gate request that waits in it (R104). -/
def gateDone (s : State) (b : Nat) : State :=
  let x := s.bank b
  match x.power with
  | .awake => serveQueue b x.queue (s.setBank b { x with queue := [] })
  | _ => s

/-- A request of another unit reaches a bank: it is served after those that wait (R104, R105; log 16). -/
def settleBank (s : State) (b : Nat) : State :=
  (List.range ((s.bank b).queue.length + 1)).foldl (fun t _ => wakeDone (gateDone t b) b) s

/-- A request of another unit reaches a bank: whether it can be served, gated banks waking for a write (R105). -/
def reachBank (s : State) (a : Nat) (write : Bool) : Bool × State :=
  match chipBank s a with
  | none => (true, s)
  | some b =>
    let s := settleBank s b
    if (s.bank b).power = .gated then
      if write then
        let s := lateWake s b []
        (true, s.setBank b { s.bank b with power := .awake })
      else (false, s)
    else (true, s)

/-! ### Rows as other units reach them -/

/-- A row read for a context: a gated bank faults it (R105). -/
def readRow (s : State) (a : Nat) : Except Half (Row × BitVec 16) × State :=
  let (ok, s) := reachBank s a false
  if ok then
    match rawRead s a with
    | .ok (r, p) => (.ok (r, p), countCxlPoison s a p)
    | .error f => (.error f, s)
  else (.error St.bankGatedRead, s)

/-- A row write. -/
def writeRow (s : State) (a : Nat) (r : Row) (p : BitVec 16) : Except Half Unit × State :=
  let (_, s) := reachBank s a true
  match rawWrite s a r p with
  | .ok s' => (.ok (), s')
  | .error f => (.error f, s)

/-- A row at a CXL port that is down: no access to it is served (R265). -/
def rowDown (s : State) (a : Nat) : Bool := region s a == .cxl && (s.cxlPort (cxlPortOf s a)).down

/-- A row read by firmware on its own behalf: zeros from a gated bank; a bank that wakes or holds requests answers with what it
holds once it has served those; a port that is down delivers nothing (R265); elsewhere what memory holds (R105; log 19). -/
def fwRead (s : State) (a : Nat) : Row :=
  match chipBank s a with
  | some b =>
    let s := settleBank s b
    if (s.bank b).power = .gated then 0 else Mem.row s.ms.mem a
  | none => if rowDown s a then 0 else Mem.row s.ms.mem a

/-- The poison of a row as firmware reads it. -/
def fwPoison (s : State) (a : Nat) : BitVec 16 :=
  match chipBank s a with
  | some b =>
    let s := settleBank s b
    if (s.bank b).power = .gated then 0 else poisonMask s.ms.poison a
  | none =>
    match rawRead s a with
    | .ok (_, p) => p
    | .error _ => 0

/-- A whole row write by firmware. -/
def fwWrite (s : State) (a : Nat) (r : Row) : State := (writeRow s a r 0).2

/-- Firmware changes part of a row: the row is read, changed and written, its poison kept (R71, R96). -/
def fwModify (s : State) (a : Nat) (f : Row → Row) : State := (writeRow s a (f (fwRead s a)) (fwPoison s a)).2

/-- A row write for a context: a port that is down faults it (R265). -/
def ctxWrite (s : State) (c : CtxId) (a : Nat) (r : Row) : State :=
  match writeRow s a r 0 with
  | (.ok _, s) => s
  | (.error f, s) => faultIssuer s (some c) f a

/-- Firmware changes part of a row for a context. -/
def ctxModify (s : State) (c : CtxId) (a : Nat) (f : Row → Row) : State :=
  match writeRow s a (f (fwRead s a)) (fwPoison s a) with
  | (.ok _, s) => s
  | (.error f, s) => faultIssuer s (some c) f a

/-- A word of a device entry as firmware reads it. -/
def fwWord (s : State) (h : Half) (w : Nat) : Word := Mem.rowWord (fwRead s (devRowAddr (s.devEntry h) (w / 128))) (w % 128)

/-- WORD_WRITE of firmware or the section sequencer (R267, R274). -/
def wordWrite (s : State) (a w : Nat) (x : Word) : State := wordPut (reachBank s a true).2 a w x

/-- FADD32 for a requester: the value, or none at a poisoned word; the engine leaves a CXL or core row alone (R266). -/
def faddRow (s : State) (a w d limit : Nat) : Option Nat × State := faddAt (reachBank s a true).2 a w d limit

/-- FADD32 of a core's claim (R185, R443). -/
def claimRow (s : State) (a w d limit : Nat) : Option Nat × State :=
  let (v, t) := faddRow s a w d limit
  (v, replayClaim t a w (wordAt t a w - wordAt s a w))

/-- ACC_SI24 for a requester. -/
def accRow (s : State) (h : GradHdr) (bs : List (Nat × BitVec 3104)) : Nat × State :=
  match bs with
  | [] => (accOk, s)
  | (a, _) :: _ =>
    match engineOf s a with
    | none => (accNotArmed, s)
    | some e => accServe (reachBank s a true).2 e h bs

end Sys2Proof.Machine
end

