-- ==== Sys2Proof/Machine/Access.lean ====
section
/-!
DEFINITION. The access check of R92 and the row accesses built on it (R93, R94, R97, R233, R442).
-/
namespace Sys2Proof.Machine

/-- Capture what a handle names, for a core or for a command (R81, R92). -/
def capture (s : State) (core : Option CoreId) (h : Half) : Cap :=
  if kr h then ⟨h, none, 0, s.key (hIndex h)⟩
  else
    match core with
    | some c =>
      if hIndex h < 64 then ⟨h, some c, Tab.get 0 (s.core c).keys (hIndex h), Tab.get 0 (s.core c).parents (hIndex h)⟩
      else ⟨h, some c, 0, 0⟩
    | none => ⟨h, none, 0, 0⟩

namespace Cap
def dev (k : Cap) : Bool := kr k.handle
def isLocal (k : Cap) : Bool := !k.dev && CE.isLocal k.key
/-- Check 1. -/
def valid (k : Cap) : Bool := if k.dev then DE.valid k.parent else CE.valid k.key && (CE.isLocal k.key || DE.valid k.parent)
/-- Check 2. -/
def ctxOk (k : Cap) (c : Option CtxId) : Bool := k.isLocal || c.all (DE.ctxOk k.parent)
/-- Check 3. -/
def permOk (k : Cap) (p : Nat) : Bool :=
  if k.dev then DE.perm k.parent p else CE.perm k.key p && (k.isLocal || DE.perm k.parent p)
def format (k : Cap) : Nat := if k.dev then DE.format k.parent else CE.format k.key
/-- The formats that check 4 compares. -/
def formats (k : Cap) : List Nat :=
  if k.dev then [DE.format k.parent] else if k.isLocal then [CE.format k.key] else [CE.format k.key, DE.format k.parent]
/-- Check 4 for a declared format. -/
def fmtOk (k : Cap) (f : Option Nat) : Bool := f.all fun x => k.formats.all fun y => y == x || y == 0
/-- Check 4 for a row copy. -/
def copyOk (a b : Cap) : Bool := a.formats.all fun x => b.formats.all fun y => x == y || x == 0 || y == 0
def scale (k : Cap) : Half := if k.dev then DE.scale k.parent else CE.scale k.key
/-- TIER of the entry: core memory for a LOCAL one. -/
def tier (k : Cap) : Nat := if k.isLocal then 0 else DE.tier k.parent
/-- Device entry that the access uses (R442). -/
def devIndex (k : Cap) : Option Nat := if k.dev then some (hIndex k.handle) else if k.isLocal then none else some (CE.parent k.key)
/-- Rows of the entry. -/
def rows (k : Cap) : Nat := if k.dev then DE.rows k.parent else CE.rows k.key
/-- Address of entry row j; none outside (check 5, R84, R90). -/
def addr (k : Cap) (j : Nat) : Option Nat :=
  if k.dev then (if j < DE.rows k.parent then some (devRowAddr k.parent j) else none)
  else if CE.rows k.key ≤ j then none
  else if k.isLocal then
    (if CE.offset k.key + j ≤ 3071 then k.core.map fun c => coreRowAddr c.val (CE.offset k.key + j) else none)
  else if CE.offset k.key + j < DE.rows k.parent then some (devRowAddr k.parent (CE.offset k.key + j))
  else none
end Cap

/-- Checks 1 to 4 of R92 for a permission and a declared format; none when they pass. -/
def Cap.refuse (k : Cap) (c : Option CtxId) (p : Nat) (f : Option Nat) : Option Half :=
  if !k.valid then some St.keyInvalid
  else if !k.ctxOk c then some St.keyAccessDenied
  else if !k.permOk p then some St.keyAccessDenied
  else if !k.fmtOk f then some St.keyFormatMismatch
  else none

/-! ### Accesses that wait (R363, R396) -/

/-- Device entries into which a group is gathering, or behind the DST_WINDOW of an exchange entry some of whose rows have not committed. -/
def waitEntries (s : State) : List Nat :=
  s.ctxs.flatMap fun x =>
    match x.2.run with
    | none => []
    | some r =>
      (r.gathers.filterMap fun g => if g.complete then none else some (hIndex g.dst)) ++
      (r.exchs.filterMap fun e => if e.settled then none else some (hIndex (s.window (fld e.entry 128 12)).handle))

/-- An access through a captured entry waits; not in a sealed replay (R443). -/
def capWaits (s : State) (k : Cap) : Bool :=
  !s.grid.replay && k.devIndex.any fun i => (waitEntries s).contains i

/-- Mark the device entry of an access in its run's sets (R442). -/
def markSeen (s : State) (c : Option CtxId) (k : Cap) (p : Nat) : State :=
  match c, k.devIndex with
  | some c, some i =>
    let x := s.ctx c
    match x.run with
    | some r =>
      let r := if p = pRD then { r with rdSeen := insertSorted i r.rdSeen } else { r with wrSeen := insertSorted i r.wrSeen }
      s.setCtx c { x with run := some r }
    | none => s
  | _, _ => s

/-- Rows of a core's memory that hold its running configuration or a preload (R233, R234). -/
def configRow (s : State) (a : Nat) : Bool :=
  match region s a with
  | .coreMem =>
    let i := (a - coreBase) / 0x200000
    let n := (a - coreBase) % 0x200000 / 512
    let k := Tab.get {} s.cores i
    (s.grid.phase == .running || s.grid.phase == .draining) &&
      ((decide (k.loadRow ≤ n) && decide (n < k.loadRow + k.imgRows)) ||
        (decide (k.preRow ≤ n) && decide (n < k.preRow + k.preRows)))
  | _ => false

/-- The row at an entry row, poison kept (check 5 and the tier). -/
def readAt (s : State) (k : Cap) (j : Nat) : Except Flt (Row × BitVec 16) × State :=
  match k.addr j with
  | none => (.error ⟨St.keyOutOfBounds, { handle := k.handle, index := j }⟩, s)
  | some a =>
    match readRow s a with
    | (.ok x, s) => (.ok x, s)
    | (.error f, s) => (.error ⟨f, { handle := k.handle, index := j }⟩, s)

/-- The row at an entry row, for a unit that consumes it: poison faults it (R97). -/
def consumeAt (s : State) (k : Cap) (j : Nat) : Except Flt Row × State :=
  match readAt s k j with
  | (.ok (r, p), s) =>
    if p = 0 then (.ok r, s)
    else (.error ⟨St.poisonConsumed, { handle := k.handle, index := j, aux := firstSector p }⟩, s)
  | (.error f, s) => (.error f, s)

/-- What keeps row j of an entry from being written: check 5, or a configuration row (R92, R233). -/
def writeFault (s : State) (k : Cap) (j : Nat) : Option Flt :=
  match k.addr j with
  | none => some ⟨St.keyOutOfBounds, { handle := k.handle, index := j }⟩
  | some a => if configRow s a then some ⟨St.configOverwrite, { handle := k.handle, index := j }⟩ else none

/-- Write an entry row: check 5, the configuration rows (R233) and the tier. -/
def writeAt (s : State) (k : Cap) (j : Nat) (r : Row) (p : BitVec 16) : Except Flt Unit × State :=
  match k.addr j with
  | none => (.error ⟨St.keyOutOfBounds, { handle := k.handle, index := j }⟩, s)
  | some a =>
    if configRow s a then (.error ⟨St.configOverwrite, { handle := k.handle, index := j }⟩, s)
    else
      match writeRow s a r p with
      | (.ok _, s) => (.ok (), s)
      | (.error f, s) => (.error ⟨f, { handle := k.handle, index := j }⟩, s)

/-- Begin an access: checks 1 to 4 and the marks. -/
def begin' (s : State) (c : Option CtxId) (k : Cap) (p : Nat) (f : Option Nat) : Option Flt × State :=
  match k.refuse c p f with
  | some st => (some ⟨st, { handle := k.handle }⟩, s)
  | none => (none, markSeen s c k p)

/-- Consume n rows from entry row o in ascending order: those read, and the fault that ended it (R93). -/
def consumeRows (k : Cap) : Nat → Nat → State → List Row × Option Flt × State
  | _, 0, s => ([], none, s)
  | o, n + 1, s =>
    match consumeAt s k o with
    | (.ok r, s) =>
      let (rs, f, s) := consumeRows k (o + 1) n s
      (r :: rs, f, s)
    | (.error f, s) => ([], some f, s)

/-- Consume rows through a whole access (R92, R93, R97). -/
def accessRead (s : State) (c : Option CtxId) (k : Cap) (f : Option Nat) (o n : Nat) : List Row × Option Flt × State :=
  if n = 0 then ([], none, s)
  else
    match begin' s c k pRD f with
    | (some e, s) => ([], some e, s)
    | (none, s) => consumeRows k o n s

/-- Write rows in ascending order; those before a fault land (R93). -/
def putRows (k : Cap) : Nat → List (Row × BitVec 16) → State → Option Flt × State
  | _, [], s => (none, s)
  | o, (r, p) :: t, s =>
    match writeAt s k o r p with
    | (.ok _, s) => putRows k (o + 1) t s
    | (.error f, s) => (some f, s)

/-- Write rows through a whole access. -/
def accessWrite (s : State) (c : Option CtxId) (k : Cap) (f : Option Nat) (o : Nat) (rs : List (Row × BitVec 16)) :
    Option Flt × State :=
  if rs.isEmpty then (none, s)
  else
    match begin' s c k pWR f with
    | (some e, s) => (some e, s)
    | (none, s) => putRows k o rs s

/-! ### Scale bytes (R94) -/

/-- Bytes lo to lo + n − 1 of an entry, consumed. -/
def readBytes (s : State) (c : Option CtxId) (k : Cap) (f : Option Nat) (lo n : Nat) : Except Flt (List Byte) × State :=
  let r0 := lo / 512
  match accessRead s c k f r0 (if n = 0 then 0 else (lo + n - 1) / 512 - r0 + 1) with
  | (rs, none, s) => (.ok (((rs.flatMap fun r => toBytes r 512).drop (lo % 512)).take n), s)
  | (_, some e, s) => (.error e, s)

/-- A row with bytes from lo replaced. -/
def patchRow (r : Row) (lo : Nat) (bs : List Byte) : Row := put r (8 * lo) (8 * bs.length) (ofBytes bs)

/-- Write bytes into an entry's rows: whole rows are read, patched and written, their poison kept (R71, R96). -/
def writeBytesFrom (k : Cap) : Nat → Nat → List Byte → State → Option Flt × State
  | 0, _, _, s => (none, s)
  | fuel + 1, lo, bs, s =>
    match bs with
    | [] => (none, s)
    | _ =>
      let m := min bs.length (512 - lo % 512)
      match readAt s k (lo / 512) with
      | (.error f, s) => (some f, s)
      | (.ok (r, p), s) =>
        match writeAt s k (lo / 512) (patchRow r (lo % 512) (bs.take m)) p with
        | (.error f, s) => (some f, s)
        | (.ok _, s) => writeBytesFrom k fuel (lo + m) (bs.drop m) s

def writeBytes (s : State) (c : Option CtxId) (k : Cap) (lo : Nat) (bs : List Byte) : Option Flt × State :=
  if bs.isEmpty then (none, s)
  else
    match begin' s c k pWR none with
    | (some e, s) => (some e, s)
    | (none, s) => writeBytesFrom k (bs.length / 512 + 2) lo bs s

/-- The entry that holds the scales of an MX entry (R94). -/
def scaleCap (s : State) (k : Cap) (core : Option CoreId) : Cap := capture s core k.scale

/-- Raise the fault of a failed access for a context. -/
def faultCtx (s : State) (c : Option CtxId) (f : Flt) : State := raiseFault s c f.status f.info

/-- Raise it for a core, with the word that met it (R515). -/
def faultCore (s : State) (c : CoreId) (word : BitVec 128) (f : Flt) : State :=
  raiseFault s s.grid.ctx f.status { f.info with core := some c, word := word }

end Sys2Proof.Machine
end

