-- ==== Sys2Proof/Machine/Flags.lean ====
section
/-!
DEFINITION. The arithmetic flags: lane and column flag words and the core's summary (R67 to R69, R159, R160).
-/
namespace Sys2Proof.Machine

/-- Raise flags in one lane; every event also reaches the summary (R69). -/
def raiseLane (k : Core) (lane fl : Nat) : Core :=
  let f : Byte := BitVec.ofNat 8 (fl % 128)
  if f = 0 then k
  else { k with laneFlags := Tab.set 0 k.laneFlags lane (Tab.get 0 k.laneFlags lane ||| f), summary := k.summary ||| f }

/-- Raise flags in one array column. -/
def raiseCol (k : Core) (col fl : Nat) : Core :=
  let f : Byte := BitVec.ofNat 8 (fl % 128)
  if f = 0 then k
  else { k with colFlags := Tab.set 0 k.colFlags col (Tab.get 0 k.colFlags col ||| f), summary := k.summary ||| f }

/-- Raise the flags of each lane in turn. -/
def raiseLanes (k : Core) (fls : List Nat) : Core :=
  (fls.zipIdx).foldl (fun k p => raiseLane k p.2 p.1) k

/-- VFLAGCLR on one table of flag words: the bits are cleared where the lane is active (R160). -/
def clearFlags (t : Tab Byte) (act : List Bool) (bits : Byte) : Tab Byte :=
  (act.zipIdx).foldl (fun t p => if p.1 then Tab.set 0 t p.2 (Tab.get 0 t p.2 &&& ~~~bits) else t) t

end Sys2Proof.Machine
end

