-- ==== Sys2Proof/Machine/Gen.lean ====
section
/-!
DEFINITION. Random generators: the lane generators of R60 to R63 and the keyed draws of R64.
-/
namespace Sys2Proof.Machine

/-- mix64 of R63. -/
def mix64 (z : Dword) : Dword :=
  let z := (z ^^^ (z >>> 30)) * 0xBF58476D1CE4E5B9
  let z := (z ^^^ (z >>> 27)) * 0x94D049BB133111EB
  z ^^^ (z >>> 31)

/-- One step of a generator and its output (R60). -/
def Gen.step (g : Gen) : Gen × Word :=
  let x := g.x ^^^ (g.x <<< 13)
  let x := x ^^^ (x >>> 7)
  let x := x ^^^ (x <<< 17)
  let w := g.w + 0x9E3779B97F4A7C15
  ({ x := x, w := w }, ((x + w) >>> 32).setWidth 32)

/-- The seed of R63 for a generator index and lane. -/
def genSeed (job : Dword) (step : Word) (index lane : Nat) : Gen :=
  let m := (step.setWidth 64 <<< 16) ||| BitVec.ofNat 64 (index <<< 7) ||| BitVec.ofNat 64 lane
  let x := mix64 (job ^^^ m)
  { x := if x = 0 then 1 else x, w := mix64 (job ^^^ m ^^^ 0xFFFFFFFFFFFFFFFF) }

/-- The job seed of the device, 0 while no job is open (R63). -/
def State.jobSeed (s : State) : Dword := (s.job.map (·.seed)).getD 0

/-- The key of R64 in replay mode. -/
def drawKey (job : Dword) (step : Word) (index : Nat) : Dword :=
  mix64 (job ^^^ (step.setWidth 64 <<< 16) ^^^ BitVec.ofNat 64 (index <<< 7))

/-- The draw of R64 at a bit address. -/
def drawAt (k : Dword) (bitAddr : Nat) : Nat := (mix64 (k ^^^ BitVec.ofNat 64 bitAddr) >>> 48).toNat

/-- One step of a lane's generator: the seeded one in replay mode, a free value in free-running mode, whose seed and
number of elapsed cycles are not visible (R62, R63; log 6). -/
def laneStep (c : CoreId) (lane : Nat) (s : State) : Word × State :=
  let k := s.core c
  if k.replayMode then
    let (g, o) := (Tab.get {} k.gens lane).step
    (o, s.setCore c { k with gens := Tab.set {} k.gens lane g })
  else s.fresh 32

end Sys2Proof.Machine
end

