-- ==== Sys2Proof/Machine/Operands.lean ====
section
/-!
DEFINITION. Operand forms of vector instructions: the fields of R140, the source kinds of R141 to R143, masks (R138) and
destinations; and where an entry lies in a core's own memory (R116 check 5).
-/
namespace Sys2Proof.Machine

/-- A vector instruction's fields (R140). -/
structure VIns where
  word : BitVec 64
  op : Nat
  dst : Nat
  dk : Bool
  src1 : Nat
  k1 : Nat
  src2 : Nat
  k2 : Nat
  mreg : Nat
  men : Bool
  fmt : Nat
  stoch : Bool
  sat : Bool
  deriving DecidableEq, Repr

def vdecode (w : BitVec 64) : VIns :=
  { word := w, op := fld w 0 8, dst := fld w 8 9, dk := bit w 17, src1 := fld w 18 16, k1 := fld w 34 2,
    src2 := fld w 36 16, k2 := fld w 52 2, mreg := fld w 54 3, men := bit w 57, fmt := fld w 58 3,
    stoch := bit w 61, sat := bit w 62 }

def VIns.dreg (i : VIns) : Nat := i.dst % 64

/-- The lanes of a register or accumulator entry, in order (R137). -/
def lanesOf (r : Row) : List Nat := (List.range 128).map fun i => fld r (32 * i) 32

/-- A row from its 128 lane words. -/
def rowOfLanes (l : List Nat) : Row :=
  BitVec.ofNat 4096 ((l.zipIdx).foldl (fun a p => a ||| ((p.1 % 2 ^ 32) <<< (32 * p.2))) 0)

def Core.vreg (k : Core) (r : Nat) : Row := Tab.get 0 k.vregs r
def Core.setVreg (k : Core) (r : Nat) (x : Row) : Core := { k with vregs := Tab.set 0 k.vregs r x }
def Core.maskReg (k : Core) (r : Nat) : BitVec 128 := Tab.get 0 k.masks r
def Core.accEntry (k : Core) (e : Nat) : Row := Tab.get 0 k.acc e
def Core.setAcc (k : Core) (e : Nat) (x : Row) : Core := { k with acc := Tab.set 0 k.acc e x }
/-- Lane of a register. -/
def Core.lane (k : Core) (r l : Nat) : Nat := fld (k.vreg r) (32 * l) 32
/-- A register with one lane written. -/
def Core.setLane (k : Core) (r l x : Nat) : Core := k.setVreg r (put (k.vreg r) (32 * l) 32 x)

/-- Which lanes are active (R138). -/
def activeLanes (k : Core) (i : VIns) : List Bool :=
  (List.range 128).map fun l => !i.men || bit (k.maskReg i.mreg) l

/-- The lane word of an immediate (R142). -/
def immWord (fmt x : Nat) : Nat :=
  match fmt with
  | 0 => x <<< 16
  | 2 => wrap 32 (signed 16 x)
  | 4 => x % 256 * 0x01010101
  | _ => x ||| (x <<< 16)

/-- The format that a broadcast declares (R142). -/
def laneCode (fmt : Nat) : Nat :=
  match fmt with
  | 0 => 0x01
  | 1 => 0x03
  | 2 => 0x0C
  | 3 => 0x0D
  | _ => 0x0E

/-- The entry lies in this core's own memory: LOCAL, or core memory within the core's window (R116 check 5; a device
handle by its own entry, log 20). -/
def ownEntry (c : CoreId) (k : Cap) : Bool :=
  k.isLocal || (DE.tier k.parent == 0 && decide (coreRowAddr c.val 0 ≤ DE.base k.parent) &&
    decide (DE.base k.parent < coreRowAddr c.val 3072))

/-- The lanes that a source supplies, and the state after a core-memory broadcast (R141 to R143). -/
def source (s : State) (c : CoreId) (i : VIns) (kind f : Nat) : Except Flt (List Nat) × State :=
  let k := s.core c
  match kind with
  | 0 => (.ok (lanesOf (k.vreg (f % 64))), s)
  | 1 => (.ok (lanesOf (k.accEntry (f % 512))), s)
  | 2 =>
    if f.testBit 15 then
      let cap := capture s (some c) (BitVec.ofNat 16 (f % 64))
      let w := f / 64 % 512
      if cap.valid && !ownEntry c cap then (.error ⟨St.vectorInstructionInvalid, {}⟩, s)
      else
        match accessRead s s.grid.ctx cap (some (laneCode i.fmt)) (w / 128) 1 with
        | ([r], none, s) => (.ok (List.replicate 128 (Mem.rowWord r (w % 128)).toNat), s)
        | (_, some e, s) => (.error e, s)
        | (_, none, s) => (.ok (List.replicate 128 0), s)
    else (.ok (List.replicate 128 (k.lane (f % 64) (f / 64 % 128))), s)
  | _ => (.ok (List.replicate 128 (immWord i.fmt f)), s)

def source1 (s : State) (c : CoreId) (i : VIns) : Except Flt (List Nat) × State := source s c i i.k1 i.src1
def source2 (s : State) (c : CoreId) (i : VIns) : Except Flt (List Nat) × State := source s c i i.k2 i.src2

/-- The destination as it stands. -/
def destLanes (k : Core) (i : VIns) : List Nat :=
  lanesOf (if i.dk then k.accEntry i.dst else k.vreg i.dreg)

/-- Lanes to write over old ones: absent where a lane is inactive (R138). -/
def mergeLanes (old : List Nat) (new : List (Option Nat)) : Row :=
  rowOfLanes ((old.zip new).map fun p => p.2.getD p.1)

/-- Write the destination. -/
def putDest (k : Core) (i : VIns) (new : List (Option Nat)) : Core :=
  let r := mergeLanes (destLanes k i) new
  if i.dk then k.setAcc i.dst r else k.setVreg i.dreg r

/-- Write bits of a mask register where lanes are active. -/
def putMask (k : Core) (i : VIns) (act : List Bool) (new : List Bool) : Core :=
  let r := i.dst % 8
  let old := k.maskReg r
  let v := ((act.zip new).zipIdx).foldl
    (fun a p => if (if p.1.1 then p.1.2 else bit old p.2) then a ||| (1 <<< p.2) else a) 0
  { k with masks := Tab.set 0 k.masks r (BitVec.ofNat 128 v) }

/-- One generator word for each active lane, where the instruction takes random values (R61, R68). -/
def drawLanes (c : CoreId) (take : Bool) : List (Bool × Nat) → State → List Nat × State
  | [], s => ([], s)
  | (a, l) :: t, s =>
    if take && a then
      let (w, s) := laneStep c l s
      let (ws, s) := drawLanes c take t s
      (w.toNat :: ws, s)
    else
      let (ws, s) := drawLanes c take t s
      (0 :: ws, s)

/-- The rounding of conversion j of a lane from its generator word (R61). -/
def rndOf (stoch : Bool) (w j : Nat) : Rnd := if stoch then .stoch (if j % 2 = 0 then w >>> 16 else w % 2 ^ 16) else .rne

end Sys2Proof.Machine
end

