-- ==== Sys2Proof/Machine/Special.lean ====
section
/-!
DEFINITION. The special functions of R148 and R149.

The manual bounds each result and fixes the exact cases. The model takes the result that Config.specialChoice proposes
where the bound allows it, and otherwise the correctly rounded one (log 10). A bound is decided against a fixed-point value
of the exact result whose error is far below the bound.
-/
namespace Sys2Proof.Machine

/-- Fixed-point bits of the working values. -/
abbrev fixP : Nat := 512

/-- ln 2 × 2^512, rounded down. -/
def ln2Fix : Nat := 0xb17217f7d1cf79abc9e3b39803f2f6af40f343267298b62d8a0d175b8baafa2be7b876206debac98559552fb4afa1b10ed2eae35c138214427573b291169b825

/-- e^u × 2^512 for u < 2^512 as a fraction: the first 100 terms of the series. -/
def expFix (u : Nat) : Nat :=
  ((List.range 100).foldl (fun (p : Nat × Nat) k =>
    let t := (p.2 * u / (k + 1)) >>> fixP
    (p.1 + t, t)) (2 ^ fixP, 2 ^ fixP)).1

/-- Fraction of log₂ m × 2^120 for m × 2^(−512) from 1 up to 2: repeated squaring. -/
def log2Fix (m : Nat) : Nat :=
  ((List.range 120).foldl (fun (p : Nat × Nat) _ =>
    let q := (p.1 * p.1) >>> fixP
    if 2 ^ (fixP + 1) ≤ q then (q >>> 1, 2 * p.2 + 1) else (q, 2 * p.2)) (m, 0)).2

/-- The magnitude of an exact result as m × 2^e. -/
abbrev Mag := Nat × Int

/-- ulps of binary32 at a magnitude, as a power of two: the exponent of one ulp. -/
def ulpExp (v : Mag) : Int := if v.1 = 0 then -149 else max ((v.1.log2 : Int) + v.2) (-126) - 23

/-- |x − y| ≤ 2^k for magnitudes with signs. -/
def withinPow (xs : Bool) (x : Mag) (ys : Bool) (y : Mag) (k : Int) : Bool :=
  let lo := min (min x.2 y.2) k
  let p : Int := (x.1 <<< (x.2 - lo).toNat : Nat)
  let q : Int := (y.1 <<< (y.2 - lo).toNat : Nat)
  let d := (if xs then -p else p) - (if ys then -q else q)
  decide (d.natAbs ≤ 2 ^ (k - lo).toNat)

/-- A binary32 pattern is finite and within 2^k of ±v. -/
def proposalFits (c : Nat) (s : Bool) (v : Mag) (k : Int) : Bool :=
  match fdecode .fp32 c with
  | .fin cs m e => withinPow cs (m, e) s v k
  | _ => false

/-- A magnitude's place among BF16 values: the exponent of one BF16 step there, and the step it lies in. -/
def bf16Step (v : Mag) : Int × Nat :=
  let q := (if v.1 = 0 then -126 else max ((v.1.log2 : Int) + v.2) (-126)) - 7
  (q, shiftZ v.1 (v.2 - q))

/-- The finite pattern c lies in the BF16 step of ±v, ends included, so that either rounding of c to BF16 is within 1 BF16 ulp of ±v
(R148). -/
def sameStep (c : Nat) (s : Bool) (v : Mag) : Bool :=
  match fdecode .fp32 c with
  | .fin cs m e =>
    let (q, k) := bf16Step v
    let lo := min e q
    let x := m <<< (e - lo).toNat
    decide (k <<< (q - lo).toNat ≤ x) && decide (x ≤ (k + 1) <<< (q - lo).toNat) && (cs == s || m == 0)
  | _ => false

/-- A proposal may stand for an input x: a BF16 input, whose result is rounded once more, keeps to its BF16 step (R148). -/
def proposalOk (x : Word) (c : Nat) (s : Bool) (v : Mag) (k : Int) : Bool :=
  proposalFits c s v k && (fld x 0 16 != 0 || sameStep c s v)

/-- The result of a function whose exact value is ±v and whose bound is 2^k: the proposed pattern if it is finite and
within the bound, otherwise the nearest; always inexact, and underflowing in the subnormal range (R148). -/
def specialPick (fn : Nat) (x : Word) (sat : Bool) (s : Bool) (v : Mag) (k : Int) : Nat × Nat :=
  let near := fencode .fp32 .rne sat (.fin s v.1 v.2)
  let c := (Config.specialChoice fn x).toNat
  let b := if proposalOk x c s v k then c else near.1
  let sub := decide (fld (BitVec.ofNat 32 b) 23 8 = 0)
  (b, near.2 &&& Fl.ov ||| Fl.nx ||| (if sub then Fl.uf else 0))

def fpZero (s : Bool) : Nat := signBit .fp32 s
def fpInf (s : Bool) : Nat := signBit .fp32 s + Fmt.infBits .fp32
abbrev fpOne : Nat := 0x3F800000

/-- A magnitude is a power of two. -/
def isPow2 (m : Nat) : Bool := m == 2 ^ m.log2

/-- An exact result into binary32 without NX where it is representable. -/
def exactPick (sat : Bool) (v : FVal) : Nat × Nat := fencode .fp32 .rne sat v

def spExp2 (sat : Bool) (x : Word) : Nat × Nat :=
  match fdecode .fp32 x.toNat with
  | .nan => (Fmt.nanBits .fp32, 0)
  | .inf s => (if s then 0 else fpInf false, 0)
  | .fin s m e =>
    let t := shiftZ m e
    let isInt := decide (0 ≤ e) || m % 2 ^ (-e).toNat == 0
    if s = false ∧ 128 ≤ t then exactPick sat (.fin false 1 128)
    else if s = true ∧ 400 ≤ t then specialPick 0 x sat false (1, -400) (-149)
    else if isInt = true ∧ (s = false ∨ t ≤ 149) then exactPick sat (.fin false 1 (if s then -(t : Int) else t))
    else
      /- x = n + f with f in [0, 1), f × 2^512 exact -/
      let fx := m <<< (e + 512).toNat
      let n : Int := if s then -((ceilDiv fx (2 ^ fixP) : Nat) : Int) else (fx >>> fixP : Nat)
      let f := if s then (ceilDiv fx (2 ^ fixP)) * 2 ^ fixP - fx else fx % 2 ^ fixP
      let v : Mag := (expFix ((f * ln2Fix) >>> fixP), n - fixP)
      specialPick 0 x sat false v (ulpExp v)

def spLog2 (sat : Bool) (x : Word) : Nat × Nat :=
  match fdecode .fp32 x.toNat with
  | .nan => (Fmt.nanBits .fp32, 0)
  | .inf s => if s then (Fmt.nanBits .fp32, Fl.nv) else (fpInf false, 0)
  | .fin s m e =>
    if m = 0 then (fpInf true, Fl.dz)
    else if s then (Fmt.nanBits .fp32, Fl.nv)
    else
      let n : Int := (m.log2 : Int) + e
      if isPow2 m then exactPick sat (ofInt n)
      else
        let fr := log2Fix (m <<< (fixP - m.log2))
        let t : Int := n * (2 ^ 120 : Nat) + (fr : Nat)
        let v : Mag := (t.natAbs, -120)
        /- x in [0.75, 1.5] -/
        let near := !fltVal false (.fin false m e) (.fin false 3 (-2)) && !fltVal false (.fin false 3 (-1)) (.fin false m e)
        specialPick 1 x sat (decide (t < 0)) v (if near then -22 else ulpExp v)

def spRcp (sat : Bool) (x : Word) : Nat × Nat :=
  match fdecode .fp32 x.toNat with
  | .nan => (Fmt.nanBits .fp32, 0)
  | .inf s => (fpZero s, 0)
  | .fin s m e =>
    if m = 0 then (fpInf s, Fl.dz)
    else if isPow2 m then exactPick sat (.fin s 1 (-((m.log2 : Int) + e)))
    else
      let v : Mag := (2 ^ 200 / m, -e - 200)
      specialPick 2 x sat s v (ulpExp v)

def spRsqrt (sat : Bool) (x : Word) : Nat × Nat :=
  match fdecode .fp32 x.toNat with
  | .nan => (Fmt.nanBits .fp32, 0)
  | .inf s => if s then (Fmt.nanBits .fp32, Fl.nv) else (0, 0)
  | .fin s m e =>
    if m = 0 then (fpInf s, Fl.dz)
    else if s then (Fmt.nanBits .fp32, Fl.nv)
    else
      let n : Int := (m.log2 : Int) + e
      if isPow2 m = true ∧ n % 2 = 0 then exactPick sat (.fin false 1 (-(n / 2)))
      else
        /- 1/√(m 2^e) = √(2^400 / m') × 2^(−200 − e'/2), e' even -/
        let odd := e % 2 = 1
        let m' := if odd then 2 * m else m
        let e' := if odd then e - 1 else e
        let v : Mag := (isqrt (2 ^ 400 / m'), -200 - e' / 2)
        specialPick 3 x sat false v (ulpExp v)

def spTanh (sat : Bool) (x : Word) : Nat × Nat :=
  match fdecode .fp32 x.toNat with
  | .nan => (Fmt.nanBits .fp32, 0)
  | .inf s => (signBit .fp32 s + fpOne, 0)
  | .fin s m e =>
    if m = 0 then (fpZero s, 0)
    else
      /- |2x| / 128 below 1 after bounding |x| at 60; its exponential seven times squared -/
      let y := min (m <<< (e + 512).toNat) (60 * 2 ^ fixP)
      let big := decide (60 ≤ shiftZ m e)
      let u := (if big then 60 * 2 ^ fixP else y) >>> 6
      let ex := (List.range 7).foldl (fun t _ => (t * t) >>> fixP) (expFix u)
      let v : Mag := (((ex - 2 ^ fixP) <<< fixP) / (ex + 2 ^ fixP), -(fixP : Nat))
      specialPick 4 x sat s v (ulpExp v + 1)

/-- A special function on one lane element of FMT 0 or 1: bits and flags (R148). -/
def special (fn : Bool → Word → Nat × Nat) (packed : Bool) (r : Rnd) (sat : Bool) (x : Nat) : Nat × Nat :=
  if packed then
    let (b, fl) := fn sat (BitVec.ofNat 32 (x <<< 16))
    let (c, fm) := fencode .bf16 r sat (fdecode .fp32 b)
    (c, fl ||| fm)
  else fn sat (BitVec.ofNat 32 x)

end Sys2Proof.Machine
end

