-- ==== Sys2Proof/Machine/VectorOps.lean ====
section
/-!
DEFINITION. The vector engine: the checks of R145 and the effect of every operation of R144, apart from issue.
-/
namespace Sys2Proof.Machine

/-! ### Checks (R145) -/

/-- What an opcode allows: formats (none: FMT is not looked at), kinds of each source (none: unused), accumulator destination. -/
structure VSpec where
  fmts : Option (List Nat) := none
  k1 : Option (List Nat) := none
  k2 : Option (List Nat) := none
  acc : Bool := false
  deriving DecidableEq, Repr

abbrev allKinds : List Nat := [0, 1, 2, 3]
abbrev fmtInt : List Nat := [2, 3, 4]
abbrev fmtFp : List Nat := [0, 1]
abbrev fmtAny : List Nat := [0, 1, 2, 3, 4]

/-- The rows of R144 with the kinds of R151 to R161; none for a reserved opcode. -/
def vspec (op : Nat) : Option VSpec :=
  if op = 0x00 then some { fmts := some fmtAny }
  else if 0x01 ≤ op ∧ op ≤ 0x07 then some { fmts := some fmtInt, k1 := some allKinds, k2 := some allKinds, acc := true }
  else if 0x08 ≤ op ∧ op ≤ 0x0A then some { fmts := some fmtAny, k1 := some allKinds, k2 := some allKinds, acc := true }
  else if 0x0B ≤ op ∧ op ≤ 0x0D then some { fmts := some fmtInt, k1 := some allKinds, k2 := some allKinds, acc := true }
  else if 0x20 ≤ op ∧ op ≤ 0x25 then some { fmts := some fmtFp, k1 := some allKinds, k2 := some allKinds, acc := true }
  else if op = 0x26 ∨ op = 0x27 ∨ (0x40 ≤ op ∧ op ≤ 0x44) then
    some { fmts := some fmtFp, k1 := some allKinds, acc := true }
  else if 0x30 ≤ op ∧ op ≤ 0x33 then some { fmts := some [0, 1, 2], k1 := some allKinds, k2 := some allKinds }
  else if op = 0x38 then some { k1 := some [3] }
  else if 0x39 ≤ op ∧ op ≤ 0x3B then some { k1 := some [0], k2 := some [0] }
  else if op = 0x3C then some { k1 := some [0] }
  else if op = 0x50 ∨ op = 0x51 then some { fmts := some [0, 2], k1 := some allKinds, acc := true }
  else if op = 0x52 then some { fmts := some [0], k1 := some [0, 1, 2], k2 := some [0] }
  else if op = 0x53 then some { fmts := some fmtAny, k1 := some allKinds, k2 := some [3], acc := true }
  else if op = 0x60 then some { fmts := some fmtAny, k1 := some allKinds, acc := true }
  else if op = 0x61 then some { fmts := some [0, 2], k1 := some allKinds, k2 := some [3] }
  else if op = 0x62 then some { fmts := some [0], k1 := some allKinds, k2 := some [2, 3] }
  else if op = 0x63 then some { fmts := some [0], k1 := some [0], k2 := some [3] }
  else if op = 0x70 ∨ op = 0x71 then some { k1 := some [3], k2 := some [2, 3] }
  else if op = 0x78 then some {}
  else if op = 0x79 ∨ op = 0x7A then some { k1 := some [3] }
  else none

/-- Fields of a conversion (R153). -/
def cvCode (i : VIns) : Nat := i.src2 % 32
def cvWiden (i : VIns) : Bool := i.src2.testBit 5
def cvPart (i : VIns) : Nat := i.src2 / 64 % 8
def cvScale (i : VIns) : Nat := i.src2 / 512 % 128

/-- Check 5: the conditions of R151 to R161 on an opcode's own fields. -/
def fieldsOk (i : VIns) : Bool :=
  if i.op = 0x52 then i.dreg != i.src2 % 64 && !(i.k1 == 0 && i.src1 % 64 == i.src2 % 64)
  else if i.op = 0x61 then
    let c := cvCode i
    decide (1 ≤ c) && decide (c ≤ 0x0E) && decide (cvPart i < partsOf c) &&
      (i.fmt == 0 || c == 0x01 || c == 0x0D || c == 0x0E) &&
      (!cvWiden i || i.k1 == 0) &&
      (!isMx c || (if cvWiden i then i.src1 % 2 == 0 else i.dreg % 2 == 0))
  else if i.op = 0x63 then i.src1 % 2 == 0 && decide (i.src2 ≤ 1)
  else if i.op = 0x70 ∨ i.op = 0x71 then !i.src1.testBit 15 && !(i.k2 == 2 && i.src2.testBit 15)
  else true

/-- The checks of R145; check 4 holds by the widths of the fields. The kind of a source that the opcode does not use, and DK of VNOP
and VFLAGCLR, which write no destination, are not looked at: DESIGN CHOICE (log 123). -/
def vecOk (i : VIns) : Bool :=
  match vspec i.op with
  | none => false
  | some v =>
    let noDst := i.op == 0x00 || i.op == 0x7A
    let dk := i.dk && !noDst
    let kindOk := fun (a : Option (List Nat)) k => a.all fun l => l.contains k
    let usesAcc := dk || (v.k1.isSome && i.k1 == 1) || (v.k2.isSome && i.k2 == 1)
    v.fmts.all (fun l => l.contains i.fmt) && (!dk || v.acc) && kindOk v.k1 i.k1 && kindOk v.k2 i.k2 &&
      (!usesAcc || i.fmt == 0 || i.fmt == 2) && fieldsOk i

/-- The instruction reads an accumulator entry or a lane word of a vector register (R73): as a source, as VFMA's addend, as VSMX's
state, or as the register that VST stores. -/
def readsBuffer (i : VIns) : Bool :=
  match vspec i.op with
  | none => false
  | some v =>
    let src := fun (a : Option (List Nat)) k f =>
      a.isSome && !(decide (0x39 ≤ i.op) && decide (i.op ≤ 0x3C)) && (k == 0 || k == 1 || (k == 2 && !f.testBit 15))
    src v.k1 i.k1 i.src1 || src v.k2 i.k2 i.src2 || i.op == 0x23 || i.op == 0x71

/-- Accumulator entries that the instruction reads or writes (R133). -/
def accEntries (i : VIns) : List Nat :=
  match vspec i.op with
  | none => []
  | some v =>
    (if i.dk && v.acc then [i.dst] else []) ++ (if v.k1.isSome && i.k1 == 1 then [i.src1 % 512] else []) ++
      (if v.k2.isSome && i.k2 == 1 then [i.src2 % 512] else [])

/-! ### Element-wise operations -/

/-- Bits of an element of a lane format (R137). -/
def fmtWidth (fmt : Nat) : Nat := if fmt = 0 ∨ fmt = 2 then 32 else if fmt = 4 then 8 else 16

/-- An element operation over a lane: g takes the element's number and its values; flags are ORed (R159). -/
def laneMap (w : Nat) (g : Nat → Nat → Nat → Nat → Nat × Nat) (a b d : Nat) : Nat × Nat :=
  (List.range (32 / w)).foldl (fun (p : Nat × Nat) k =>
    let e := fun (x : Nat) => x >>> (w * k) % 2 ^ w
    let (r, f) := g k (e a) (e b) (e d)
    (p.1 ||| ((r % 2 ^ w) <<< (w * k)), p.2 ||| f)) (0, 0)

/-- Apply an operation to every active lane and write the destination; rnd marks operations that round stochastically
in packed BF16 (R161). The element operation is given the lane's rounding of each element. -/
def elementwise (s : State) (c : CoreId) (i : VIns) (two acc rnd : Bool)
    (g : Rnd → Nat → Nat → Nat → Nat × Nat) : Option Flt × State :=
  match source1 s c i with
  | (.error e, s) => (some e, s)
  | (.ok a, s) =>
    match (if two then source2 s c i else (.ok (List.replicate 128 0), s)) with
    | (.error e, s) => (some e, s)
    | (.ok b, s) =>
      let act := activeLanes (s.core c) i
      let st := rnd && i.stoch && i.fmt == 1
      let (ws, s) := drawLanes c st act.zipIdx s
      let k := s.core c
      let d := if acc then destLanes k i else List.replicate 128 0
      let res := ((act.zip ws).zip (a.zip (b.zip d))).map fun p =>
        if p.1.1 then
          some (laneMap (fmtWidth i.fmt) (fun n x y z => g (rndOf st p.1.2 n) x y z) p.2.1 p.2.2.1 p.2.2.2)
        else none
      let k := raiseLanes (putDest k i (res.map (·.map (·.1)))) (res.map fun r => (r.map (·.2)).getD 0)
      (none, s.setCore c k)

/-- Integer operations by opcode on w-bit elements (R144, R147). -/
def intOp (op w a b : Nat) : Nat × Nat :=
  let x := signed w a
  let y := signed w b
  match op with
  | 0x01 => (wrap w (x + y), 0)
  | 0x02 => (wrap w (x - y), 0)
  | 0x03 => (wrap w (x * y), 0)
  | 0x04 => clampInt w (x + y)
  | 0x05 => clampInt w (x - y)
  | 0x06 => (wrap w (min x y), 0)
  | 0x07 => (wrap w (max x y), 0)
  | 0x08 => (a &&& b, 0)
  | 0x09 => (a ||| b, 0)
  | 0x0A => (a ^^^ b, 0)
  | 0x0B => (a <<< (b % w) % 2 ^ w, 0)
  | 0x0C => (wrap w (x / (2 ^ (b % w) : Nat)), 0)
  | _ => (a >>> (b % w), 0)

/-- The floating-point format of FMT 0 or 1. -/
def fpFmt (fmt : Nat) : Fmt := if fmt = 1 then .bf16 else .fp32

/-- Two-source floating-point operations by opcode (R59, R146). FP32 rounds to nearest-even. -/
def fpOp (op : Nat) (f : Fmt) (r : Rnd) (sat : Bool) (a b d : Nat) : Nat × Nat :=
  match op with
  | 0x20 => fpAdd f r sat a b
  | 0x21 => fpSub f r sat a b
  | 0x22 => fpMul f r sat a b
  | 0x23 => fpFma f r sat a b d
  | 0x24 => fpMin f a b
  | _ => fpMax f a b

/-- VABS and VNEG: the sign bit alone (R144). -/
def signOp (op : Nat) (f : Fmt) (a : Nat) : Nat × Nat :=
  let m := 2 ^ (f.width - 1)
  if op = 0x26 then (a % m, 0) else (a ^^^ m, 0)

/-- The special functions by opcode (R148). -/
def specialFn (op : Nat) : Bool → Word → Nat × Nat :=
  match op with
  | 0x40 => spExp2
  | 0x41 => spLog2
  | 0x42 => spRcp
  | 0x43 => spRsqrt
  | _ => spTanh

def vecInt (s : State) (c : CoreId) (i : VIns) : Option Flt × State :=
  elementwise s c i true false false fun _ x y _ => intOp i.op (fmtWidth i.fmt) x y

def vecFp (s : State) (c : CoreId) (i : VIns) : Option Flt × State :=
  elementwise s c i true (i.op == 0x23) true fun r x y z => fpOp i.op (fpFmt i.fmt) r i.sat x y z

def vecSign (s : State) (c : CoreId) (i : VIns) : Option Flt × State :=
  elementwise s c i false false false fun _ x _ _ => signOp i.op (fpFmt i.fmt) x

def vecSpecial (s : State) (c : CoreId) (i : VIns) : Option Flt × State :=
  elementwise s c i false false true fun r x _ _ => special (specialFn i.op) (i.fmt == 1) r i.sat x

def vecMov (s : State) (c : CoreId) (i : VIns) : Option Flt × State :=
  elementwise s c i false false false fun _ x _ _ => (x, 0)

/-! ### Masks -/

def cmpOf (op : Nat) : Cmp := if op = 0x30 then .eq else if op = 0x31 then .lt else if op = 0x32 then .le else .un

/-- Comparisons into a mask (R146). A packed BF16 lane has one mask bit for two comparisons: where both agree it is
theirs, and otherwise it is a free value of the lanes compared (log 21). -/
def vecCompare (s : State) (c : CoreId) (i : VIns) : Option Flt × State :=
  match source1 s c i with
  | (.error e, s) => (some e, s)
  | (.ok a, s) =>
    match source2 s c i with
    | (.error e, s) => (some e, s)
    | (.ok b, s) =>
      let act := activeLanes (s.core c) i
      let cm := cmpOf i.op
      let res := (a.zip b).map fun p =>
        let (x, y) := p
        if i.fmt = 2 then intCmp cm x y
        else if i.fmt = 0 then fpCmp cm .fp32 x y
        else
          let lo := fpCmp cm .bf16 (x % 2 ^ 16) (y % 2 ^ 16)
          let hi := fpCmp cm .bf16 (x >>> 16) (y >>> 16)
          if lo = hi then lo else Config.mixedCompare i.op (BitVec.ofNat 32 x) (BitVec.ofNat 32 y)
      (none, s.setCore c (putMask (s.core c) i act res))

def vecMask (s : State) (c : CoreId) (i : VIns) : Option Flt × State :=
  let k := s.core c
  let a := k.maskReg (i.src1 % 8)
  let b := k.maskReg (i.src2 % 8)
  let res := (List.range 128).map fun l =>
    if i.op = 0x38 then (if i.src1.testBit 8 then decide (i.src1 % 256 ≤ l) else decide (l < i.src1 % 256))
    else if i.op = 0x39 then bit a l && bit b l
    else if i.op = 0x3A then bit a l || bit b l
    else if i.op = 0x3B then bit a l != bit b l
    else !bit a l
  (none, s.setCore c (putMask k i (activeLanes k i) res))

/-! ### Across lanes (R150, R151) -/

/-- One level of the tree: neighbours combined pairwise, flags ORed. -/
def treeLevel (op : Nat → Nat → Nat × Nat) : List Nat → List Nat × Nat
  | a :: b :: t =>
    let (r, f) := op a b
    let (rs, g) := treeLevel op t
    (r :: rs, f ||| g)
  | l => (l, 0)

/-- The fixed tree of R150 over 128 values. -/
def reduceTree (op : Nat → Nat → Nat × Nat) (v : List Nat) : Nat × Nat :=
  let (r, f) := (List.range 7).foldl (fun (p : List Nat × Nat) _ =>
    let (l, g) := treeLevel op p.1
    (l, p.2 ||| g)) (v, 0)
  (r.headD 0, f)

/-- Values with the identity in inactive lanes. -/
def withIdentity (act : List Bool) (v : List Nat) (ident : Nat) : List Nat :=
  (act.zip v).map fun p => if p.1 then p.2 else ident

/-- The lowest active lane. -/
def firstActive (act : List Bool) : Option Nat := act.findIdx? id

def add32 (sat : Bool) (a b : Nat) : Nat × Nat := fpAdd .fp32 .rne sat a b

def vecReduce (s : State) (c : CoreId) (i : VIns) : Option Flt × State :=
  match source1 s c i with
  | (.error e, s) => (some e, s)
  | (.ok a, s) =>
    let k := s.core c
    let act := activeLanes k i
    match firstActive act with
    | none => (none, s)
    | some l =>
      let (op, ident) : (Nat → Nat → Nat × Nat) × Nat :=
        if i.op = 0x50 then (if i.fmt = 0 then (add32 i.sat, 0x80000000) else (intOp 0x01 32, 0))
        else if i.fmt = 0 then (fpMax .fp32, 0xFF800000) else (intOp 0x07 32, 0x80000000)
      let (r, f) := reduceTree op (withIdentity act a ident)
      (none, s.setCore c (raiseLane (putDest k i (act.map fun x => if x then some r else none)) l f))

def vecRot (s : State) (c : CoreId) (i : VIns) : Option Flt × State :=
  match source1 s c i with
  | (.error e, s) => (some e, s)
  | (.ok a, s) =>
    let k := s.core c
    let n := i.src2 % 128
    let r := a.drop n ++ a.take n
    (none, s.setCore c (putDest k i (((activeLanes k i).zip r).map fun p => if p.1 then some p.2 else none)))

/-- VSMX (R151). -/
def vecSoftmax (s : State) (c : CoreId) (i : VIns) : Option Flt × State :=
  match source1 s c i with
  | (.error e, s) => (some e, s)
  | (.ok x, s) =>
    let k := s.core c
    let sr := i.src2 % 64
    let act := activeLanes k i
    match firstActive act with
    | none => (none, s.setCore c (k.setLane sr 2 fpOne))
    | some l0 =>
      let m := k.lane sr 0
      let l := k.lane sr 1
      let (mx, f0) := reduceTree (fpMax .fp32) (withIdentity act x 0xFF800000)
      let (mn, f1) := fpMax .fp32 m mx
      let finish := fun (p : List (Option Nat)) (l' al fl : Nat) =>
        let k := putDest k i p
        let k := ((k.setLane sr 0 mn).setLane sr 1 l').setLane sr 2 al
        (none, s.setCore c (raiseLane k l0 fl))
      if mn = 0xFF800000 then finish (act.map fun a => if a then some 0 else none) l fpOne (f0 ||| f1)
      else
        let ex := fun v =>
          let (d, f) := fpSub .fp32 .rne i.sat v mn
          let (e, g) := spExp2 i.sat (BitVec.ofNat 32 d)
          (e, f ||| g)
        let (al, f2) := ex m
        let ps := (act.zip x).map fun p => if p.1 then some (ex p.2) else none
        let (sm, f3) := reduceTree (add32 i.sat) (ps.map fun p => (p.map (·.1)).getD 0x80000000)
        let (l', f4) := fpFma .fp32 .rne i.sat l al sm
        let f5 := ps.foldl (fun a p => a ||| (p.map (·.2)).getD 0) 0
        finish (ps.map (·.map (·.1))) l' al (f0 ||| f1 ||| f2 ||| f3 ||| f4 ||| f5)

/-! ### Conversions (R152 to R155) -/

/-- The conversion takes a random value under stochastic rounding: one that narrows, or rounds between FP32 and INT32 (R161; log 22). -/
def cvRandom (i : VIns) : Bool :=
  !cvWiden i || (i.fmt == 0 && cvCode i == 0x0C) || (i.fmt == 2 && cvCode i == 0x01)

/-- Width of an integer code. -/
def intCode (c : Nat) : Bool := c == 0x0C || c == 0x0D || c == 0x0E

/-- One lane narrowed into an element (DIR 0): bits and flags. An INT32 beyond a narrower integer's range saturates where the
rounding control says so (R51), and otherwise has no stated result: a free value of the lane (log 23). -/
def narrowElem (fmt c : Nat) (r : Rnd) (sat : Bool) (x : Nat) : Nat × Nat :=
  let w := codeWidth c
  if fmt = 2 then
    if intCode c then
      let v := signed 32 x
      let free := (Config.narrowedInt c (BitVec.ofNat 32 x)).toNat
      if sat ∨ (clampInt w v).2 = 0 then clampInt w v else (free % 2 ^ w, if free.testBit 31 then Fl.sat else 0)
    else fencode .fp32 r sat (ofInt (signed 32 x))
  else if intCode c then toInt w r (fdecode .fp32 x)
  else
    match fmtOfCode c with
    | some f => fencode f r sat (fdecode .fp32 x)
    | none => (0, 0)

/-- One element widened into a lane (DIR 1). -/
def widenElem (fmt c : Nat) (r : Rnd) (sat : Bool) (b : Nat) : Nat × Nat :=
  let w := codeWidth c
  if fmt = 2 then
    if intCode c then (wrap 32 (signed w b), 0) else toInt 32 r (fdecode .fp32 b)
  else if intCode c then fencode .fp32 r sat (ofInt (signed w b))
  else
    match fmtOfCode c with
    | some f => fencode .fp32 r sat (fdecode f b)
    | none => (0, 0)

/-- Write elements of active lanes into part p of a register (R152). -/
def putElems (r : Row) (c p : Nat) (es : List (Option Nat)) : Row :=
  (es.zipIdx).foldl (fun a e =>
    match e.1 with
    | some x => put a (partBit c p e.2) (codeWidth c) x
    | none => a) r

/-- VCVT into an MX code (R154): blocks of 32 lanes, over their active lanes. -/
def mxNarrow (k : Core) (i : VIns) (act : List Bool) (a : List (FVal × Rnd)) : Core :=
  let c := cvCode i
  let d := i.dreg
  (List.range 4).foldl (fun k b =>
    let lanes := ((act.zip a).zipIdx).filter fun p => p.2 / 32 == b && p.1.1
    if lanes.isEmpty then k
    else
      let (sc, es) := mxBlock c (lanes.map (·.1.2))
      let lanes' := (lanes.map (·.2)).zip es
      let reg := lanes'.foldl (fun r e => put r (partBit c (cvPart i) e.1) (codeWidth c) e.2.1) (k.vreg d)
      let k := k.setVreg d reg
      let k := k.setVreg (d + 1) (put (k.vreg (d + 1)) (8 * (4 * cvScale i + b)) 8 sc)
      lanes'.foldl (fun k e => raiseLane k e.1 e.2.2) k) k

def vecConvert (s : State) (c : CoreId) (i : VIns) : Option Flt × State :=
  match source1 s c i with
  | (.error e, s) => (some e, s)
  | (.ok a, s) =>
    let act := activeLanes (s.core c) i
    let cc := cvCode i
    let st := i.stoch && cvRandom i
    let (ws, s) := drawLanes c st act.zipIdx s
    let k := s.core c
    if cvWiden i then
      let reg := k.vreg (i.src1 % 64)
      let scales := k.vreg (i.src1 % 64 + 1)
      let res := ((act.zip ws).zipIdx).map fun p =>
        if p.1.1 then
          let b := fld reg (partBit cc (cvPart i) p.2) (codeWidth cc)
          some (if isMx cc then
              fencode .fp32 .rne i.sat (mxValue cc (fld scales (8 * (4 * cvScale i + p.2 / 32)) 8) b)
            else widenElem i.fmt cc (rndOf st p.1.2 0) i.sat b)
        else none
      (none, s.setCore c (raiseLanes (putDest k i (res.map (·.map (·.1)))) (res.map fun r => (r.map (·.2)).getD 0)))
    else if isMx cc then
      (none, s.setCore c (mxNarrow k i act ((a.zip ws).map fun p => (fdecode .fp32 p.1, rndOf st p.2 0))))
    else
      let res := ((act.zip ws).zip a).map fun p =>
        if p.1.1 then
          some (narrowElem i.fmt cc (rndOf st p.1.2 0) i.sat p.2)
        else none
      let k := k.setVreg i.dreg (putElems (k.vreg i.dreg) cc (cvPart i) (res.map (·.map (·.1))))
      (none, s.setCore c (raiseLanes k (res.map fun r => (r.map (·.2)).getD 0)))

/-- VQSI (R155); an immediate scale is the raw field (log 24). -/
def vecQuantize (s : State) (c : CoreId) (i : VIns) : Option Flt × State :=
  match source1 s c i with
  | (.error e, s) => (some e, s)
  | (.ok a, s) =>
    match (if i.k2 = 3 then (.ok [i.src2], s) else source2 s c i) with
    | (.error e, s) => (some e, s)
    | (.ok b, s) =>
      let act := activeLanes (s.core c) i
      let (ws, s) := drawLanes c i.stoch act.zipIdx s
      let (blk, fls) := si24Quantize (b.headD 0 % 256) (((act.zip ws).zip a).map fun p =>
        if p.1.1 then some (fdecode .fp32 p.2, rndOf i.stoch p.1.2 0) else none)
      let k := (s.core c).setVreg i.dreg (BitVec.ofNat 4096 blk)
      (none, s.setCore c (raiseLanes k fls))

/-- The values of an SI24 block as VDQSI reads it, and rounded to FP32 (R155). -/
def dequantize (acc : Bool) (lo hi : Row) (sat : Bool) : List (Nat × Nat) :=
  let b := stagedBlock lo
  let x := twoRows lo hi
  let sc := (if acc then accWord x else si24Word b) % 256
  (List.range 128).map fun l =>
    fencode .fp32 .rne sat (si24Value sc (if acc then accLane x l else si24Q b l))

def vecDequantize (s : State) (c : CoreId) (i : VIns) : Option Flt × State :=
  let k := s.core c
  let r := i.src1 % 64
  let v := dequantize (i.src2 % 2 == 1) (k.vreg r) (k.vreg (r + 1)) i.sat
  let res := ((activeLanes k i).zip v).map fun p => if p.1 then some p.2 else none
  (none, s.setCore c (raiseLanes (putDest k i (res.map (·.map (·.1)))) (res.map fun x => (x.map (·.2)).getD 0)))

/-! ### Rows, generators and flag words -/

/-- The entry row of VLD or VST (R156). -/
def rowOperand (k : Core) (i : VIns) : Nat :=
  if i.k2 = 3 then i.src2 else k.lane (i.src2 % 64) (i.src2 / 64 % 128)

def vecRow (s : State) (c : CoreId) (i : VIns) : Option Flt × State :=
  let k := s.core c
  let cap := capture s (some c) (BitVec.ofNat 16 i.src1)
  let j := rowOperand k i
  let bpr := if cap.valid then blocksPerRow cap.format else 0
  if cap.valid && (!ownEntry c cap || (bpr != 0 && i.dreg % 2 == 1)) then (some ⟨St.vectorInstructionInvalid, {}⟩, s)
  else if i.op = 0x70 then
    match accessRead s s.grid.ctx cap none j 1 with
    | ([r], none, s) =>
      if bpr = 0 then (none, s.setCore c ((s.core c).setVreg i.dreg r))
      else
        match readBytes s s.grid.ctx (scaleCap s cap (some c)) none (j * bpr) bpr with
        | (.ok bs, s) =>
          (none, s.setCore c (((s.core c).setVreg i.dreg r).setVreg (i.dreg + 1) (BitVec.ofNat 4096 (ofBytes bs))))
        | (.error e, s) => (some e, s)
    | (_, e, s) => (e, s)
  else
    match accessWrite s s.grid.ctx cap none j [(k.vreg i.dreg, 0)] with
    | (some e, s) => (some e, s)
    | (none, s) =>
      if bpr = 0 then (none, s)
      else writeBytes s s.grid.ctx (scaleCap s cap (some c)) (j * bpr) (toBytes (k.vreg (i.dreg + 1)) bpr)

def vecRandom (s : State) (c : CoreId) (i : VIns) : Option Flt × State :=
  let act := activeLanes (s.core c) i
  let (ws, s) := drawLanes c true act.zipIdx s
  (none, s.setCore c (putDest (s.core c) i ((act.zip ws).map fun p => if p.1 then some p.2 else none)))

def vecFlagRead (s : State) (c : CoreId) (i : VIns) : Option Flt × State :=
  let k := s.core c
  let t := if i.src1.testBit 0 then k.colFlags else k.laneFlags
  (none, s.setCore c (putDest k i (((activeLanes k i).zipIdx).map fun p =>
    if p.1 then some (Tab.get 0 t p.2).toNat else none)))

def vecFlagClear (s : State) (c : CoreId) (i : VIns) : Option Flt × State :=
  let k := s.core c
  let bits : Byte := BitVec.ofNat 8 (i.src1 % 128)
  let act := activeLanes k i
  (none, s.setCore c (if i.src1.testBit 8 then { k with colFlags := clearFlags k.colFlags act bits }
    else { k with laneFlags := clearFlags k.laneFlags act bits }))

/-- A vector instruction that passed R145. -/
def vecRun (s : State) (c : CoreId) (i : VIns) : Option Flt × State :=
  let op := i.op
  if op = 0x00 then (none, s)
  else if op ≤ 0x0D then vecInt s c i
  else if op ≤ 0x25 then vecFp s c i
  else if op ≤ 0x27 then vecSign s c i
  else if op ≤ 0x33 then vecCompare s c i
  else if op ≤ 0x3C then vecMask s c i
  else if op ≤ 0x44 then vecSpecial s c i
  else if op ≤ 0x51 then vecReduce s c i
  else if op = 0x52 then vecSoftmax s c i
  else if op = 0x53 then vecRot s c i
  else if op = 0x60 then vecMov s c i
  else if op = 0x61 then vecConvert s c i
  else if op = 0x62 then vecQuantize s c i
  else if op = 0x63 then vecDequantize s c i
  else if op ≤ 0x71 then vecRow s c i
  else if op = 0x78 then vecRandom s c i
  else if op = 0x79 then vecFlagRead s c i
  else vecFlagClear s c i

/-- A vector instruction with its checks: the fault it meets, if any (R145). -/
def vecExec (s : State) (c : CoreId) (w : BitVec 64) : Option Flt × State :=
  let i := vdecode w
  if vecOk i then vecRun s c i else (some ⟨St.vectorInstructionInvalid, {}⟩, s)

end Sys2Proof.Machine
end

