-- ==== Sys2Proof/Machine/Issue.lean ====
section
/-!
DEFINITION. Issue from a core's program: when the sequencer issues, the checks of R231, and the program index (R229).
-/
namespace Sys2Proof.Machine

/-- The resident context may issue: a section runs and no fault or stop of its run stands (R429). -/
def sectionLive (s : State) : Bool :=
  s.grid.phase == .running &&
  match s.grid.ctx with
  | none => false
  | some c => (s.ctx c).fault.isNone && (s.ctx c).run.any fun r => r.stop.isNone

/-- The core's sequencer is free to issue: its program runs, no WAIT or fence holds it, and no deferred work runs
(R229, R242). -/
def canIssue (s : State) (c : CoreId) : Bool :=
  let k := s.core c
  sectionLive s && k.active && !k.ended && k.waiting == 0 && !k.fencing &&
    k.tile.all fun t => !t.deferred

/-- Address of the program row of an index. -/
def progRowAddr (c : CoreId) (k : Core) (pc : Nat) : Nat := coreRowAddr c.val (k.loadRow + k.progFirst.toNat + pc / 63)

/-- Poison in a program row: the record's index is its row of core memory, as no handle names it (R97, R515). -/
def programPoison (s : State) (c : CoreId) (k : Core) (pc : Nat) : Flt :=
  ⟨St.poisonConsumed, { index := k.loadRow + k.progFirst.toNat + pc / 63, aux := firstSector (poisonMask s.ms.poison (progRowAddr c k pc)) }⟩

/-- The fault that the sequencer meets when it reaches a program index: outside the program rows, a poisoned row, a
sequencer word in slot 62, or a second half marked as a vector instruction (R229, R231, R97). -/
def fetchFault (s : State) (c : CoreId) (seq : Bool) : Option Flt :=
  let k := s.core c
  let pc := k.pc.toNat
  if 63 * k.progRows.toNat ≤ pc then some ⟨St.seqOperationInvalid, {}⟩
  else
    let a := progRowAddr c k pc
    if poisonMask s.ms.poison a ≠ 0 then some (programPoison s c k pc)
    else if seq ∧ (pc % 63 = 62 ∨ bit (Mem.row s.ms.mem a) (4032 + pc % 63 + 1) = true) then some ⟨St.seqOperationInvalid, {}⟩
    else none

/-- Advance the program index. -/
def stepPc (s : State) (c : CoreId) (n : Nat) : State :=
  s.setCore c { s.core c with pc := (s.core c).pc + BitVec.ofNat 16 n, stall := none, heldBy := [] }

/-- Accumulator entries that vectors not yet committed will update (R132, R133): those queued and in flight. MMULs that a TILE has yet
to generate are not among them: DESIGN CHOICE (log 122). -/
def accBusy (k : Core) (e : Nat) : Bool :=
  k.flight.any (fun f => f.entry == e || (decide (2 ≤ f.accMode) && f.entry + 256 == e)) ||
  k.arrayQ.any fun o =>
    let w := o.word
    let base := fld w 107 9
    let n := fld w 97 10
    let inRange := fun x => decide (base + o.issued ≤ x) && decide (x < base + n)
    fld w 0 4 == 2 && (inRange e || (decide (2 ≤ fld w 6 2) && decide (256 ≤ e) && inRange (e - 256)))

/-- An access through what a core's handle names, or through its scales, waits for a gather or an exchange (R363, R396). -/
def handleWaits (s : State) (c : CoreId) (h : Nat) : Bool :=
  let k := capture s (some c) (BitVec.ofNat 16 h)
  capWaits s k || (isMx k.format && capWaits s (scaleCap s k (some c)))

/-- Handles of the entries that a vector instruction reaches (R143, R156). -/
def vecHandles (i : VIns) : List Nat :=
  (if i.op = 0x70 ∨ i.op = 0x71 then [i.src1] else []) ++
  (if i.k1 = 2 ∧ i.src1.testBit 15 then [i.src1 % 64] else []) ++
  (if i.k2 = 2 ∧ i.src2.testBit 15 then [i.src2 % 64] else [])

/-- Handles of the entries that a sequencer word names (R114, R165, R174, R184, R204, R245). -/
def wordHandles (op : Nat) (w : BitVec 128) : List Nat :=
  match op with
  | 1 => [fld w 16 16]
  | 2 => [fld w 16 16]
  | 4 => [fld w 8 16, fld w 24 16]
  | 6 => [fld w 16 16]
  | 7 => [fld w 32 16]
  | 8 => if bit w 5 then [] else [fld w 16 16]
  | 9 => if bit w 5 then [] else [fld w 16 16]
  | 0xE => [fld w 16 16, fld w 32 16]
  | _ => []

/-- The core's next word or instruction waits for the entries of handles. -/
def holdFor (s : State) (c : CoreId) (hs : List Nat) : State := s.setCore c { s.core c with heldBy := hs }

/-- The word or instruction that the core holds still waits for its entries (R434). -/
def entryHeld (s : State) (c : CoreId) : Bool := (s.core c).heldBy.any (handleWaits s c)

/-- A single-bit error in an operand buffer is counted, and corrected (R73). -/
def countOperand (s : State) (c : CoreId) : State := s.setCore c { s.core c with obCorrected := countErr (s.core c).obCorrected }

/-- The instruction of a command: OPCODE is the row's, but a reserved OPCODE, which has no row, stays (R144; log 36). -/
def vectorWord (op : Nat) (w : BitVec 64) : BitVec 64 := if (vspec (fld w 0 8)).isSome then put w 0 8 op else w

/-- Issue one vector instruction whose opcode is the command's row (R139, R145): it waits for its accumulator entries
(R133), faults where a check fails, and otherwise takes effect and the program index moves on. A double-bit error in an operand
buffer that it reads faults before it takes effect, and a single-bit error is counted (R73). -/
def issueVector (op : Nat) (c : CoreId) (w : BitVec 64) (e : OperandCheck) (s : State) : State :=
  let w := vectorWord op w
  if !canIssue s c then s
  else
    match fetchFault s c false with
    | some f => faultCore s c (w.setWidth 128) f
    | none =>
      if vecOk (vdecode w) && (vecHandles (vdecode w)).any (handleWaits s c) then holdFor s c (vecHandles (vdecode w))
      else if vecOk (vdecode w) && (accEntries (vdecode w)).any (accBusy (s.core c)) then s
      else if vecOk (vdecode w) && readsBuffer (vdecode w) && e == .double then
        faultCore s c (w.setWidth 128) ⟨St.operandParity, {}⟩
      else
        let s := if vecOk (vdecode w) && readsBuffer (vdecode w) && e == .corrected then countOperand s c else s
        match vecExec s c w with
        | (some f, s) => faultCore s c (w.setWidth 128) f
        | (none, s) =>
          stepPc (s.setCore c { s.core c with vinstr := (s.core c).vinstr + 1 }) c 1

/-- The word that a stalled sequencer stands on: its OP and, for a channel word, its channel (R224, R242). -/
def stallOn (s : State) (c : CoreId) (op : Nat) (w : BitVec 128) : State :=
  s.setCore c { s.core c with stall := some (256 * op + if 8 ≤ op ∧ op ≤ 0xB then fld w 8 8 else 0) }

/-- A field condition of R164 fails. -/
def seqInvalid : Flt := ⟨St.seqOperationInvalid, {}⟩

/-- OP is reserved (R163). -/
def reservedOp (w : BitVec 128) : Bool := fld w 0 4 == 0 || fld w 0 4 == 3

/-- Issue one sequencer word whose OP is the command's row, a reserved OP standing (R164; log 36): a failing field condition faults
as the word is decoded, whatever it would wait for; the action gives the state, or none where the sequencer stalls on the word
(log 14). -/
def issueWord (op : Nat) (c : CoreId) (w : BitVec 128) (s : State)
    (act : BitVec 128 → State → Option (Option Flt × State)) (bad : BitVec 128 → State → Bool := fun _ _ => false) : State :=
  let w := if reservedOp w then w else put w 0 4 op
  if !canIssue s c then s
  else
    match fetchFault s c true with
    | some f => faultCore s c w f
    | none =>
      if reservedOp w || bad w s then faultCore s c w seqInvalid
      else if (wordHandles op w).any (handleWaits s c) then holdFor (stallOn s c op w) c (wordHandles op w)
      else
      match act w s with
      | none => stallOn s c op w
      | some (some f, s) => faultCore s c w f
      | some (none, s) => stepPc s c 2

end Sys2Proof.Machine
end

