-- ==== Sys2Proof/Machine/ArrayOps.lean ====
section
/-!
DEFINITION. The matrix array: operands (R110 to R113), checks (R116), stationary sets (R115), moving vectors (R121), the
40-bit partial sum (R55 to R57) and the accumulator update (R131).
-/
namespace Sys2Proof.Machine

namespace AW
def op (w : BitVec 128) : Nat := fld w 0 4
def set (w : BitVec 128) : Nat := fld w 4 1
def path (w : BitVec 128) : Bool := bit w 5
def accMode (w : BitVec 128) : Nat := fld w 6 2
def fmt (w : BitVec 128) : Nat := fld w 8 5
def handle (w : BitVec 128) : Half := BitVec.ofNat 16 (fld w 16 16)
def first (w : BitVec 128) : Nat := fld w 32 32
def stride (w : BitVec 128) : Nat := fld w 64 24
def len (w : BitVec 128) : Nat := fld w 88 9
def count (w : BitVec 128) : Nat := fld w 97 10
def accBase (w : BitVec 128) : Nat := fld w 107 9
end AW

/-- Formats with two elements per array row (R107). -/
def twoPerRow (f : Nat) : Bool := f == 0x08 || f == 0x09 || f == 0x0A

/-- Largest contraction length of a format (R109). -/
def maxK (f : Nat) : Nat := if twoPerRow f then 256 else 128

def Core.statSet (k : Core) (n : Nat) : StatSet := if n = 0 then k.set0 else k.set1
def Core.setStat (k : Core) (n : Nat) (x : StatSet) : Core := if n = 0 then { k with set0 := x } else { k with set1 := x }

/-- FMT and Kv that an MMUL on a set will meet: the last SLOAD pending for it, otherwise the set itself (R116 check 6). -/
def setAhead (k : Core) (n : Nat) : Option (Nat × Nat) :=
  match (k.arrayQ.filter fun o => AW.op o.word == 1 && AW.set o.word == n).getLast? with
  | some o => some (AW.fmt o.word, if AW.path o.word then AW.count o.word else AW.len o.word)
  | none =>
    let x := k.statSet n
    if x.valid then some (x.fmt.toNat, x.kv) else none

/-- The checks of R116. -/
def arrayOk (k : Core) (c : CoreId) (o : ArrayOp) : Bool :=
  let w := o.word
  let f := AW.fmt w
  let mm := AW.op w == 2
  (AW.op w == 1 || mm) && decide (0x02 ≤ f) && decide (f ≤ 0x0B) &&
    decide (AW.len w ≤ maxK f) && decide (AW.count w ≤ (if mm then 512 else 128)) &&
    (!isMx f || (o.first % 32 == 0 && o.stride % 32 == 0 && AW.len w % 32 == 0 && (mm || !AW.path w))) &&
    ownEntry c o.cap &&
    (!mm || ((setAhead k (AW.set w)).any (fun p => p.1 == f && p.2 == AW.len w) &&
      decide (AW.accBase w + AW.count w ≤ (if AW.accMode w < 2 then 512 else 256))))

/-- An array operation from its word, its entries captured (R92). -/
def mkArrayOp (s : State) (c : CoreId) (w : BitVec 128) : ArrayOp :=
  let cap := capture s (some c) (AW.handle w)
  { word := w, cap := cap, scale := scaleCap s cap (some c), first := AW.first w, stride := AW.stride w }

/-- An array operation enters the queue; a stationary load makes its set the one last loaded, whose tile it replaces (R119,
R176). -/
def Core.push (k : Core) (o : ArrayOp) : Core :=
  if AW.op o.word = 1 then
    { k with arrayQ := k.arrayQ ++ [o], lastLoad := AW.set o.word, tile := k.tile.map fun t => { t with held := none } }
  else { k with arrayQ := k.arrayQ ++ [o] }

/-- Issue an array operation into the queue: none while the queue is full (R116, R119). An MMUL of no vectors does
nothing (R118). Both are looked at before the queue's room: DESIGN CHOICE (log 121). -/
def pushArray (s : State) (c : CoreId) (o : ArrayOp) : Option (Option Flt × State) :=
  let k := s.core c
  if !arrayOk k c o then some (some ⟨St.arrayOperandInvalid, {}⟩, s)
  else if AW.op o.word = 2 ∧ AW.count o.word = 0 then some (none, s)
  else if 4 ≤ k.arrayQ.length then none
  else some (none, s.setCore c (k.push o))

/-! ### Segments -/

/-- Rows lo to lo + n − 1 of an operand by entry row: a row that the previous segment brought is not read again (R110). -/
def segRows (s : State) (o : ArrayOp) : Nat → Nat → Except Flt (List (Nat × Row)) × State
  | _, 0 => (.ok [], s)
  | lo, n + 1 =>
    match o.seen.find? fun p => p.1 == lo with
    | some p =>
      match segRows s o (lo + 1) n with
      | (.ok t, s) => (.ok (p :: t), s)
      | (.error x, s) => (.error x, s)
    | none =>
      match accessRead s s.grid.ctx o.cap (some (AW.fmt o.word)) lo (n + 1) with
      | (_, some x, s) => (.error x, s)
      | (rows, none, s) => (.ok ((rows.zipIdx).map fun p => (lo + p.2, p.1)), s)

/-- Elements of a segment, for MX formats with their blocks' scales, and the rows that hold them: every row that holds one is
read and checked (R110, R113, R117). The rows are read here, when the vector issues or the load completes (log 120). -/
def readSeg (s : State) (o : ArrayOp) (start len : Nat) : Except Flt (List Nat × List Nat × List (Nat × Row)) × State :=
  let f := AW.fmt o.word
  let e := elemsPerRow f
  if len = 0 then (.ok ([], [], []), s)
  else
    let r0 := start / e
    match segRows s o r0 ((start + len - 1) / e - r0 + 1) with
    | (.error x, s) => (.error x, s)
    | (.ok rows, s) =>
      let el := (List.range len).map fun i => rowElem f (rows.getD ((start + i) / e - r0) (0, 0)).2 ((start + i) % e)
      if isMx f then
        match readBytes s s.grid.ctx o.scale (some 0x11) (start / 32) (ceilDiv len 32) with
        | (.ok bs, s) => (.ok (el, bs.map (·.toNat), rows), s)
        | (.error x, s) => (.error x, s)
      else (.ok (el, [], rows), s)

/-- Segments s, s + 1, … of an operand. -/
def readSegs (o : ArrayOp) (len : Nat) : Nat → Nat → State → Except Flt (List (List Nat × List Nat)) × State
  | _, 0, s => (.ok [], s)
  | i, n + 1, s =>
    match readSeg s o (o.first + i * o.stride) len with
    | (.error x, s) => (.error x, s)
    | (.ok (el, sc, rows), s) =>
      match readSegs { o with seen := rows } len (i + 1) n s with
      | (.error x, s) => (.error x, s)
      | (.ok gs, s) => (.ok ((el, sc) :: gs), s)

/-- Elements at 16 bits each. -/
def packElems (l : List Nat) : Row := BitVec.ofNat 4096 ((l.zipIdx).foldl (fun a p => a ||| (p.1 <<< (16 * p.2))) 0)
/-- Scales at 8 bits each. -/
def packScales (l : List Nat) : BitVec 64 := BitVec.ofNat 64 ((l.zipIdx).foldl (fun a p => a ||| (p.1 <<< (8 * p.2))) 0)

/-- The stationary set that a load fills (R112, R115, R118): columns on the normal path, rows on the transposed one. -/
def loadSet (o : ArrayOp) (gs : List (List Nat × List Nat)) : StatSet :=
  let w := o.word
  let fmt := BitVec.ofNat 5 (AW.fmt w)
  if AW.path w then
    { valid := true, fmt := fmt, kv := AW.count w, nv := AW.len w,
      cols := (List.range (AW.len w)).foldl (fun t j =>
        Tab.set {} t j ⟨packElems (gs.map fun g => g.1.getD j 0), 0⟩) [] }
  else
    { valid := true, fmt := fmt, kv := AW.len w, nv := AW.count w,
      cols := (gs.zipIdx).foldl (fun t g => Tab.set {} t g.2 ⟨packElems g.1.1, packScales g.1.2⟩) [] }

/-- The first element that meets a test, with the elements before and after it. -/
def splitFirst {α : Type} (p : α → Bool) : List α → Option (List α × α × List α)
  | [] => none
  | x :: t => if p x then some ([], x, t) else (splitFirst p t).map fun r => (x :: r.1, r.2)

/-! ### The partial sum (R55 to R57) and the entry (R131) -/

/-- Round into the 40-bit partial sum. -/
def toPsum (v : FVal × Nat) : FVal × Nat :=
  let (b, f) := rounded .psum .rne false v
  (fdecode .psum b, f)

/-- Exact sum of the products of one block, scales apart (R55). -/
def blockSum (c : Nat) : List (Nat × Nat) → FVal × Nat
  | [] => (.fin false 0 0, 0)
  | (a, b) :: t =>
    let p := fprod (mxValue c 127 a) (mxValue c 127 b)
    let (r, f) := blockSum c t
    let (x, g) := fsum p.1 r
    (x, f ||| p.2 ||| g)

/-- The sum of one MX block pair, rounded once into the partial sum; NV for a NaN scale alone (R55). -/
def blockPsum (c sa sb : Nat) (ps : List (Nat × Nat)) : FVal × Nat :=
  if sa = 0xFF ∨ sb = 0xFF then (.nan, Fl.nv)
  else if ps.any fun p => (mxValue c 127 p.1).isNan || (mxValue c 127 p.2).isNan then (.nan, 0)
  else
    let (v, f) := blockSum c ps
    let v := match v with
      | .fin s m e => .fin s m (e + sa + sb - 254)
      | x => x
    let (r, g) := toPsum (v, 0)
    (r, f ||| g)

/-- The partial sum of a vector's own elements in a column: blocks or cells in row order, one rounding each (R55, R56, R132). -/
def cellSum (v : Flight) (st : StatSet) (j : Nat) : FVal × Nat :=
  let c := v.fmt.toNat
  let col := Tab.get {} st.cols j
  let x := fun k => fld v.elems (16 * k) 16
  let y := fun k => fld col.elems (16 * k) 16
  if isMx c then
    (List.range (v.len / 32)).foldl (fun (p : FVal × Nat) b =>
      let (q, f) := blockPsum c (fld v.scales (8 * b) 8) (fld col.scales (8 * b) 8)
        ((List.range 32).map fun i => (x (32 * b + i), y (32 * b + i)))
      let (r, g) := toPsum (fsum p.1 q)
      (r, p.2 ||| f ||| g)) (.fin false 0 0, 0)
  else
    match fmtOfCode c with
    | none => (.fin false 0 0, 0)
    | some fm =>
      (List.range v.len).foldl (fun (p : FVal × Nat) k =>
        let q := fprod (fdecode fm (x k)) (fdecode fm (y k))
        let (r, g) := toPsum (fsum p.1 q.1)
        (r, p.2 ||| q.2 ||| g)) (.fin false 0 0, 0)

/-- The partial sum of a column at the bottom of the array: below the segment the padded rows add +0 (R128, R129). -/
def columnSum (v : Flight) (st : StatSet) (j : Nat) : FVal × Nat :=
  let p := cellSum v st j
  if v.len < maxK v.fmt.toNat then ((fsum p.1 (.fin false 0 0)).1, p.2) else p

/-- Round to binary32 to nearest-even (R57, R58). -/
def toF32 (v : FVal × Nat) : Nat × Nat := rounded .fp32 .rne false v

/-- The update of R131 on the words of banks 0 and 1 of an entry: the new words and the flags. -/
def accUpdate (mode : Nat) (p : FVal) (a cc : Nat) : Nat × Nat × Nat :=
  let av := fdecode .fp32 a
  match mode with
  | 0 =>
    let (r, f) := toF32 (p, 0)
    (r, cc, f)
  | 1 =>
    let (r, f) := toF32 (fsum av p)
    (r, cc, f)
  | 2 =>
    let (r, f) := toF32 (p, 0)
    let (e, g) := toF32 (fsum p (fdecode .fp32 r).flip)
    (r, e, f ||| g)
  | _ =>
    let t := fsum av p
    let (r, f) := toF32 t
    let (e, g) := toF32 (fsum t.1 (fdecode .fp32 r).flip)
    let (c', h) := toF32 (fsum (fdecode .fp32 cc) (fdecode .fp32 e))
    (r, c', f ||| g ||| h)

/-- The oldest vector in flight that has not committed a column commits it, against the set it issued for (R120, R125, R131, R132,
R135). -/
def commitColumn (s : State) (c : CoreId) (j : Nat) : State :=
  let k := s.core c
  match splitFirst (fun (f : Flight) => f.cols.contains j) k.flight with
  | none => s
  | some (before, v, after) =>
    let (p, f) := columnSum v v.stat j
    let e2 := v.entry + 256
    let a := fld (k.accEntry v.entry) (32 * j) 32
    let b := fld (k.accEntry e2) (32 * j) 32
    let (a', b', g) := accUpdate v.accMode p a b
    let k := k.setAcc v.entry (put (k.accEntry v.entry) (32 * j) 32 a')
    let k := if 2 ≤ v.accMode then k.setAcc e2 (put (k.accEntry e2) (32 * j) 32 b') else k
    let cols := v.cols.filter fun x => x != j
    s.setCore c { raiseCol k j (f ||| g) with
      flight := before ++ (if cols.isEmpty then after else { v with cols := cols } :: after) }

/-- A commit with what the check bits of the entry show, where its mode reads the entry: a double-bit error faults (R73). -/
def commitChecked (s : State) (c : CoreId) (j : Nat) (e : OperandCheck) : State :=
  let reads := ((s.core c).flight.find? fun (f : Flight) => f.cols.contains j).any fun f => f.accMode % 2 == 1
  match e, reads with
  | .double, true => faultCore s c 0 ⟨St.operandParity, { index := j }⟩
  | .corrected, true => commitColumn (countOperand s c) c j
  | _, _ => commitColumn s c j

/-- Every vector in flight commits every column, oldest first (R117). -/
def commitAll (s : State) (c : CoreId) : State :=
  ((s.core c).flight.flatMap (·.cols)).foldl (fun s j => commitColumn s c j) s

/-! ### Loads and issue (R115, R121) -/

/-- The first stationary load completes: its set becomes valid (R115, R123), once every vector before it that names the
set has left the array (R126). A row that fails its check ends it: the vectors in flight commit first (R117). -/
def completeLoad (s : State) (c : CoreId) : State :=
  let k := s.core c
  match splitFirst (fun o => AW.op o.word == 1) k.arrayQ with
  | none => s
  | some (before, o, after) =>
    let x := AW.set o.word
    if before.any (fun m => AW.set m.word == x) || k.flight.any (fun f => f.set == x) then s
    else
      let s := s.setCore c { (k.setStat x {}) with arrayQ := before ++ after }
      let n := if AW.len o.word = 0 then 0 else AW.count o.word
      match readSegs o (AW.len o.word) 0 n s with
      | (.error f, s) => faultCore (commitAll s c) c o.word f
      | (.ok gs, s) => s.setCore c ((s.core c).setStat x (loadSet o gs))

/-- The next vector issues (R121): its segment is read, its set is valid, and it enters flight with the columns below Nv. A
vector of no elements changes nothing in an add mode (R118). -/
def issueNext (s : State) (c : CoreId) (parityError : Bool) : State :=
  let k := s.core c
  match splitFirst (fun o => AW.op o.word == 2) k.arrayQ with
  | none => s
  | some (before, o, after) =>
    let w := o.word
    let x := AW.set w
    let st := k.statSet x
    if before.any (fun l => AW.set l.word == x) || !st.valid then s
    else if parityError then faultCore s c w ⟨St.operandParity, {}⟩
    else
      match readSeg s o (o.first + o.issued * o.stride) (AW.len w) with
      | (.error f, s) => faultCore (commitAll s c) c w f
      | (.ok (el, sc, rows), s) =>
        let k := s.core c
        let o' := { o with issued := o.issued + 1, seen := rows }
        let v : Flight :=
          { elems := packElems el, scales := packScales sc, set := x, accMode := AW.accMode w,
            entry := AW.accBase w + o.issued, len := AW.len w, fmt := BitVec.ofNat 5 (AW.fmt w),
            stat := st, cols := List.range st.nv }
        let skip := AW.len w = 0 ∧ (AW.accMode w = 1 ∨ AW.accMode w = 3)
        s.setCore c { k with
          arrayQ := before ++ (if o'.issued = AW.count w then after else o' :: after),
          flight := if skip ∨ st.nv = 0 then k.flight else k.flight ++ [v],
          vectors := k.vectors + 1 }

end Sys2Proof.Machine
end

