-- ==== Sys2Proof/Machine/CopyOps.lean ====
section
/-!
DEFINITION. Row copies between entries of any tiers, with the scale bytes of MX entries and poison carried (R92 to R94, R97, R166).
-/
namespace Sys2Proof.Machine

/-- Poison of bytes lo2 to lo2 + n − 1 of a destination from that of bytes lo1 onward of a source: a sector of 32 bytes
that takes a byte of a poisoned sector is poisoned (R96, R97). -/
def carryPoison (p q : BitVec 16) (lo1 lo2 n : Nat) : BitVec 16 :=
  (List.range n).foldl (fun m i => if bit p ((lo1 + i) / 32) then m ||| BitVec.ofNat 16 (2 ^ ((lo2 + i) / 32)) else m) q

/-- Copy n bytes from byte lo1 of an entry to byte lo2 of another, whole destination rows written (R94, R166). -/
def copyBytes (a b : Cap) : Nat → Nat → Nat → Nat → State → Option Flt × State
  | 0, _, _, _, s => (none, s)
  | fuel + 1, lo1, lo2, n, s =>
    if n = 0 then (none, s)
    else
      let m := min n (min (512 - lo1 % 512) (512 - lo2 % 512))
      match readAt s a (lo1 / 512) with
      | (.error f, s) => (some f, s)
      | (.ok (r, p), s) =>
        match readAt s b (lo2 / 512) with
        | (.error f, s) => (some f, s)
        | (.ok (t, q), s) =>
          let bs := (toBytes r 512).drop (lo1 % 512) |>.take m
          match writeAt s b (lo2 / 512) (patchRow t (lo2 % 512) bs) (carryPoison p q (lo1 % 512) (lo2 % 512) m) with
          | (.error f, s) => (some f, s)
          | (.ok _, s) => copyBytes a b fuel (lo1 + m) (lo2 + m) (n - m) s

/-- Copy the scale bytes of one element row between the entries that hold them, with the checks of a row copy (R92, R94). -/
def copyScales (s : State) (x y : Cap) (fmt i j : Nat) : Option Flt × State :=
  let n := blocksPerRow fmt
  match begin' s s.grid.ctx x pRD none with
  | (some f, s) => (some f, s)
  | (none, s) =>
    match begin' s s.grid.ctx y pWR none with
    | (some f, s) => (some f, s)
    | (none, s) =>
      if !x.copyOk y then (some ⟨St.keyFormatMismatch, { handle := y.handle }⟩, s) else copyBytes x y 4 (i * n) (j * n) n s

/-- Copy rows in ascending order; the first that fails a check ends the copy, and neither it nor its scale bytes are written (R93, R94,
R166). x and y hold the scales of a and b. -/
def copyRowsFrom (a b x y : Cap) (mx : Bool) : Nat → Nat → Nat → State → Option Flt × State
  | 0, _, _, s => (none, s)
  | n + 1, i, j, s =>
    match readAt s a i with
    | (.error f, s) => (some f, s)
    | (.ok (r, p), s) =>
      match writeFault s b j with
      | some f => (some f, s)
      | none =>
        match (if mx then copyScales s x y a.format i j else (none, s)) with
        | (some f, s) => (some f, s)
        | (none, s) =>
          match writeAt s b j r p with
          | (.error f, s) => (some f, s)
          | (.ok _, s) => copyRowsFrom a b x y mx n (i + 1) (j + 1) s

/-- A row copy with the entries that hold its scales: each row a read through the source and a write through the destination, check 4
as for a row copy (R166); a copy of no rows does nothing (R93). Checks 1 to 3 are made of the source and then of the destination, then
check 4, then check 5 row by row, source first: DESIGN CHOICE (log 124). -/
def copyRowsVia (s : State) (a b x y : Cap) (i j n : Nat) : Option Flt × State :=
  if n = 0 then (none, s)
  else
    match a.refuse s.grid.ctx pRD none with
    | some st => (some ⟨st, { handle := a.handle }⟩, s)
    | none =>
      match b.refuse s.grid.ctx pWR none with
      | some st => (some ⟨st, { handle := b.handle }⟩, s)
      | none =>
        if !a.copyOk b then (some ⟨St.keyFormatMismatch, { handle := b.handle }⟩, s)
        else
          let s := markSeen (markSeen s s.grid.ctx a pRD) s.grid.ctx b pWR
          copyRowsFrom a b x y (isMx a.format && isMx b.format) n i j s

/-- A row copy whose scale entries are captured as it starts (R92, R166). -/
def copyRows (s : State) (core : Option CoreId) (a b : Cap) (i j n : Nat) : Option Flt × State :=
  copyRowsVia s a b (scaleCap s a core) (scaleCap s b core) i j n

end Sys2Proof.Machine
end

