-- ==== Sys2Proof/Machine/LinkOps.lean ====
section
/-!
DEFINITION. Flits, credits and retry (R285 to R291), packets as bytes (R292 to R295), routes (R300 to R302, R313), and the
requests this device has outstanding (R298).
-/
namespace Sys2Proof.Machine

/-! ### Packets as flits -/

abbrev ptWrite : BitVec 4 := 0x1
abbrev ptAccumulate : BitVec 4 := 0x2
abbrev ptRead : BitVec 4 := 0x3
abbrev ptResp : BitVec 4 := 0x4
abbrev ptFetchAdd : BitVec 4 := 0x5
abbrev ptExchange : BitVec 4 := 0x6
abbrev ptNotice : BitVec 4 := 0x7
abbrev ptBarrier : BitVec 4 := 0x8

/-- Credit lane of a packet: 0 TC0, 1 TC1, 2 TC2 request, 4 TC2 response (R289, R293). -/
def packetLane (p : Packet) : Nat :=
  if p.ptype = ptResp then 4 else if p.ptype = ptAccumulate then 1 else if p.ptype = ptExchange then 0 else 2

/-- The common header (R292). -/
def packetHeader (p : Packet) : BitVec 128 :=
  word 128 [(0, 4, p.ptype.toNat), (4, 4, p.status.toNat), (8, 20, p.dst.toNat), (28, 20, p.src.toNat),
    (48, 12, p.window.toNat), (60, 4, p.nrows.toNat), (64, 16, p.wgen.toNat), (80, 24, p.tag.toNat)]

/-- The bytes of a packet (R293). -/
def packetBytes (p : Packet) : List Byte :=
  toBytes (packetHeader p) 16 ++ toBytes p.ext1 16 ++
    (if p.ptype = ptAccumulate ∨ p.ptype = ptExchange then toBytes p.ext2 16 else []) ++
    p.rows.flatMap (fun r => toBytes r 512) ++ p.blocks.flatMap (fun b => toBytes b 388) ++
    (if p.ptype = ptNotice then toBytes p.note 64 else [])

/-- Bytes cut into pieces of n, at most as many as the fuel. -/
def chunks (n : Nat) : Nat → List Byte → List (List Byte)
  | 0, _ => []
  | _ + 1, [] => []
  | f + 1, l => l.take n :: chunks n f (l.drop n)

/-- A flit's bits without SEQ, ACK and credits: kind, class, marks, stream and payload (R285, R286). -/
def flitBits (kind tc : Nat) (resp sop eop : Bool) (stream : Nat) (payload : List Byte) : BitVec 2048 :=
  BitVec.ofNat 2048 ((word 96 [(0, 2, kind), (2, 2, tc), (4, 1, b2n resp), (5, 1, b2n sop), (6, 1, b2n eop),
    (48, 16, stream)]).toNat ||| (ofBytes (payload.take 240) <<< 96))

/-- The last element of a list is changed. -/
def updLast {α : Type} (f : α → α) : List α → List α
  | [] => []
  | [x] => [f x]
  | x :: t => x :: updLast f t

/-- The flits of a packet (R285, R291). -/
def packetFlits (p : Packet) (via : Option LinkId) (win : Option Nat := none) : List Flit :=
  let lane := packetLane p
  let bs := packetBytes p
  let cs := chunks 240 (bs.length / 240 + 1) bs
  updLast (fun f => { f with retire := win }) <| (cs.zipIdx).map fun c =>
    { lane := lane, via := via,
      bits := flitBits 1 (if lane = 4 then 2 else lane) (lane == 4) (c.2 == 0) (c.2 + 1 == cs.length) 0 c.1 }

/-! ### CRC-32 (R285) -/

/-- One bit into the CRC of IEEE 802.3, whose polynomial stands reflected (log 25). -/
def crcBit (c : Word) (b : Bool) : Word := (c >>> 1) ^^^ (if bit c 0 != b then 0xEDB88320 else 0)

/-- CRC-32 of bytes, each from its low bit on. -/
def crc32 (bs : List Byte) : Word :=
  ~~~ (bs.foldl (fun c x => (List.range 8).foldl (fun c i => crcBit c (bit x i)) c) (0xFFFFFFFF : Word))

/-- CRC of a flit over its bytes 0 to 251. -/
def flitCrc (b : BitVec 2048) : Word := crc32 (toBytes (BitVec.ofNat 2016 b.toNat) 252)

/-- The CRC that a flit carries checks. -/
def crcGood (b : BitVec 2048) : Bool := fld b 2016 32 == (flitCrc b).toNat

/-! ### Sending on a link -/

/-- Receive buffer of each lane (R289). -/
def laneBuffer (l : Nat) : Nat :=
  if l = 0 ∨ l = 1 then 1024 else if l = 2 then 256 else if l = 4 then 512 else 32

def Link.up (x : Link) : Bool := x.state == .up
/-- Up, or retraining and counted as up (R301). -/
def Link.usable (x : Link) : Bool := x.state == .up || x.state == .retraining
/-- Flits leave: packets on an up link, link control also while training exchanges flits. -/
def Link.ready (x : Link) (lane : Nat) : Bool :=
  x.tx.any (fun f => f.lane == lane) && decide (0 < Tab.get 0 x.credits lane) && (x.up || (lane == 3 && x.state == .training))

/-- Weight of TC0, TC1 and TC2 request (R290). -/
def laneWeight (c : LinkCfg) (l : Nat) : Nat := if l = 0 then c.w0.toNat else if l = 1 then c.w1.toNat else c.w2.toNat

/-- The weights as the deficits of a new round. -/
def fullDeficits (c : LinkCfg) : Tab Nat := [(0, laneWeight c 0), (1, laneWeight c 1), (2, laneWeight c 2)]

/-- The first of lanes 0 to 2 after the one that sent last that has a flit, a credit and some deficit: it takes one turn. -/
def roundLane (x : Link) (d : Tab Nat) : Option (Nat × Nat × Tab Nat) :=
  ([1, 2, 3].map fun k => (x.turn + k) % 3).findSome? fun l =>
    if x.ready l && decide (0 < Tab.get 0 d l) then some (l, l, Tab.set 0 d l (Tab.get 0 d l - 1)) else none

/-- The next lane to send and the round-robin state after it: a round ends once no ready lane has deficit left (R290). -/
def chooseLane (c : LinkCfg) (x : Link) : Option (Nat × Nat × Tab Nat) :=
  if x.ready 3 then some (3, x.turn, x.deficit)
  else if x.ready 4 then some (4, x.turn, x.deficit)
  else (roundLane x x.deficit).or (roundLane x (fullDeficits c))

/-- Header fields filled at sending: SEQ, ACK, NAK and one lane's credits; then the CRC (R286, R287). -/
def stampFlit (x : Link) (bits : BitVec 2048) (seq : Nat) : BitVec 2048 × Link :=
  let cl := ((x.owed.head?).map (·.1)).getD 0
  let cc := min 255 (Tab.get 0 x.owed cl)
  let h := put bits 8 12 seq
  let h := put h 20 12 (x.rxSeq - 1).toNat
  let h := put h 32 2 (b2n x.rxAny + 2 * b2n x.nakOwed)
  let h := put h 34 11 (cl + 8 * cc)
  let h := put h 2016 32 (flitCrc h).toNat
  (h, { x with owed := Tab.set 0 x.owed cl (Tab.get 0 x.owed cl - cc), nakOwed := false, ackOwed := false })

/-- Send one chosen flit: it takes the next SEQ and a credit, and stays in the replay buffer (R287 to R289). -/
def sendFlit (x : Link) (lane turn : Nat) (deficit : Tab Nat) : Link :=
  match x.tx.find? (fun f => f.lane == lane) with
  | none => x
  | some f =>
    let (b, y) := stampFlit x f.bits x.txSeq.toNat
    { y with
      tx := dropFirst (fun (g : Flit) => g.lane == lane) x.tx,
      credits := Tab.set 0 x.credits lane (Tab.get 0 x.credits lane - 1),
      replay := x.replay ++ [{ f with bits := put f.bits 8 12 x.txSeq.toNat }],
      sent := x.sent ++ [{ lane := lane, bits := b }],
      txSeq := x.txSeq + 1, turn := turn, deficit := deficit }

/-- Send while a lane has a flit and a credit and the replay buffer has room; then one idle flit if ACK, NAK or credits
are owed (R286 to R290). -/
def pumpLink (c : LinkCfg) : Nat → Link → Link
  | 0, x => x
  | n + 1, x =>
    if 1024 ≤ x.replay.length then x
    else
      match chooseLane c x with
      | none => x
      | some (l, t, k) => pumpLink c n (sendFlit x l t k)

/-- The idle flit that carries what is owed. -/
def sendIdle (x : Link) : Link :=
  if (x.ackOwed || x.nakOwed || !x.owed.isEmpty) && (x.up || x.state == .training) then
    let (b, y) := stampFlit x 0 0
    { y with sent := y.sent ++ [{ lane := 5, bits := b }] }
  else x

/-- What is owed on a link leaves with an idle flit. -/
def State.idle (s : State) (l : LinkId) : State := s.setLink l (sendIdle (s.link l))

/-- A flit of buffer freed: one credit owed to the peer (R289). -/
def freeFlits (x : Link) (lane n : Nat) : Link :=
  if n = 0 then x else { x with owed := Tab.set 0 x.owed lane (Tab.get 0 x.owed lane + n) }

/-- ACTIVE of a window falls by one: a request has retired (R307). -/
def retireWindow (s : State) (w : Nat) : State := s.setWindow w { s.window w with active := (s.window w).active - 1 }

/-- A flit has left for good, sent or discarded: its room on the link it came in by is free, and the request that it answers has
retired (R302, R307). -/
def flitGone (s : State) (f : Flit) : State :=
  let s := match f.via with
    | some m => (s.setLink m (freeFlits (s.link m) f.lane 1)).idle m
    | none => s
  match f.retire with
  | some w => retireWindow s w
  | none => s

/-- A link sends what it can. -/
def State.pump (s : State) (l : LinkId) : State :=
  let x := s.link l
  let y := pumpLink s.fab.cfg (x.tx.length + 1) x
  ((y.replay.drop x.replay.length).foldl flitGone (s.setLink l y)).idle l

def pushFlits (s : State) (l : LinkId) (fs : List Flit) : State :=
  (s.setLink l { s.link l with tx := (s.link l).tx ++ fs }).pump l

/-! ### Routes -/

/-- This device's own ID. -/
def State.ownId (s : State) (d : BitVec 20) : Bool := s.fab.devId == some d

/-- The destination-table entry of a device; none outside the fabric or invalid (R300, R302). -/
def State.route (s : State) (d : BitVec 20) : Option Half :=
  let base := s.fab.idBase.toNat * 65536
  if base ≤ d.toNat ∧ d.toNat < base + 65536 then
    let e := Tab.get 0 s.fab.routes (d.toNat - base)
    if bit e 0 then some e else none
  else none

def linkOfNat (n : Nat) : LinkId := Fin.ofNat 32 n

/-- The link a packet takes: PRIMARY if usable, else ALTERNATE if allowed and usable (R301). -/
def State.packetLink (s : State) (d : BitVec 20) : Option LinkId :=
  match s.route d with
  | none => none
  | some e =>
    let p := linkOfNat (fld e 1 5)
    let a := linkOfNat (fld e 6 5)
    if (s.link p).usable then some p
    else if bit e 11 ∧ (s.link a).usable = true then some a
    else none

/-- The link a stream flit takes: PRIMARY only (R301). -/
def State.streamLink (s : State) (d : BitVec 20) : Option LinkId :=
  match s.route d with
  | none => none
  | some e => if (s.link (linkOfNat (fld e 1 5))).usable then some (linkOfNat (fld e 1 5)) else none

def allLinks : List LinkId := List.finRange 32

/-- The device is marked, or a directly linked peer of that ID last reported a state other than ready (R313, R455). -/
def State.outOfService (s : State) (d : BitVec 20) : Bool :=
  s.fab.marks.contains d.toNat ||
  allLinks.any fun l => let x := s.link l; x.usable && x.peerId == d && x.helloed && x.peerState != 0

/-- LOCAL_DROPPED counts what this device issued and dropped (R512). -/
def countLocalDrop (s : State) : State := { s with fab := { s.fab with localDropped := countErr s.fab.localDropped } }

/-- DROPPED_PACKETS of a link (R314). -/
def countLinkDrop (s : State) (l : LinkId) : State :=
  s.setLink l { s.link l with droppedPackets := countErr (s.link l).droppedPackets }

/-- A drop of what arrived by a link, or was issued here. -/
def countDrop (s : State) (via : Option LinkId) : State :=
  match via with
  | some l => countLinkDrop s l
  | none => countLocalDrop s

/-- A response to a request: status, detail, word, rows and their poison (R295, R296); WINDOW and WGEN are the request's
(R292 gives 0 to NOTICE and BARRIER alone; DEDUCED, log 35). -/
def response (own : BitVec 20) (p : Packet) (status detail : Nat) (word' : Word := 0) (rows : List Row := [])
    (poison : BitVec 128 := 0) : Packet :=
  { ptype := ptResp, status := BitVec.ofNat 4 status, dst := p.src, src := own, window := p.window, wgen := p.wgen, nrows := BitVec.ofNat 4 rows.length,
    tag := p.tag, ext1 := if rows.isEmpty then word 128 [(0, 32, word'.toNat), (32, 8, detail)] else poison, rows := rows }

/-- A packet does not go on from here: the room that its flits hold on the link it came in by is free, and the request that it answers
has retired. -/
def packetGone (s : State) (via : Option LinkId) (p : Packet) (win : Option Nat := none) : State :=
  (packetFlits p via win).foldl flitGone s

/-- Put a packet on its way once no answer has to be made for it: to this device's own units, or onto its link. -/
def dispatchResp (s : State) (via : Option LinkId) (p : Packet) (win : Option Nat := none) : State :=
  match s.fab.devId with
  | none => countDrop (packetGone s via p win) via
  | some own =>
    if p.dst = own then packetGone { s with fab := { s.fab with loop := s.fab.loop ++ [p] } } via p win
    else if s.outOfService p.dst then countDrop (packetGone s via p win) via
    else
      match s.packetLink p.dst with
      | none => countDrop (packetGone s via p win) via
      | some l => pushFlits s l (packetFlits p via win)

/-- Issue or forward a packet: consumed here, answered by this device with STATUS 7 or 6, or sent (R301, R302, R313). A READ_RESP that
cannot go on is dropped and counted. -/
def dispatchPacket (s : State) (via : Option LinkId) (p : Packet) (win : Option Nat := none) : State :=
  match s.fab.devId with
  | none => countDrop (packetGone s via p win) via
  | some own =>
    if p.ptype = ptResp then dispatchResp s via p win
    else if p.dst = own then packetGone { s with fab := { s.fab with loop := s.fab.loop ++ [p] } } via p
    else if s.outOfService p.dst then dispatchResp (packetGone s via p) none (response own p 7 0)
    else
      match s.packetLink p.dst with
      | none => dispatchResp (packetGone s via p) none (response own p 6 0)
      | some l => pushFlits s l (packetFlits p via)

/-! ### Requests outstanding (R298) -/

/-- A free TAG from the counter on. -/
def freeTag (used : List Nat) : Nat → Nat → Nat
  | 0, t => t
  | n + 1, t => if used.contains (t % 2 ^ 24) then freeTag used n (t + 1) else t % 2 ^ 24

/-- The suspect replay is sealed: its requests are answered at once (R443). -/
def State.sealed (s : State) (c : Option CtxId) : Bool := s.grid.replay && c.isSome && s.grid.ctx == c

/-- Issue a request under a fresh TAG; none while 16,384 are outstanding (R298). -/
def issueReq (s : State) (i : Issuer) (p : Packet) : Option (Nat × State) :=
  if 16384 ≤ s.fab.reqs.length then none
  else
    let t := freeTag (s.fab.reqs.map (·.tag)) 16384 s.fab.tagNext.toNat
    let p := { p with src := s.fab.devId.getD 0, tag := BitVec.ofNat 24 t }
    let f := { s.fab with tagNext := BitVec.ofNat 24 (t + 1), reqs := s.fab.reqs ++ [{ tag := t, issuer := i, packet := p }] }
    some (t, dispatchPacket { s with fab := f } none p)

/-! ### Stream flits (R381) -/

/-- Send the records of a link stream that are ready, packed 236 bytes to a flit (R381). -/
def flushStream (s : State) (n : Nat) : State :=
  let x := s.stream n
  let peer : BitVec 20 := BitVec.ofNat 20 (fld x.entry 32 20)
  let ps := fld x.entry 52 10
  let s := s.setStream n { x with out := [] }
  (chunks 236 (x.out.length / 236 + 1) x.out).foldl (fun s c =>
    let body := toBytes (BitVec.ofNat 32 peer.toNat) 4 ++ c ++ (if c.length < 236 then [0xFF] else [])
    if s.outOfService peer || s.fab.devId.isNone then countLocalDrop s
    else
      match s.streamLink peer with
      | none => countLocalDrop s
      | some l => pushFlits s l [{ lane := 0, bits := flitBits 2 0 false false false ps body }]) s

/-- A credit record (R381, R382). -/
def creditRecord (n : Nat) : List Byte := 0x10 :: toBytes (BitVec.ofNat 16 n) 2

end Sys2Proof.Machine
end

