-- ==== Sys2Proof/Machine/Mesh.lean ====
section
/-!
DEFINITION. The stream mesh: channel ends, routes, tokens, credits and the words that wait on channels (R190 to R220).
-/
namespace Sys2Proof.Machine

/-! ### Tables (R190, R194, R201) -/

namespace CH
def valid (e : BitVec 128) : Bool := bit e 0
def send (e : BitVec 128) : Bool := bit e 1
def elastic (e : BitVec 128) : Bool := bit e 2
def doneReq (e : BitVec 128) : Bool := bit e 3
def endpoint (e : BitVec 128) : Nat := fld e 4 2
def port (e : BitVec 128) : Nat := fld e 6 2
def vc (e : BitVec 128) : Nat := fld e 8 3
def owner (e : BitVec 128) : Nat := fld e 12 3
def spill (e : BitVec 128) : Half := BitVec.ofNat 16 (fld e 16 16)
def spillRows (e : BitVec 128) : Nat := fld e 32 12
def stream (e : BitVec 128) : Nat := fld e 64 16
end CH

namespace RT
def valid (e : Half) : Bool := bit e 0
def inPort (e : Half) : Nat := fld e 1 2
def inVc (e : Half) : Nat := fld e 3 3
def outPort (e : Half) : Nat := fld e 6 2
def outVc (e : Half) : Nat := fld e 8 3
end RT

/-- Channel table entry of a channel field: 64 to 255 name none. -/
def Core.chan (k : Core) (ch : Nat) : BitVec 128 := if ch < 64 then Tab.get 0 k.chans ch else 0

/-- Key of a (port, VC). -/
def pv (port vc : Nat) : Nat := 8 * port + vc

/-- The port that faces a port. -/
def opposite (p : Nat) : Nat := (p + 2) % 4

/-- The neighbour at a port; none at the edge of the grid (R190). -/
def neighbour (c : CoreId) (p : Nat) : Option CoreId :=
  let col := coreCol c
  let row := coreRow c
  match p with
  | 0 => if 0 < row then some (Fin.ofNat 384 (c.val - 1)) else none
  | 1 => if col < 31 then some (Fin.ofNat 384 (c.val + 12)) else none
  | 2 => if row < 11 then some (Fin.ofNat 384 (c.val + 1)) else none
  | _ => if 0 < col then some (Fin.ofNat 384 (c.val - 12)) else none

/-- The receive entry at which an inbound (port, VC) ends. -/
def recvEntry (k : Core) (port vc : Nat) : Option Nat :=
  (k.chans.find? fun e => CH.valid e.2 && !CH.send e.2 && CH.endpoint e.2 == 0 && CH.port e.2 == port && CH.vc e.2 == vc).map (·.1)

/-- The send entry of an outbound (port, VC). -/
def sendEntry (k : Core) (port vc : Nat) : Option Nat :=
  (k.chans.find? fun e => CH.valid e.2 && CH.send e.2 && CH.endpoint e.2 == 0 && CH.port e.2 == port && CH.vc e.2 == vc).map (·.1)

/-- The route that takes an inbound (port, VC). -/
def inRoute (k : Core) (port vc : Nat) : Option Nat :=
  (k.routes.find? fun e => RT.valid e.2 && RT.inPort e.2 == port && RT.inVc e.2 == vc).map (·.1)

/-- The route that leaves on an outbound (port, VC). -/
def outRoute (k : Core) (port vc : Nat) : Option Nat :=
  (k.routes.find? fun e => RT.valid e.2 && RT.outPort e.2 == port && RT.outVc e.2 == vc).map (·.1)

/-- The send entry at the head of the chain that feeds an inbound (port, VC): routes are followed backwards (R195). -/
def chainHead (s : State) : Nat → CoreId → Nat → Nat → Option (CoreId × Nat)
  | 0, _, _, _ => none
  | n + 1, c, port, vc =>
    match neighbour c port with
    | none => none
    | some d =>
      match sendEntry (s.core d) (opposite port) vc with
      | some ch => some (d, ch)
      | none =>
        match outRoute (s.core d) (opposite port) vc with
        | none => none
        | some r =>
          let e := Tab.get 0 (s.core d).routes r
          chainHead s n d (RT.inPort e) (RT.inVc e)

/-- Links of the longest chain. -/
abbrev maxChain : Nat := 1536

/-- A token on the link out of a core's port reaches the inbound wire of the neighbour. -/
def putWire (s : State) (c : CoreId) (port vc : Nat) (t : Token) : State :=
  match neighbour c port with
  | none => s
  | some d =>
    let k := s.core d
    let i := pv (opposite port) vc
    s.setCore d { k with wire := Tab.set [] k.wire i (Tab.get [] k.wire i ++ [t]) }

/-! ### Tokens as rows and records (R197 to R199, R219, R381) -/

def dataToken (tag : Half) (payload : BitVec 2048) : Token := ⟨0, tag, payload⟩

/-- A control token (R198). -/
def controlToken (ckind value : Nat) : Token :=
  ⟨1, 0, word 2048 [(0, 2, ckind), (4, 16, if ckind = 2 then 0 else if ckind = 0 then value % 2 else value)]⟩

/-- A done token of a core (R199). -/
def doneToken (c : CoreId) : Token := ⟨2, 0, word 2048 [(0, 5, coreCol c), (5, 4, coreRow c)]⟩

def Token.isData (t : Token) : Bool := t.kind == 0
def Token.isControl (t : Token) : Bool := t.kind == 1
def Token.isDone (t : Token) : Bool := t.kind == 2
def Token.ckind (t : Token) : Nat := fld t.payload 0 2
def Token.value (t : Token) : Nat := fld t.payload 4 16
def Token.isEot (t : Token) : Bool := t.isControl && t.ckind == 2
/-- The token is half 1 of a row (R200). -/
def Token.half (t : Token) : Bool := bit t.tag 15

/-- A token in a row (R219). -/
def tokenRow (t : Token) : Row :=
  BitVec.ofNat 4096 ((if t.isData then t.payload.toNat ||| (t.tag.toNat <<< 2048)
    else if t.isControl then t.payload.toNat % 2 ^ 32 else t.payload.toNat % 2 ^ 16) ||| (t.kind.toNat <<< 2064))

def rowToken (r : Row) : Token :=
  ⟨BitVec.ofNat 2 (fld r 2064 2), BitVec.ofNat 16 (fld r 2048 16), BitVec.ofNat 2048 (fld r 0 2048)⟩

/-- A token as a record of a stream flit (R381). -/
def tokenRecord (t : Token) : List Byte :=
  if t.isData then 0x00 :: toBytes t.tag 2 ++ toBytes t.payload 256
  else if t.isControl then 0x01 :: toBytes t.payload 4
  else 0x02 :: toBytes t.payload 2

/-! ### Link-stream ends (R378 to R383) -/

namespace SE
def valid (e : BitVec 128) : Bool := bit e 0
def send (e : BitVec 128) : Bool := bit e 1
def core (e : BitVec 128) : CoreId := Fin.ofNat 384 (fld e 8 5 * 12 + fld e 13 4)
def channel (e : BitVec 128) : Nat := fld e 17 6
def peer (e : BitVec 128) : BitVec 20 := BitVec.ofNat 20 (fld e 32 20)
def peerStream (e : BitVec 128) : Nat := fld e 52 10
def bufHandle (e : BitVec 128) : Half := BitVec.ofNat 16 (fld e 64 16)
def bufRows (e : BitVec 128) : Nat := fld e 80 12
def credits (e : BitVec 128) : Nat := fld e 96 12
end SE

/-- Records of a stream are put on their way (R381). -/
def streamRecords (s : State) (n : Nat) (bs : List Byte) : State :=
  flushStream (s.setStream n { s.stream n with out := (s.stream n).out ++ bs }) n

/-- The receive end returns what it owes in one credit record (R382). -/
def streamCredit (s : State) (n : Nat) : State :=
  let x := s.stream n
  if x.owed = 0 then s
  else streamRecords (s.setStream n { x with owed := 0 }) n (creditRecord x.owed)

/-- One token leaves a receive end's buffer: one credit is owed, sent at once at 32 (R382). -/
def streamPop (s : State) (n : Nat) : State :=
  let x := s.stream n
  let x := { x with buf := x.buf.drop 1, bufHead := (x.bufHead + 1) % max 1 (SE.bufRows x.entry), owed := x.owed + 1 }
  let s := s.setStream n x
  if 32 ≤ x.owed then streamCredit s n else s

/-- Address of row i of a stream's buffer. -/
def streamRowAddr (s : State) (n i : Nat) : Nat := devRowAddr (s.devEntry (SE.bufHandle (s.stream n).entry)) i

/-- A token enters the buffer: one row, used as a ring from row 0 (R382); a row of a running configuration is not written, and
faults (R233). -/
def streamPush (s : State) (n : Nat) (t : Token) : State :=
  let x := s.stream n
  let i := (x.bufHead + x.buf.length) % max 1 (SE.bufRows x.entry)
  let s := s.setStream n { x with buf := x.buf ++ [t] }
  let a := streamRowAddr s n i
  if configRow s a then faultCtx s s.grid.ctx ⟨St.configOverwrite, { handle := SE.bufHandle x.entry, index := i }⟩
  else fwWrite s a (tokenRow t)

/-! ### Channel ends -/

/-- The token at the head of a receive entry's queue; a stream buffer's row in place of it (R382); nothing in a sealed
replay (R443). -/
def chHead (s : State) (c : CoreId) (ch : Nat) : Option Token :=
  let e := (s.core c).chan ch
  if CH.endpoint e = 1 then
    if s.grid.replay then none
    else
      let x := s.stream (CH.stream e)
      if x.buf.isEmpty then none else some (rowToken (fwRead s (streamRowAddr s (CH.stream e) x.bufHead)))
  else (Tab.get [] (s.core c).rxq ch).head?

/-- One credit travels back to the sender of a chain (R216). -/
def creditBack (s : State) (c : CoreId) (port vc : Nat) : State :=
  match chainHead s maxChain c port vc with
  | none => s
  | some (d, ch) =>
    let k := s.core d
    s.setCore d { k with creditsBack := Tab.set 0 k.creditsBack ch (Tab.get 0 k.creditsBack ch + 1) }

/-- The head leaves its queue; a non-elastic channel returns its credit (R216, R218). -/
def chPop (s : State) (c : CoreId) (ch : Nat) : State :=
  let k := s.core c
  let e := k.chan ch
  if CH.endpoint e = 1 then streamPop s (CH.stream e)
  else
    let s := s.setCore c { k with rxq := Tab.set [] k.rxq ch ((Tab.get [] k.rxq ch).drop 1) }
    if CH.elastic e then s else creditBack s c (CH.port e) (CH.vc e)

/-- A send entry holds a credit (R216, R382). -/
def chCredit (s : State) (c : CoreId) (ch : Nat) : Bool :=
  let e := (s.core c).chan ch
  if CH.endpoint e = 1 then s.grid.replay || decide (0 < (s.stream (CH.stream e)).credits)
  else decide (0 < Tab.get 0 (s.core c).credits ch)

/-- Send a token on an entry that holds a credit; a sealed replay discards what a stream would send (R443). -/
def chSend (s : State) (c : CoreId) (ch : Nat) (t : Token) : State :=
  let k := s.core c
  let e := k.chan ch
  if CH.endpoint e = 1 then
    if s.grid.replay then s
    else
      let n := CH.stream e
      streamRecords (s.setStream n { s.stream n with credits := (s.stream n).credits - 1 }) n (tokenRecord t)
  else
    putWire (s.setCore c { k with credits := Tab.set 0 k.credits ch (Tab.get 0 k.credits ch - 1) }) c (CH.port e) (CH.vc e) t

/-! ### Words that wait on channels (R204 to R210) -/

/-- The first outstanding send word of a channel gives one token. -/
def spendSend (ch : Nat) : List (Nat × Nat × Bool) → List (Nat × Nat × Bool)
  | [] => []
  | (x, n, b) :: t => if x = ch then (if n ≤ 1 then t else (x, n - 1, b) :: t) else (x, n, b) :: spendSend ch t

namespace CW
def wait (w : BitVec 128) : Bool := bit w 4
def kind (w : BitVec 128) : Bool := bit w 5
def eot (w : BitVec 128) : Bool := bit w 6
def chan (w : BitVec 128) : Nat := fld w 8 8
def handle (w : BitVec 128) : Half := BitVec.ofNat 16 (fld w 16 16)
def row (w : BitVec 128) : Nat := fld w 32 32
def count (w : BitVec 128) : Nat := fld w 64 20
def tag (w : BitVec 128) : Nat := fld w 84 15
end CW

/-- A WAIT of a channel word ends with its word (R204). -/
def endWait (k : Core) : Core :=
  if (k.waiting = 4 ∧ !k.sends.any fun x => x.2.2) ∨ (k.waiting = 5 ∧ !k.recvs.any fun o => CW.wait o.word) then
    { k with waiting := 0 }
  else k

/-- Send the waiting tokens of a channel while it holds credits, oldest first (R210, R216). -/
def pumpChannel (c : CoreId) (ch : Nat) : Nat → State → State
  | 0, s => s
  | n + 1, s =>
    match Tab.get [] (s.core c).txq ch with
    | [] => s
    | t :: rest =>
      if chCredit s c ch then
        let k := s.core c
        let s := s.setCore c (endWait { k with txq := Tab.set [] k.txq ch rest, sends := spendSend ch k.sends })
        pumpChannel c ch n (chSend s c ch t)
      else s

/-- Put tokens at the tail of a channel's waiting tokens, and send what can be sent. -/
def queueTokens (s : State) (c : CoreId) (ch : Nat) (ts : List Token) : State :=
  let k := s.core c
  let q := Tab.get [] k.txq ch ++ ts
  pumpChannel c ch q.length (s.setCore c { k with txq := Tab.set [] k.txq ch q })

/-- The two tokens of a row (R200). -/
def rowTokens (tag : Nat) (r : Row) : List Token :=
  [dataToken (BitVec.ofNat 16 (tag % 2 ^ 15)) (BitVec.ofNat 2048 (fld r 0 2048)),
   dataToken (BitVec.ofNat 16 (tag % 2 ^ 15 + 2 ^ 15)) (BitVec.ofNat 2048 (fld r 2048 2048))]


/-- A row of a receive word: a register, or the next entry row (R204, R207, R208). -/
def recvRow (s : State) (c : CoreId) (o : RecvOp) (r : Row) : Option Flt × State :=
  if CW.kind o.word then (none, s.setCore c ((s.core c).setVreg (CW.row o.word % 64) r))
  else accessWrite s s.grid.ctx o.cap none (CW.row o.word + o.rows) [(r, 0)]

/-- What a receive word does with the head of its channel: wait, go on, complete or fault (R208, R209). -/
inductive RecvStep where
  | wait
  | go (o : RecvOp) (s : State)
  | complete (s : State)
  | fault (f : Flt) (s : State)

def recvStep (s : State) (c : CoreId) (o : RecvOp) : RecvStep :=
  let w := o.word
  let ch := CW.chan w
  let mis : Flt := ⟨St.tokenMismatch, { index := ch }⟩
  if !CW.eot w && decide (CW.count w ≤ o.rows) then .complete s
  else
    match chHead s c ch with
    | none => .wait
    | some t =>
      if t.isData then
        if o.half.isNone && decide (CW.count w ≤ o.rows) then .fault ⟨St.shapeOverPlan, { index := ch }⟩ s
        else
          match o.half with
          | none => if t.half then .fault mis s else .go { o with half := some t.payload } (chPop s c ch)
          | some lo =>
            if !t.half then .fault mis s
            else
              match recvRow (chPop s c ch) c o (BitVec.ofNat 4096 (lo.toNat ||| (t.payload.toNat <<< 2048))) with
              | (some f, s) => .fault f s
              | (none, s) =>
                let o := { o with rows := o.rows + 1, half := none }
                if !CW.eot w && decide (CW.count w ≤ o.rows) then .complete s else .go o s
      else if t.isEot && CW.eot w && o.half.isNone then
        let s := chPop s c ch
        .complete (s.setCore c ((s.core c).setLane (fld w 84 6) (fld w 90 7) o.rows))
      else .fault mis s

/-- A word that the sequencer is stalled on takes nothing while deferred work runs: the foreground program continues when that
suspends or ends (R242). -/
def recvHeld (k : Core) (o : RecvOp) : Bool := CW.wait o.word && k.tile.any fun t => t.deferred

/-- Run the receive words of a core: a word takes tokens only when no earlier word of its channel is outstanding (R210). -/
def pumpRecvs (c : CoreId) : Nat → List RecvOp → List RecvOp → State → State
  | 0, before, after, s => s.setCore c { s.core c with recvs := before ++ after }
  | _ + 1, before, [], s => s.setCore c (endWait { s.core c with recvs := before })
  | n + 1, before, o :: after, s =>
    if recvHeld (s.core c) o || before.any fun b => CW.chan b.word == CW.chan o.word then pumpRecvs c n (before ++ [o]) after s
    else
      match recvStep s c o with
      | .wait => pumpRecvs c n (before ++ [o]) after s
      | .go o s => pumpRecvs c n before (o :: after) s
      | .complete s => pumpRecvs c n before after s
      | .fault f s => faultCore (s.setCore c { s.core c with recvs := before ++ after }) c o.word f

/-- Let the receive words of a core take what has arrived. -/
def runRecvs (s : State) (c : CoreId) : State :=
  let k := s.core c
  let held := (k.rxq.map fun q => q.2.length).sum + (s.streams.map fun q => q.2.buf.length).sum
  pumpRecvs c (held + k.recvs.length + 1) [] k.recvs s

/-- R206: the entry named by a word is valid, of OWNER 0 and of the wanted direction. -/
def chanOk (k : Core) (ch : Nat) (send : Bool) : Bool :=
  let e := k.chan ch
  CH.valid e && CH.owner e == 0 && CH.send e == send

/-- The foreground TILE of a core still has tokens to send on a channel (R210). -/
def tileOwns (k : Core) (ch : Nat) : Bool :=
  k.tile.any fun t => !t.deferred &&
    ((fld t.desc 13 2 == 1 && fld t.desc 528 8 == ch) || (bit t.desc 15 && fld t.desc 536 8 == ch))

/-- A field condition of CSEND (send true) or CRECV fails: the channel, KIND with COUNT, or rows outside the core's own memory
(R204, R206, R207). -/
def rowWordBad (send : Bool) (w : BitVec 128) (s : State) (c : CoreId) : Bool :=
  let cap := capture s (some c) (CW.handle w)
  !chanOk (s.core c) (CW.chan w) send || (CW.kind w && CW.count w != 1) || (!CW.kind w && cap.valid && !ownEntry c cap)

/-- Tokens of words other than CSEND that wait on a channel behind those of its outstanding CSENDs (R210). -/
def foreignTokens (k : Core) (ch : Nat) : Nat :=
  (Tab.get [] k.txq ch).length - ((k.sends.filter fun x => x.1 == ch).map fun x => x.2.1).sum

/-- CSEND (R200, R204, R206, R207). -/
def csend (w : BitVec 128) (s : State) (c : CoreId) : Option (Option Flt × State) :=
  let k := s.core c
  let ch := CW.chan w
  let n := CW.count w
  if rowWordBad true w s c then some (some seqInvalid, s)
  else
    let cap := capture s (some c) (CW.handle w)
    if 4 ≤ k.sends.length ∨ tileOwns k ch = true then none
    else if n = 0 then some (none, s)
    else
      let (rows, f, s) :=
        if CW.kind w then ([k.vreg (CW.row w % 64)], none, s) else accessRead s s.grid.ctx cap none (CW.row w) n
      let ts := (rows.zipIdx).flatMap fun r => rowTokens (CW.tag w + r.2) r.1
      let k := s.core c
      let s := s.setCore c { k with sends := if ts.isEmpty then k.sends else k.sends ++ [(ch, foreignTokens k ch + ts.length, CW.wait w)] }
      let s := queueTokens s c ch ts
      let k := s.core c
      some (f, s.setCore c { k with waiting := if k.sends.any fun x => x.2.2 then 4 else k.waiting })

/-- CRECV (R204, R206 to R208). -/
def crecv (w : BitVec 128) (s : State) (c : CoreId) : Option (Option Flt × State) :=
  let k := s.core c
  if rowWordBad false w s c then some (some seqInvalid, s)
  else
    let cap := capture s (some c) (CW.handle w)
    if 4 ≤ k.recvs.length then none
    else if CW.count w = 0 then some (none, s)
    else
      let s := runRecvs (s.setCore c { k with recvs := k.recvs ++ [{ word := w, cap := cap }] }) c
      let k := s.core c
      some (none, s.setCore c { k with waiting := if k.recvs.any fun o => CW.wait o.word then 5 else k.waiting })

/-- CTOK: the sequencer holds the word until its token can leave (R205, R210; log 14). -/
def ctok (w : BitVec 128) (s : State) (c : CoreId) : Option (Option Flt × State) :=
  let k := s.core c
  let ch := CW.chan w
  if !chanOk k ch true then some (some seqInvalid, s)
  else if !(Tab.get [] k.txq ch).isEmpty || tileOwns k ch || !chCredit s c ch then none
  else
    let v := if bit w 7 then k.lane (fld w 32 6) (fld w 38 7) % 2 ^ 16 else fld w 16 16
    let t := if fld w 5 2 = 3 then doneToken c else controlToken (fld w 5 2) v
    some (none, chSend s c ch t)

/-- CTAKE (R205, R209): with no token at the head the sequencer stalls, and the channel is what it stalls on (R242). -/
def ctake (w : BitVec 128) (s : State) (c : CoreId) : Option (Option Flt × State) :=
  let k := s.core c
  let ch := CW.chan w
  if !chanOk k ch false then some (some seqInvalid, s)
  else if k.recvs.any fun o => CW.chan o.word == ch then none
  else
    match chHead s c ch with
    | none => none
    | some t =>
      let want := fld w 5 2
      if (if want = 3 then t.isDone else t.isControl && t.ckind == want) then
        let v := if t.isDone then fld t.payload 0 16 else fld t.payload 0 32
        let s := chPop s c ch
        some (none, s.setCore c ((s.core c).setLane (fld w 32 6) (fld w 38 7) v))
      else some (some ⟨St.tokenMismatch, { index := ch }⟩, s)

/-! ### Arrival, spill and routes (R192, R195, R218 to R220) -/

/-- The spill entry of a channel, captured at the hinge (R219). -/
def Core.spillCap (k : Core) (ch : Nat) : Cap := Tab.get {} k.spillCaps ch

/-- Move the spill head into queue slots 0 to 11: the spill row is read as a spill operation (R218, R219). The manual's table of
R97 names no spill unit; a poisoned row is consumed here, as a token carries no poison: DESIGN CHOICE (log 128). -/
def refill (s : State) (c : CoreId) (ch : Nat) : State :=
  let k := s.core c
  let e := k.chan ch
  let q := Tab.get [] k.rxq ch
  match Tab.get [] k.spill ch with
  | [] => s
  | _ :: rest =>
    if 12 ≤ q.length then s
    else
      let h := Tab.get 0 k.spillHead ch
      let cap := k.spillCap ch
      match begin' s s.grid.ctx cap pSPILL none with
      | (some f, s) => faultCore s c 0 { f with info := { f.info with index := h } }
      | (none, s) =>
        match consumeAt s cap h with
        | (.error f, s) => faultCore s c 0 f
        | (.ok r, s) =>
          let k := s.core c
          s.setCore c { k with
            rxq := Tab.set [] k.rxq ch (q ++ [rowToken r]), spill := Tab.set [] k.spill ch rest,
            spillHead := Tab.set 0 k.spillHead ch ((h + 1) % max 1 (CH.spillRows e)) }

/-- A token is placed at an elastic channel: in slots 0 to 11, or in a spill row; past the last row it overflows (R218 to
R220). -/
def placeElastic (s : State) (c : CoreId) (ch : Nat) (t : Token) : State :=
  let e := (s.core c).chan ch
  let n := CH.spillRows e
  let s := if (Tab.get [] (s.core c).spill ch).length = n then refill s c ch else s
  let k := s.core c
  let q := Tab.get [] k.rxq ch
  let sp := Tab.get [] k.spill ch
  if sp.isEmpty ∧ q.length < 12 then
    creditBack (s.setCore c { k with rxq := Tab.set [] k.rxq ch (q ++ [t]) }) c (CH.port e) (CH.vc e)
  else if n ≤ sp.length then
    faultCore s c 0 ⟨St.channelOverflow, { index := ch, aux := n }⟩
  else
    let cap := k.spillCap ch
    let i := (Tab.get 0 k.spillHead ch + sp.length) % max 1 n
    match begin' s s.grid.ctx cap pSPILL none with
    | (some f, s) => faultCore s c 0 { f with info := { f.info with index := i } }
    | (none, s) =>
      match writeAt s cap i (tokenRow t) 0 with
      | (.error f, s) => faultCore s c 0 f
      | (.ok _, s) =>
        let k := s.core c
        creditBack (s.setCore c { k with spill := Tab.set [] k.spill ch (sp ++ [t]) }) c (CH.port e) (CH.vc e)

/-- A token arrives at a core: at the receive entry of its (port, VC) it is checked and queued, at a route it enters the
route's register when that is empty (R192, R195). -/
def arrive (s : State) (c : CoreId) (port vc : Nat) (parityError : Bool) : State :=
  let k := s.core c
  let i := pv port vc
  match Tab.get [] k.wire i with
  | [] => s
  | t :: rest =>
    let taken := s.setCore c { k with wire := Tab.set [] k.wire i rest }
    match recvEntry k port vc with
    | some ch =>
      if parityError then faultCore taken c 0 ⟨St.operandParity, { index := ch }⟩
      else if CH.elastic (k.chan ch) then runRecvs (placeElastic taken c ch t) c
      else
        let k := taken.core c
        runRecvs (taken.setCore c { k with rxq := Tab.set [] k.rxq ch (Tab.get [] k.rxq ch ++ [t]) }) c
    | none =>
      match inRoute k port vc with
      | none => s
      | some r =>
        if (Tab.get [] k.routeReg r).isEmpty then
          taken.setCore c { taken.core c with routeReg := Tab.set [] k.routeReg r [t] }
        else s

/-- A route moves one token on: the one its register holds, or the next of its inbound wire through the register
(R195). -/
def forwardRoute (s : State) (c : CoreId) (r : Nat) : State :=
  let e := Tab.get 0 (s.core c).routes r
  if !RT.valid e then s
  else
    let s := if (Tab.get [] (s.core c).routeReg r).isEmpty then arrive s c (RT.inPort e) (RT.inVc e) false else s
    let k := s.core c
    match Tab.get [] k.routeReg r with
    | [] => s
    | t :: _ => putWire (s.setCore c { k with routeReg := Tab.set [] k.routeReg r [] }) c (RT.outPort e) (RT.outVc e) t

/-- A credit reaches the sender of a channel, which sends what waits for it (R216). -/
def creditArrive (s : State) (c : CoreId) (ch : Nat) : State :=
  let k := s.core c
  let n := Tab.get 0 k.creditsBack ch
  if n = 0 then s
  else
    let s := s.setCore c { k with
      creditsBack := Tab.set 0 k.creditsBack ch (n - 1), credits := Tab.set 0 k.credits ch (Tab.get 0 k.credits ch + 1) }
    pumpChannel c ch 1 s

end Sys2Proof.Machine
end

