-- ==== Sys2Proof/Machine/Tiles.lean ====
section
/-!
DEFINITION. Tiling descriptors: fields (R170, R171), the checks of R173 and R241, and the order of tiles (R176, R180, R181).
-/
namespace Sys2Proof.Machine

/-! ### Fields -/

namespace TD
def fmt (d : Row) : Nat := fld d 4 5
def path (d : Row) : Bool := bit d 9
def comp (d : Row) : Bool := bit d 10
def grouped (d : Row) : Bool := bit d 11
def work (d : Row) : Bool := bit d 12
def outkind (d : Row) : Nat := fld d 13 2
def doneEn (d : Row) : Bool := bit d 15
/-- Planned extents by dimension code: 0 M, 1 N, 2 K, 3 G. -/
def plan (d : Row) (x : Nat) : Nat := fld d (32 + 32 * x) 32
/-- Home handles: 0 A, 1 B, 2 C, 3 the group list. -/
def handle (d : Row) (i : Nat) : Half := BitVec.ofNat 16 (fld d (160 + 16 * i) 16)
def first (d : Row) (i : Nat) : Nat := fld d (224 + 64 * i) 32
def stride (d : Row) (i : Nat) : Nat := fld d (256 + 64 * i) 32
def workHandle (d : Row) : Half := BitVec.ofNat 16 (fld d 416 16)
def chunk (d : Row) : Nat := fld d 432 16
def workWord (d : Row) : Nat := fld d 448 32
def accBase (d : Row) : Nat := fld d 480 9
def epiAddr (d : Row) : Nat := fld d 496 16
def epiLen (d : Row) : Nat := fld d 512 16
def outChannel (d : Row) : Nat := fld d 528 8
def doneChannel (d : Row) : Nat := fld d 536 8
/-- Field of level record k. -/
def lv (d : Row) (k lo w : Nat) : Nat := fld d (1024 + 256 * k + lo) w
/-- Tile extent at a level by dimension code; the plan at level 3. -/
def ext (d : Row) (k x : Nat) : Nat := if k = 3 then plan d x else if x = 3 then lv d k 96 16 else lv d k (32 * x) 32
def order (d : Row) (k : Nat) : List Nat := [lv d k 112 2, lv d k 114 2, lv d k 116 2, lv d k 118 2]
def curve (d : Row) (k : Nat) : Nat := if k = 1 then 0 else lv d k 120 2
def stage (d : Row) (k : Nat) : Bool := lv d k 122 1 == 1
def bufs (d : Row) (k : Nat) : Nat := 1 + lv d k 123 1
/-- Staging handles: 0 SA, 1 SB, 2 SC. -/
def staging (d : Row) (k i : Nat) : Half := BitVec.ofNat 16 (lv d k (128 + 16 * i) 16)
/-- Sub-tile count c_X(k) of R171. -/
def count (d : Row) (k x : Nat) : Nat :=
  if k = 3 then ceilDiv (plan d x) (ext d 2 x) else ext d k x / ext d (k - 1) x
end TD

/-! Members of a group list (R181). -/
namespace GE
def handle (e : BitVec 256) (i : Nat) : Half := BitVec.ofNat 16 (fld e (16 * i) 16)
def m (e : BitVec 256) : Nat := fld e 64 32
def first (e : BitVec 256) (i : Nat) : Nat := fld e (96 + 32 * i) 32
end GE

/-- The one member of a descriptor without a group list, in the form of a list entry. -/
def soleMember (d : Row) (m : Nat) : BitVec 256 :=
  word 256 [(0, 16, (TD.handle d 0).toNat), (16, 16, (TD.handle d 1).toNat), (32, 16, (TD.handle d 2).toNat), (64, 32, m),
    (96, 32, TD.first d 0), (128, 32, TD.first d 1), (160, 32, TD.first d 2)]

/-! ### Entries captured at the start (R175) -/

/-- Places of the entries in TileRun.caps: level 1 SA, SB, SC, level 2 SA, SB, the work counter, then A, B, C of each
member. -/
def tileCaps (s : State) (c : CoreId) (d : Row) (members : List (BitVec 256)) : List Cap :=
  let cap := capture s (some c)
  [cap (TD.staging d 1 0), cap (TD.staging d 1 1), cap (TD.staging d 1 2), cap (TD.staging d 2 0), cap (TD.staging d 2 1),
    cap (TD.workHandle d)] ++ members.flatMap fun e => [cap (GE.handle e 0), cap (GE.handle e 1), cap (GE.handle e 2)]

def TileRun.cap (t : TileRun) (i : Nat) : Cap := t.caps.getD i {}
/-- The entry that holds the scales of a captured entry. -/
def TileRun.scale (t : TileRun) (i : Nat) : Cap := t.scales.getD i {}
/-- Place of the home entry of member g: 0 A, 1 B, 2 C. -/
def homeAt (g i : Nat) : Nat := 6 + 3 * g + i
def TileRun.home (t : TileRun) (g i : Nat) : Cap := t.cap (homeAt g i)
def TileRun.member (t : TileRun) (g : Nat) : BitVec 256 := t.members.getD g 0
/-- Run-time M of a member. -/
def TileRun.m (t : TileRun) (g : Nat) : Nat := GE.m (t.member g)
def TileRun.first (t : TileRun) (g i : Nat) : Nat := GE.first (t.member g) i

/-- Elements in a row of the operands' format (R172). -/
def TileRun.e (t : TileRun) : Nat := elemsPerRow (TD.fmt t.desc)
/-- Elements in a row of C: of the staging entry's format where C is RAW. -/
def eOut (c sc : Cap) : Nat := elemsPerRow (if c.format = 0 then sc.format else c.format)
def TileRun.eC (t : TileRun) (g : Nat) : Nat := eOut (t.home g 2) (t.cap 2)

/-! ### The checks of R173 -/

/-- Extent of a level in the segment dimension and along a segment, of A (false) or B (R172). -/
def segExt (d : Row) (k : Nat) (b : Bool) : Nat × Nat :=
  if !b then (TD.ext d k 0, TD.ext d k 2)
  else if TD.path d then (TD.ext d k 2, TD.ext d k 1) else (TD.ext d k 1, TD.ext d k 2)

/-- Rows of one staging buffer (R172). -/
def bufRows (d : Row) (k : Nat) (b : Bool) : Nat :=
  let (x, y) := segExt d k b
  x * y / elemsPerRow (TD.fmt d)

/-- Rows of one output buffer. -/
def outRows (d : Row) (e : Nat) : Nat := TD.ext d 1 0 * TD.ext d 1 1 / e

def check1 (d : Row) : Bool :=
  fld d 0 4 == 1 && decide (2 ≤ TD.fmt d) && decide (TD.fmt d ≤ 0x0B) && TD.outkind d != 3 &&
    decide (1 ≤ TD.plan d 3) && decide (TD.plan d 3 ≤ 4096) && (TD.grouped d || TD.plan d 3 == 1)

def check2 (d : Row) : Bool :=
  let tm := TD.ext d 0 0
  let tn := TD.ext d 0 1
  let tk := TD.ext d 0 2
  decide (1 ≤ tm) && decide (tm ≤ (if TD.comp d then 256 else 512)) && decide (1 ≤ tn) && decide (tn ≤ 128) &&
    decide (1 ≤ tk) && decide (tk ≤ maxK (TD.fmt d)) && TD.ext d 0 3 == 1 && (!isMx (TD.fmt d) || tk % 32 == 0)

def check3 (d : Row) : Bool :=
  [1, 2].all fun k => [0, 1, 2, 3].all fun x => TD.ext d k x != 0 && TD.ext d k x % TD.ext d (k - 1) x == 0

/-- Check 4 for the members given: extents, strides and FIRSTs are multiples of E. -/
def check4 (d : Row) (members : List (BitVec 256 × Nat)) : Bool :=
  let e := elemsPerRow (TD.fmt d)
  (!(TD.stage d 1 || TD.stage d 2) ||
    (TD.stride d 0 % e == 0 && TD.stride d 1 % e == 0 &&
      members.all fun g => GE.first g.1 0 % e == 0 && GE.first g.1 1 % e == 0)) &&
  ([1, 2].all fun k => !TD.stage d k || ((segExt d k false).2 % e == 0 && (segExt d k true).2 % e == 0)) &&
  (TD.outkind d == 2 || members.all fun g =>
    TD.ext d 1 1 % g.2 == 0 && TD.stride d 2 % g.2 == 0 && GE.first g.1 2 % g.2 == 0)

/-- Check 6: G before K in a permutation, M and N adjacent on a curve; CURVE 3 is reserved. -/
def check6 (d : Row) : Bool :=
  [1, 2, 3].all fun k =>
    let o := TD.order d k
    let at' := fun x => o.findIdx (· == x)
    ([0, 1, 2, 3].all fun x => o.contains x) && decide (at' 3 < at' 2) && TD.curve d k != 3 &&
      (TD.curve d k == 0 || at' 0 == at' 1 + 1 || at' 1 == at' 0 + 1)

/-- LIVE of R173. -/
def tileLive (d : Row) : Nat :=
  let c := TD.count d
  let after := fun k x => decide ((TD.order d k).findIdx (· == 2) < (TD.order d k).findIdx (· == x))
  let top := fun k => (if after k 0 then c k 0 else 1) * (if after k 1 then c k 1 else 1)
  if 1 < c 3 2 then c 1 0 * c 1 1 * c 2 0 * c 2 1 * top 3
  else if 1 < c 2 2 then c 1 0 * c 1 1 * top 2
  else if 1 < c 1 2 then top 1
  else 1

def accRoom (d : Row) : Nat := (if TD.comp d then 256 else 512) - TD.accBase d

def check7 (d : Row) : Bool := decide (tileLive d * TD.ext d 0 0 ≤ accRoom d)

/-- Check 8: the entry of SC holds the largest tile, whatever format of C the members' outputs take. -/
def check8 (c : CoreId) (d : Row) (caps : List Cap) (eCs : List Nat) : Bool :=
  let cap := fun i => caps.getD i {}
  let inCore := fun i n => (cap i).valid && ownEntry c (cap i) && decide (TD.bufs d 1 * n ≤ (cap i).rows)
  let inChip := fun i n => (cap i).valid && (cap i).tier == 1 && decide (TD.bufs d 2 * n ≤ (cap i).rows)
  (!TD.stage d 1 || (inCore 0 (bufRows d 1 false) && inCore 1 (bufRows d 1 true))) &&
    (!TD.stage d 2 || (inChip 3 (bufRows d 2 false) && inChip 4 (bufRows d 2 true))) &&
    (TD.outkind d == 2 || (inCore 2 0 && eCs.all fun e => inCore 2 (outRows d e)))

def check9 (d : Row) (caps : List Cap) : Bool :=
  !TD.work d || (TD.count d 3 2 == 1 && decide (1 ≤ TD.chunk d) && (caps.getD 5 {}).valid && (caps.getD 5 {}).tier == 1)

/-- Check 5 for the members' home entries. -/
def check5 (c : CoreId) (d : Row) (caps : List Cap) (n : Nat) : Bool :=
  TD.stage d 1 || (List.range n).all fun g => ownEntry c (caps.getD (6 + 3 * g) {}) && ownEntry c (caps.getD (7 + 3 * g) {})

/-- The first failing check of R173 of those that the descriptor alone decides before its members are known. -/
def tileCheckFirst (d : Row) : Option Nat :=
  if !check1 d then some 1
  else if !check2 d then some 2
  else if !check3 d then some 3
  else none

/-- The first failing check of R173, in its order, for every member of the run. -/
def tileCheck (c : CoreId) (d : Row) (caps : List Cap) (members : List (BitVec 256)) : Option Nat :=
  let ms := (members.zipIdx).map fun g => (g.1, eOut (caps.getD (homeAt g.2 2) {}) (caps.getD 2 {}))
  match tileCheckFirst d with
  | some n => some n
  | none =>
    if !check4 d ms then some 4
    else if !check5 c d caps members.length then some 5
    else if !check6 d then some 6
    else if !check7 d then some 7
    else if !check8 c d caps (ms.map (·.2)) then some 8
    else if !check9 d caps then some 9
    else none

/-- A deferred descriptor splits no K above L1, sends nothing and has no done token (R241). -/
def deferredOk (d : Row) : Bool :=
  TD.count d 2 2 == 1 && TD.count d 3 2 == 1 && (TD.outkind d == 0 || TD.outkind d == 2) && !TD.doneEn d

/-! ### Curves (R180) -/

/-- Smallest p with 2^p at least n, up to the fuel. -/
def log2Up (n : Nat) : Nat → Nat → Nat
  | 0, p => p
  | f + 1, p => if n ≤ 2 ^ p then p else log2Up n f (p + 1)

def morton (d : Nat) : Nat × Nat :=
  (List.range 16).foldl (fun (r : Nat × Nat) b =>
    (r.1 ||| (((d >>> (2 * b + 1)) % 2) <<< b), r.2 ||| (((d >>> (2 * b)) % 2) <<< b))) (0, 0)

def hilbertFrom : Nat → Nat → Nat → Nat → Nat → Nat × Nat
  | 0, _, _, m, n => (m, n)
  | f + 1, t, s, m, n =>
    let rx := t / 2 % 2
    let ry := (t ^^^ rx) % 2
    let (m, n) :=
      if ry = 0 then
        let (m, n) := if rx = 1 then (s - 1 - m, s - 1 - n) else (m, n)
        (n, m)
      else (m, n)
    hilbertFrom f (t / 4) (2 * s) (m + s * rx) (n + s * ry)

def hilbert (d p : Nat) : Nat × Nat := hilbertFrom p d 1 0 0

/-- Cells of the grid in the order of a curve. -/
def visit (gm gn curve : Nat) : List (Nat × Nat) :=
  let p := log2Up (max gm gn) 32 0
  (List.range (2 ^ (2 * p))).filterMap fun d =>
    let (m, n) := if curve = 1 then morton d else hilbert d p
    if m < gm ∧ n < gn then some (m, n) else none

/-! ### Tiles in order (R176, R180) -/

/-- Largest run-time M of the members of a range of groups. -/
def maxM (ms : List Nat) (g n : Nat) : Nat := ((ms.drop g).take n).foldl max 0

/-- A box cut to sub-tile i of a dimension with extent x. -/
def Box.cutM (b : Box) (i x : Nat) : Box := { b with m := b.m + i * x, vm := min x (b.vm - i * x) }
def Box.cutN (b : Box) (i x : Nat) : Box := { b with n := b.n + i * x, vn := min x (b.vn - i * x) }
def Box.cutK (b : Box) (i x : Nat) : Box := { b with k := b.k + i * x, vk := min x (b.vk - i * x) }
/-- A cut in G takes the M of the groups that remain. -/
def Box.cutG (ms : List Nat) (b : Box) (i x : Nat) : Box :=
  let g := b.g + i * x
  let n := min x (b.vg - i * x)
  { b with g := g, vg := n, vm := min b.vm (maxM ms g n - b.m) }

/-- The sub-tiles of a box, loops outermost first: 0 M, 1 N, 2 K, 3 G, 4 M and N along a curve. A product with K = 0 has
one sub-tile of length 0 (R183). -/
def subTiles (ms : List Nat) (ext : Nat → Nat) (curve : Nat) : List Nat → Box → List Box
  | [], b => if b.vm = 0 ∨ b.vn = 0 then [] else [b]
  | o :: t, b =>
    let rest := subTiles ms ext curve t
    match o with
    | 0 => (List.range (ceilDiv b.vm (ext 0))).flatMap fun i => rest (b.cutM i (ext 0))
    | 1 => (List.range (ceilDiv b.vn (ext 1))).flatMap fun i => rest (b.cutN i (ext 1))
    | 2 => if b.vk = 0 then rest b else (List.range (ceilDiv b.vk (ext 2))).flatMap fun i => rest (b.cutK i (ext 2))
    | 3 => (List.range (ceilDiv b.vg (ext 3))).flatMap fun i => rest (b.cutG ms i (ext 3))
    | _ => (visit (ceilDiv b.vm (ext 0)) (ceilDiv b.vn (ext 1)) curve).flatMap fun p =>
        rest ((b.cutM p.1 (ext 0)).cutN p.2 (ext 1))

/-- ORDER with its M and N replaced by one loop at the outer of the two where a curve runs. -/
def loopCodes (order : List Nat) (curve : Nat) : List Nat :=
  if curve = 0 then order
  else
    let outer := if order.findIdx (· == 0) < order.findIdx (· == 1) then 0 else 1
    (order.filter fun x => x != 1 - outer).map fun x => if x = outer then 4 else x

/-- Sub-tiles of a level-k box. -/
def levelTiles (d : Row) (ms : List Nat) (k : Nat) (b : Box) : List Box :=
  subTiles ms (TD.ext d (k - 1)) (TD.curve d k) (loopCodes (TD.order d k) (TD.curve d k)) b

/-- Marks the last output tile of each L1 output tile (R179). -/
def markEnds : List L0Tile → List L0Tile × List (Nat × Nat × Nat)
  | [] => ([], [])
  | t :: rest =>
    let (out, seen) := markEnds rest
    let key := (t.t0.g, t.t1.m, t.t1.n)
    if t.lastK ∧ !seen.contains key then ({ t with endL1 := true } :: out, key :: seen) else (t :: out, seen)

/-- L0 tiles of an L2 tile, in order. -/
def tilesOfL2 (d : Row) (ms : List Nat) (kTotal : Nat) (b2 : Box) : List L0Tile :=
  (markEnds ((levelTiles d ms 2 b2).flatMap fun b1 => (levelTiles d ms 1 b1).map fun b0 =>
    { t0 := b0, t1 := b1, t2 := b2, firstK := b0.k == 0, lastK := b0.k + b0.vk == kTotal, endL1 := false })).1

/-- L2 tiles of the whole product, numbered in the order of the L3 loop (R187). -/
def l2Tiles (d : Row) (ms : List Nat) (n k g : Nat) : List Box :=
  levelTiles d ms 3 ⟨0, 0, 0, 0, maxM ms 0 g, n, k, g⟩

end Sys2Proof.Machine
end

