-- ==== Sys2Proof/Machine/TileOps.lean ====
section
/-!
DEFINITION. Running a tiling descriptor (R174 to R187) and deferred work (R240 to R244).
-/
namespace Sys2Proof.Machine

/-! ### Start (R175, R182, R206, R241) -/

def tileInvalid (check : Nat) : Flt := ⟨St.tileDescriptorInvalid, { aux := check }⟩

/-- The members of a group list: its rows are read under R92 (R181, R182). -/
def readMembers (s : State) (c : CoreId) (d : Row) (g : Nat) : Except Flt (List (BitVec 256)) × State :=
  match accessRead s s.grid.ctx (capture s (some c) (TD.handle d 3)) none 0 (ceilDiv g 16) with
  | (rows, none, s) =>
    (.ok ((List.range g).map fun i => BitVec.ofNat 256 (fld (rows.getD (i / 16) 0) (256 * (i % 16)) 256)), s)
  | (_, some f, s) => (.error f, s)

/-- The members of a run: the one of the descriptor with the shape's M, or those of the group list, of which no more than the plan
holds are read (R181, R182). -/
def tileMembers (s : State) (c : CoreId) (d : Row) (m g : Nat) : Except Flt (List (BitVec 256)) × State :=
  if TD.grouped d then readMembers s c d (min g (TD.plan d 3)) else (.ok [soleMember d m], s)

/-- What of the run-time shape lies beyond the plan, by dimension code, and for M the member (R182). -/
def shapeBeyond (d : Row) (n k g : Nat) (ms : List (BitVec 256)) : Option (Nat × Nat) :=
  if TD.plan d 1 < n then some (1, 0)
  else if TD.plan d 2 < k then some (2, 0)
  else if TD.plan d 3 < g then some (3, 0)
  else (ms.findIdx? fun e => decide (TD.plan d 0 < GE.m e)).map fun i => (0, i)

/-- The run that a descriptor makes of its members and shape, its entries captured (R175, R176). -/
def makeRun (s : State) (c : CoreId) (w : BitVec 128) (d : Row) (caps : List Cap) (ms : List (BitVec 256)) (n k g : Nat)
    (deferred : Bool) : TileRun :=
  let mm := ms.map GE.m
  let boxes := l2Tiles d mm n k g
  let lists := boxes.map (tilesOfL2 d mm k)
  { word := w, desc := d, caps := caps, scales := caps.map fun x => scaleCap s x (some c), members := ms,
    work := if TD.work d then [] else lists.flatten, l2 := if TD.work d then lists else [],
    claimsDone := !TD.work d || lists.isEmpty, deferred := deferred }

/-- The start of a run: the descriptor row, its checks in the order of R173, which look at the members of its group list, its
channels, the shape, and the run it makes. -/
def startTile (s : State) (c : CoreId) (w : BitVec 128) (shape : BitVec 128) (deferred : Bool) :
    Except Flt TileRun × State :=
  match accessRead s s.grid.ctx (capture s (some c) (BitVec.ofNat 16 (fld w 16 16))) none (fld w 32 32) 1 with
  | (_, some f, s) => (.error f, s)
  | (rows, none, s) =>
    let d := rows.getD 0 0
    let x := fun i => if bit w 11 then fld shape (32 * i) 32 else TD.plan d i
    let g := if TD.grouped d then x 3 else 1
    match tileCheckFirst d with
    | some n => (.error (tileInvalid n), s)
    | none =>
      match tileMembers s c d (x 0) g with
      | (.error f, s) => (.error f, s)
      | (.ok ms, s) =>
        let caps := tileCaps s c d ms
        let k := s.core c
        match tileCheck c d caps ms with
        | some n => (.error (tileInvalid n), s)
        | none =>
          if deferred && !deferredOk d then (.error (tileInvalid 0), s)
          else if (TD.outkind d == 1 && !chanOk k (TD.outChannel d) true) ||
              (TD.doneEn d && !chanOk k (TD.doneChannel d) true) then (.error seqInvalid, s)
          else
            match shapeBeyond d (x 1) (x 2) g ms with
            | some (dim, i) => (.error ⟨St.shapeOverPlan, { index := i, aux := dim }⟩, s)
            | none => (.ok (makeRun s c w d caps ms (x 1) (x 2) g deferred), s)

/-! ### Staging (R172, R176) -/

def TileRun.staged (t : TileRun) (k : Nat) (b : Bool) : Staged :=
  if k = 1 then (if b then t.sb1 else t.sa1) else (if b then t.sb2 else t.sa2)
def TileRun.setStaged (t : TileRun) (k : Nat) (b : Bool) (x : Staged) : TileRun :=
  if k = 1 then (if b then { t with sb1 := x } else { t with sa1 := x })
  else (if b then { t with sb2 := x } else { t with sa2 := x })
/-- The place of the staging entry of an operand at a level, and that entry. -/
def stageAt (k : Nat) (b : Bool) : Nat := (if k = 1 then 0 else 3) + b2n b
def TileRun.stageCap (t : TileRun) (k : Nat) (b : Bool) : Cap := t.cap (stageAt k b)

/-- First indices of a box in the segment dimension and along a segment, and its valid extents, of A or B. -/
def boxSeg (d : Row) (x : Box) (m : Nat) (b : Bool) : Nat × Nat × Nat × Nat :=
  if !b then (x.m, x.k, min x.vm (m - x.m), x.vk)
  else if TD.path d then (x.k, x.n, x.vk, x.vn) else (x.n, x.k, x.vn, x.vk)

/-- An access through an entry of the run, or through its scales, waits (R363, R396). -/
def TileRun.waits (t : TileRun) (s : State) : Bool := (t.caps ++ t.scales).any (capWaits s)

/-- An array operation that waits reads a buffer of a staging entry. -/
def stageBusy (k : Core) (t : TileRun) (b : Bool) (buf : Nat) : Bool :=
  let r := max 1 (bufRows t.desc 1 b)
  k.arrayQ.any fun o => o.cap.handle == (t.stageCap 1 b).handle && o.first / t.e / r == buf

/-- Copy the segments of a tile, first to last, between captured entries by place. -/
def copySegs (t : TileRun) (a b : Nat) (src dst : Nat → Nat) (rows : Nat) : Nat → Nat → State → Option Flt × State
  | 0, _, s => (none, s)
  | n + 1, i, s =>
    match copyRowsVia s (t.cap a) (t.cap b) (t.scale a) (t.scale b) (src i) (dst i) rows with
    | (some f, s) => (some f, s)
    | (none, s) => copySegs t a b src dst rows n (i + 1) s

/-- What comes of trying to stage a tile. -/
inductive StageStep where
  | wait
  | done (t : TileRun) (s : State)
  | fault (f : Flt) (s : State)

/-- Stage the tile of an operand at a level, unless it stands there: from the L2 stage, or from home (R176). -/
def stageTile (s : State) (c : CoreId) (t : TileRun) (x : L0Tile) (k : Nat) (b : Bool) : StageStep :=
  let d := t.desc
  if !TD.stage d k then .done t s
  else if t.waits s then .wait
  else
    let g := x.t0.g
    let box := if k = 1 then x.t1 else x.t2
    let (s0, a0, vs, va) := boxSeg d box (t.m g) b
    let st := t.staged k b
    if st.at' = some (g, s0, a0) then .done t s
    else
      let buf := if TD.bufs d k = 2 then 1 - st.buf else 0
      if k = 1 ∧ stageBusy (s.core c) t b buf = true then .wait
      else
        let e := t.e
        let (_, ea) := segExt d k b
        let dst := fun i => buf * bufRows d k b + i * (ea / e)
        let home := fun i => (t.first g (b2n b) + (s0 + i) * TD.stride d (b2n b) + a0) / e
        let from2 := k = 1 ∧ TD.stage d 2 = true
        let (s2, a2, _, _) := boxSeg d x.t2 (t.m g) b
        let ea2 := (segExt d 2 b).2
        let src2 := fun i => (t.staged 2 b).buf * bufRows d 2 b + (s0 - s2 + i) * (ea2 / e) + (a0 - a2) / e
        let a := if from2 then stageAt 2 b else homeAt g (b2n b)
        let src := if from2 then src2 else home
        match copySegs t a (stageAt k b) src dst (ceilDiv va e) vs 0 s with
        | (some f, s) => .fault f s
        | (none, s) => .done (t.setStaged k b ⟨some (g, s0, a0), buf⟩) s

/-- Place of the entry, FIRST and STRIDE of an L0 tile's operand: in the L1 stage, or at home (R176 step 3). -/
def operandAt (t : TileRun) (x : L0Tile) (b : Bool) : Nat × Nat × Nat :=
  let d := t.desc
  let g := x.t0.g
  let (s0, a0, _, _) := boxSeg d x.t0 (t.m g) b
  if TD.stage d 1 then
    let (s1, a1, _, _) := boxSeg d x.t1 (t.m g) b
    let ea := (segExt d 1 b).2
    (stageAt 1 b, (t.staged 1 b).buf * bufRows d 1 b * t.e + (s0 - s1) * ea + (a0 - a1), ea)
  else (homeAt g (b2n b), t.first g (b2n b) + s0 * TD.stride d (b2n b) + a0, TD.stride d (b2n b))

/-- An array operation of a run, through the entries captured at its start (R175). -/
def tileOp (t : TileRun) (x : L0Tile) (load : Bool) (set slot : Nat) : ArrayOp :=
  let d := t.desc
  let (at', first, stride) := operandAt t x load
  let (_, _, vs, va) := boxSeg d x.t0 (t.m x.t0.g) load
  let base := TD.accBase d + slot * TD.ext d 0 0
  { word := word 128 [(0, 4, if load then 1 else 2), (4, 1, set), (5, 1, b2n (load && TD.path d)),
      (6, 2, if load then 0 else b2n (!x.firstK) + 2 * b2n (TD.comp d)), (8, 5, TD.fmt d), (16, 16, (t.cap at').handle.toNat),
      (32, 32, first), (64, 24, stride), (88, 9, va), (97, 10, vs), (107, 9, if load then 0 else base)],
    cap := t.cap at', scale := t.scale at', first := first, stride := stride }

/-! ### The run (R176, R177, R187) -/

def slotCount (d : Row) : Nat := accRoom d / max 1 (TD.ext d 0 0)

/-- The accumulator slot of an output tile: the one it holds, or the next in rotation when that is free (R177). -/
def takeSlot (t : TileRun) (x : L0Tile) : Option (Nat × TileRun) :=
  let key := (x.t0.g, x.t0.m, x.t0.n)
  match t.slots.find? fun p => p.1 == key with
  | some p => some (p.2, t)
  | none =>
    let n := t.nextSlot
    if (t.slots.any fun p => p.2 == n) || t.epilogues.any fun p => p.2 == n then none
    else some (n, { t with slots := t.slots ++ [(key, n)], nextSlot := (n + 1) % max 1 (slotCount t.desc) })

/-- A deferred run stands at the end of an L1 output tile, with work left (R242). -/
def TileRun.atBoundary (t : TileRun) : Bool := t.deferred && t.atEnd && !t.work.isEmpty

/-- The channel of the word the sequencer is stalled on (R242). -/
def stalledChannel (k : Core) : Option Nat :=
  if k.waiting = 5 then (k.recvs.getLast?).map fun o => CW.chan o.word
  else (k.stall.filter fun x => x / 256 == 9 || x / 256 == 0xB).map fun x => x % 256

/-- Deferred work is to run without yielding (R242). -/
def mustRun (k : Core) : Bool := k.fencing || k.ended || k.stall == some 0xC00

/-- The stalled word's channel holds a token, and nothing forbids to yield (R242). -/
def wouldYield (s : State) (c : CoreId) : Bool :=
  let k := s.core c
  !mustRun k && (stalledChannel k).any fun ch => (chHead s c ch).isSome

/-- What one step of the generation gives. -/
inductive TileStep where
  | wait
  | go (s : State)
  | fault (f : Flt) (w : BitVec 128) (s : State)

def putTile (s : State) (c : CoreId) (t : TileRun) : State := s.setCore c { s.core c with tile := some t }

/-- Claim WORK_CHUNK L2 tiles (R187). -/
def tileClaim (s : State) (c : CoreId) (t : TileRun) : TileStep :=
  let d := t.desc
  let cap := t.cap 5
  let w := TD.workWord d
  match begin' s s.grid.ctx cap pFADD none with
  | (some f, s) => .fault f t.word s
  | (none, s) =>
    match cap.addr (w / 128) with
    | none => .fault ⟨St.keyOutOfBounds, { handle := cap.handle, index := w / 128 }⟩ t.word s
    | some a =>
      match claimRow s a (w % 128) (TD.chunk d) t.l2.length with
      | (none, s) => .fault ⟨St.poisonConsumed, { handle := cap.handle, index := w / 128, aux := w % 128 / 8 }⟩ t.word s
      | (some v, s) =>
        if v = 0xFFFFFFFF then .go (putTile s c { t with claimsDone := true })
        else .go (putTile s c { t with work := ((t.l2.drop v).take (TD.chunk d)).flatten })

/-- Load the stationary tile where the set last loaded does not hold it (R176 step 2). -/
def tileLoad (s : State) (c : CoreId) (t : TileRun) (x : L0Tile) : TileStep :=
  let o := tileOp t x true (1 - (s.core c).lastLoad) 0
  match pushArray s c o with
  | none => .wait
  | some (some f, s) => .fault f o.word s
  | some (none, s) =>
    .go (putTile s c { t with held := some (x.t0.g, x.t0.k, x.t0.n) })

/-- Stream the moving tile (R176 steps 3 and 4). -/
def tileMul (s : State) (c : CoreId) (t : TileRun) (x : L0Tile) : TileStep :=
  match takeSlot t x with
  | none => .wait
  | some (slot, t) =>
    let o := tileOp t x false (s.core c).lastLoad slot
    match pushArray s c o with
    | none => .wait
    | some (some f, s) => .fault f o.word s
    | some (none, s) =>
      let t := { t with work := t.work.drop 1, atEnd := x.endL1 }
      .go (putTile s c (if x.lastK then
        { t with slots := t.slots.filter fun p => p.2 != slot, epilogues := t.epilogues ++ [(x, slot)] } else t))

/-- Stage what an L0 tile needs, in the order L2 A, L2 B, L1 A, L1 B. -/
def stageAll (c : CoreId) (x : L0Tile) : List (Nat × Bool) → TileRun → State → StageStep
  | [], t, s => .done t s
  | (k, b) :: rest, t, s =>
    match stageTile s c t x k b with
    | .done t s => stageAll c x rest t s
    | r => r

/-- One step of a run. -/
def tileStep (s : State) (c : CoreId) (t : TileRun) : TileStep :=
  match t.work with
  | [] => if t.claimsDone then .wait else tileClaim s c t
  | x :: _ =>
    if t.atBoundary && (!t.epilogues.isEmpty || !t.ships.isEmpty || wouldYield s c) then .wait
    else
      match stageAll c x [(2, false), (2, true), (1, false), (1, true)] t s with
      | .wait => .wait
      | .fault f s => .fault f t.word s
      | .done t s =>
        if t.held = some (x.t0.g, x.t0.k, x.t0.n) then
          match tileMul s c t x with
          | .wait => .go (putTile s c t)
          | r => r
        else
          match tileLoad s c t x with
          | .wait => .go (putTile s c t)
          | r => r

/-- Go on with a core's run while it can. -/
def pumpTileFrom (c : CoreId) : Nat → State → State
  | 0, s => s
  | n + 1, s =>
    match (s.core c).tile with
    | none => s
    | some t =>
      match tileStep s c t with
      | .wait => s
      | .fault f w s => faultCore s c w f
      | .go s' => if s'.core c = s.core c then s' else pumpTileFrom c n s'

/-- The queue holds 4 operations, so that a run moves at most a few steps at a time. -/
def pumpTile (s : State) (c : CoreId) : State := if sectionLive s then pumpTileFrom c 64 s else s

/-! ### Epilogues and shipments (R178, R179, R243) -/

/-- Vector and mask registers that an instruction names. -/
def namedRegs (i : VIns) : List Nat × List Nat :=
  match vspec i.op with
  | none => ([], [])
  | some v =>
    let maskDst := (decide (0x30 ≤ i.op) && decide (i.op ≤ 0x33)) || (decide (0x38 ≤ i.op) && decide (i.op ≤ 0x3C))
    let maskSrc := decide (0x39 ≤ i.op) && decide (i.op ≤ 0x3C)
    let src := fun (u : Option (List Nat)) k f =>
      if u.isNone || maskSrc then []
      else if k = 0 then [f % 64]
      else if k = 2 ∧ f.testBit 15 = false then [f % 64]
      else ([] : List Nat)
    let noDst := i.op == 0x00 || i.op == 0x7A
    let noMask := i.op == 0x00 || i.op == 0x70 || i.op == 0x71
    ((if noDst || maskDst || (i.dk && v.acc) then [] else [i.dreg]) ++ src v.k1 i.k1 i.src1 ++ src v.k2 i.k2 i.src2,
      (if maskDst then [i.dst % 8] else []) ++
        (if maskSrc then i.src1 % 8 :: (if v.k2.isSome then [i.src2 % 8] else []) else []) ++
        (if i.men && !noMask then [i.mreg] else []))

/-- A deferred epilogue names only v48 to v63, m6 and m7 (R243). -/
def deferredRegs (i : VIns) : Bool :=
  let (v, m) := namedRegs i
  v.all (fun r => decide (48 ≤ r)) && m.all fun r => decide (6 ≤ r)

/-- The vector instruction in a program slot: the fault met on reaching it otherwise (R229, R231, R97). -/
def epiSlot (s : State) (c : CoreId) (pc : Nat) : Except Flt (BitVec 64) :=
  let k := s.core c
  if 63 * k.progRows.toNat ≤ pc then .error seqInvalid
  else
    let a := progRowAddr c k pc
    if poisonMask s.ms.poison a ≠ 0 then .error (programPoison s c k pc)
    else
      let r := Mem.row s.ms.mem a
      if bit r (4032 + pc % 63) then .ok (BitVec.ofNat 64 (fld r (64 * (pc % 63)) 64)) else .error seqInvalid

/-- Issue n epilogue slots from a program index. -/
def runEpilogue (c : CoreId) (deferred : Bool) : Nat → Nat → State → Option (Flt × BitVec 128) × State
  | 0, _, s => (none, s)
  | n + 1, pc, s =>
    match epiSlot s c pc with
    | .error f => (some (f, 0), s)
    | .ok w =>
      if deferred && !deferredRegs (vdecode w) then (some (⟨St.vectorInstructionInvalid, {}⟩, w.setWidth 128), s)
      else
        match vecExec s c w with
        | (some f, s) => (some (f, w.setWidth 128), s)
        | (none, s) =>
          let k := s.core c
          runEpilogue c deferred n (pc + 1) (s.setCore c { k with vinstr := k.vinstr + 1 })

/-- Accumulator entries that an epilogue's instructions name. -/
def epiEntries (s : State) (c : CoreId) (d : Row) : List Nat :=
  (List.range (TD.epiLen d)).flatMap fun i =>
    match epiSlot s c (TD.epiAddr d + i) with
    | .ok w => accEntries (vdecode w)
    | .error _ => []

/-- Write lanes 0 to 7 of v63 (R178); lanes 6 and 7 name an SC row, and are free values where there is none
(log 54). -/
def epilogueLanes (s : State) (c : CoreId) (t : TileRun) (x : L0Tile) (slot buf : Nat) : State :=
  let d := t.desc
  let g := x.t0.g
  let e := t.eC g
  let vm := min x.t0.vm (t.m g - x.t0.m)
  let n0 := x.t0.n - x.t1.n
  let row := buf * outRows d e + (x.t0.m - x.t1.m) * (TD.ext d 1 1 / e) + n0 / e
  let open' := fun i => (Config.epilogueLane i g x.t0.m x.t0.n).toNat
  let (l6, l7) := if TD.outkind d = 2 then (open' 6, open' 7) else (row, n0 % e)
  let vs := [g, x.t0.m, x.t0.n, vm, x.t0.vn, TD.accBase d + slot * TD.ext d 0 0, l6, l7]
  let k := s.core c
  s.setCore c ((vs.zipIdx).foldl (fun (k : Core) p => k.setLane 63 p.2 p.1) k)

/-- Run the epilogue of the oldest output tile whose last commit has landed (R133, R178). Where members' output tiles interleave,
their rows go to the one SC buffer until an L1 output tile is complete: DESIGN CHOICE (log 129). -/
def tileEpilogue (s : State) (c : CoreId) : State :=
  match (s.core c).tile with
  | none => s
  | some t =>
    match t.epilogues with
    | [] => s
    | (x, slot) :: rest =>
      let d := t.desc
      let base := TD.accBase d + slot * TD.ext d 0 0
      let k := s.core c
      let own := (List.range x.t0.vm).flatMap fun i => if TD.comp d then [base + i, base + i + 256] else [base + i]
      if !sectionLive s || (own ++ epiEntries s c d).any (accBusy k) ||
          (TD.outkind d != 2 && decide (TD.bufs d 1 ≤ t.ships.length)) then s
      else
        let n := t.shipped + t.ships.length
        let s := epilogueLanes s c t x slot (n % TD.bufs d 1)
        match runEpilogue c t.deferred (TD.epiLen d) (TD.epiAddr d) s with
        | (some (f, w), s) => faultCore s c w f
        | (none, s) =>
          let t := { t with epilogues := rest }
          let b : Box := { x.t1 with g := x.t0.g, vg := 1, vm := min x.t1.vm (t.m x.t0.g - x.t1.m) }
          let t := if !x.endL1 then t else if TD.outkind d = 2 then { t with shipped := t.shipped + 1 }
            else { t with ships := t.ships ++ [(b, n)] }
          pumpTile (putTile s c t) c

/-- Send the rows of an SC buffer as tokens, in ascending segment order; a tag's bits [14:0] are not given (R179; log 54). -/
def shipTokens (c : CoreId) (cap : Cap) (ch : Nat) : List Nat → State → Option Flt × State
  | [], s => (none, s)
  | j :: t, s =>
    match accessRead s s.grid.ctx cap none j 1 with
    | ([r], none, s) =>
      shipTokens c cap ch t (queueTokens s c ch (rowTokens (Config.shipTag j).toNat r))
    | (_, some f, s) => (some f, s)
    | (_, none, s) => (none, s)

/-- Ship the oldest complete L1 output tile (R179). -/
def tileShip (s : State) (c : CoreId) : State :=
  match (s.core c).tile with
  | none => s
  | some t =>
    match t.ships with
    | [] => s
    | (b, n) :: rest =>
      if !sectionLive s then s
      else
        let d := t.desc
        let e := t.eC b.g
        let src := fun i => n % TD.bufs d 1 * outRows d e + i * (TD.ext d 1 1 / e)
        let rows := ceilDiv b.vn e
        let r :=
          if TD.outkind d = 0 then
            copySegs t 2 (homeAt b.g 2) src
              (fun i => (t.first b.g 2 + (b.m + i) * TD.stride d 2 + b.n) / e) rows b.vm 0 s
          else
            shipTokens c (t.cap 2) (TD.outChannel d)
              ((List.range b.vm).flatMap fun i => (List.range rows).map fun j => src i + j) s
        match r with
        | (some f, s) => faultCore s c t.word f
        | (none, s) => pumpTile (putTile s c { t with ships := rest, shipped := t.shipped + 1 }) c

/-- Both stationary sets invalid (R243). -/
def dropSets (k : Core) : Core := { k with set0 := {}, set1 := {} }

/-- A run whose tiles, epilogues, shipments and claims are all done ends: its done token is sent, a WAIT for it ends, and a
deferred entry leaves the queue (R179, R243, R244). -/
def tileEnd (s : State) (c : CoreId) : State :=
  let k := s.core c
  match k.tile with
  | none => s
  | some t =>
    let d := t.desc
    if !sectionLive s || !t.work.isEmpty || !t.claimsDone || !t.epilogues.isEmpty || !t.ships.isEmpty ||
        (TD.outkind d == 1 && !(Tab.get [] k.txq (TD.outChannel d)).isEmpty) then s
    else
      let k := { k with tile := none, waiting := if k.waiting = 3 ∧ t.deferred = false then 0 else k.waiting }
      if t.deferred then
        let k := dropSets { k with deferred := k.deferred.drop 1 }
        runRecvs (s.setCore c { k with fencing := k.fencing && !k.deferred.isEmpty,
                                       stall := if k.stall = some 0xC00 then none else k.stall }) c
      else
        let s := s.setCore c k
        if TD.doneEn d then queueTokens s c (TD.doneChannel d) [doneToken c] else s

/-! ### The words (R174, R240, R244) -/

/-- Shape lanes of a TILE or WQUEUE word. -/
def shapeLanes (k : Core) (w : BitVec 128) : BitVec 128 := BitVec.ofNat 128 (fld (k.vreg (fld w 5 6)) 0 128)

/-- TILE: it waits while another run is in progress (R175). -/
def tileWord (w : BitVec 128) (s : State) (c : CoreId) : Option (Option Flt × State) :=
  let k := s.core c
  if k.tile.isSome then none
  else
    match startTile s c w (shapeLanes k w) false with
    | (.error f, s) => some (some f, s)
    | (.ok t, s) =>
      if t.waits s then none
      else
      let k := s.core c
      some (none, pumpTile (s.setCore c { k with tile := some t, waiting := if bit w 4 then 3 else k.waiting }) c)

/-- WQUEUE: a full queue stalls it (R240). -/
def wqueue (w : BitVec 128) (s : State) (c : CoreId) : Option (Option Flt × State) :=
  let k := s.core c
  if 16 ≤ k.deferred.length then none
  else some (none, s.setCore c { k with deferred := k.deferred ++ [(w, shapeLanes k w)] })

/-- WFENCE: entries queued before it complete first (R244). -/
def wfence (s : State) (c : CoreId) : Option (Option Flt × State) :=
  let k := s.core c
  some (none, s.setCore c { k with fencing := !k.deferred.isEmpty })

/-- The core is starved: stalled on a receive whose channel is empty, with no run or array operation pending (R242). -/
def starved (s : State) (c : CoreId) : Bool :=
  let k := s.core c
  k.tile.isNone && k.arrayQ.isEmpty && k.flight.isEmpty &&
    (stalledChannel k).any fun ch => (chHead s c ch).isNone

/-- The head deferred entry starts, or resumes (R242). -/
def deferredStart (s : State) (c : CoreId) : State :=
  let k := s.core c
  if !sectionLive s || !k.active || k.tile.isSome || !(starved s c || mustRun k) then s
  else
    match k.parked, k.deferred with
    | some t, _ => pumpTile (s.setCore c { k with tile := some { t with atEnd := false }, parked := none }) c
    | none, [] => s
    | none, (w, shape) :: _ =>
      match startTile s c w shape true with
      | (.error f, s) => faultCore s c w f
      | (.ok t, s') =>
        if t.waits s then s else pumpTile (s'.setCore c { s'.core c with tile := some t }) c

/-- At the end of an L1 output tile the deferred run suspends if the stalled channel now holds a token, which the stalled word then
takes (R242, R243). -/
def deferredSuspend (s : State) (c : CoreId) : State :=
  let k := s.core c
  match k.tile with
  | none => s
  | some t =>
    if sectionLive s && t.atBoundary && t.epilogues.isEmpty && t.ships.isEmpty && wouldYield s c then
      runRecvs (s.setCore c (dropSets { k with tile := none, parked := some { t with held := none } })) c
    else s

end Sys2Proof.Machine
end

