-- ==== Sys2Proof/Machine/Array.lean ====
section
/-!
DEFINITION. The meanings of the matrix array's commands (R114 to R135).
-/
namespace Sys2Proof.Machine

/-- SLOAD queues a stationary load (R114, R116, R119). -/
def execSload (c : CoreId) (w : BitVec 128) (s : State) : Host.Outcome State Fault Refusal :=
  .next (issueWord 1 c w s fun w s => pushArray s c (mkArrayOp s c w))

/-- The oldest stationary load that may complete does, and its set is valid (R115, R126). -/
def execSloadSetValid (c : CoreId) (s : State) : Host.Outcome State Fault Refusal :=
  .next (if sectionLive s then pumpTile (completeLoad s c) c else s)

/-- MMUL queues a stream of moving vectors (R114, R116, R119). -/
def execMmul (c : CoreId) (w : BitVec 128) (s : State) : Host.Outcome State Fault Refusal :=
  .next (issueWord 2 c w s fun w s => pushArray s c (mkArrayOp s c w))

/-- The next moving vector issues (R121); a parity error in a feeder queue or a stationary register faults (R73). -/
def execVectorIssue (c : CoreId) (parityError : Bool) (s : State) : Host.Outcome State Fault Refusal :=
  .next (if sectionLive s then pumpTile (issueNext s c parityError) c else s)

/-- A column commits the oldest vector's partial sum (R120, R131), the entry's check bits read where the mode adds (R73). -/
def execAccumulatorCommit (c : CoreId) (x : ColumnCommit) (s : State) : Host.Outcome State Fault Refusal :=
  .next (if sectionLive s then pumpTile (commitChecked s c x.column.val x.check) c else s)

end Sys2Proof.Machine
end

