-- ==== Sys2Proof/Machine/StashOps.lean ====
section
/-!
DEFINITION. The activation stash: records (R246 to R248) and the operation (R245, R249).
-/
namespace Sys2Proof.Machine

/-! ### The run's fields (R423) -/

namespace RUN
def list (p : BitVec 384) : Half := BitVec.ofNat 16 (fld p 0 16)
def first (p : BitVec 384) : Half := BitVec.ofNat 16 (fld p 16 16)
def count (p : BitVec 384) : Nat := fld p 32 32
def step (p : BitVec 384) : Nat := fld p 64 32
def stepValid (p : BitVec 384) : Bool := bit p 96
def rmode (p : BitVec 384) : Bool := bit p 97
def replay (p : BitVec 384) : Bool := bit p 98
def ub (p : BitVec 384) : Bool := bit p 99
def collective (p : BitVec 384) : Nat := fld p 112 16
def ubHandle (p : BitVec 384) : Half := BitVec.ofNat 16 (fld p 128 16)
def ubCount (p : BitVec 384) : Nat := fld p 144 16
def ubRow (p : BitVec 384) : Nat := fld p 160 32
def glHandle (p : BitVec 384) : Half := BitVec.ofNat 16 (fld p 192 16)
def glCount (p : BitVec 384) : Nat := fld p 208 16
def glRow (p : BitVec 384) : Nat := fld p 224 32
def xlHandle (p : BitVec 384) : Half := BitVec.ofNat 16 (fld p 256 16)
def xlCount (p : BitVec 384) : Nat := fld p 272 16
def xlRow (p : BitVec 384) : Nat := fld p 288 32
end RUN

/-- The run of the resident context. -/
def State.gridRun (s : State) : Option RunSt := s.grid.ctx.bind fun c => (s.ctx c).run

/-- The step whose keyed or seeded generators the resident run uses, none in free-running mode (R64, R423, R443). -/
def State.replayStep (s : State) : Option Word :=
  s.gridRun.bind fun r =>
    let step : Word := BitVec.ofNat 32 (if RUN.stepValid r.payload then RUN.step r.payload else 0)
    if s.grid.replay || (RUN.rmode r.payload && RUN.stepValid r.payload) then some step else none

/-! ### Lossless records (R247) -/

/-- Exponent and fraction bits of a source format (R36). -/
def stashWidths (f : Nat) : Option (Nat × Nat) :=
  match f with
  | 0x01 => some (8, 23)
  | 0x02 => some (5, 10)
  | 0x03 => some (8, 7)
  | 0x04 => some (4, 3)
  | 0x05 => some (5, 2)
  | _ => none

/-- Bits that a number needs; 0 for 0. -/
def bitsOf (n : Nat) : Nat := if n = 0 then 0 else n.log2 + 1

/-- Values of given widths packed least significant first, as bytes (R247). -/
def packBits (l : List (Nat × Nat)) : List Byte :=
  let (v, n) := l.foldl (fun (p : Nat × Nat) x => (p.1 ||| ((x.1 % 2 ^ x.2) <<< p.2), p.2 + x.2)) (0, 0)
  (List.range (ceilDiv n 8)).map fun i => BitVec.ofNat 8 (v >>> (8 * i))

/-- The code of one group that is not all zero. -/
def codeGroup (eb fb : Nat) (g : List Nat) : List Byte :=
  let z := g.filter fun x => x != 0
  let ex := fun x => x >>> fb % 2 ^ eb
  let top := z.foldl (fun a x => max a (ex x)) 0
  let k := bitsOf (z.foldl (fun a x => max a (top - ex x)) 0)
  let map := (g.zipIdx).foldl (fun a x => if x.1 ≠ 0 then a ||| (1 <<< x.2) else a) 0
  BitVec.ofNat 8 (0x80 ||| k) :: toBytes (BitVec.ofNat 32 map) 4 ++ [BitVec.ofNat 8 top] ++
    packBits (z.flatMap fun x => [(x >>> (eb + fb), 1), (top - ex x, k), (x % 2 ^ fb, fb)])

/-- Groups in order; n counts the all-zero groups seen before (R247). -/
def codeGroups (eb fb : Nat) : Nat → List (List Nat) → List Byte
  | n, [] => if n = 0 then [] else [BitVec.ofNat 8 (n - 1)]
  | n, g :: t =>
    if g.all fun x => x == 0 then
      if n + 1 = 128 then 127 :: codeGroups eb fb 0 t else codeGroups eb fb (n + 1) t
    else (if n = 0 then [] else [BitVec.ofNat 8 (n - 1)]) ++ codeGroup eb fb g ++ codeGroups eb fb 0 t

/-- The groups of 32 elements of a row. -/
def rowGroups (f : Nat) (r : Row) : List (List Nat) :=
  (List.range (elemsPerRow f / 32)).map fun g => (List.range 32).map fun i => rowElem f r (32 * g + i)

/-- A record: its header, its payload and zeros to whole sectors (R246). -/
def stashRecord (raw : Bool) (payload : List Byte) : List Byte :=
  let body := toBytes (word 32 [(0, 10, payload.length), (10, 1, b2n raw)]) 4 ++ payload
  body ++ List.replicate ((32 - body.length % 32) % 32) 0

def rawRecord (r : Row) : List Byte := stashRecord true (toBytes r 512)

def losslessRecord (f : Nat) (r : Row) : List Byte :=
  match stashWidths f with
  | none => rawRecord r
  | some (eb, fb) =>
    let p := codeGroups eb fb 0 (rowGroups f r)
    if 512 ≤ p.length then rawRecord r else stashRecord false p

/-! ### Lossy records (R248) -/

/-- MX code of a lossy mode. -/
def stashCode (mode : Nat) : Nat := mode + 4

/-- Elements of a row from their words. -/
def rowOfElems (f : Nat) (l : List Nat) : Row :=
  BitVec.ofNat 4096 ((l.zipIdx).foldl (fun a x => a ||| ((x.1 % 2 ^ codeWidth f) <<< elemBit f x.2)) 0)

/-- A lossy record; rnd gives the rounding of element i (R64). -/
def lossyRecord (f code : Nat) (rnd : Nat → Rnd) (r : Row) : List Byte :=
  let n := elemsPerRow f
  let val := fun i => match fmtOfCode f with
    | some m => fdecode m (rowElem f r i)
    | none => FVal.nan
  let bs := (List.range (n / 32)).map fun b => mxBlock code ((List.range 32).map fun i => (val (32 * b + i), rnd (32 * b + i)))
  let el := bs.flatMap fun b => b.2.map (·.1)
  stashRecord false (packBits (el.map fun x => (x, codeWidth code)) ++ bs.map fun b => BitVec.ofNat 8 b.1)

/-! ### Reading records -/

/-- Decode n groups from bytes; none where they do not fill exactly what is left, or where an element's difference exceeds its group's
largest exponent, which no exponent field can hold: DESIGN CHOICE (log 125). -/
def decodeGroups (eb fb : Nat) : Nat → Nat → List Byte → Option (List Nat)
  | _, 0, bs => if bs.isEmpty then some [] else none
  | 0, _, _ => none
  | fuel + 1, n, bs =>
    match bs with
    | [] => none
    | b :: t =>
      if b.toNat < 128 then
        if n ≤ b.toNat then none
        else (decodeGroups eb fb fuel (n - (b.toNat + 1)) t).map fun l => List.replicate (32 * (b.toNat + 1)) 0 ++ l
      else
        let k := b.toNat - 128
        let map := ofBytes (t.take 4)
        let top := ((t.drop 4).headD 0).toNat
        let u := t.drop 5
        let w := 1 + k + fb
        let idx := (List.range 32).filter fun i => map.testBit i
        let m := ceilDiv (idx.length * w) 8
        let v := ofBytes (u.take m)
        let el := fun j =>
          let x := v >>> (w * j)
          (x % 2, x / 2 % 2 ^ k, x >>> (1 + k) % 2 ^ fb)
        if t.length < 5 ∨ u.length < m ∨ ((List.range idx.length).any fun j => decide (top < (el j).2.1)) = true then none
        else
          let group := (List.range 32).map fun i =>
            match idx.findIdx? (· == i) with
            | none => 0
            | some j => ((el j).1 <<< (eb + fb)) ||| ((top - (el j).2.1) <<< fb) ||| (el j).2.2
          (decodeGroups eb fb fuel (n - 1) (u.drop m)).map fun l => group ++ l

/-- A row widened from a lossy payload, to nearest-even (R248). -/
def widenRow (f code : Nat) (bs : List Byte) : Option Row :=
  let n := elemsPerRow f
  let w := codeWidth code
  if bs.length ≠ n * w / 8 + n / 32 then none
  else
    match fmtOfCode f with
    | none => none
    | some m =>
      let v := ofBytes bs
      let scale := fun i => v >>> (n * w + 8 * (i / 32)) % 256
      some (rowOfElems f ((List.range n).map fun i =>
        (rounded m .rne false (mxValue code (scale i) (v >>> (w * i) % 2 ^ w), 0)).1))

/-- The row that a record holds, under the buffer's MODE and FORMAT; none where it is corrupt (R249). -/
def decodeRecord (mode f : Nat) (raw : Bool) (bs : List Byte) : Option Row :=
  if raw then (if bs.length = 512 then some (BitVec.ofNat 4096 (ofBytes bs)) else none)
  else if mode = 0 then
    (stashWidths f).bind fun w =>
      (decodeGroups w.1 w.2 (elemsPerRow f / 32) (elemsPerRow f / 32) bs).map (rowOfElems f)
  else if 2 ≤ mode ∧ mode ≤ 5 ∧ 1 ≤ f ∧ f ≤ 3 then widenRow f (stashCode mode) bs
  else none

/-! ### The operation (R245, R246, R249) -/

namespace SH
def wait (w : BitVec 128) : Bool := bit w 4
def dirIn (w : BitVec 128) : Bool := bit w 5
def mode (w : BitVec 128) : Nat := fld w 6 3
def rnd (w : BitVec 128) : Bool := bit w 9
def rowsHandle (w : BitVec 128) : Half := BitVec.ofNat 16 (fld w 16 16)
def bufHandle (w : BitVec 128) : Half := BitVec.ofNat 16 (fld w 32 16)
def row (w : BitVec 128) : Nat := fld w 48 32
def count (w : BitVec 128) : Nat := fld w 80 20
def rec' (w : BitVec 128) : Nat := fld w 100 20
end SH

/-- The rounding of element i of a source row at an address (R64): keyed by the element's bit address. -/
def stashRnd (on : Bool) (key : Dword) (addr f i : Nat) : Rnd :=
  if on then .stoch (drawAt key (addr * 8 + elemBit f i)) else .rne

/-- The record of a source row. -/
def encodeRow (w : BitVec 128) (f : Nat) (key : Dword) (addr : Nat) (r : Row) : List Byte :=
  if SH.mode w = 0 then losslessRecord f r
  else if SH.mode w = 1 then rawRecord r
  else lossyRecord f (stashCode (SH.mode w)) (stashRnd (SH.rnd w) key addr f) r

/-- Records of n source rows from row j, the offsets of their sectors, and what ended them (R246, R249). The scale bytes of an MX row are
read with it, and no record holds them (R94; log 56). -/
def stashRows (k sc buf : Cap) (w : BitVec 128) (key : Dword) (room : Nat) :
    Nat → Nat → List Byte → List Nat → State → List Byte × List Nat × Option Flt × State
  | 0, _, acc, offs, s => (acc, offs, none, s)
  | n + 1, j, acc, offs, s =>
    match consumeAt s k j with
    | (.error f, s) => (acc, offs, some f, s)
    | (.ok r, s) =>
      let b := blocksPerRow k.format
      match (if isMx k.format then readBytes s s.grid.ctx sc none (j * b) b else (.ok [], s)) with
      | (.error f, s) => (acc, offs, some f, s)
      | (.ok _, s) =>
        let x := encodeRow w k.format key ((k.addr j).getD 0) r
        if room < acc.length + x.length then (acc, offs, some ⟨St.stashFull, { handle := buf.handle, index := j }⟩, s)
        else stashRows k sc buf w key room n (j + 1) (acc ++ x) (offs ++ [acc.length / 32]) s

/-- Whole rows that hold bytes; what no sector fills of the last is not given (R246). -/
def rowsOfBytes (bs : List Byte) (fill : Row) : List (Row × BitVec 16) :=
  (List.range (ceilDiv bs.length 512)).map fun i =>
    let b := (bs.drop (512 * i)).take 512
    (patchRow fill 0 b, 0)

/-- A stash-out: data, then index and header (R246). A record that does not fit ends it with the records before it
written. -/
def stashOut (s : State) (c : CoreId) (w : BitVec 128) (k buf : Cap) : Option Flt × State :=
  let n := SH.count w
  let idx := ceilDiv n 128
  let (free, s) := s.fresh 64
  let gen := if c.val < 192 then 384 else 385
  let key := match s.replayStep with
    | some step => drawKey s.jobSeed step gen
    | none => free
  let fmt := if SH.mode w = 1 ∨ (stashWidths k.format).isNone then none else some k.format
  match (if n = 0 then (none, s) else begin' s s.grid.ctx k pRD fmt) with
  | (some f, s) => (some f, s)
  | (none, s) =>
    match begin' s s.grid.ctx buf pWR (some 0) with
    | (some f, s) => (some f, s)
    | (none, s) =>
      let (data, offs, e, s) := stashRows k (scaleCap s k (some c)) buf w key ((buf.rows - (1 + idx)) * 512) n (SH.row w) [] [] s
      let (fill, s) := s.fresh 4096
      match putRows buf (1 + idx) (rowsOfBytes data fill) s with
      | (some f, s) => (some f, s)
      | (none, s) =>
        match e with
        | some f => (some f, s)
        | none =>
          match putRows buf 1 (rowsOfBytes (offs.flatMap fun o => toBytes (BitVec.ofNat 32 (o % 2 ^ 28)) 4) 0) s with
          | (some f, s) => (some f, s)
          | (none, s) =>
            let hdr := word 4096 [(0, 32, n), (32, 3, SH.mode w), (35, 5, k.format), (40, 32, data.length / 32)]
            putRows buf 0 [(hdr, 0)] s

/-- Bytes of a buffer, consumed. -/
def bufBytes (s : State) (buf : Cap) (lo n : Nat) : Except Flt (List Byte) × State :=
  match consumeRows buf (lo / 512) ((lo + n - 1) / 512 - lo / 512 + 1) s with
  | (rows, none, s) => (.ok (((rows.flatMap fun r => toBytes r 512).drop (lo % 512)).take n), s)
  | (_, some f, s) => (.error f, s)

/-- What keeps the scale bytes of row j of an MX entry from being written: the checks of that access (R92, R94). A record holds no scale
bytes, so they stay as they are (log 56). -/
def scalesRefused (s : State) (k sc : Cap) (j : Nat) : Option Flt :=
  let b := blocksPerRow k.format
  if !isMx k.format then none
  else
    match sc.refuse s.grid.ctx pWR none with
    | some st => some ⟨st, { handle := sc.handle }⟩
    | none => (writeFault s sc (j * b / 512)).or (writeFault s sc ((j * b + b - 1) / 512))

/-- Read n records from record r into rows from row j (R246, R249). -/
def stashInRows (k sc buf : Cap) (hdr : Row) : Nat → Nat → Nat → State → Option Flt × State
  | 0, _, _, s => (none, s)
  | n + 1, r, j, s =>
    let data := (1 + ceilDiv (fld hdr 0 32) 128) * 512
    match bufBytes s buf (512 + 4 * r) 4 with
    | (.error f, s) => (some f, s)
    | (.ok ib, s) =>
      let at' := data + ofBytes ib % 2 ^ 28 * 32
      match bufBytes s buf at' 4 with
      | (.error f, s) => (some f, s)
      | (.ok hb, s) =>
        let h := ofBytes hb
        let len := h % 1024
        let bad : Flt := ⟨St.stashCorrupt, { handle := buf.handle, index := r }⟩
        if 512 < len ∨ len = 0 then (some bad, s)
        else
          match bufBytes s buf (at' + 4) len with
          | (.error f, s) => (some f, s)
          | (.ok bs, s) =>
            match decodeRecord (fld hdr 32 3) (fld hdr 35 5) (h.testBit 10) bs with
            | none => (some bad, s)
            | some x =>
              match scalesRefused s k sc j with
              | some f => (some f, s)
              | none =>
                match writeAt s k j x 0 with
                | (.error f, s) => (some f, s)
                | (.ok _, s) => stashInRows k sc buf hdr n (r + 1) (j + 1) s

/-- A stash-in. -/
def stashIn (s : State) (c : CoreId) (w : BitVec 128) (k buf : Cap) : Option Flt × State :=
  if SH.count w = 0 then (none, s)
  else
    match begin' s s.grid.ctx buf pRD (some 0) with
    | (some f, s) => (some f, s)
    | (none, s) =>
      match consumeRows buf 0 1 s with
      | (_, some f, s) => (some f, s)
      | (rows, none, s) =>
        let hdr := rows.getD 0 0
        let f := fld hdr 35 5
        match begin' s s.grid.ctx k pWR (if fld hdr 32 3 = 1 ∨ (stashWidths f).isNone then none else some f) with
        | (some f, s) => (some f, s)
        | (none, s) => stashInRows k (scaleCap s k (some c)) buf hdr (SH.count w) (SH.rec' w) (SH.row w) s

/-- A tier or a mode of a STASH word is not permitted (R245, R249). -/
def stashBad (w : BitVec 128) (s : State) (c : CoreId) : Bool :=
  let rows := capture s (some c) (SH.rowsHandle w)
  let buf := capture s (some c) (SH.bufHandle w)
  let tierBad := (rows.valid && decide (1 < rows.tier)) || (buf.valid && (buf.isLocal || decide (buf.tier < 2)))
  let modeBad := !SH.dirIn w && (decide (5 < SH.mode w) ||
    (decide (2 ≤ SH.mode w) && rows.valid && !(decide (1 ≤ rows.format) && decide (rows.format ≤ 3))))
  tierBad || modeBad

/-- STASH: tiers and modes are checked at its start; a fifth outstanding one stalls (R245, R249). -/
def stashWord (w : BitVec 128) (s : State) (c : CoreId) : Option (Option Flt × State) :=
  let k := s.core c
  let rows := capture s (some c) (SH.rowsHandle w)
  let buf := capture s (some c) (SH.bufHandle w)
  if stashBad w s c then some (some seqInvalid, s)
  else if 4 ≤ k.stashes then none
  else
    match (if SH.dirIn w then stashIn s c w rows buf else stashOut s c w rows buf) with
    | (some f, s) => some (some f, s)
    | (none, s) =>
      let k := s.core c
      some (none, s.setCore c { k with stashes := k.stashes + 1, waiting := if SH.wait w then 2 else k.waiting })

/-- The oldest stash operation of a core completes (R245). -/
def stashDone (s : State) (c : CoreId) : State :=
  let k := s.core c
  if k.stashes = 0 then s
  else s.setCore c { k with stashes := k.stashes - 1, waiting := if k.waiting = 2 ∧ k.stashes = 1 then 0 else k.waiting }

end Sys2Proof.Machine
end

