-- ==== Sys2Proof/Machine/Steer.lean ====
section
/-!
DEFINITION. Steering units (R211 to R215), and the snapshot of the deadlock detector (R221, R222, R224).
-/
namespace Sys2Proof.Machine

namespace SD
def valid (d : BitVec 128) : Bool := bit d 0
def pred (d : BitVec 128) : Bool := bit d 1
def ctrl (d : BitVec 128) : Nat := fld d 2 6
def inp (d : BitVec 128) (i : Nat) : Nat := fld d (8 + 6 * i) 6
def out (d : BitVec 128) (i : Nat) : Nat := fld d (32 + 6 * i) 6
def nin (d : BitVec 128) : Nat := fld d 56 2 + 1
def nout (d : BitVec 128) : Nat := fld d 58 2 + 1
def weight (d : BitVec 128) (i : Nat) : Nat := fld d (64 + 8 * i) 8
def ins (d : BitVec 128) : List Nat := (List.range (nin d)).map (inp d)
def outs (d : BitVec 128) : List Nat := (List.range (nout d)).map (out d)
end SD

/-- Units: 0 SELECT, 1 ROUTE, 2 MERGE, 3 REPEAT. -/
def Core.unit (k : Core) (u : Nat) : BitVec 128 := Tab.get 0 k.steer u
def Core.unitSt (k : Core) (u : Nat) : SteerSt := Tab.get {} k.steerSt u
def setUnit (s : State) (c : CoreId) (u : Nat) (x : SteerSt) : State :=
  let k := s.core c
  s.setCore c { k with steerSt := Tab.set {} k.steerSt u x }

/-- STEER_MISMATCH: the unit fires no more; the record names the unit and the channel (R215). -/
def steerFault (s : State) (c : CoreId) (u ch : Nat) : State :=
  let x := (s.core c).unitSt u
  faultCore (setUnit s c u { x with stopped := true }) c 0 ⟨St.steerMismatch, { index := ch, aux := u }⟩

/-- The unit may act: its section runs, its descriptor is valid and it has not stopped. -/
def unitLive (s : State) (c : CoreId) (u : Nat) : Bool :=
  sectionLive s && SD.valid ((s.core c).unit u) && !((s.core c).unitSt u).stopped

/-- What the head of a unit's control channel asks for. -/
inductive CtrlStep where
  | wait
  | fault (ch : Nat)
  /-- The index of an index or predicate token. -/
  | index (i : Nat)
  deriving DecidableEq, Repr

/-- The control token of SELECT, ROUTE and REPEAT, checked against the unit (R213, R215). -/
def ctrlStep (s : State) (c : CoreId) (u : Nat) : CtrlStep :=
  let d := (s.core c).unit u
  match chHead s c (SD.ctrl d) with
  | none => .wait
  | some t =>
    if !t.isControl then .wait
    else if t.isEot then
      match (SD.ins d).find? fun ch => (chHead s c ch).any Token.isData with
      | some ch => .fault ch
      | none => .wait
    else if (t.ckind == 0) != SD.pred d then .fault (SD.ctrl d)
    else
      let i := if SD.pred d then t.value % 2 else t.value
      let fan := if u = 0 then SD.nin d else if u = 1 then SD.nout d else 65536
      if fan ≤ i then .fault (SD.ctrl d) else .index i

/-- SELECT, ROUTE: move the data token of the indexed input to the indexed output (R213). -/
def moveFire (s : State) (c : CoreId) (u : Nat) : State :=
  if !unitLive s c u then s
  else
    let d := (s.core c).unit u
    match ctrlStep s c u with
    | .wait => s
    | .fault ch => steerFault s c u ch
    | .index i =>
      let ip := SD.inp d (if u = 0 then i else 0)
      let op := SD.out d (if u = 0 then 0 else i)
      match chHead s c ip with
      | none => s
      | some t =>
        if !t.isData then steerFault s c u ip
        else if chCredit s c op then chSend (chPop (chPop s c ip) c (SD.ctrl d)) c op t
        else s

/-- REPEAT: one copy, or for 0 copies none, and both tokens consumed after the last (R213). -/
def repeatStep (s : State) (c : CoreId) : State :=
  if !unitLive s c 3 then s
  else
    let d := (s.core c).unit 3
    let x := (s.core c).unitSt 3
    match ctrlStep s c 3 with
    | .wait => s
    | .fault ch => steerFault s c 3 ch
    | .index n =>
      match chHead s c (SD.inp d 0) with
      | none => s
      | some t =>
        if !t.isData then steerFault s c 3 (SD.inp d 0)
        else
          let both := fun (s : State) => chPop (chPop s c (SD.inp d 0)) c (SD.ctrl d)
          if n = 0 then both s
          else if !chCredit s c (SD.out d 0) then s
          else
            let s := chSend s c (SD.out d 0) t
            if n ≤ x.copies + 1 then both (setUnit s c 3 { x with copies := 0 })
            else setUnit s c 3 { x with copies := x.copies + 1 }

/-- The next input after one, in rotation, that has not ended. -/
def nextInput (n : Nat) (ended : List Nat) (i : Nat) : Nat :=
  (((List.range n).map fun j => (i + 1 + j) % n).find? fun j => !ended.contains j).getD 0

/-- The input whose turn it is has ended for the current tensor (R214). -/
def mergeEnd (s : State) (c : CoreId) : State :=
  let d := (s.core c).unit 2
  let x := (s.core c).unitSt 2
  let ch := SD.inp d x.turn
  if !x.ended.contains x.turn && (chHead s c ch).any Token.isEot then
    let e := insertSorted x.turn x.ended
    setUnit (chPop s c ch) c 2 { x with ended := e, turn := nextInput (SD.nin d) e x.turn, taken := 0 }
  else s

/-- MERGE: the token of the input whose turn it is; after its weight the turn passes (R213). A done token waits for its set
(R214). -/
def mergeStep (s : State) (c : CoreId) : State :=
  if !unitLive s c 2 then s
  else
    let d := (s.core c).unit 2
    let x := (s.core c).unitSt 2
    let ch := SD.inp d x.turn
    if x.ended.length = SD.nin d then s
    else
      match chHead s c ch with
      | none => s
      | some t =>
        if t.isEot then mergeEnd s c
        else if t.isControl then steerFault s c 2 ch
        else if !t.isData || !chCredit s c (SD.out d 0) then s
        else
          let s := chSend (chPop s c ch) c (SD.out d 0) t
          if SD.weight d x.turn ≤ x.taken + 1 then
            setUnit s c 2 { x with taken := 0, turn := nextInput (SD.nin d) x.ended x.turn }
          else setUnit s c 2 { x with taken := x.taken + 1 }

/-- The channels a unit names as inputs, CTRL included but for MERGE (R214). -/
def unitInputs (d : BitVec 128) (u : Nat) : List Nat := (if u = 2 then [] else [SD.ctrl d]) ++ SD.ins d

/-- Consume the heads of channels. -/
def popAll (c : CoreId) (chs : List Nat) (s : State) : State := chs.foldl (fun s ch => chPop s c ch) s

/-- Send one token on each of the channels. -/
def sendAll (c : CoreId) (chs : List Nat) (t : Token) (s : State) : State := chs.foldl (fun s ch => chSend s c ch t) s

/-- MERGE sends the end-of-tensor token of the tensor that every input has ended, and the turn restarts at IN0 (R214). -/
def mergeOut (s : State) (c : CoreId) : State :=
  chSend (setUnit s c 2 { (s.core c).unitSt 2 with ended := [], turn := 0, taken := 0 }) c (SD.out ((s.core c).unit 2) 0) (controlToken 2 0)

/-- A unit passes a complete set of done or end-of-tensor tokens; an incomplete set waits, and an end-of-tensor token that MERGE
owes goes first (R214, R215). -/
def endPass (s : State) (c : CoreId) (u : Nat) : State :=
  if !unitLive s c u then s
  else
    let d := (s.core c).unit u
    let room := (SD.outs d).all fun ch => chCredit s c ch
    let x := (s.core c).unitSt 2
    if u = 2 ∧ x.ended.length = SD.nin d then (if chCredit s c (SD.out d 0) then mergeOut s c else s)
    else if (unitInputs d u).all fun ch => (chHead s c ch).any Token.isDone then
      if room then sendAll c (SD.outs d) (doneToken c) (popAll c (unitInputs d u) s) else s
    else if u = 2 then
      let s := (List.range (SD.nin d)).foldl (fun s _ => mergeEnd s c) s
      let x := (s.core c).unitSt 2
      if x.ended.length = SD.nin d ∧ chCredit s c (SD.out d 0) = true then mergeOut s c else s
    else
      match ctrlStep s c u with
      | .fault ch => steerFault s c u ch
      | _ =>
        if (unitInputs d u).all fun ch => (chHead s c ch).any Token.isEot then
          if room then sendAll c (SD.outs d) (controlToken 2 0) (popAll c (unitInputs d u) s) else s
        else s

/-! ### The deadlock snapshot (R221, R224) -/

/-- Tokens that a unit needs, and whether each stands at its head: those of a firing, or of the done or end-of-tensor set that its
heads have begun (R213, R214). -/
def unitNeeds (s : State) (c : CoreId) (u : Nat) : List Bool :=
  let k := s.core c
  let d := k.unit u
  let at' := fun (p : Token → Bool) ch => (chHead s c ch).any p
  let held := fun ch => (chHead s c ch).isSome
  if !SD.valid d then []
  else if u = 2 then
    let x := k.unitSt 2
    if at' Token.isData (SD.inp d x.turn) then [true]
    else if (SD.ins d).any (at' Token.isDone) then (SD.ins d).map (at' Token.isDone)
    else if !x.ended.isEmpty || (SD.ins d).any (at' Token.isEot) then
      (List.range (SD.nin d)).map fun i => x.ended.contains i || at' Token.isEot (SD.inp d i)
    else [false]
  else if at' Token.isDone (SD.ctrl d) then true :: (SD.ins d).map (at' Token.isDone)
  else if at' Token.isEot (SD.ctrl d) then true :: (SD.ins d).map (at' Token.isEot)
  else
    match ctrlStep s c u with
    | .index i => [true, held (SD.inp d (if u = 0 then i else 0))]
    | _ => [held (SD.ctrl d), (SD.ins d).any held]

/-- The outputs that a unit sends on with what it needs: the one that its firing names, or all of them for a set (R213, R214). -/
def unitTargets (s : State) (c : CoreId) (u : Nat) : List Nat :=
  let d := (s.core c).unit u
  if u = 2 then SD.outs d
  else
    match ctrlStep s c u with
    | .index i => if u = 1 then [SD.out d i] else if u = 3 ∧ i = 0 then [] else [SD.out d 0]
    | .fault _ => []
    | .wait => SD.outs d

/-- A unit holds what it needs for an output that has no credit (R221). -/
def unitBlocked (s : State) (c : CoreId) (ch : Nat) : Bool :=
  [0, 1, 2, 3].any fun u =>
    let n := unitNeeds s c u
    !n.isEmpty && n.all id && (unitTargets s c u).contains ch

/-- A send entry is blocked: a token is ready for it and it holds no credit (R221). -/
def sendBlocked (s : State) (c : CoreId) (ch : Nat) : Bool :=
  let k := s.core c
  CH.valid (k.chan ch) && CH.send (k.chan ch) && !chCredit s c ch &&
    (!(Tab.get [] k.txq ch).isEmpty || k.stall == some (0xA00 + ch) || unitBlocked s c ch)

/-- OP and channel of the word that the core is stalled on (R224). -/
def stallWord (k : Core) : Nat × Nat :=
  match k.waiting with
  | 1 => (4, 0)
  | 2 => (0xE, 0)
  | 3 => (6, 0)
  | 4 => (8, ((k.sends.find? fun x => x.2.2).map (·.1)).getD 0)
  | 5 => (9, ((k.recvs.getLast?).map fun o => CW.chan o.word).getD 0)
  | _ => if k.fencing then (0xD, 0) else ((k.stall.getD 0) / 256, (k.stall.getD 0) % 256)

/-- A core holds a token in its queues, spill regions, routes or inbound links, or a blocked channel (R221). -/
def coreOccupied (s : State) (c : CoreId) : Bool :=
  let k := s.core c
  k.rxq.any (fun q => !q.2.isEmpty) || k.spill.any (fun q => !q.2.isEmpty) || k.routeReg.any (fun q => !q.2.isEmpty) ||
    k.wire.any (fun q => !q.2.isEmpty) || (List.range 64).any (sendBlocked s c)

/-- Link streams bound to a channel end of the section that hold a token or are blocked. -/
def streamsOccupied (s : State) : Bool :=
  s.streams.any fun p =>
    let e := p.2.entry
    SE.valid e && CH.valid ((s.core (SE.core e)).chan (SE.channel e)) &&
      (if SE.send e then sendBlocked s (SE.core e) (SE.channel e) else !p.2.buf.isEmpty)

def allCores : List CoreId := List.finRange 384

/-- The record of one core (R224). -/
def coreSnapshot (s : State) (c : CoreId) : BitVec 384 :=
  let k := s.core c
  let rx := (List.range 32).map fun i =>
    (16 + 5 * i, 5, min 16 (((recvEntry k (i / 8) (i % 8)).map fun ch => (Tab.get [] k.rxq ch).length).getD 0))
  let tx := (List.range 32).map fun i => (176 + i, 1, b2n (((sendEntry k (i / 8) (i % 8)).map (sendBlocked s c)).getD false))
  let sw := (List.range 4).map fun u =>
    (208 + u, 1, b2n ((unitNeeds s c u).any id && !(unitNeeds s c u).all id))
  let ro := (List.range 4).map fun r => (212 + r, 1, b2n (!(Tab.get [] k.routeReg r).isEmpty))
  let el := (k.chans.filter fun e => CH.valid e.2 && CH.elastic e.2).take 4
  let so := (el.zipIdx).map fun e => (216 + 12 * e.2, 12, (Tab.get [] k.spill e.1.1).length)
  let (op, ch) := stallWord k
  word 384 ([(0, 5, coreCol c), (5, 4, coreRow c)] ++ rx ++ tx ++ sw ++ ro ++ so ++ [(264, 4, op), (268, 8, ch)])

/-- The deadlock window of the section running (R222, R225). -/
def State.deadlockW (s : State) : Nat := if fld s.grid.hdr 16 5 = 0 then 20 else fld s.grid.hdr 16 5

/-- STREAM_DEADLOCK: the snapshot, then the fault; where another fault of the context came in the same cycle, the snapshot alone
(R222, R224). The cycle count is a free value (log 2). -/
def deadlock (s : State) : State :=
  let cs := allCores.filter (coreOccupied s)
  let lk := streamsOccupied s
  let faulted := s.grid.phase == .running && s.grid.ctx.any fun c => (s.ctx c).fault.isSome
  if !(sectionLive s || faulted) || (cs.isEmpty && !lk) then s
  else
    let (cyc, s) := s.fresh 32
    let sum := word 384 [(9, 1, 1), (16, 32, cyc.toNat), (48, 5, s.deadlockW), (53, 9, cs.length), (62, 1, b2n lk)]
    let s := bbAppend s 2 s.grid.ctx sum
    let s := cs.foldl (fun t c => bbAppend t 2 t.grid.ctx (coreSnapshot s c)) s
    if faulted then s else raiseFault s s.grid.ctx St.streamDeadlock

end Sys2Proof.Machine
end

