-- ==== Sys2Proof/Machine/Tables.lean ====
section
/-!
DEFINITION. Fields of the tables that commands and units read: section headers and core images (R225, R228), update
descriptors and shard headers (R276 to R278, R352), gather and exchange lists (R361, R385 to R387), collective
descriptors, bucket lists and records (R315, R319, R333), and the group table (R368).
-/
namespace Sys2Proof.Machine

/-! ### Sections -/

namespace HD
def sver (h : Row) : Nat := fld h 0 4
def preload (h : Row) : Bool := bit h 4
def imgRows (h : Row) : Nat := fld h 8 8
def w (h : Row) : Nat := fld h 16 5
def next (h : Row) : Nat := fld h 32 16
def image (h : Row) : Half := BitVec.ofNat 16 (fld h 48 16)
def imageRow (h : Row) : Nat := fld h 64 32
def watchdog (h : Row) : Nat := if fld h 96 32 = 0 then 10000 else fld h 96 32
def gate (h : Row) : Half := BitVec.ofNat 16 (fld h 128 16)
def gateCount (h : Row) : Nat := fld h 144 8
def wake (h : Row) : Half := BitVec.ofNat 16 (fld h 152 16)
def wakeCount (h : Row) : Nat := fld h 168 8
def creset (h : Row) : Half := BitVec.ofNat 16 (fld h 176 16)
def cresetCount (h : Row) : Nat := fld h 192 8
def inMask (h : Row) (c : CoreId) : Bool := bit h (256 + c.val)
end HD

namespace IM
def iver (h : Row) : Nat := fld h 0 4
def loadRow (h : Row) : Nat := fld h 16 12
def progFirst (h : Row) : Nat := fld h 32 16
def progRows (h : Row) : Nat := fld h 48 16
def entry (h : Row) : Nat := fld h 64 16
end IM

/-! ### Update programs -/

namespace UD
def uver (d : Row) : Nat := fld d 0 4
def nops (d : Row) : Nat := fld d 4 5
def nin (d : Row) : Nat := fld d 9 3 + 1
def nout (d : Row) : Nat := fld d 12 3 + 1
def granules (d : Row) : Nat := fld d 16 32
def touched (d : Row) : Half := BitVec.ofNat 16 (fld d 48 16)
def frozen (d : Row) : Half := BitVec.ofNat 16 (fld d 64 16)
def stamp (d : Row) : Half := BitVec.ofNat 16 (fld d 80 16)
def step (d : Row) : Nat := fld d 96 32
def firstGranule (d : Row) : Nat := fld d 128 32
def rmode (d : Row) : Bool := bit d 160
def op (d : Row) (i : Nat) : Word := BitVec.ofNat 32 (fld d (256 + 32 * i) 32)
def const (d : Row) (i : Nat) : Word := BitVec.ofNat 32 (fld d (768 + 32 * i) 32)
def inS (d : Row) (i : Nat) : BitVec 128 := BitVec.ofNat 128 (fld d (1280 + 128 * i) 128)
def outS (d : Row) (i : Nat) : BitVec 128 := BitVec.ofNat 128 (fld d (2304 + 128 * i) 128)
end UD

namespace US
def handle (d : BitVec 128) : Half := BitVec.ofNat 16 (fld d 0 16)
def format (d : BitVec 128) : Nat := fld d 16 5
def sr (d : BitVec 128) : Bool := bit d 21
def sat (d : BitVec 128) : Bool := bit d 22
def src (d : BitVec 128) : Nat := fld d 24 3
def first (d : BitVec 128) : Nat := fld d 32 32
end US

/-! Shard header -/

namespace SH'
def hver (h : Row) : Nat := fld h 0 4
def updating (h : Row) : Bool := bit h 4
def inconsistent (h : Row) : Bool := bit h 5
def step (h : Row) : Nat := fld h 32 32
def granules (h : Row) : Nat := fld h 96 32
end SH'

/-! ### Gathers and exchanges -/

namespace GLE
def dst (e : BitVec 512) : Half := BitVec.ofNat 16 (fld e 0 16)
def start (e : BitVec 512) : Nat := fld e 16 16
def dstRow (e : BitVec 512) : Nat := fld e 32 32
def owner (e : BitVec 512) : BitVec 20 := BitVec.ofNat 20 (fld e 64 20)
def window (e : BitVec 512) : BitVec 12 := BitVec.ofNat 12 (fld e 84 12)
def offset (e : BitVec 512) : Nat := fld e 96 48
def rows (e : BitVec 512) : Nat := fld e 144 20
def hdrWindow (e : BitVec 512) : BitVec 12 := BitVec.ofNat 12 (fld e 164 12)
def hdrOffset (e : BitVec 512) : Nat := fld e 176 48
def expect (e : BitVec 512) : Nat := fld e 224 32
def mode (e : BitVec 512) : Bool := bit e 256
def last (e : BitVec 512) : Bool := bit e 257
def waitMs (e : BitVec 512) : Nat := fld e 272 16
def wgen (e : BitVec 512) : Half := BitVec.ofNat 16 (fld e 288 16)
def hdrWgen (e : BitVec 512) : Half := BitVec.ofNat 16 (fld e 304 16)
end GLE

namespace XE
def kind (e : BitVec 512) : Nat := fld e 0 2
def start (e : BitVec 512) : Nat := fld e 16 16
def desc (e : BitVec 512) : Half := BitVec.ofNat 16 (fld e 32 16)
def descRow (e : BitVec 512) : Nat := fld e 48 32
def src (e : BitVec 512) : Half := BitVec.ofNat 16 (fld e 80 16)
def srcRow (e : BitVec 512) : Nat := fld e 96 32
def dstWindow (e : BitVec 512) : Nat := fld e 128 12
def ready (e : BitVec 512) : Half := BitVec.ofNat 16 (fld e 144 16)
def readyWord (e : BitVec 512) : Nat := fld e 160 32
def parts (e : BitVec 512) : Nat := fld e 192 16
def dstWgen (e : BitVec 512) : Half := BitVec.ofNat 16 (fld e 208 16)
end XE

namespace XD
def xver (d : Row) : Nat := fld d 0 4
def policy (d : Row) : Bool := bit d 4
def fmt (d : Row) : Nat := fld d 5 5
def tokenRows (d : Row) : Nat := fld d 10 7 + 1
def hidden (d : Row) : Nat := fld d 32 16
def group (d : Row) : Nat := fld d 48 4
def topk (d : Row) : Nat := fld d 52 3 + 1
def cap (d : Row) : Nat := fld d 56 8
def experts (d : Row) : Nat := fld d 64 12 + 1
def slots (d : Row) : Nat := fld d 80 6 + 1
def slotTokens (d : Row) : Nat := fld d 96 32
def tokens (d : Row) : Nat := fld d 128 32
def route (d : Row) : Half := BitVec.ofNat 16 (fld d 160 16)
def place (d : Row) : Half := BitVec.ofNat 16 (fld d 176 16)
def countWindow (d : Row) : Nat := fld d 192 12
def grantWindow (d : Row) : Nat := fld d 208 12
def origin (d : Row) : Half := BitVec.ofNat 16 (fld d 224 16)
def cnt (d : Row) : Half := BitVec.ofNat 16 (fld d 240 16)
def countWgen (d : Row) : Half := BitVec.ofNat 16 (fld d 256 16)
def grantWgen (d : Row) : Half := BitVec.ofNat 16 (fld d 272 16)
end XD

/-! ### Collectives and groups -/

namespace CD
def id (d : Row) : Nat := fld d 0 16
def epoch (d : Row) : Byte := BitVec.ofNat 8 (fld d 16 8)
def ward (d : Row) : Nat := if fld d 24 4 = 0 then 2 else fld d 24 4
def rescaleStep (d : Row) : Nat := if fld d 28 4 = 0 then 4 else fld d 28 4
def bsizeLog2 (d : Row) : Nat := if fld d 32 5 = 0 then 23 else fld d 32 5
def cal (d : Row) : Bool := bit d 37
def members (d : Row) : Nat := fld d 40 17
def memberHandle (d : Row) : Half := BitVec.ofNat 16 (fld d 64 16)
def list (d : Row) : Half := BitVec.ofNat 16 (fld d 80 16)
def buckets (d : Row) : Nat := fld d 96 32
def ready (d : Row) : Half := BitVec.ofNat 16 (fld d 128 16)
def notice (d : Row) : Half := BitVec.ofNat 16 (fld d 144 16)
def scale (d : Row) : Half := BitVec.ofNat 16 (fld d 160 16)
def scaleWindow (d : Row) : Nat := fld d 176 12
def record (d : Row) : Half := BitVec.ofNat 16 (fld d 192 16)
def waitMs (d : Row) : Nat := if fld d 208 16 = 0 then 2000 else fld d 208 16
def scaleWgen (d : Row) : Half := BitVec.ofNat 16 (fld d 224 16)
end CD

namespace BK
def owner (e : BitVec 512) : BitVec 20 := BitVec.ofNat 20 (fld e 0 20)
def window (e : BitVec 512) : Nat := fld e 20 12
def offset (e : BitVec 512) : Nat := fld e 32 48
def blocks (e : BitVec 512) : Nat := fld e 80 20
def stage (e : BitVec 512) : Half := BitVec.ofNat 16 (fld e 100 16)
def stageRow (e : BitVec 512) : Nat := fld e 128 32
def scaleRow (e : BitVec 512) : Nat := fld e 160 32
def update (e : BitVec 512) : Half := BitVec.ofNat 16 (fld e 192 16)
def wgen (e : BitVec 512) : Half := BitVec.ofNat 16 (fld e 208 16)
def updateRow (e : BitVec 512) : Nat := fld e 224 32
def parts (e : BitVec 512) : Nat := fld e 256 16
/-- Rows of scale bytes (R320). -/
def scaleRows (e : BitVec 512) : Nat := ceilDiv (blocks e) 512
end BK

/-! Bucket record -/

namespace RC
def step (r : Dword) : Nat := fld r 0 32
def verdict (r : Dword) : Nat := fld r 32 2
def rescales (r : Dword) : Nat := fld r 34 2
def cal (r : Dword) : Bool := bit r 36
def replay (r : Dword) : Bool := bit r 37
def armed (r : Dword) : Bool := bit r 38
def owner (r : Dword) : Bool := bit r 39
def abandoned (r : Dword) : Bool := bit r 40
def uflags (r : Dword) : Nat := fld r 41 7
end RC

namespace GP
def number (e : BitVec 512) : Nat := fld e 0 4
def kind (e : BitVec 512) : Nat := fld e 4 3
def members (e : BitVec 512) : Nat := fld e 8 17
def memberHandle (e : BitVec 512) : Half := BitVec.ofNat 16 (fld e 32 16)
def keyholder (e : BitVec 512) : Nat := fld e 48 16
def bcastWindow (e : BitVec 512) : Nat := fld e 64 12
def waitMs (e : BitVec 512) : Nat := if fld e 80 16 = 0 then 2000 else fld e 80 16
def step0 (e : BitVec 512) : Word := BitVec.ofNat 32 (fld e 96 32)
def bcastWgen (e : BitVec 512) : Half := BitVec.ofNat 16 (fld e 128 16)
end GP

/-! ### Lists held in entries, as firmware reads them (R105) -/

/-- Row j of a device entry as firmware reads it. -/
def fwRow (s : State) (h : Half) (j : Nat) : Row := fwRead s (devRowAddr (s.devEntry h) j)

/-- Bytes lo to lo + n − 1 of a device entry as firmware reads them, as a number. -/
def fwBytes (s : State) (h : Half) (lo n : Nat) : Nat :=
  ofBytes (((List.range ((lo % 512 + n + 511) / 512)).flatMap fun i => toBytes (fwRow s h (lo / 512 + i)) 512).drop (lo % 512)
    |>.take n)

/-- 64-byte entry e of a list that starts at an entry row (R319, R361, R385). -/
def fwEntry64 (s : State) (h : Half) (row e : Nat) : BitVec 512 :=
  BitVec.ofNat 512 (fld (fwRow s h (row + e / 8)) (512 * (e % 8)) 512)

/-- Member i of a member list (R315). -/
def memberAt (s : State) (h : Half) (i : Nat) : BitVec 20 := BitVec.ofNat 20 (fwWord s h i).toNat

/-- The reserved bits of a member list's words are zero, as R316 and R369 have them checked (R9, R315). -/
def membersOk (s : State) (h : Half) (n : Nat) : Bool := (List.range n).all fun i => fld (fwWord s h i) 20 12 == 0

/-- The members of a list. -/
def memberList (s : State) (h : Half) (n : Nat) : List (BitVec 20) := (List.range n).map (memberAt s h)

end Sys2Proof.Machine
end

