-- ==== Sys2Proof/Machine/KeyOps.lean ====
section
/-!
DEFINITION. KEYRING_WRITE: its checks (R85, R88, R266), the entry it writes (R87) and the writes held for a hinge (R86).
-/
namespace Sys2Proof.Machine

/-- Bits of a device entry that R83 defines. -/
def keyFields : List (Nat × Nat) := [(0, 19), (24, 92), (128, 17), (160, 32)]

/-- An entry with its reserved bits zero. -/
def keyMask (e : BitVec 256) : BitVec 256 := word 256 (keyFields.map fun f => (f.1, f.2, fld e f.1 f.2))

/-- A handle names a valid device entry of a format. -/
def namesFormat (s : State) (h : Half) (f : Nat) : Bool :=
  DE.valid (s.devEntry h) && DE.format (s.devEntry h) == f

/-- Every row of an entry lies in the region that TIER names, and in one core's window for core memory (R85). -/
def keyPlaced (s : State) (e : BitVec 256) : Bool :=
  let b := DE.base e
  let n := DE.rows e * 512
  let k := DE.interleave e
  match DE.tier e with
  | 0 =>
    decide (coreBase ≤ b) && decide (b < coreBase + 384 * 0x200000) && decide ((b - coreBase) % 0x200000 + max n 1 ≤ 0x180000)
  | 1 =>
    if k = 0 then decide (chipBase ≤ b) && decide (b + max n 1 ≤ chipBase + 0x10000000)
    else
      let o := b - chipBase
      decide (chipBase ≤ b) && decide (b < chipBase + 0x10000000) &&
        decide (o / 0x80000 + min (2 ^ k) (max 1 (DE.rows e)) ≤ 512) &&
        decide (o % 0x80000 / 512 + (DE.rows e - 1) / 2 ^ k ≤ 1023)
  | 2 => decide (b + max n 1 ≤ gddrBytes)
  | 3 => decide (cxlBase ≤ b) && decide (b + max n 1 ≤ cxlBase + cxlBytes s)
  | _ => false

/-- The conditions of R85 and R266 on a new valid entry. -/
def keyOk (s : State) (e : BitVec 256) : Bool :=
  keyPlaced s e && decide (DE.format e ≤ 0x11) && (DE.tier e == 1 || (DE.interleave e == 0 && !DE.perm e pGATE)) &&
    decide (DE.base e % 512 = 0) && (!isMx (DE.format e) || namesFormat s (DE.scale e) 0x11) &&
    !((DE.tier e == 0 || DE.tier e == 3) && (DE.perm e pACC || DE.perm e pFADD))

/-! ### Entries in use (R88) -/

def isEntry (i : Nat) (h : Half) : Bool := kr h && hIndex h == i

/-- Rows of the section headers of a run, following NEXT from a row (R226). -/
def runHeaders (s : State) (list : Half) : Nat → Nat → List Nat → List Nat
  | 0, _, seen => seen
  | n + 1, row, seen =>
    if row = 0xFFFF ∨ seen.contains row then seen
    else runHeaders s list n (HD.next (fwRow s list row)) (seen ++ [row])

/-- A run in progress uses the entry for its lists, images or bindings. -/
def runUses (s : State) (i : Nat) (r : RunSt) : Bool :=
  let p := r.payload
  isEntry i (RUN.list p) || (RUN.ub p && isEntry i (RUN.ubHandle p)) ||
    (RUN.glCount p != 0 && isEntry i (RUN.glHandle p)) || (RUN.xlCount p != 0 && isEntry i (RUN.xlHandle p)) ||
    (runHeaders s (RUN.list p) (if RUN.count p = 0 then 65536 else min 65536 (RUN.count p)) (RUN.first p).toNat []).any
      (fun row =>
        let h := fwRow s (RUN.list p) row
        isEntry i (HD.image h) || (HD.gateCount h != 0 && isEntry i (HD.gate h)) ||
          (HD.wakeCount h != 0 && isEntry i (HD.wake h)) || (HD.cresetCount h != 0 && isEntry i (HD.creset h)))

/-- An exchange entry in progress uses the entry. -/
def exchUses (i : Nat) (e : ExchEntry) : Bool :=
  !e.complete && [XE.desc e.entry, XE.src e.entry, XE.ready e.entry, XD.route e.desc, XD.place e.desc, XD.origin e.desc,
    XD.cnt e.desc].any (isEntry i)

/-- A context uses the entry: save area, run, gathers and exchanges in progress. -/
def ctxUses (s : State) (i : Nat) (x : Context) : Bool :=
  (x.isOpen && isEntry i x.save) ||
    x.run.any fun r => runUses s i r || r.gathers.any (fun g => !g.complete && isEntry i g.dst) || r.exchs.any (exchUses i)

/-- Entries that an update descriptor names. -/
def descEntries (d : Row) : List Half :=
  [UD.touched d, UD.frozen d, UD.stamp d] ++ (List.range (UD.nin d)).map (fun j => US.handle (UD.inS d j)) ++
    (List.range (UD.nout d)).map (fun j => US.handle (UD.outS d j))

/-- An armed slot of an engine uses the entry for its update. -/
def slotUses (s : State) (i : Nat) (v : BitVec 256) : Bool :=
  SL.armed v && (isEntry i (SL.notice v) || (SL.update v != 0 && (isEntry i (SL.update v) ||
    (descEntries (fwRow s (SL.update v) (SL.updateRow v))).any (isEntry i))))

/-- An open collective names the entry, or an armed bucket's window stands on it. -/
def collUses (s : State) (i : Nat) (c : Collective) : Bool :=
  [CD.memberHandle c.desc, CD.list c.desc, CD.ready c.desc, CD.notice c.desc, CD.scale c.desc, CD.record c.desc].any (isEntry i) ||
    c.buckets.any fun b => isEntry i (BK.stage b.2.entry) ||
      (b.2.armedOwner && isEntry i (s.window (BK.window b.2.entry)).handle)

/-- The entry is in use (R88). -/
def keyInUse (s : State) (i : Nat) : Bool :=
  s.fab.windows.any (fun w => w.2.state != .closed && isEntry i w.2.handle) ||
    s.colls.any (fun c => collUses s i c.2) ||
    s.engines.any (fun e => e.2.slots.any fun v => slotUses s i v.2) ||
    s.ctxs.any (fun x => ctxUses s i x.2) ||
    s.streams.any (fun x => SE.valid x.2.entry && !SE.send x.2.entry && isEntry i (SE.bufHandle x.2.entry))

/-! ### The write -/

namespace KW
def index (p : BitVec 384) : Nat := fld p 0 12
def setEpoch (p : BitVec 384) : Bool := bit p 12
def entry (p : BitVec 384) : BitVec 256 := BitVec.ofNat 256 (fld p 32 256)
end KW

/-- The entry that a KEYRING_WRITE makes of the old one (R87). -/
def newKey (s : State) (p : BitVec 384) : BitVec 256 :=
  let old := s.key (KW.index p)
  let e := keyMask (KW.entry p)
  if DE.valid e && !KW.setEpoch p then put (put e 144 1 (fld old 144 1)) 160 32 (fld old 160 32) else e

/-- Differences other than EPOCH and EPOCH_VALID. -/
def keyDiffers (a b : BitVec 256) : Bool := put (put a 144 1 0) 160 32 0 != put (put b 144 1 0) 160 32 0

/-- The status with which firmware refuses the write, 0 for none (R85, R88, R266). -/
def keyRefusal (s : State) (p : BitVec 384) : Half :=
  let e := newKey s p
  if DE.valid e && !keyOk s e then St.keyEntryInvalid
  else if keyDiffers e (s.key (KW.index p)) && keyInUse s (KW.index p) then St.keyEntryInUse
  else 0

/-- The write takes effect, and its command completes. -/
def keyApply (s : State) (c : Cmd) : State :=
  match keyRefusal s c.payload with
  | 0 => (s.setKey (KW.index c.payload) (newKey s c.payload)).finishSt c.ref St.complete
  | st => s.finishSt c.ref st

/-- The write concerns the resident context (R86). -/
def keyResident (s : State) (p : BitVec 384) : Bool :=
  s.grid.ctx.any fun c => DE.ctxOk (s.key (KW.index p)) c || DE.ctxOk (newKey s p) c

/-- KEYRING_WRITE: refused, applied at once, or held for the resident context's hinge (R86). -/
def keyringWrite (s : State) (r : CmdRef) : State :=
  s.take r 0x0101 fun c =>
    if keyRefusal s c.payload ≠ 0 ∨ keyResident s c.payload = false then keyApply s c
    else { (s.setPhase r .running) with held := s.held ++ [r] }

/-- Apply the writes held for the resident context, in order, checked again (R86). -/
def applyHeld (s : State) : State :=
  s.held.foldl (fun s r =>
    match s.cmd? r with
    | some c => if c.isDone then s else keyApply s c
    | none => s) { s with held := [] }

end Sys2Proof.Machine
end

