-- ==== Sys2Proof/Machine/UpdateOps.lean ====
section
/-!
DEFINITION. Bucket records (R333), shard headers and the step check (R352 to R354), update programs (R276 to R281, R356),
and the update binding of a run (R358, R359).
-/
namespace Sys2Proof.Machine

/-! ### Bucket records -/

/-- Record of bucket k (R333); zero where the entry does not reach (log 133). -/
def bucketRecord (s : State) (c : Collective) (k : Nat) : Dword :=
  if k / 64 < DE.rows (s.devEntry (CD.record c.desc)) then
    BitVec.ofNat 64 (fld (fwRow s (CD.record c.desc) (k / 64)) (64 * (k % 64)) 64)
  else 0

/-- Firmware writes the record of bucket k, where the entry reaches it (log 133), and keeps the row's poison (R96). -/
def setRecord (s : State) (c : Collective) (k : Nat) (x : Dword) : State :=
  let e := s.devEntry (CD.record c.desc)
  if k / 64 < DE.rows e then ctxModify s c.ctx (devRowAddr e (k / 64)) fun r => put r (64 * (k % 64)) 64 x.toNat else s

/-! ### Shard headers -/

/-- Status of R354 for an update to step t, 0 when it passes; granules is given on the engine path. -/
def stepCheck (h : Row) (t : Nat) (granules : Option Nat) : Half :=
  if SH'.hver h ≠ 1 ∨ SH'.inconsistent h = true ∨ granules.any (fun g => g != SH'.granules h) = true then St.shardInconsistent
  else if SH'.updating h then St.shardBusy
  else if SH'.step h ≠ (t + 2 ^ 32 - 1) % 2 ^ 32 then St.stepSkew
  else 0

/-- The header after a refusal with STEP_SKEW: SKEW_COUNT and SKEW_STEP (R354, R508). -/
def skewHeader (h : Row) (t : Nat) : Row :=
  let n := fld h 16 16
  let h := if n = 0xFFFF then put h 6 1 1 else put h 16 16 (n + 1)
  put h 64 32 t

/-- The header as an update begins, ends well, and ends otherwise (R356, R358, R359). -/
def headerUpdating (h : Row) : Row := put h 4 1 1
def headerDone (h : Row) (t updated skipped : Nat) : Row := put (put (put (put h 4 1 0) 32 32 t) 128 32 updated) 160 32 skipped
def headerBroken (h : Row) : Row := put (put h 4 1 0) 5 1 1

/-! ### Operations of an update program (R278) -/

/-- Operands that an operation reads: A, then B, then C. -/
def opArity (opc : Nat) : Nat := if opc = 0x04 ∨ opc = 0x0D then 3 else if opc ≤ 0x05 ∨ opc = 0x08 ∨ opc = 0x09 then 2 else 1

/-- Result and flags of an operation on FP32 patterns. -/
def updateOp (opc a b c : Nat) : Nat × Nat :=
  match opc with
  | 0x01 => fpAdd .fp32 .rne false a b
  | 0x02 => fpSub .fp32 .rne false a b
  | 0x03 => fpMul .fp32 .rne false a b
  | 0x04 => fpFma .fp32 .rne false a b c
  | 0x05 => rounded .fp32 .rne false (fquot (fdecode .fp32 a) (fdecode .fp32 b))
  | 0x06 => rounded .fp32 .rne false (froot (fdecode .fp32 a))
  | 0x07 => spRsqrt false (BitVec.ofNat 32 a)
  | 0x08 => fpMin .fp32 a b
  | 0x09 => fpMax .fp32 a b
  | 0x0A => (a % 2 ^ 31, 0)
  | 0x0B => (a ^^^ 2 ^ 31, 0)
  | 0x0C =>
    let v := fdecode .fp32 a
    if v.isNan then (Fmt.nanBits .fp32, 0)
    else if v.isZero then (a, 0)
    else (if v.neg? then 0xBF800000 else 0x3F800000, 0)
  | 0x0D =>
    let x := if fpCmp .lt .fp32 0 a then b else c
    (if (fdecode .fp32 x).isNan then Fmt.nanBits .fp32 else x, 0)
  | _ => (a, 0)

/-- Run the operations of a descriptor on one element from its inputs: the temporaries and the flags. -/
def runOps (d : Row) (ins : List Nat) (t7 : Nat) : Tab Nat × Nat :=
  (List.range (UD.nops d)).foldl (fun (p : Tab Nat × Nat) i =>
    let w := UD.op d i
    let rd := fun (code : Nat) =>
      if code < 8 then ins.getD code 0 else if code < 16 then Tab.get 0 p.1 (code - 8) else (UD.const d (code - 16)).toNat
    let (r, f) := updateOp (fld w 0 5) (rd (fld w 8 5)) (rd (fld w 13 5)) (rd (fld w 18 5))
    (Tab.set 0 p.1 (fld w 5 3) r, p.2 ||| f)) (Tab.set 0 [] 7 t7, 0)

/-! ### Granules (R280) -/

/-- Bit n of a bitmap or mask held in an entry. -/
def entryBit (s : State) (h : Half) (n : Nat) : Bool := (fwRow s h (n / 4096)).toNat.testBit (n % 4096)

/-- Sectors that bits lo to lo + n − 1 of a row touch. -/
def sectorsOf (lo n : Nat) : BitVec 16 :=
  BitVec.ofNat 16 ((List.range 16).foldl (fun a i => if lo / 256 ≤ i ∧ i ≤ (lo + n - 1) / 256 then a ||| (1 <<< i) else a) 0)

/-- A poisoned sector among bits lo to lo + n − 1 of row j of an entry, as its fault record names it (R97). -/
def entryPoison (s : State) (h : Half) (j lo n : Nat) : Option FaultInfo :=
  match rawRead s (devRowAddr (s.devEntry h) j) with
  | .ok (_, p) =>
    let m := p &&& sectorsOf lo n
    if m = 0 then none else some { handle := h, index := j, aux := firstSector m }
  | .error _ => none

/-- The same for the bit of granule number i in a bitmap or mask, and for its stamp; handle 0 names none (R276). -/
def bitPoison (s : State) (h : Half) (i : Nat) : Option FaultInfo := if h = 0 then none else entryPoison s h (i / 4096) (i % 4096) 1
def stampPoison (s : State) (h : Half) (i : Nat) : Option FaultInfo :=
  if h = 0 then none else entryPoison s h (i / 128) (32 * (i % 128)) 32

/-- The 128 elements of granule n of an input as FP32 patterns, with their flags; a poisoned sector ends it. -/
def granuleIn (s : State) (st : BitVec 128) (n : Nat) : Except FaultInfo (List (Nat × Nat)) :=
  let h := US.handle st
  let f := US.format st
  let first := US.first st + 128 * n
  let e := s.devEntry h
  if f = 0x10 then
    match (entryPoison s h (first / 64) 0 4096).or (entryPoison s h (first / 64 + 1) 0 4096) with
    | some i => .error i
    | none =>
      .ok (dequantize true (Mem.row s.ms.mem (devRowAddr e (first / 64))) (Mem.row s.ms.mem (devRowAddr e (first / 64 + 1))) false)
  else
    let o := first % elemsPerRow f
    match entryPoison s h (first / elemsPerRow f) (elemBit f o) (128 * codeWidth f) with
    | some i => .error i
    | none =>
      let r := Mem.row s.ms.mem (devRowAddr e (first / elemsPerRow f))
      .ok ((List.range 128).map fun i =>
        let x := rowElem f r (o + i)
        if f = 0x01 then (x, 0)
        else
          match fmtOfCode f with
          | some g => fencode .fp32 .rne false (fdecode g x)
          | none => (x, 0))

/-- Write the 128 elements of granule n of an output, rounded (R51, R64), FP32 as it is (R38): the flags. -/
def granuleOut (s : State) (key : Option Dword) (st : BitVec 128) (n : Nat) (vals : List Nat) : Nat × State :=
  let e := s.devEntry (US.handle st)
  let f := US.format st
  let first := US.first st + 128 * n
  let a := devRowAddr e (first / elemsPerRow f)
  let o := first % elemsPerRow f
  let (free, s) := if US.sr st ∧ key.isNone = true then s.fresh 2048 else (0, s)
  let res := (vals.zipIdx).map fun v =>
    let at' := elemBit f (o + v.2)
    let rnd := if US.sr st then .stoch (match key with
      | some k => drawAt k (a * 8 + at')
      | none => fld free (16 * v.2) 16) else .rne
    if f = 0x01 then (v.1, 0)
    else
      match fmtOfCode f with
      | some g => fencode g rnd (US.sat st) (fdecode .fp32 v.1)
      | none => (v.1, 0)
  let fl := res.foldl (fun x r => x ||| r.2) 0
  match rawRead s a with
  | .ok (r, p) =>
    let r := (res.zipIdx).foldl (fun r v => put r (elemBit f (o + v.2)) (codeWidth f) v.1.1) r
    (fl, rawPut s a r (if 128 * codeWidth f = 4096 then 0 else p))
  | .error _ => (fl, s)

/-- What one granule comes to. -/
inductive GranuleStep where
  | skipped
  | poisoned (info : FaultInfo)
  | written (flags : Nat) (s : State)

/-- One granule of a program (R280, R351). -/
def granule (s : State) (d : Row) (key : Option Dword) (n : Nat) : GranuleStep :=
  let i := UD.firstGranule d + n
  let bad := (bitPoison s (UD.touched d) i).or (bitPoison s (UD.frozen d) i)
  if bad.isSome then .poisoned (bad.getD {})
  else if (UD.touched d ≠ 0 ∧ entryBit s (UD.touched d) i = false) ∨ (UD.frozen d ≠ 0 ∧ entryBit s (UD.frozen d) i = true) then
    .skipped
  else
    match (List.range (UD.nin d)).mapM fun j => granuleIn s (UD.inS d j) n with
    | .error i => .poisoned i
    | .ok ins =>
     match stampPoison s (UD.stamp d) i with
     | some i => .poisoned i
     | none =>
      let stamped := UD.stamp d != 0
      let t7 := if stamped then fencode .fp32 .rne false (ofInt (serSigned 32 (UD.step d) (fwWord s (UD.stamp d) i).toNat)) else (0, 0)
      let lanes := (List.range 128).map fun l => runOps d (ins.map fun x => (x.getD l (0, 0)).1) t7.1
      let fl := (ins.foldl (fun a x => x.foldl (fun a v => a ||| v.2) a) t7.2) ||| lanes.foldl (fun a l => a ||| l.2) 0
      let (fl, s) := (List.range (UD.nout d)).foldl (fun (p : Nat × State) o =>
        let st := UD.outS d o
        let (g, s) := granuleOut p.2 key st n (lanes.map fun l => Tab.get 0 l.1 (US.src st))
        (p.1 ||| g, s)) (fl, s)
      let s := if stamped then
        wordPut s (devRowAddr (s.devEntry (UD.stamp d)) (i / 128)) (i % 128) (BitVec.ofNat 32 (UD.step d)) else s
      .written fl s

/-- Granules n onward: flags, written, skipped, and the poisoned sector that ended the program. -/
def granules (d : Row) (key : Option Dword) :
    Nat → Nat → Nat × Nat × Nat × Option FaultInfo × State → Nat × Nat × Nat × Option FaultInfo × State
  | 0, _, x => x
  | left + 1, n, (fl, wr, sk, _, s) =>
    match granule s d key n with
    | .skipped => granules d key left (n + 1) (fl, wr, sk + 1, none, s)
    | .poisoned i => (fl, wr, sk, some i, s)
    | .written g t => granules d key left (n + 1) (fl ||| g, wr + 1, sk, none, t)

/-! ### The engine's run (R281, R356) -/

/-- Engine number and generator index of an update-capable controller (R64). -/
def updEngine (e : Fin 8) : Nat := 512 + 5 * e.val

/-- Address of the shard header of a slot; none where it lies outside the entry (R355, R356). -/
def slotHeader (s : State) (v : BitVec 256) : Option Nat :=
  let e := s.devEntry (SL.update v)
  if SL.updateRow v + 1 < DE.rows e then some (devRowAddr e (SL.updateRow v + 1)) else none

/-- The owner's bucket of a slot, changed. -/
def onSlotBucket (s : State) (v : BitVec 256) (f : Bucket → Bucket) : State :=
  match s.coll (SL.collective v) with
  | some c => s.setColl (SL.collective v) { c with buckets := Tab.set {} c.buckets (SL.bucket v) (f (Tab.get {} c.buckets (SL.bucket v))) }
  | none => s

/-- Flags of an update program reach UFLAGS of the owner's record (R70). -/
def putUflags (s : State) (v : BitVec 256) (fl : Nat) : State :=
  match s.coll (SL.collective v) with
  | some c =>
    let r := bucketRecord s c (SL.bucket v)
    if fl = 0 then s else setRecord s c (SL.bucket v) (put r 41 7 (RC.uflags r ||| fl))
  | none => s

/-- UPDATE: the oldest waiting slot's program starts and its granules are processed (R356 steps 1 to 3). -/
def updateStart (s : State) (e : Fin 8) : State :=
  let n := updEngine e
  let g := s.engine n
  match g.updating, g.updateQ with
  | some _, _ => s
  | none, [] => s
  | none, i :: q =>
    let v := g.slot i
    let s := s.setEngine n { g with updateQ := q }
    let d := fwRow s (SL.update v) (SL.updateRow v)
    let t := UD.step d
    let refuse := fun (s : State) (st : Half) => slotNotice (onSlotBucket s v fun b => { b with refused := st }) v
    let ctx : CtxId := Fin.ofNat 8 (SL.ctx v)
    let down := fun (s : State) => raiseFault s (some ctx) St.cxlPortDown { handle := SL.update v, index := SL.updateRow v }
    if rowDown s (devRowAddr (s.devEntry (SL.update v)) (SL.updateRow v)) then down s
    else match slotHeader s v with
    | none => refuse s St.shardInconsistent
    | some a =>
      match rawRead s a with
      | .error _ => if rowDown s a then down s else refuse s St.shardInconsistent
      | .ok (h, p) =>
        let st := if p ≠ 0 then St.shardInconsistent else stepCheck h t (some (UD.granules d))
        if st = St.stepSkew then refuse (fwWrite s a (skewHeader h t)) st
        else if st ≠ 0 then refuse s st
        else
          let s := fwWrite s a (headerUpdating h)
          let key := if UD.rmode d then some (drawKey s.jobSeed (BitVec.ofNat 32 t) (386 + e.val)) else none
          let (fl, wr, sk, bad, s) := granules d key (UD.granules d) 0 (0, 0, 0, none, s)
          let s := putUflags s v fl
          match bad with
          | some i => raiseFault (fwModify s a headerBroken) (some ctx) St.poisonConsumed i
          | none => s.setEngine n { s.engine n with updating := some (v, d, wr, sk) }

/-- The program's writes have committed: the header and the notice (R356 step 4). -/
def updateDone (s : State) (e : Fin 8) : State :=
  let n := updEngine e
  match (s.engine n).updating with
  | none => s
  | some (v, d, wr, sk) =>
    let s := s.setEngine n { s.engine n with updating := none }
    match slotHeader s v with
    | none => slotNotice s v
    | some a => slotNotice (ctxModify s (Fin.ofNat 8 (SL.ctx v)) a fun h => headerDone h (UD.step d) wr sk) v

/-! ### Checks of a descriptor (R279) -/

/-- The direct part of a channel: first address and bytes (R260). -/
def directPart (s : State) (c : Nat) : Nat × Nat :=
  let d := s.ms.gddrD.toNat * 0x10000000
  (40 * (0x200000000 - d) + c * d, d)

def inDirect (s : State) (c : Nat) (e : BitVec 256) : Bool :=
  let (a, n) := directPart s c
  decide (a ≤ DE.base e) && decide (DE.base e + DE.rows e * 512 ≤ a + n) && DE.tier e == 2

/-- Elements that an entry holds in a stream format. -/
def streamElems (e : BitVec 256) (f : Nat) : Nat := if f = 0x10 then DE.rows e / 2 * 128 else DE.rows e * elemsPerRow f

/-- First and past-the-last address of a stream's rows. -/
def streamRange (s : State) (d : Row) (st : BitVec 128) : Nat × Nat :=
  let e := s.devEntry (US.handle st)
  let f := US.format st
  if f = 0x10 then (devRowAddr e (US.first st / 64), devRowAddr e (US.first st / 64 + 2 * UD.granules d))
  else (devRowAddr e (US.first st / elemsPerRow f), devRowAddr e ((US.first st + 128 * UD.granules d - 1) / elemsPerRow f + 1))

/-- Temporaries written before slot i. -/
def writtenBefore (d : Row) (i : Nat) : List Nat :=
  (if UD.stamp d ≠ 0 then [7] else []) ++ (List.range i).map fun j => fld (UD.op d j) 5 3

/-- R279: the descriptor passes for controller c, a context, and the bucket's rows [lo, hi). -/
def updateOk (s : State) (c : Nat) (ctx : CtxId) (d : Row) (lo hi : Nat) : Bool :=
  let entryOk := fun (h : Half) (perms : List Nat) =>
    let e := s.devEntry h
    DE.valid e && DE.ctxOk e ctx && perms.all (DE.perm e)
  let ins := (List.range (UD.nin d)).map (UD.inS d)
  let outs := (List.range (UD.nout d)).map (UD.outS d)
  decide (c % 5 = 0) && decide (c < 40) &&
  UD.uver d == 1 && decide (1 ≤ UD.nops d) && decide (UD.nops d ≤ 16) && decide (1 ≤ UD.granules d) &&
  ins.all (fun x => [0x01, 0x02, 0x03, 0x10].contains (US.format x)) && outs.all (fun x => [0x01, 0x02, 0x03].contains (US.format x)) &&
  (ins ++ outs).all (fun x => US.first x % 128 == 0) &&
  (List.range (UD.nops d)).all (fun i =>
    let w := UD.op d i
    decide (1 ≤ fld w 0 5) && decide (fld w 0 5 ≤ 0x0E) &&
    ([fld w 8 5, fld w 13 5, fld w 18 5].take (opArity (fld w 0 5))).all fun code =>
      if code < 8 then decide (code < UD.nin d) else if code < 16 then (writtenBefore d i).contains (code - 8) else true) &&
  outs.all (fun x => (writtenBefore d (UD.nops d)).contains (US.src x)) &&
  ins.all (fun x => entryOk (US.handle x) [pRD]) && outs.all (fun x => entryOk (US.handle x) [pWR]) &&
  (UD.touched d == 0 || entryOk (UD.touched d) [pRD]) && (UD.frozen d == 0 || entryOk (UD.frozen d) [pRD]) &&
  (UD.stamp d == 0 || entryOk (UD.stamp d) [pRD, pWR]) &&
  (ins ++ outs).all (fun x => inDirect s c (s.devEntry (US.handle x))) &&
  (UD.stamp d == 0 || inDirect s c (s.devEntry (UD.stamp d))) &&
  (ins ++ outs).all (fun x => decide (US.first x + 128 * UD.granules d ≤ streamElems (s.devEntry (US.handle x)) (US.format x))) &&
  [UD.touched d, UD.frozen d].all (fun h => h == 0 || decide (UD.firstGranule d + UD.granules d ≤ DE.rows (s.devEntry h) * 4096)) &&
  (UD.stamp d == 0 || decide (UD.firstGranule d + UD.granules d ≤ DE.rows (s.devEntry (UD.stamp d)) * 128)) &&
  (List.range (UD.nout d)).all (fun i => (List.range i).all fun j =>
    let (a, b) := streamRange s d (UD.outS d i)
    let (x, y) := streamRange s d (UD.outS d j)
    decide (b ≤ x) || decide (y ≤ a)) &&
  ins.all (fun x => US.format x != 0x10 || (let (a, b) := streamRange s d x; decide (a ≤ lo) && decide (hi ≤ b)))

/-! ### The update binding of a run (R358, R359, R423) -/

/-- Entry b of a run's binding: handle and row of a shard header; none where the binding's row cannot be read. -/
def bindingEntry (s : State) (p : BitVec 384) (b : Nat) : Option (Half × Nat) :=
  let e := s.devEntry (RUN.ubHandle p)
  let row := RUN.ubRow p + b / 64
  if DE.valid e ∧ row < DE.rows e then
    let x := fld (fwRow s (RUN.ubHandle p) row) (64 * (b % 64)) 64
    some (BitVec.ofNat 16 x, x >>> 32)
  else none

/-- Address of header b of a binding; none where its entry or row is bad. -/
def bindingHeader (s : State) (p : BitVec 384) (b : Nat) : Option Nat :=
  match bindingEntry s p b with
  | some (h, row) =>
    let e := s.devEntry h
    if DE.valid e ∧ row < DE.rows e then some (devRowAddr e row) else none
  | none => none

/-- The check of header b. -/
def bindingCheck (s : State) (p : BitVec 384) (b : Nat) : Half :=
  match bindingHeader s p b with
  | none => St.shardInconsistent
  | some a => if fwPoison s a ≠ 0 then St.shardInconsistent else stepCheck (fwRead s a) (RUN.step p) none

/-- The first header of a binding that cannot be reached because a port is down (R265). -/
def bindingDown (s : State) (p : BitVec 384) : Option Nat :=
  (List.range (RUN.ubCount p)).find? fun b =>
    rowDown s (devRowAddr (s.devEntry (RUN.ubHandle p)) (RUN.ubRow p + b / 64)) || (bindingHeader s p b).any (rowDown s)

/-- Change every header of a context's binding that can be read. -/
def mapBinding (s : State) (c : CtxId) (p : BitVec 384) (f : Row → Row) : State :=
  (List.range (RUN.ubCount p)).foldl (fun s b =>
    match bindingHeader s p b with
    | some a => ctxModify s c a f
    | none => s) s

/-- Before the first section: the first failing header with its status, skewed headers updated; or every header UPDATING. -/
def bindHeaders (s : State) (c : CtxId) (p : BitVec 384) : Option (Nat × Half) × State :=
  let bad := (List.range (RUN.ubCount p)).map fun b => (b, bindingCheck s p b)
  match bad.find? fun x => x.2 != 0 with
  | none => (none, mapBinding s c p headerUpdating)
  | some x =>
    (some x, bad.foldl (fun s y =>
      if y.2 = St.stepSkew then
        match bindingHeader s p y.1 with
        | some a => ctxModify s c a fun h => skewHeader h (RUN.step p)
        | none => s
      else s) s)

/-- The writes of R359 for a bound run that ends with a status. -/
def settleBinding (s : State) (c : CtxId) (p : BitVec 384) (st : Half) : State :=
  if RUN.ub p then
    mapBinding s c p (if st = St.complete then fun h => headerDone h (RUN.step p) 0 0 else headerBroken)
  else s

end Sys2Proof.Machine
end

