-- ==== Sys2Proof/Machine/ImageOps.lean ====
section
/-!
DEFINITION. Core images: loading, the checks of R202, R232 and R380, the configuration they give a core, and what a context
change saves and restores (R65, R251, R252).
-/
namespace Sys2Proof.Machine

/-! ### Configuration of a core (R203, R227, R228, R239) -/

/-- Table of the n values of w bits from bit lo of a row, keys from k. -/
def rowTable (w : Nat) (r : Row) (lo n k : Nat) (t : Tab (BitVec w)) : Tab (BitVec w) :=
  (List.range n).foldl (fun t i => Tab.set 0 t (k + i) (BitVec.ofNat w (fld r (lo + w * i) w))) t

/-- A core with an empty configuration: what survives a hinge of its context. -/
def Core.bare (k : Core) : Core :=
  { vregs := k.vregs, masks := k.masks, acc := k.acc, laneFlags := k.laneFlags, colFlags := k.colFlags,
    replayMode := k.replayMode, gens := k.gens, vectors := k.vectors, vinstr := k.vinstr,
    cmCorrected := k.cmCorrected, obCorrected := k.obCorrected }

/-- The core with the tables of its image rows, and copies of the parents its entries name (R89, R227). -/
def configure (s : State) (k : Core) (rows : List Row) (imgRows : Nat) : Core :=
  let h := rows.getD 0 0
  let keys := rowTable 128 (rows.getD 2 0) 0 32 32 (rowTable 128 (rows.getD 1 0) 0 32 0 [])
  { k.bare with
    keys := keys
    parents := keys.foldl (fun t e =>
      if CE.valid e.2 && !CE.isLocal e.2 then Tab.set 0 t e.1 (s.key (CE.parent e.2)) else t) []
    chans := rowTable 128 (rows.getD 4 0) 0 32 32 (rowTable 128 (rows.getD 3 0) 0 32 0 [])
    routes := rowTable 16 (rows.getD 5 0) 0 4 0 []
    steer := rowTable 128 (rows.getD 5 0) 512 4 0 []
    loadRow := IM.loadRow h
    imgRows := imgRows
    progFirst := BitVec.ofNat 16 (IM.progFirst h)
    progRows := BitVec.ofNat 16 (IM.progRows h)
    pc := BitVec.ofNat 16 (IM.entry h) }

/-- The spill entries of a configured core, captured for the section (R219). -/
def captureSpills (s : State) (c : CoreId) : State :=
  let k := s.core c
  s.setCore c { k with spillCaps := k.chans.foldl (fun t e =>
    if CH.valid e.2 && CH.elastic e.2 then Tab.set {} t e.1 (capture s (some c) (CH.spill e.2)) else t) [] }

/-! ### Image checks (R232) -/

/-- The header's own conditions. -/
def headerOk (h : Row) : Bool :=
  HD.sver h == 1 && decide (1 ≤ HD.imgRows h) && decide (HD.imgRows h ≤ 128) &&
    (HD.w h == 0 || (decide (16 ≤ HD.w h) && decide (HD.w h ≤ 30)))

/-- A handle in a core entry names a valid entry of format 0x11, of either keyring. -/
def scaleOk (s : State) (k : Core) (h : Half) : Bool :=
  if kr h then namesFormat s h 0x11
  else
    let e : BitVec 128 := Tab.get 0 k.keys (hIndex h)
    decide (hIndex h < 64) && CE.valid e && CE.format e == 0x11

/-- A valid core entry passes. -/
def coreEntryOk (s : State) (k : Core) (e : BitVec 128) : Bool :=
  let p := s.key (CE.parent e)
  let tier := if CE.isLocal e then 0 else DE.tier p
  decide (CE.format e ≤ 0x11) && (CE.isLocal e || DE.valid p) &&
    (!CE.perm e pGATE || tier == 1) && (!(CE.perm e pACC || CE.perm e pFADD) || tier == 1 || tier == 2) &&
    (!isMx (CE.format e) || scaleOk s k (CE.scale e)) && (!CE.isLocal e || decide (CE.offset e + CE.rows e ≤ 3072))

/-- A core's image passes, given its header row and the configuration made from it. -/
def imageOk (s : State) (hdr img : Row) (k : Core) : Bool :=
  IM.iver img == 1 && decide (IM.loadRow img + HD.imgRows hdr ≤ 3072) &&
    decide (6 ≤ IM.progFirst img) && decide (1 ≤ IM.progRows img) &&
    decide (IM.progFirst img + IM.progRows img ≤ HD.imgRows hdr) && decide (IM.entry img < 63 * IM.progRows img) &&
    k.keys.all fun e => !CE.valid e.2 || coreEntryOk s k e.2

/-! ### Channel maps (R202, R211, R380) -/

def portEntry (e : BitVec 128) : Bool := CH.valid e && CH.endpoint e == 0

/-- Condition 1. -/
def mapCodes (c : CoreId) (k : Core) : Bool :=
  k.chans.all (fun e => !CH.valid e.2 || (decide (CH.endpoint e.2 ≤ 1) && decide (CH.owner e.2 ≤ 4) &&
    !(CH.send e.2 && (CH.elastic e.2 || CH.doneReq e.2)) &&
    (CH.endpoint e.2 != 0 || (neighbour c (CH.port e.2)).isSome))) &&
  k.routes.all fun e => !RT.valid e.2 || (RT.inPort e.2 != RT.outPort e.2 &&
    (neighbour c (RT.inPort e.2)).isSome && (neighbour c (RT.outPort e.2)).isSome)

/-- Inbound and outbound (port, VC) of a core, with repeats. -/
def inbound (k : Core) : List Nat :=
  (k.chans.filter fun e => portEntry e.2 && !CH.send e.2).map (fun e => pv (CH.port e.2) (CH.vc e.2)) ++
    (k.routes.filter fun e => RT.valid e.2).map fun e => pv (RT.inPort e.2) (RT.inVc e.2)
def outbound (k : Core) : List Nat :=
  (k.chans.filter fun e => portEntry e.2 && CH.send e.2).map (fun e => pv (CH.port e.2) (CH.vc e.2)) ++
    (k.routes.filter fun e => RT.valid e.2).map fun e => pv (RT.outPort e.2) (RT.outVc e.2)

/-- Condition 2. -/
def mapSingle (k : Core) : Bool := decide (inbound k).Nodup && decide (outbound k).Nodup

/-- Condition 3: both sides of every link agree, and every chain comes from a send entry. -/
def mapChains (s : State) (c : CoreId) (k : Core) : Bool :=
  (outbound k).all (fun x => (neighbour c (x / 8)).any fun d => (inbound (s.core d)).contains (pv (opposite (x / 8)) (x % 8))) &&
  (inbound k).all (fun x => (neighbour c (x / 8)).any fun d => (outbound (s.core d)).contains (pv (opposite (x / 8)) (x % 8))) &&
  (inbound k).all fun x => (chainHead s maxChain c (x / 8) (x % 8)).isSome

/-- Condition 4. -/
def mapElastic (s : State) (c : CoreId) (k : Core) : Bool :=
  let el := k.chans.filter fun e => CH.valid e.2 && CH.elastic e.2
  decide (el.length ≤ 4) && el.all fun e =>
    let h := CH.spill e.2
    let cap := capture s (some c) h
    decide (1 ≤ CH.spillRows e.2) && decide (CH.spillRows e.2 ≤ 2048) && !kr h && cap.valid && ownEntry c cap &&
      cap.permOk pSPILL && decide (CH.spillRows e.2 ≤ cap.rows)

/-- Channels that a unit's descriptor names: inputs, then outputs. -/
def unitNames (d : BitVec 128) (u : Nat) : List Nat := unitInputs d u ++ SD.outs d

/-- R211 and the use of the channels that a descriptor names. -/
def steerOk (k : Core) (u : Nat) : Bool :=
  let d := k.unit u
  let owned := fun (send : Bool) (ch : Nat) =>
    let e := k.chan ch
    CH.valid e && CH.send e == send && CH.owner e == u + 1
  !SD.valid d ||
    ((match u with
      | 0 => SD.nout d == 1 && (!SD.pred d || SD.nin d == 2)
      | 1 => SD.nin d == 1 && (!SD.pred d || SD.nout d == 2)
      | 2 => !SD.pred d && (List.range (SD.nin d)).all fun i => SD.weight d i != 0
      | _ => SD.nin d == 1 && SD.nout d == 1 && !SD.pred d) &&
      decide (unitNames d u).Nodup && (unitInputs d u).all (owned false) && (SD.outs d).all (owned true))

/-- Condition 5. -/
def mapSteer (k : Core) : Bool :=
  (List.range 4).all (steerOk k) &&
    k.chans.all fun e => !CH.valid e.2 || CH.owner e.2 == 0 || decide (4 < CH.owner e.2) ||
      (let u := CH.owner e.2 - 1; SD.valid (k.unit u) && (unitNames (k.unit u) u).contains e.1)

/-- R380, numbered 6 in the fault record: the streams named. -/
def mapStreams (s : State) (c : CoreId) (k : Core) : Bool :=
  k.chans.all fun e => !(CH.valid e.2 && CH.endpoint e.2 == 1) ||
    (let x := (s.stream (CH.stream e.2)).entry
     decide (CH.stream e.2 < 1024) && SE.valid x && SE.send x == CH.send e.2 && SE.core x == c && SE.channel x == e.1)

/-- The first condition that a core's map breaks. -/
def mapBreach (s : State) (c : CoreId) : Option Nat :=
  let k := s.core c
  if !mapCodes c k then some 1
  else if !mapSingle k then some 2
  else if !mapChains s c k then some 3
  else if !mapElastic s c k then some 4
  else if !mapSteer k then some 5
  else if !mapStreams s c k then some 6
  else none

/-! ### Loading (R226, R227, R234, R237) -/

/-- Rows o to o + n − 1 of an entry with their poison, and the fault that ended them; those under lim, counted from the first, are
consumed (R93, R97). -/
def imageRows (k : Cap) (lim : Nat) : Nat → Nat → State → List (Row × BitVec 16) × Option Flt × State
  | _, 0, s => ([], none, s)
  | o, n + 1, s =>
    match readAt s k o with
    | (.error f, s) => ([], some f, s)
    | (.ok (r, p), s) =>
      if lim ≠ 0 ∧ p ≠ 0 then ([], some ⟨St.poisonConsumed, { handle := k.handle, index := o, aux := firstSector p }⟩, s)
      else
        let (rs, f, s) := imageRows k (lim - 1) (o + 1) n s
        ((r, p) :: rs, f, s)

/-- Write an image into a core's rows. -/
def placeImage (c : CoreId) : Nat → List (Row × BitVec 16) → State → State
  | _, [], s => s
  | n, (r, p) :: t, s => placeImage c (n + 1) t (rawPut s (coreRowAddr c.val n) r p)

/-- The image of the core that comes i-th in the mask: rows, read through IMAGE_HANDLE for the context, up to one that fails
(R93, R226). -/
def fetchImage (s : State) (ctx : CtxId) (hdr : Row) (i : Nat) : List (Row × BitVec 16) × Option Flt × State :=
  let k := capture s none (HD.image hdr)
  match begin' s (some ctx) k pRD none with
  | (some f, s) => ([], some f, s)
  | (none, s) => imageRows k 6 (HD.imageRow hdr + i * HD.imgRows hdr) (HD.imgRows hdr) s

/-- Cores of a mask in ascending order. -/
def maskCores (hdr : Row) : List CoreId := allCores.filter (HD.inMask hdr)

/-- Load one image cold, unless it stands preloaded: rows before one that fails land, and an image that would leave the core's memory
is not placed, its LOAD_ROW kept for the check of R232 (R93, R234, R237 step 4). -/
def loadImage (ctx : CtxId) (hdr : Row) (pre : Bool) (c : CoreId) (i : Nat) (s : State) : Option Flt × State :=
  let k := s.core c
  if pre && !s.grid.preSkipped.contains c.val && k.preRows == HD.imgRows hdr then
    (none, s.setCore c { k with loadRow := k.preRow })
  else
    let (rs, f, s) := fetchImage s ctx hdr i
    let n := IM.loadRow (rs.headD (0, 0)).1
    let s := s.setCore c { s.core c with loadRow := n }
    (f, if n + HD.imgRows hdr ≤ 3072 then placeImage c n rs s else s)

/-- Load every image of the mask. -/
def loadImages (ctx : CtxId) (hdr : Row) (pre : Bool) : List (CoreId × Nat) → State → Option Flt × State
  | [], s => (none, s)
  | (c, i) :: t, s =>
    match loadImage ctx hdr pre c i s with
    | (some f, s) => (some { f with info := { f.info with core := some c } }, s)
    | (none, s) => loadImages ctx hdr pre t s

/-- The first six rows of the image that stands in a core. -/
def standing (s : State) (c : CoreId) : List Row :=
  (List.range 6).map fun i => Mem.row s.ms.mem (coreRowAddr c.val ((s.core c).loadRow + i))

/-- Preload the images of the next section: cores whose new range overlaps their active rows are skipped (R234). -/
def preloadImages (ctx : CtxId) (next : Nat) (hdr : Row) : List (CoreId × Nat) → State → State
  | [], s => { s with grid := { s.grid with preload := some (BitVec.ofNat 16 next) } }
  | (c, i) :: t, s =>
    match fetchImage s ctx hdr i with
    | (_, some _, _) =>
      preloadImages ctx next hdr t { s with grid := { s.grid with preSkipped := insertSorted c.val s.grid.preSkipped } }
    | (rs, none, s') =>
      let k := s.core c
      let n := IM.loadRow (rs.headD (0, 0)).1
      let m := HD.imgRows hdr
      if 3072 < n + m ∨ (n < k.loadRow + k.imgRows ∧ k.loadRow < n + m) then
        preloadImages ctx next hdr t { s with grid := { s.grid with preSkipped := insertSorted c.val s.grid.preSkipped } }
      else
        let s := placeImage c n rs s'
        preloadImages ctx next hdr t (s.setCore c { s.core c with preRow := n, preRows := m })

/-- Discard a preload: its rows are ordinary again (R234). -/
def dropPreload (s : State) : State :=
  let s := allCores.foldl (fun s c =>
    let k := s.core c
    if k.preRows = 0 then s else s.setCore c { k with preRow := 0, preRows := 0 }) s
  { s with grid := { s.grid with preload := none, preSkipped := [] } }

/-! ### Context changes (R65, R250 to R252) -/

/-- Address of a row of a context's save area. -/
def saveRow (s : State) (c : CtxId) (j : Nat) : Nat := devRowAddr (s.devEntry (s.ctx c).save) j

/-- A row of byte-wide table values. -/
def byteRow (t : Tab Byte) (lo : Nat) (r : Row) : Row := t.foldl (fun r p => put r (8 * (lo + p.1)) 8 p.2.toNat) r

/-- The bytes of a row as a table. -/
def rowBytes (r : Row) (lo : Nat) : Tab Byte :=
  (List.range 128).foldl (fun t i => Tab.set 0 t i (BitVec.ofNat 8 (fld r (8 * (lo + i)) 8))) []

/-- Save one core's flag words and, in replay mode, its generators. -/
def saveCore (s : State) (c : CtxId) (i : CoreId) : State :=
  let k := s.core i
  let s := ctxWrite s c (saveRow s c (5 * i.val)) (byteRow k.colFlags 128 (byteRow k.laneFlags 0 0))
  if k.replayMode then
    (List.range 4).foldl (fun s j =>
      let r := (List.range 32).foldl (fun (r : Row) l =>
        let g := Tab.get {} k.gens (32 * j + l)
        put (put r (128 * l) 64 g.x.toNat) (128 * l + 64) 64 g.w.toNat) 0
      ctxWrite s c (saveRow s c (5 * i.val + 1 + j)) r) s
  else s

/-- Save a context (R251): its flag words, generators, and row 1,920. -/
def saveContext (s : State) (c : CtxId) : State :=
  let x := s.ctx c
  let s := allCores.foldl (fun s i => saveCore s c i) s
  let row := put (put (put (0 : Row) 0 32 x.accFlags.toNat) 32 16 ((x.run.map fun r => r.cur.toNat).getD 0xFFFF)) 64 32
    ((x.run.bind fun r => r.left).getD 0)
  let s := ctxWrite s c (saveRow s c 1920) row
  s.setCtx c { s.ctx c with switchedOut := true }

/-- Every core empty: core memory, accumulators and registers zero (R251). -/
def clearCores (s : State) : State :=
  let m := { s.ms with
    mem := Mem.clear s.ms.mem coreBase (384 * 0x200000)
    poison := s.ms.poison.filter fun k => !(decide (coreBase ≤ k * 32) && decide (k * 32 < coreBase + 384 * 0x200000)) }
  allCores.foldl (fun s c =>
    let k := s.core c
    s.setCore c { vectors := k.vectors, vinstr := k.vinstr, cmCorrected := k.cmCorrected, obCorrected := k.obCorrected })
    { s with ms := m }

/-- Restore one core. -/
def restoreCore (c : CtxId) (replay : Bool) (s : State) (i : CoreId) : State :=
  let r := fwRead s (saveRow s c (5 * i.val))
  let k := { s.core i with laneFlags := rowBytes r 0, colFlags := rowBytes r 128 }
  let k := if replay then
      { k with replayMode := true, gens := (List.range 128).foldl (fun t l =>
          let g := fwRead s (saveRow s c (5 * i.val + 1 + l / 32))
          Tab.set {} t l { x := BitVec.ofNat 64 (fld g (128 * (l % 32)) 64), w := BitVec.ofNat 64 (fld g (128 * (l % 32) + 64) 64) }) [] }
    else k
  s.setCore i k

/-- The run's generators are in replay mode (R423, R443). -/
def runReplay (s : State) (r : RunSt) : Bool := s.grid.replay || (RUN.rmode r.payload && RUN.stepValid r.payload)

/-- Restore a context that was switched out: the flags, section index and count saved belong to a run that had started (R69). -/
def restoreContext (s : State) (c : CtxId) : State :=
  let x := s.ctx c
  let started := x.run.any fun r => decide (0 < r.begun)
  let s := if rowDown s (saveRow s c 1920) then faultIssuer s (some c) St.cxlPortDown (saveRow s c 1920) else s
  let x := s.ctx c
  let s := allCores.foldl (restoreCore c (started && x.run.any (runReplay s))) s
  let row := fwRead s (saveRow s c 1920)
  if started then
    let run := x.run.map fun r => { r with cur := BitVec.ofNat 16 (fld row 32 16), left := r.left.map fun _ => fld row 64 32 }
    s.setCtx c { x with switchedOut := false, accFlags := BitVec.ofNat 8 (fld row 0 32), run := run }
  else s.setCtx c { x with switchedOut := false }

/-- The grid passes to a context: nothing another left is readable (R251). -/
def changeContext (s : State) (c : CtxId) : State :=
  if s.grid.last = some c then s
  else
    let s := match s.grid.last with
      | some l => if (s.ctx l).isOpen then saveContext s l else s
      | none => s
    let s := clearCores s
    let s := if (s.ctx c).switchedOut then restoreContext s c else s
    { s with grid := { s.grid with last := some c } }

/-- Seed every core's generators for a run in replay mode (R63). -/
def seedCores (s : State) (r : RunSt) : State :=
  let step : Word := BitVec.ofNat 32 (if RUN.stepValid r.payload then RUN.step r.payload else 0)
  allCores.foldl (fun s c =>
    s.setCore c { s.core c with
      replayMode := true
      gens := (List.range 128).foldl (fun t l => Tab.set {} t l (genSeed r.seed step c.val l)) [] }) s

/-- A run in free-running mode leaves the seeded states behind (R62). -/
def freeCores (s : State) : State := allCores.foldl (fun s c => s.setCore c { s.core c with replayMode := false, gens := [] }) s

end Sys2Proof.Machine
end

