-- ==== Sys2Proof/Machine/SectionOps.lean ====
section
/-!
DEFINITION. The section sequencer: hinges (R235 to R239), contexts sharing the grid (R250, R251), counter resets and gating at
a hinge (R103, R106, R188), the end of a run (R226, R362), and context stops (R429 to R431).
-/
namespace Sys2Proof.Machine

def State.setRun (s : State) (c : CtxId) (r : RunSt) : State := s.setCtx c { s.ctx c with run := some r }

/-! ### Requests of a hinge -/

/-- Banks all of whose rows lie within a chip-memory entry (R103). -/
def entryBanks (e : BitVec 256) : List Nat :=
  let o := DE.base e - chipBase
  let k := DE.interleave e
  if k = 0 then
    (List.range 512).filter fun b => decide (o ≤ b * 0x80000) && decide ((b + 1) * 0x80000 ≤ o + DE.rows e * 512)
  else if o % 0x80000 ≠ 0 then []
  else
    (List.range 512).filter fun b =>
      decide (o / 0x80000 ≤ b) && decide (b < o / 0x80000 + 2 ^ k) && decide (1023 * 2 ^ k + (b - o / 0x80000) < DE.rows e)

def waitBank (s : State) (b : Nat) : State := { s with grid := { s.grid with waiting := insertSorted b s.grid.waiting } }

/-- A gate request goes to a bank (R104, R105). -/
def gateRequest (s : State) (b : Nat) : State :=
  let x := s.bank b
  match x.power with
  | .gated => s
  | _ => waitBank (s.setBank b { x with queue := x.queue ++ [.gate] }) b

/-- A wake request goes to a bank (R105). -/
def wakeRequest (s : State) (b : Nat) : State :=
  let x := s.bank b
  match x.power with
  | .gated => waitBank (s.setBank b { x with power := .waking }) b
  | _ => s

/-- Handles of a gate or wake list (R225). -/
def handleList (s : State) (c : CtxId) (h : Half) (n : Nat) : Except Flt (List Half) × State :=
  match accessRead s (some c) (capture s none h) none 0 (ceilDiv n 256) with
  | (rows, none, s) => (.ok ((List.range n).map fun i => BitVec.ofNat 16 (fld (rows.getD (i / 256) 0) (16 * (i % 256)) 16)), s)
  | (_, some f, s) => (.error f, s)

/-- A listed entry may be gated or woken for the context (R103). -/
def gateEntryOk (s : State) (c : CtxId) (h : Half) : Bool :=
  let e := s.devEntry h
  DE.valid e && DE.tier e == 1 && DE.perm e pGATE && DE.ctxOk e c

/-- Check both lists, then issue gate requests and wake requests (R103, R237 step 7). -/
def gateLists (s : State) (c : CtxId) (hdr : Row) : Option Flt × State :=
  match handleList s c (HD.gate hdr) (HD.gateCount hdr) with
  | (.error f, s) => (some f, s)
  | (.ok gs, s) =>
    match handleList s c (HD.wake hdr) (HD.wakeCount hdr) with
    | (.error f, s) => (some f, s)
    | (.ok ws, s) =>
      match (gs ++ ws).find? fun h => !gateEntryOk s c h with
      | some h => (some ⟨St.gateDenied, { handle := h }⟩, s)
      | none =>
        let s := (gs.flatMap fun h => entryBanks (s.devEntry h)).eraseDups.foldl gateRequest s
        (none, (ws.flatMap fun h => entryBanks (s.devEntry h)).eraseDups.foldl wakeRequest s)

/-- One triple of the counter-reset list as a word write (R188). -/
def counterReset (s : State) (c : CtxId) (x : BitVec 128) : Option Flt × State :=
  let k := capture s none (BitVec.ofNat 16 (fld x 0 16))
  let w := fld x 32 32
  match begin' s (some c) k pWR none with
  | (some f, s) => (some f, s)
  | (none, s) =>
    match k.addr (w / 128) with
    | none => (some ⟨St.keyOutOfBounds, { handle := k.handle, index := w / 128 }⟩, s)
    | some a =>
      if rowDown s a then (some ⟨St.cxlPortDown, { handle := k.handle, index := w / 128 }⟩, s)
      else (none, if (engineOf s a).isSome then wordWrite s a (w % 128) (BitVec.ofNat 32 (fld x 64 32)) else s)

def counterResets (c : CtxId) : List (BitVec 128) → State → Option Flt × State
  | [], s => (none, s)
  | x :: t, s =>
    match counterReset s c x with
    | (some f, s) => (some f, s)
    | (none, s) => counterResets c t s

/-- The counter-reset list (R225, R237 step 6). -/
def applyCounters (s : State) (c : CtxId) (hdr : Row) : Option Flt × State :=
  let n := HD.cresetCount hdr
  match accessRead s (some c) (capture s none (HD.creset hdr)) none 0 (ceilDiv n 32) with
  | (_, some f, s) => (some f, s)
  | (rows, none, s) =>
    counterResets c ((List.range n).map fun i => BitVec.ofNat 128 (fld (rows.getD (i / 32) 0) (128 * (i % 32)) 128)) s

/-! ### Starting the next section (R237 steps 2 to 7) -/

/-- The configuration of every core for a section. -/
def configureAll (s : State) (hdr : Row) : State :=
  allCores.foldl (fun s c =>
    let k := s.core c
    if HD.inMask hdr c then captureSpills (s.setCore c (configure s k (standing s c) (HD.imgRows hdr))) c
    else s.setCore c k.bare) s

/-- Steps 4 to 7, ended by the first fault. -/
def buildSection (s : State) (c : CtxId) (hdr : Row) (pre : Bool) : Option Flt × State :=
  let cores := maskCores hdr
  if !headerOk hdr then (some ⟨St.sectionImageInvalid, { core := cores.head? }⟩, s)
  else
    match loadImages c hdr pre cores.zipIdx s with
    | (some f, s) => (some f, s)
    | (none, s) =>
      let beyond := cores.filter fun i => decide (3072 < (s.core i).loadRow + HD.imgRows hdr)
      let s := configureAll s hdr
      match cores.find? fun i => beyond.contains i || !imageOk s hdr ((standing s i).headD 0) (s.core i) with
      | some i => (some ⟨St.sectionImageInvalid, { core := some i }⟩, s)
      | none =>
        match cores.findSome? fun i => (mapBreach s i).map fun n => (i, n) with
        | some (i, n) => (some ⟨St.channelMapInvalid, { core := some i, aux := n }⟩, s)
        | none =>
          match applyCounters s c hdr with
          | (some f, s) => (some f, s)
          | (none, s) => gateLists s c hdr

/-- The grid passes to a context's next section: context change, generators, header, images and requests (R237). -/
def loadSection (s : State) (c : CtxId) : State :=
  let pre := s.grid.last == some c && (s.ctx c).run.any fun r => decide (0 < r.begun) && s.grid.preload == some r.cur
  let g := { s.grid with ctx := some c, phase := .starting, hdr := 0, waiting := [],
                         since := if s.grid.ctx = some c then s.grid.since else s.time }
  let s := changeContext { s with grid := g } c
  match (s.ctx c).run with
  | none => s
  | some r =>
    let r := if r.begun = 0 then { r with seed := s.jobSeed } else r
    let s := s.setRun c r
    let s := if r.begun = 0 then (if runReplay s r then seedCores s r else freeCores s) else s
    match accessRead s (some c) (capture s none (RUN.list r.payload)) (some 0) r.cur.toNat 1 with
    | (_, some f, s) => faultCtx (dropPreload s) (some c) f
    | (rows, none, s) =>
      let hdr := rows.headD 0
      let s := { s with grid := { s.grid with hdr := hdr } }
      let (f, s) := buildSection s c hdr pre
      let s := { s with grid := { s.grid with preload := none, preSkipped := [] } }
      match f with
      | some f => faultCtx s (some c) f
      | none => s

/-! ### RUN (R226, R342, R358, R414) -/

/-- A replay run's buckets: whether all are settled, and whether any is to be replayed (R342). -/
def replayState (s : State) (p : BitVec 384) : Bool × Bool :=
  match s.coll (RUN.collective p) with
  | none => (true, false)
  | some c =>
    let rs := ((List.range c.count).map (bucketRecord s c)).filter fun r => RC.step r == RUN.step p
    (rs.all (fun r => RC.verdict r != 0 || RC.replay r || !RC.armed r), rs.any fun r => RC.replay r && RC.armed r)

/-- Nothing holds a run back: the run before it on its ring is over, no reset or replay is under way, and for a replay run its buckets
are settled. -/
def runMayBegin (s : State) (c : Cmd) : Bool :=
  !(s.earlier c).any (fun d => d.opcode == 0x0201) && (s.ctx c.ring).run.isNone && s.rst.eng == .idle && !s.rst.dev &&
    s.rst.suspects.isEmpty && s.rst.replaying.isNone && (!RUN.replay c.payload || (replayState s c.payload).1)

/-- An accepted RUN begins: its binding is checked and marked, and its context holds the run. -/
def beginRun (s : State) (r : CmdRef) : State :=
  s.take r 0x0201 fun c =>
    let p := c.payload
    if !runMayBegin s c then s.defer r
    else if RUN.replay p && !(replayState s p).2 then s.finishSt r St.nothingToReplay
    else
      let gone := if RUN.ub p then bindingDown s p else none
      let (bad, s) := if gone.isSome then (gone.map fun b => (b, St.cxlPortDown), s) else if RUN.ub p then bindHeaders s r.ctx p else (none, s)
      match bad with
      | some (b, st) =>
        if gone.isSome then faultCmd s c st { handle := RUN.ubHandle p, index := RUN.ubRow p + b / 64 } (BitVec.ofNat 32 b)
        else s.finish r { status := st, detail := BitVec.ofNat 32 b }
      | none =>
        let run : RunSt := { seq := r.seq, nth := r.nth, payload := p, cur := RUN.first p,
                             left := if RUN.count p = 0 then none else some (RUN.count p) }
        (s.updCmd r fun c => { c with phase := .running, began := true, bound := RUN.ub p }).setCtx r.ctx
          { s.ctx r.ctx with run := some run, fault := none, accFlags := 0 }

/-- RUN starts, and takes the grid when that is idle. -/
def startRun (s : State) (r : CmdRef) : State :=
  let t := beginRun s r
  if s.grid.phase = .idle ∧ (s.ctx r.ctx).run.isNone ∧ (t.ctx r.ctx).run.isSome then loadSection t r.ctx else t

/-! ### Choosing a context (R250) -/

/-- The accepted RUN of a context that waits and that nothing holds back. -/
def waitingRun (s : State) (c : CtxId) : Option CmdRef :=
  (s.cmds.find? fun d => decide (d.ring = c) && d.opcode == 0x0201 && s.mayStart d && runMayBegin s d).map Cmd.ref

/-- A context's run goes on to a section. -/
def runGoes (s : State) (c : CtxId) : Bool := (s.ctx c).run.any fun r => !r.ended

/-- A context is ready: its run goes on, or its ring holds an accepted RUN that may begin. -/
def ctxReady (s : State) (c : CtxId) : Bool := runGoes s c || (waitingRun s c).isSome

/-- Contexts in ascending number after one, wrapping after 7; that one last. -/
def ctxsAfter (c : CtxId) : List CtxId := (List.range 8).map fun j => Fin.ofNat 8 (c.val + 1 + j)

/-- The grid is left free. -/
def idleGrid (s : State) : State := { s with grid := { s.grid with ctx := none, phase := .idle, waiting := [], replay := false } }

/-- The first of some contexts whose run goes on, an accepted RUN that waits beginning for it. -/
def readyFrom : List CtxId → State → Option CtxId × State
  | [], s => (none, s)
  | d :: t, s =>
    let s := if runGoes s d then s else
      match waitingRun s d with
      | some r => beginRun s r
      | none => s
    if runGoes s d then (some d, s) else readyFrom t s

/-- The first ready context after one takes the grid; it is idle when there is none. -/
def chooseNext (s : State) (c : CtxId) : State :=
  match readyFrom (ctxsAfter c) s with
  | (some d, s) => loadSection s d
  | (none, s) => idleGrid s

/-- A context's slice in µs (R250). -/
def sliceTime (x : Context) : Nat := (if x.slice = 0 then 10 else x.slice.toNat) * 100

/-- After a hinge: the next section of the run, or of another ready context once the slice is over (R250). -/
def afterHinge (s : State) (c : CtxId) : State :=
  if runGoes s c then
    if sliceTime (s.ctx c) ≤ (s.time - s.grid.since).toNat then
      match readyFrom ((ctxsAfter c).filter fun d => d != c) s with
      | (some d, s) => loadSection s d
      | (none, s) => loadSection s c
    else loadSection s c
  else chooseNext s c

/-! ### The end of a run -/

/-- A run is over with a status: its record is finished, and its context holds no run. In a sealed replay the outcome is
kept for the suspect instead (R444, R446). -/
def finishRun (s : State) (c : CtxId) (st : Half) (ref : Dword) (detail : Word := 0) : State :=
  let x := s.ctx c
  match x.run with
  | none => s
  | some r =>
    let s' := s.setCtx c { x with run := none, fault := none, accFlags := 0 }
    if s.grid.replay ∧ s.grid.ctx = some c then
      { s' with rst := { s.rst with replaying := s.rst.replaying.map fun q =>
          { q with outcome := if q.outcome ≠ 0 then q.outcome else if st = St.complete then 1 else 2 } } }
    else s'.finish (r.ref c) { status := st, detail := detail, flags := x.accFlags, faultRef := ref }

/-- The run completes once its last hinge has passed and every group and exchange entry that it started has completed
(R226, R362, R397). -/
def settleRun (s : State) (c : CtxId) : State :=
  match (s.ctx c).run with
  | some r =>
    if r.ended && r.gathers.all (·.complete) && r.exchs.all (·.complete) then finishRun s c St.complete 0 else s
  | none => s

/-- End a run that does not hold the grid: no drain, its saved state discarded (R431). -/
def endOffGrid (s : State) (c : CtxId) (st : Half) : State :=
  let s := finishRun (abandonRun s c) c st 0
  s.setCtx c { s.ctx c with switchedOut := false }

/-- Stop a run with a status: by a context stop where it holds the grid (R419, R429, R456). A stop under way keeps the status of what
stopped it first (R431), but that an abort makes it ABORTED (R418). -/
def stopRun (s : State) (c : CtxId) (st : Half) : State :=
  let x := s.ctx c
  match x.run with
  | none => s
  | some r =>
    if s.grid.ctx = some c ∧ r.ended = false then
      if (x.fault.isSome || r.stop.isSome) && st != St.aborted then s else s.setRun c { r with stop := some st }
    else endOffGrid s c st

/-! ### Engine-reset triggers (R437, R444, R452) -/

/-- An engine reset is triggered: it joins one in progress, and finds the suspect of a replay guilty. -/
def triggerEngine (s : State) (trig : Nat) (core : Option CoreId) (seq : Word) (noReplay : Bool) : State :=
  if s.rst.eng ≠ .idle ∨ s.rst.dev = true then s
  else
    let rep := s.rst.replaying.isSome
    { s with rst := { s.rst with
        eng := .triggered, trigger := trig, trigCore := core, trigSeq := seq, noReplay := noReplay, recovery := rep
        replaying := s.rst.replaying.map fun q => if q.outcome = 0 then { q with outcome := 3 } else q } }

/-! ### The hinge (R235 to R237) -/

/-- Requests that units have issued on behalf of a context and that are not acknowledged (R235 condition 3, R298). -/
def sectionRequest (c : CtxId) (r : Req) : Bool :=
  !r.retry && match r.issuer with
  | .bucket d _ _ => d == c
  | .gatherHdr d _ _ => d == c
  | .gatherRow d _ _ _ => d == c
  | .exch d _ => d == c
  | .notice d => d == c
  | _ => false

/-- A request of a context waits in a bank. -/
def BankReq.of (c : CtxId) : BankReq → Bool
  | .read d _ _ _ => d == some c
  | .write d _ _ _ _ => d == some c
  | .acc d _ _ _ => d == some c
  | .fadd d _ _ _ => d == some c
  | _ => false

def bankPending (s : State) (c : CtxId) : Bool := s.ms.banks.any fun b => b.2.queue.any (BankReq.of c)

/-- Receive entries of a core that end a chain. -/
def recvChannels (k : Core) : List Nat := (k.chans.filter fun e => portEntry e.2 && !CH.send e.2).map (·.1)

/-- Nothing of the section is outstanding on a core (R235 conditions 1, 2 and 4). -/
def coreDone (hdr : Row) (s : State) (c : CoreId) : Bool :=
  let k := s.core c
  (!HD.inMask hdr c || k.ended) && k.deferred.isEmpty && k.tile.isNone && k.parked.isNone && k.moves == 0 && k.stashes == 0 &&
    k.sends.isEmpty && k.recvs.isEmpty && k.arrayQ.isEmpty && k.flight.isEmpty &&
    k.chans.all fun e => !(CH.valid e.2 && CH.doneReq e.2) || (chHead s c e.1).any Token.isDone

/-- Tokens on the way to an inbound (port, VC): on its wire, in routes and at the send entry behind it. -/
def chainTokens (s : State) : Nat → CoreId → Nat → Nat → Nat
  | 0, _, _, _ => 0
  | n + 1, c, port, vc =>
    (Tab.get [] (s.core c).wire (pv port vc)).length +
    match neighbour c port with
    | none => 0
    | some d =>
      match sendEntry (s.core d) (opposite port) vc with
      | some ch => (Tab.get [] (s.core d).txq ch).length
      | none =>
        match outRoute (s.core d) (opposite port) vc with
        | none => 0
        | some r =>
          let e := Tab.get 0 (s.core d).routes r
          (Tab.get [] (s.core d).routeReg r).length + chainTokens s n d (RT.inPort e) (RT.inVc e)

/-- A channel holds a token besides the done token at the head of a DONE_REQ entry (R236). -/
def tokensLeft (s : State) (c : CoreId) (ch : Nat) : Bool :=
  let k := s.core c
  let e := k.chan ch
  decide ((if CH.doneReq e then 1 else 0) < (Tab.get [] k.rxq ch).length) || !(Tab.get [] k.spill ch).isEmpty ||
    decide (0 < chainTokens s maxChain c (CH.port e) (CH.vc e))

/-- The first core and channel that still hold a token. -/
def firstLeft (s : State) : Option (CoreId × Nat) :=
  allCores.findSome? fun c => ((recvChannels (s.core c)).find? (tokensLeft s c)).map fun ch => (c, ch)

/-- The conditions of R235. -/
def hingeReady (s : State) (c : CtxId) : Bool :=
  allCores.all (coreDone s.grid.hdr s) && !bankPending s c && !s.fab.reqs.any (sectionRequest c)

/-- Flag summaries of the cores join the flags of the context that holds the grid, and clear (R69). -/
def joinFlags (s : State) : State :=
  match s.grid.ctx with
  | none => s
  | some c =>
    let fl := allCores.foldl (fun (a : Byte) i => a ||| (s.core i).summary) (s.ctx c).accFlags
    let s := allCores.foldl (fun s i => s.setCore i { s.core i with summary := 0 }) s
    s.setCtx c { s.ctx c with accFlags := fl }

/-- The done tokens of condition 4 of R235 leave their channels, link-stream buffers among them (R237 step 1). -/
def dropDone (s : State) (c : CoreId) : State :=
  (s.core c).chans.foldl (fun s e =>
    if CH.valid e.2 && CH.doneReq e.2 && (chHead s c e.1).any Token.isDone then chPop s c e.1 else s) s

/-- Step 1: done tokens are discarded, flag summaries join the context's flags, and cores stop (R69, R237). -/
def collectFlags (s : State) : State :=
  allCores.foldl (fun s i => let s := dropDone s i
                             s.setCore i { s.core i with active := false, rxq := [] }) (joinFlags s)

/-- The run moves to its next section, or has ended (R226). -/
def advanceRun (s : State) (r : RunSt) : RunSt :=
  let left := r.left.map (· - 1)
  let next := HD.next s.grid.hdr
  { r with ordinal := r.ordinal + 1, left := left, cur := BitVec.ofNat 16 next,
           ended := next == 0xFFFF || left == some 0, gridTime := r.gridTime + (s.time - s.grid.mark).toNat }

/-- HINGE_BEGIN (R235 to R237). -/
def hinge (s : State) : State :=
  match s.grid.ctx with
  | none => s
  | some c =>
    match (s.ctx c).run with
    | none => s
    | some r =>
      if !sectionLive s || !hingeReady s c then s
      else
        match firstLeft s with
        | some (i, ch) => coreFault s i St.hingeTokensLeft { index := ch }
        | none =>
          let s := applyHeld (collectFlags s)
          let s := s.setRun c (advanceRun s r)
          afterHinge (settleRun s c) c

/-- Spill rows of a core hold undefined contents when a section starts (R203; log 2). -/
def freeSpill (s : State) (c : CoreId) : State :=
  (s.core c).chans.foldl (fun s e =>
    if CH.valid e.2 && CH.elastic e.2 then
      let cap := capture s (some c) (CH.spill e.2)
      (List.range (CH.spillRows e.2)).foldl (fun s j =>
        match cap.addr j with
        | some a => if configRow s a then s else
            let (x, s) := s.fresh 4096
            rawPut s a x 0
        | none => s) s
    else s) s

/-- SECTION_START: every request of the hinge has taken effect (R106, R203, R234, R237 step 8). -/
def startSection (s : State) : State :=
  match s.grid.ctx, s.grid.phase with
  | some c, .starting =>
    match (s.ctx c).run with
    | none => s
    | some r =>
      if (s.ctx c).fault.isSome || r.stop.isSome || !s.grid.waiting.isEmpty then s
      else
        let hdr := s.grid.hdr
        let s := { s with grid := { s.grid with phase := .running, mark := s.time } }
        let s := s.setRun c { r with begun := r.ordinal + 1 }
        let s := allCores.foldl (fun s i =>
          let k := s.core i
          s.setCore i { k with
            active := HD.inMask hdr i
            credits := k.chans.foldl (fun t e => if portEntry e.2 && CH.send e.2 then Tab.set 0 t e.1 16 else t) [] }) s
        let s := (maskCores hdr).foldl freeSpill s
        if HD.preload hdr && HD.next hdr != 0xFFFF then
          match accessRead s (some c) (capture s none (RUN.list r.payload)) (some 0) (HD.next hdr) 1 with
          | (_, some _, _) => s
          | (rows, none, s) =>
            let h := rows.headD 0
            if headerOk h then preloadImages c (HD.next hdr) h (maskCores h).zipIdx s else s
        else s
  | _, _ => s

/-! ### Context stops (R429 to R431) -/

/-- CONTEXT_STOP: cores stop, waiting words, vectors in flight and deferred work are dropped, requests abandoned. -/
def contextStop (s : State) (c : CtxId) : State :=
  let x := s.ctx c
  let stopped := x.fault.isSome || x.run.any (·.stop.isSome)
  if s.grid.ctx ≠ some c || !stopped || !(s.grid.phase == .running || s.grid.phase == .starting) then s
  else
    let s := allCores.foldl (fun s i =>
      let k := s.core i
      s.setCore i { k with active := false, arrayQ := [], flight := [], sends := [], recvs := [], tile := none, parked := none,
                           deferred := [], fencing := false, waiting := 0, stall := none, heldBy := [], moves := 0, moveRows := [], stashes := 0 }) s
    abandonRun { s with grid := { s.grid with phase := .draining, waiting := [] } } c

/-- The grid as after a context switch, with nothing standing on it (R203, R251, R429 step 5). -/
def clearGrid (s : State) : State :=
  let s := clearCores s
  { s with grid := { s.grid with last := none, preload := none, preSkipped := [] } }

/-- CONTEXT_STOP_DRAINED: the drain has finished (R429 steps 2, 5 and 6). Flags of the stopped section count (R69). -/
def contextDrained (s : State) (c : CtxId) : State :=
  if s.grid.ctx ≠ some c || s.grid.phase != .draining || bankPending s c then s
  else
    let s := joinFlags s
    let x := s.ctx c
    let st := match x.run.bind (·.stop) with
      | some st => st
      | none => (x.fault.map (·.status)).getD 0
    let own := if (x.run.bind (·.stop)).isSome then none else x.fault
    let s := finishRun (clearGrid s) c st ((own.map (·.ref)).getD 0) ((own.map (·.detail)).getD 0)
    let s := s.setCtx c { s.ctx c with switchedOut := false }
    let s := applyHeld { s with grid := { s.grid with ctx := none } }
    chooseNext s c

/-! ### Watchdogs of the grid (R430, R433, R434) -/

/-- The section watchdog expires. In a sealed replay it finds the suspect guilty (R444). -/
def sectionExpired (s : State) : State :=
  if !sectionLive s then s
  else if s.grid.replay then triggerEngine s 0 none 0 true
  else raiseFault s s.grid.ctx St.sectionTimeout

/-- A TILE with nothing left but tokens that wait for credit (R179, R434). -/
def tileCredit (s : State) (c : CoreId) : Bool :=
  let k := s.core c
  k.tile.any fun t => !t.deferred && t.work.isEmpty && t.epilogues.isEmpty && t.ships.isEmpty && TD.outkind t.desc == 1 &&
    !(Tab.get [] k.txq (TD.outChannel t.desc)).isEmpty

/-- The word that the sequencer is stalled on waits for what another watchdog bounds: a channel, a remote response, or a gather or an
exchange that fills an entry it names (R434). -/
def stallBounded (s : State) (c : CoreId) : Bool :=
  let k := s.core c
  let (op, _) := stallWord k
  (k.stall.isSome && decide (8 ≤ op) && decide (op ≤ 0xB)) || k.waiting == 4 || k.waiting == 5 || entryHeld s c ||
    starved s c || (k.tile.any fun t => t.waits s) || tileCredit s c

/-- The core holds an issued word or instruction that has not retired, in no wait that another watchdog bounds (R434). -/
def progressWatched (s : State) (c : CoreId) : Bool :=
  let k := s.core c
  sectionLive s && k.active &&
    (!k.ended || k.tile.isSome || !k.deferred.isEmpty || k.moves != 0 || k.stashes != 0 || !k.arrayQ.isEmpty || !k.flight.isEmpty) &&
    !stallBounded s c

def coreExpired (s : State) (c : CoreId) : State :=
  if progressWatched s c then triggerEngine s 0 (some c) 0 false else s

/-- A drain has not finished in 1 ms (R430). -/
def drainExpired (s : State) : State := if s.grid.phase = .draining then triggerEngine s 1 none 0 false else s

end Sys2Proof.Machine
end

