-- ==== Sys2Proof/Machine/HostOps.lean ====
section
/-!
DEFINITION. The host interface: BAR0 writes (R402, R403, R8), rings and doorbells (R405 to R409), interrupts (R410), and the
completion writer (R417, R427).
-/
namespace Sys2Proof.Machine

def State.setHost (s : State) (h : HostIf) : State := { s with host := h }

/-! ### Submission rings (R405, R406) -/

/-- A write of SQ_CTRL. Setting ENABLE is its change from 0 to 1 (log 30); SIZE is stored by every write (R8). -/
def sqCtrl (s : State) (c : CtxId) (size : BitVec 4) (en : Bool) : State :=
  let r := s.ring c
  if en then
    if r.enable then s.setRing c { r with size := size }
    else if 4 ≤ size.toNat ∧ size.toNat ≤ 12 then
      s.setRing c { r with size := size, enable := true, head := 0, tail := 0, expect := none }
    else s.setRing c { r with size := size }
  else s.setRing c { r with size := size, enable := false }

/-- DOORBELL: a TAIL beyond the ring, or a disabled ring, is ignored (R406). -/
def doorbell (s : State) (v : Word) : State :=
  let c : CtxId := Fin.ofNat 8 (fld v 0 3)
  let r := s.ring c
  if r.enable ∧ fld v 4 12 < 2 ^ r.size.toNat then s.setRing c { r with tail := BitVec.ofNat 12 (fld v 4 12) } else s

/-! ### The completion ring (R407 to R409) -/

/-- A write of CQ_CTRL. -/
def cqCtrl (s : State) (size : BitVec 4) (en : Bool) : State :=
  let h := s.host
  if h.cqEnable then (if en then s else s.setHost { h with cqDisabling := true })
  else if en ∧ 4 ≤ size.toNat ∧ size.toNat ≤ 14 then
    s.setHost { h with cqSize := size, cqEnable := true, cqDisabling := false, cqTail := 0, cqPhase := true, cqHead := 0 }
  else s.setHost { h with cqSize := size }

/-- A clear of ENABLE takes effect once nothing accepted is left (R409). -/
def cqDisabled (s : State) : State :=
  if s.host.cqDisabling ∧ s.cmds.isEmpty = true then s.setHost { s.host with cqEnable := false, cqDisabling := false } else s

/-- CQ_DOORBELL: HEAD is taken modulo the ring (log 31). -/
def cqDoorbell (s : State) (v : Word) : State :=
  if s.host.cqEnable then s.setHost { s.host with cqHead := BitVec.ofNat 14 (fld v 0 14 % 2 ^ s.host.cqSize.toNat) } else s

/-- Entries written and not freed, and free entries (R407). -/
def cqFill (s : State) : Nat :=
  let n := 2 ^ s.host.cqSize.toNat
  (s.host.cqTail.toNat + n - s.host.cqHead.toNat % n) % n

def cqFree (s : State) : Nat := 2 ^ s.host.cqSize.toNat - 1 - cqFill s

/-! ### Registers (R403) -/

/-- An RW1C write of IRQ_PENDING (R8). -/
def irqClear (s : State) (v : Word) : State :=
  s.setHost { s.host with irqPending := s.host.irqPending &&& ~~~(BitVec.ofNat 16 v.toNat) }

/-- The lower half of a 64-bit register waits for the upper. -/
def holdHalf (s : State) (off : Nat) (v : Word) : State :=
  s.setHost { s.host with halves := Tab.set 0 s.host.halves off v }

/-- The 64-bit base that its upper half completes; bits [11:0] are zero. -/
def baseOf (s : State) (off : Nat) (v : Word) : Dword :=
  BitVec.ofNat 64 ((v.toNat <<< 32 ||| (Tab.get 0 s.host.halves (off - 4)).toNat) / 4096 * 4096)

/-- A write of a word of the MSI-X table: a vector that it unmasks sends what was pending (R402; log 5). -/
def msixWrite (s : State) (i : Nat) (v : Word) : State :=
  let s := s.setHost { s.host with msix := Tab.set (msixReset i) s.host.msix i v }
  let n := i / 4
  if i % 4 = 3 ∧ bit v 0 = false ∧ bit s.host.msixPending n = true then
    { s with host := { s.host with msixPending := put s.host.msixPending n 1 0 }, hostOut := s.hostOut ++ [.msix (BitVec.ofNat 4 n)] }
  else s

/-- A write of one 32-bit register or half. The pending bits of MSI-X are not written (R402). -/
def write32 (s : State) (off : Nat) (v : Word) : State :=
  if off = 0x10 then (if s.host.cqEnable then s else holdHalf s off v)
  else if off = 0x14 then (if s.host.cqEnable then s else s.setHost { s.host with cqBase := baseOf s off v })
  else if off = 0x18 then cqCtrl s (BitVec.ofNat 4 v.toNat) (bit v 31)
  else if off = 0x20 then s.setHost { s.host with irqCoalesce := BitVec.ofNat 32 (v.toNat % 2 ^ 24) }
  else if off = 0x24 then irqClear s v
  else if 0x100 ≤ off ∧ off < 0x200 then
    let c : CtxId := Fin.ofNat 8 ((off - 0x100) / 0x20)
    match (off - 0x100) % 0x20 with
    | 0x0 => holdHalf s off v
    | 0x4 => s.setRing c { s.ring c with base := baseOf s off v }
    | 0x8 => sqCtrl s c (BitVec.ofNat 4 v.toNat) (bit v 31)
    | _ => s
  else if off = 0x1000 then doorbell s v
  else if off = 0x1004 then cqDoorbell s v
  else if 0x3000 ≤ off ∧ off < 0x3100 then msixWrite s ((off - 0x3000) / 4) v
  else s

/-- A host write into BAR0: aligned 32-bit and 64-bit accesses alone act (R403). -/
def writeReg (s : State) (off bytes : Nat) (v : Dword) : State :=
  if bytes = 4 ∧ off % 4 = 0 then write32 s off (BitVec.ofNat 32 v.toNat)
  else if bytes = 8 ∧ off % 8 = 0 then
    write32 (write32 s off (BitVec.ofNat 32 v.toNat)) (off + 4) (BitVec.ofNat 32 (v.toNat >>> 32))
  else s

/-- The host's accesses reach BAR0 while the management domain runs (R402). -/
def State.hosted (s : State) (f : State → State) : State := if s.mgmtUp then f s else s

/-! ### Interrupts (R410) -/

def coalesceCount (s : State) : Nat := max 1 (fld s.host.irqCoalesce 0 8)
def coalesceDelay (s : State) : Nat := fld s.host.irqCoalesce 8 16

/-- The vector of a context fires for its uncounted records. -/
def fireContext (s : State) (c : CtxId) : State :=
  fireVector (s.setHost { s.host with uncounted := Tab.set 0 s.host.uncounted c.val 0 }) c.val

/-- One more record of a context. -/
def signalRecord (s : State) (c : CtxId) : State :=
  let n := Tab.get 0 s.host.uncounted c.val + 1
  let s := s.setHost { s.host with uncounted := Tab.set 0 s.host.uncounted c.val n }
  if coalesceCount s ≤ n ∨ coalesceDelay s = 0 then fireContext s c else s

/-- The coalescing delay has passed. -/
def coalesceExpired (s : State) (c : CtxId) : State :=
  if Tab.get 0 s.host.uncounted c.val = 0 then s else fireContext s c

/-! ### The completion writer (R411, R417, R427) -/

/-- The record as committed: an unreported fault of the context replaces its status (R427), and a context that closes
discards its fault (R426). -/
def reportFault (s : State) (c : Cmd) (x : Record) : Record × State :=
  let k := s.ctx c.ring
  match k.unreported with
  | none => (x, s)
  | some f => ({ x with status := f.status, faultRef := f.ref }, s.setCtx c.ring { k with unreported := none })

/-- The completion entry (R411). -/
def completionEntry (c : Cmd) (x : Record) (phase : Bool) : BitVec 256 :=
  word 256 [(0, 32, c.seq.toNat), (32, 16, x.status.toNat), (48, 3, c.ring.val), (51, 1, b2n phase), (56, 8, x.flags.toNat),
    (64, 16, c.opcode), (96, 32, x.detail.toNat), (128, 64, x.result.toNat), (192, 64, x.faultRef.toNat)]

/-- The entry goes to the ring, then CQ_TAIL advances, then the vector is signalled (R407). -/
def writeEntry (s : State) (c : Cmd) (x : Record) : State :=
  let h := s.host
  let last := h.cqTail.toNat + 1 = 2 ^ h.cqSize.toNat
  let s := { s with
    hostOut := s.hostOut ++ [.completion h.cqTail (completionEntry c x h.cqPhase)]
    host := { h with cqTail := if last then 0 else h.cqTail + 1, cqPhase := if last then !h.cqPhase else h.cqPhase } }
  signalRecord s c.ring

/-- The target that an ABORT names: the earliest accepted of the commands with its context and SEQ that are not committed (R418, R421). -/
def abortTarget (s : State) (p : BitVec 384) : Option Cmd :=
  s.cmds.find? fun d => decide (d.ring.val = fld p 0 3) && decide (d.seq.toNat = fld p 32 32)

/-- An ABORT whose target has now been committed completes (R418). -/
def releaseAborts (s : State) (r : CmdRef) : State :=
  { s with cmds := s.cmds.map fun c =>
      if c.opcode = 0x0003 ∧ c.phase = .running ∧ c.target = some r then { c with phase := .done {} } else c }

/-- A POWER_SET that completes hands its settings to the cap loop (R464). -/
def applySetting (s : State) (c : Cmd) (x : Record) : State :=
  if c.opcode = 0x0901 ∧ x.status = St.complete then
    { s with power := { s.power with capReady := 1200 + 25 * fld c.payload 0 6, estimatedReady := bit c.payload 8 } }
  else s

/-- COMPLETION_COMMIT: a finished command is committed. -/
def commit (s : State) (r : CmdRef) : State :=
  match s.cmds.find? fun c => Cmd.is r c && c.isDone with
  | none => s
  | some c =>
    match c.phase with
    | .done x =>
      let s := { s with cmds := dropFirst (fun d => Cmd.is r d && d.isDone) s.cmds }
      let s := if c.bound then settleBinding s c.ring c.payload x.status else s
      let (y, s) := reportFault s c x
      releaseAborts (writeEntry (applySetting s c x) c y) r
    | _ => s

/-! ### Faults and checks of commands (R413, R427) -/

/-- A refusal with a status alone. -/
def refuse (st : Half) : Option Record := some { status := st }

/-- Any context is open. -/
def State.anyOpen (s : State) : Bool := s.ctxs.any fun x => x.2.isOpen

end Sys2Proof.Machine
end

