-- ==== Sys2Proof/Machine/AuditOps.lean ====
section
/-!
DEFINITION. The fuses (R477, R478), the audit log (R496 to R500), the measurements (R482, R488), and the course of an installer or maker command.
-/
namespace Sys2Proof.Machine

def State.setSec (s : State) (x : Security) : State := { s with sec := x }

/-! ### Fuses (R477, R478) -/

namespace FU
abbrev rootHash : Nat := 1
abbrev rootRevoke : Nat := 2
abbrev anchorHash : Nat := 3
abbrev anchorRole : Nat := 4
abbrev anchorRevoke : Nat := 5
abbrev rollback : Nat := 6
abbrev identity : Nat := 7
abbrev serial : Nat := 8
abbrev debugDisable : Nat := 9
end FU

/-- Width of a field; the calibration fields have layouts of their own (R478). -/
def fuseWidth (code : Nat) : Option Nat :=
  match code with
  | 1 => some 512
  | 2 => some 4
  | 3 => some 512
  | 4 => some 2
  | 5 => some 4
  | 6 => some 64
  | 7 => some 256
  | 8 => some 64
  | 9 => some 1
  | _ => none

/-- Indices of a field. -/
def fuseCount (code : Nat) : Nat := if code = 1 ∨ code = 3 ∨ code = 4 then 4 else if code ≤ 9 then 1 else 256

/-- Bits within a field. -/
def fuseMask (code v : Nat) : Nat :=
  match fuseWidth code with
  | some w => v % 2 ^ w
  | none => v

/-- Fields that the maker provisions before shipment. -/
def provisioned (code : Nat) : Bool := code == 1 || code == 3 || code == 4 || code == 7 || code == 8

/-- A field as it reads. -/
def fuse (s : State) (code index : Nat) : Nat :=
  Tab.get 0 s.sec.fuses (256 * code + index) |||
    (if provisioned code then fuseMask code (Config.shippedFuse (256 * code + index)) else 0)

/-- Set every bit that is 1 in a value. -/
def setFuse (s : State) (code index v : Nat) : State :=
  let k := 256 * code + index
  s.setSec { s.sec with fuses := Tab.set 0 s.sec.fuses k (Tab.get 0 s.sec.fuses k ||| fuseMask code v) }

/-- Bits set of a number. -/
def popCount : Nat → Nat → Nat
  | 0, _ => 0
  | n + 1, v => v % 2 + popCount n (v / 2)

/-- The ROLLBACK count. -/
def rollbackCount (s : State) : Nat := popCount 64 (fuse s FU.rollback 0)

/-! ### Measurements -/

def State.meas (s : State) (i : Nat) : BitVec 512 := Tab.get 0 s.sec.meas i
def State.setMeas (s : State) (i : Nat) (d : BitVec 512) : State := s.setSec { s.sec with meas := Tab.set 0 s.sec.meas i d }

/-- The register after an extension (R482). -/
def extended (old digest : BitVec 512) : BitVec 512 := Config.sha3 (toBytes old 64 ++ toBytes digest 64)

def extend (s : State) (i : Nat) (digest : BitVec 512) : State := s.setMeas i (extended (s.meas i) digest)

/-- What index 5 measures (R488): cap and mode, reset limits, link configuration, destination-table defaults. -/
def installerSettings (s : State) : List Nat :=
  let f := s.fab.cfgNext
  [s.power.capNext, b2n s.power.estimatedNext, s.rst.limit, s.rst.windowMin, f.split.toNat, f.w0.toNat, f.w1.toNat, f.w2.toNat,
   f.timeout.toNat, f.ceiling.toNat, b2n f.interleave] ++ s.fab.routeDefaults.flatMap fun r => [r.1, r.2.toNat]

/-- Index 5 is extended by the digest of the settings (R488). -/
def measureSettings (s : State) : State := extend s 5 (Config.installerDigest (installerSettings s))

/-- Index 5 is extended where an installer command has changed what it measures (R488). -/
def resettle (old s : State) : State := if installerSettings s = installerSettings old then s else measureSettings s

/-- Every security fuse field but IDENTITY_SEED (R477). -/
def securityFuses (s : State) : List Nat :=
  [FU.rootHash, FU.rootRevoke, FU.anchorHash, FU.anchorRole, FU.anchorRevoke, FU.rollback, FU.serial, FU.debugDisable].flatMap fun code =>
    (List.range (fuseCount code)).map (fuse s code)

/-- Index 6 is extended by the digest of the fuses and of a debug state (R488, R495). -/
def measureFuses (s : State) (debug : Bool) : State := extend s 6 (Config.fuseDigest (securityFuses s) debug)

/-! ### Records (R497) -/

namespace AK
abbrev boot : Nat := 1
abbrev granted : Nat := 2
abbrev refused : Nat := 3
abbrev dropped : Nat := 4
abbrev begin' : Nat := 5
abbrev ended : Nat := 6
end AK

def roleCode : Role → Nat
  | .operator => 0
  | .installer => 1
  | .maker => 2

/-- A record without its SEQ and PREV, which it takes when it is written (R499). -/
def auditRecord (s : State) (kind opcode status detail : Nat) (cred : Dword) (hash : BitVec 512) : BitVec 2048 :=
  word 2048 [(64, 64, s.time.toNat), (128, 8, kind), (136, 2, roleCode s.sec.role), (144, 16, opcode), (160, 16, status),
    (176, 32, detail), (256, 64, cred.toNat), (320, 512, hash.toNat)]

/-- Append a record behind those not yet durable. -/
def queueAudit (s : State) (r : BitVec 2048) (c : Option CmdRef) : State := s.setSec { s.sec with auditQ := s.sec.auditQ ++ [(r, c)] }

/-- ARG_HASH of a command (R497). -/
def argHash (c : Cmd) (data : List Byte) : BitVec 512 := Config.sha3 (toBytes c.payload 48 ++ data)

/-- The command's END record is queued; its completion waits for it (R496, R499). -/
def endAudit (s : State) (c : Cmd) (x : Record) : State :=
  (queueAudit s (auditRecord s AK.ended c.opcode x.status.toNat x.detail.toNat s.sec.credId (argHash c c.data)) (some c.ref)).setPhase c.ref
    (.ending x)

/-- The END record of a command that takes no reset. -/
def finishAudited (s : State) (r : CmdRef) (x : Record) : State :=
  match s.cmd? r with
  | some c => endAudit s c x
  | none => s

/-- Commands of the installer and of the maker (R489). -/
def installerOps : List Nat := [0x0901, 0x0902, 0x0903, 0x0904, 0x0905, 0x0906, 0x0907]
def makerOps : List Nat := [0x0A01, 0x0A02]

/-- An installer or maker command: BEGIN first, then its action once that is durable (R496, R499). -/
def audited (s : State) (r : CmdRef) (opcode : Nat) (host : List Byte) (act : Cmd → State → State) : State :=
  match s.cmd? r with
  | none => s
  | some c =>
    if c.opcode ≠ opcode then s
    else
      match c.phase with
      | .waiting =>
        if s.mayStart c then
          (queueAudit s (auditRecord s AK.begin' opcode 0 0 s.sec.credId (argHash c host)) (some r)).updCmd r fun c =>
            { c with phase := .begun, data := host }
        else s
      | .cleared => act c s
      | _ => s

/-! ### AUDIT_RECORD_DURABLE (R498 to R500) -/

/-- KIND of a record. -/
def auditKind (r : BitVec 2048) : Nat := fld r 128 8

/-- The record as written: SEQ, and PREV over the whole record before it. -/
def numbered (s : State) (r : BitVec 2048) : BitVec 2048 :=
  let n := s.sec.auditNext.toNat
  let prev : BitVec 512 := if n = 0 then 0 else Config.sha3 (toBytes (Tab.get 0 s.sec.auditLog ((n - 1) % 16384)) 256)
  put (put r 0 64 n) 832 512 prev.toNat

/-- The record takes its slot, and measurement index 7 its digest. -/
def writeAudit (s : State) (r : BitVec 2048) : State :=
  let x := numbered s r
  let s := s.setSec { s.sec with auditLog := Tab.set 0 s.sec.auditLog (s.sec.auditNext.toNat % 16384) x, auditNext := s.sec.auditNext + 1 }
  s.setMeas 7 (Config.sha3 (toBytes x 256))

/-- A role that a credential's header names (R490). -/
def credRole (b : List Byte) : Nat := fld (BitVec.ofNat 64 (ofBytes (b.take 8))) 8 2
def credIdOf (b : List Byte) : Dword := BitVec.ofNat 64 (ofBytes ((b.drop 16).take 8))
def roleOf (n : Nat) : Role := if n = 1 then .installer else if n = 2 then .maker else .operator

/-- The role of a durable ROLE_GRANTED takes effect (R492, R499). -/
def grantRole (s : State) (c : Cmd) : State :=
  s.setSec { s.sec with role := roleOf (credRole c.data), grantTime := s.time, credId := credIdOf c.data }

/-- The role held ends (R493). -/
def loseRole (s : State) : State := s.setSec { s.sec with role := .operator, credId := 0 }

/-- What waited for a durable record goes on. -/
def auditDone (s : State) (kind : Nat) (c : Cmd) : State :=
  match c.phase with
  | .begun => s.setPhase c.ref .cleared
  | .ending x => if kind = AK.begin' then s else (if kind = AK.granted then grantRole s c else s).setPhase c.ref (.done x)
  | _ => s

/-- The black-box record of an audit record that could not be made durable (R500, R515). -/
def auditLost (s : State) (r : BitVec 2048) (c : Option Cmd) : State :=
  bbAppend s 0xC (c.map (·.ring)) (word 384 [(0, 16, fld r 144 16), (32, 32, (c.map (·.seq.toNat)).getD 0), (208, 32, s.sec.auditNext.toNat % 2 ^ 32)])

/-- A record that cannot be made durable: what it would begin does not take place, and the command is refused (R500). -/
def auditFailed (s : State) (kind : Nat) (c : Cmd) : State :=
  match c.phase with
  | .ending _ => if kind = AK.begin' then s else s.setPhase c.ref (.done { status := St.roleDenied, detail := 6 })
  | .done _ => s
  | _ => s.setPhase c.ref (.done { status := St.roleDenied, detail := 6 })

/-- A ROLE_DROPPED record names the role that is held when it is written (R497). -/
def dropFields (s : State) (r : BitVec 2048) : BitVec 2048 :=
  if auditKind r = AK.dropped then put (put r 136 2 (roleCode s.sec.role)) 256 64 s.sec.credId.toNat else r

/-- A record is durable: it is written, and what waited for it takes place (R498, R499). -/
def auditWritten (s : State) (r : BitVec 2048) (c : Option Cmd) : State :=
  let s := writeAudit s (dropFields s r)
  let s := if auditKind r = AK.dropped then loseRole s else s
  match c with
  | some c => auditDone s (auditKind r) c
  | none => s

/-- AUDIT_RECORD_DURABLE, of the oldest record that waits. -/
def auditDurable (s : State) (written : Bool) : State :=
  match s.sec.auditQ with
  | [] => s
  | (r, ref) :: rest =>
    let s := s.setSec { s.sec with auditQ := rest }
    let c := ref.bind fun x => s.cmd? x
    if written then auditWritten s r c
    else
      match c with
      | some c => auditFailed (auditLost s r (some c)) (auditKind r) c
      | none => auditLost s r none

end Sys2Proof.Machine
end

