-- ==== Sys2Proof/Machine/BankOps.lean ====
section
/-!
DEFINITION. Requests of the memory mesh as they reach a bank, a channel or a port (R27, R31, R80, R103 to R106, R267), errors,
sparing and scrubbing (R95 to R102, R257 to R259, R503 to R507).
-/
namespace Sys2Proof.Machine

/-! ### Requests -/

def BankReq.addr : BankReq → BitVec 52
  | .read _ a _ _ => a
  | .write _ a _ _ _ => a
  | .acc _ a _ _ => a
  | .fadd _ a _ _ => a
  | .word a _ => a
  | .notice _ a _ _ => a
  | .gate => 0

def BankReq.issuer : BankReq → Option CtxId
  | .read c _ _ _ => c
  | .write c _ _ _ _ => c
  | .acc c _ _ _ => c
  | .fadd c _ _ _ => c
  | .notice c _ _ _ => c
  | _ => none

/-- The request names a word of a row, and not a row. -/
def BankReq.ofWord : BankReq → Bool
  | .fadd _ _ _ _ => true
  | .word _ _ => true
  | _ => false

/-- The request reads only. -/
def BankReq.isRead : BankReq → Bool
  | .read _ _ _ _ => true
  | _ => false

/-- A request that its target refuses: the issuer faults and the failure is answered. -/
def refuseReq (s : State) (r : BankReq) (st : Half) : State :=
  (faultIssuer s r.issuer st r.addr.toNat).answer (.failed r.addr st)

/-- A request at a chip-memory bank (R104, R105). -/
def bankRequest (s : State) (b : Nat) (r : BankReq) : State :=
  let x := s.bank b
  match x.power with
  | .awake => if x.queue.isEmpty then serveReq s b r else s.setBank b { x with queue := x.queue ++ [r] }
  | .gated => if r.isRead then refuseReq s r St.bankGatedRead else lateWake s b [r]
  | .waking => s.setBank b { x with queue := x.queue ++ [r] }

/-- A request of the memory mesh: rows are aligned; a tier without engines serves reads and writes alone (R27, R31, R265,
R266); a write into a row of a running configuration faults (R233). DESIGN CHOICE (log 126): an address of the configuration space,
which is not on the mesh, and a row or word request of GDDR7 or CXL that is not aligned are answered as an unmapped address is. -/
def meshRequest (s : State) (r : BankReq) : State :=
  let a := r.addr.toNat
  if a % (if r.ofWord then 4 else 512) ≠ 0 then refuseReq s r St.addressUnmapped
  else
    match region s a with
    | .unmapped => refuseReq s r St.addressUnmapped
    | .config => refuseReq s r St.addressUnmapped
    | .chip => bankRequest s (bankOf a) r
    | .gddr => serveReq s (512 + (channelOf s a).1) r
    | reg =>
      if reg = .cxl ∧ (s.cxlPort (cxlPortOf s a)).down = true then refuseReq s r St.cxlPortDown
      else
        match r with
        | .read _ _ _ _ => serveReq s 0 r
        | .write _ a _ _ _ => if configRow s a.toNat then refuseReq s r St.configOverwrite else serveReq s 0 r
        | .acc _ a _ _ => s.answer (.accResult a (BitVec.ofNat 8 accNotArmed))
        | _ => s.answer (.failed r.addr St.keyEntryInvalid)

/-- An engine operation of a local issuer on n rows: the check of R92 through its device entry, whose format is the one named
(R269, R273), before the request. -/
def engineRequest (s : State) (c : Option CtxId) (h : Half) (p : Nat) (f : Option Nat) (n : Nat) (r : BankReq) : State :=
  let k := capture s none h
  let refused := fun (s : State) (st : Half) => (faultCtx s c ⟨st, { handle := h }⟩).answer (.failed r.addr st)
  if c.isNone then meshRequest s r
  else
    match begin' s c k p f with
    | (some e, s) => refused s e.status
    | (none, s) =>
      if f.any fun x => k.format != x then refused s St.keyFormatMismatch
      else if (entryRowAt k.parent (r.addr.toNat / 512 * 512)).any fun j => decide (j + n ≤ DE.rows k.parent) then meshRequest s r
      else refused s St.keyOutOfBounds

/-! ### Errors of rows (R95, R98 to R102) -/

/-- Same bank. -/
def sameBank : SparePlace → SparePlace → Bool
  | .core c k _, .core d l _ => c == d && k == l
  | .chip b _, .chip d _ => b == d
  | _, _ => false

/-- Spare rows left in the bank of a place (R98, R102). -/
def sparesLeft (s : State) (p : SparePlace) : Nat :=
  (match p with
   | .core _ _ _ => 4
   | .chip _ _ => 16) - (s.ms.remaps.filter fun x => sameBank p x.1).length

/-- A ROW_EVENT record (R515). -/
def rowEvent (s : State) (code : Nat) (p : SparePlace) : State :=
  bbAppend s 8 none <|
    match p with
    | .core c k n => word 384 [(0, 16, code), (16, 5, coreCol c), (21, 4, coreRow c), (25, 1, 1), (208, 32, n.val), (240, 16, k.val)]
    | .chip b n => word 384 [(0, 16, code), (208, 32, n.val), (240, 16, b.val)]

/-- A row calls for a remap: its fourth correctable error within 24 hours, or a poisoned sector (R98, R99). -/
def callsRemap (s : State) (p : SparePlace) (afterPoison : Bool) : Bool :=
  if afterPoison then poisonMask s.ms.poison (placeAddr p) != 0
  else s.ms.errRows.any fun x => x.1 == p && decide (4 ≤ (x.2.filter fun u => decide ((s.time - u).toNat < dayUs)).length)

/-- ROW_REMAP: the row moves to a spare with its contents and its poison; with no spare left it stays, recorded once
(R98 to R102). -/
def remapRow (s : State) (p : SparePlace) (afterPoison : Bool) : State :=
  if !callsRemap s p afterPoison then s
  else if sparesLeft s p = 0 then
    if s.ms.kept.contains p then s else rowEvent { s with ms := { s.ms with kept := s.ms.kept ++ [p] } } 3 p
  else
    rowEvent { s with ms := { s.ms with
      remaps := s.ms.remaps ++ [(p, false)], errRows := s.ms.errRows.filter fun x => x.1 != p } } (if afterPoison then 2 else 1) p

/-! ### Scrubbing (R502 to R505) -/

/-- The core-memory scrubber visits the next row of a bank (R503). -/
def scrubCore (s : State) (c : CoreId) (b : Fin 8) (f : Finding) : State :=
  if !s.mgmtUp then s
  else
    let i := c.val * 8 + b.val
    let n := Tab.get 0 s.bg.coreScrub i
    let p := SparePlace.core c b (Fin.ofNat 384 n)
    let s := { s with bg := { s.bg with coreScrub := Tab.set 0 s.bg.coreScrub i ((n + 1) % 384) } }
    placeFinding (scrubMeets s i (placeAddr p)) p f

/-- The chip-memory scrubber visits the next row of a bank once its queue is empty; a gated bank is skipped (R105, R504). -/
def scrubChip (s : State) (b : BankId) (f : Finding) : State :=
  if !s.mgmtUp then s
  else
    let n := Tab.get 0 s.bg.chipScrub b.val
    let p := SparePlace.chip b (Fin.ofNat 1024 n)
    let s := { s with bg := { s.bg with chipScrub := Tab.set 0 s.bg.chipScrub b.val ((n + 1) % 1024) } }
    let s := settleBank s b.val
    if (s.bank b.val).power = .gated then s else placeFinding (scrubMeets s (3072 + b.val) (placeAddr p)) p f

/-- Device physical address of a byte of a channel (R260, R261). -/
def channelAddr (s : State) (c l : Nat) : Nat :=
  let d := s.ms.gddrD.toNat * 0x10000000
  let h := 0x200000000 - d
  if l < h then
    let q := l / 4096
    let f := (q ^^^ (q >>> 6) ^^^ (q >>> 12) ^^^ (q >>> 18)) &&& 0x3F
    (q * 40 + (c + 80 - f) % 40) * 4096 + l % 4096
  else 40 * h + c * d + (l - h)

/-- One tick of the patrol scrub: the next row of every channel that is not poisoned (R505). -/
def patrolTick (s : State) (fs : List (ChanId × Finding)) : State :=
  if !s.mgmtUp then s
  else
    (List.finRange 40).foldl (fun s c =>
      let x := s.chan c.val
      if x.poisoned then s
      else
        let f := ((fs.find? fun y => y.1 == c).map (·.2)).getD .clean
        let a := channelAddr s c.val (x.patrolRow.toNat * 512)
        let s := channelFinding (scrubMeets s (3584 + c.val) a) c.val a f
        s.setChan c.val { s.chan c.val with patrolRow := BitVec.ofNat 25 ((x.patrolRow.toNat + 1) % 16777216) }) s

/-- A transfer's CRC failed: retried with success, or its sectors poisoned after the fourth attempt (R258). -/
def transferRetry (s : State) (a : Nat) (failures : Nat) (m : BitVec 16) : State :=
  if region s a ≠ .gddr ∨ failures = 0 then s
  else
    let c := (channelOf s a).1
    let x := s.chan c
    if failures < 4 then s.setChan c { x with crcRetried := countErr x.crcRetried }
    else addPoison (s.setChan c { x with uncorrected := countErr x.uncorrected }) (a / 512 * 512) m

/-- Rows of a port that row moves of a core have written and no acknowledgement covers: their data is lost, so that they hold free
values (log 2), and the context faults (R265). -/
def loseMoves (p : Nat) (s : State) (c : CoreId) : State :=
  let lost := (s.core c).moveRows.filter fun a => cxlPortOf s a == p
  if lost.isEmpty then s
  else
    let s := lost.foldl (fun s a => let (x, s) := s.fresh 4096
                                    rawPut s a x 0) s
    coreFault s c St.cxlPortDown { index := (lost.headD 0) / 512 }

/-- A CXL port goes down in service: writes not acknowledged are lost (R265, R404). -/
def portDown (s : State) (p : Nat) : State :=
  let x := s.cxlPort p
  if x.units = 0 then s
  else
    let s := if x.down then s else allCores.foldl (loseMoves p) s
    s.setCxl p { s.cxlPort p with down := true, lanes := 0, code := 0 }

end Sys2Proof.Machine
end

