-- ==== Sys2Proof/Machine/PowerOps.lean ====
section
/-!
DEFINITION. Clocks, power and thermal control: islands and their targets (R458 to R461), ceilings and remaps (R12, R15, R462,
R463), the cap loop (R464 to R469), droop (R470 to R472), and heat (R473).
-/
namespace Sys2Proof.Machine

def State.setPower (s : State) (p : Power) : State := { s with power := p }

/-! ### Sites, ceilings, limits (R12, R460, R462, R473) -/

/-- The unused site of a column, and whether it is a spare. -/
def columnUnused (s : State) (col : Nat) : Nat × Bool :=
  match s.power.moved.find? fun x => x.1 == col with
  | some x => (x.2, false)
  | none => (Config.unusedSite col % 13, Config.spareColumn col)

/-- Physical site of a logical core (R12). -/
def siteOf (s : State) (c : CoreId) : Nat :=
  let u := (columnUnused s (coreCol c)).1
  coreCol c * 13 + (if coreRow c < u then coreRow c else coreRow c + 1)

/-- The logical core at a site (R12). -/
def coreAt (s : State) (site : Nat) : CoreId :=
  let u := (columnUnused s (site / 13)).1
  Fin.ofNat 384 (site / 13 * 12 + (if site % 13 < u then site % 13 else site % 13 - 1))

/-- Fused maximum of a site: 1,100 to 1,350 MHz in steps of 5 (R462). -/
def fusedCeiling (site : Nat) : Nat := 1100 + 5 * (Config.fusedMax site % 51)

/-- C_i. -/
def ceiling (s : State) (c : CoreId) : Nat :=
  let f := fusedCeiling (siteOf s c)
  match Tab.get none s.power.ceilings (siteOf s c) with
  | none => f
  | some x => min x f

/-- L_i. -/
def thermalLimit (s : State) (c : CoreId) : Nat :=
  match Tab.get 0 s.power.limits c.val with
  | 0 => ceiling s c
  | x => min x (ceiling s c)

/-- F_i (R460). -/
def coreTarget (s : State) (c : CoreId) : Nat := min s.power.ft (min (ceiling s c) (thermalLimit s c))

/-! ### Islands (R458, R459, R461) -/

/-- The core of a core island. -/
def islandCore (i : IslandId) : Option CoreId := if h : i.val < 384 then some ⟨i.val, h⟩ else none

/-- The frequency of an island at power-up and in service, in MHz. -/
def restFrequency (s : State) (i : IslandId) : Nat :=
  match islandCore i with
  | some c => min 1100 (ceiling s c)
  | none =>
    if i.val ≤ 385 then 1500 else if i.val = 386 then 1100 else if i.val ≤ 388 then 1500
    else if i.val ≤ 428 then s.ms.gddrRate.toNat * 250 else if i.val ≤ 430 then Config.cxlFrequency (s.cxlPort (i.val - 429)).code.toNat
    else if i.val = 447 then 1000 else Config.linkFrequency

def State.island (s : State) (i : IslandId) : Island := Tab.get {} s.power.islands i.val
def State.setIsland (s : State) (i : IslandId) (x : Island) : State :=
  s.setPower { s.power with islands := Tab.set {} s.power.islands i.val x }

def islandFreq (s : State) (i : IslandId) : Nat := (s.island i).freq.getD (restFrequency s i)
def islandTarget (s : State) (i : IslandId) : Nat := (s.island i).target.getD (restFrequency s i)

def Island.drooping (x : Island) : Bool := x.supply || x.limit

/-- A new target: it waits while a droop lasts or its wait runs (R472). -/
def newTarget (s : State) (i : IslandId) (f : Nat) : State :=
  let x := s.island i
  if x.drooping || x.recovering then s.setIsland i { x with held := some (min f (x.held.getD f)) }
  else s.setIsland i { x with freq := some (islandFreq s i), target := some f }

def coreIsland (c : CoreId) : IslandId := ⟨c.val, by omega⟩

/-- Every core island takes F_i as a new target where it differs (R460). -/
def retarget (s : State) : State :=
  allCores.foldl (fun s c =>
    if coreTarget s c = islandTarget s (coreIsland c) ∧ (s.island (coreIsland c)).held.isNone = true then s
    else newTarget s (coreIsland c) (coreTarget s c)) s

/-- FREQUENCY_STEP: one step of 5 MHz toward the target; a ramp is frozen through a droop and its wait (R459, R472). -/
def frequencyStep (s : State) (i : IslandId) : State :=
  let x := s.island i
  if x.drooping || x.recovering then s
  else
    let f := islandFreq s i
    let t := islandTarget s i
    let f' := if f < t then min t (f + 5) else max t (f - 5)
    if f' = f then s else s.setIsland i { x with freq := some f' }

/-! ### Droop (R470 to R472) -/

/-- A droop of one island; one that returns in the wait is a new droop. -/
def droopIsland (s : State) (i : IslandId) (limit : Bool) : State :=
  let x := s.island i
  s.setIsland i { x with supply := x.supply || !limit, limit := x.limit || limit, recovering := false }

/-- DROOP: a supply droop of an island, or a limit event of every island of its die, which draws more than its limit (R469, R470). -/
def droop (s : State) (i : IslandId) (cause : DroopCause) : State :=
  match cause with
  | .supply => droopIsland s i false
  | .limit draw =>
    if s.power.dieLimit.any fun l => decide (l < draw) then
      ((List.finRange 448).filter fun j => islandDie j == islandDie i).foldl (fun s j => droopIsland s j true) s
    else s

/-- DROOP_STEP_DOWN: 50 MHz, to no lower than 400. -/
def droopStepDown (s : State) (i : IslandId) : State :=
  let x := s.island i
  let f := islandFreq s i
  if !x.drooping || decide (f ≤ 400) then s else s.setIsland i { x with freq := some (max 400 (f - 50)) }

/-- DROOP_CLEAR: the droop ends when both causes have cleared. -/
def droopClear (s : State) (i : IslandId) (limit : Bool) : State :=
  let x := s.island i
  if !x.drooping then s
  else
    let y := if limit then { x with limit := false } else { x with supply := false }
    s.setIsland i { y with recovering := !y.drooping }

/-- DROOP_RECOVERY_WAIT_END: the ramp goes on, toward the lowest target that arrived meanwhile. -/
def droopRecovered (s : State) (i : IslandId) : State :=
  let x := s.island i
  if !x.recovering then s else s.setIsland i { x with recovering := false, held := none, target := x.held.or x.target }

/-! ### The activity estimate (R465) -/

/-- Activities of the arrays, the vector engines and the core memories. -/
def Activity.ofCore : Activity → Bool
  | .arrayVector => true
  | .vectorInstr _ => true
  | .coreRow => true
  | _ => false

/-- Length of a loop period in µs (R464). -/
def periodLength (p : Power) : Nat := if p.estimated then 10 else 1000

def gain (p : Power) (die : Nat) : Nat := if die = 0 then p.gainW else p.gainE

/-- Power in mW of the counted activities of a die that meet a test, from their energies in pJ. -/
def activityPower (p : Power) (q : Period) (die : Nat) (want : Activity → Bool) : Nat :=
  ((q.counts.filter fun x => islandDie x.1 == die && want x.2.1).foldl (fun n x => n + x.2.2 * Config.eventEnergy x.1.val x.2.1) 0) /
    (1000 * periodLength p)

/-- The estimate of a die under its gain: activity and leakage. -/
def diePower (s : State) (q : Period) (die : Nat) : Nat :=
  gain s.power die * (activityPower s.power q die (fun _ => true) + Config.leakage die (if die = 0 then s.power.dieTempW else s.power.dieTempE)) /
    1000000

/-- The estimate without the conversion loss, and the loss. -/
def netPower (s : State) (q : Period) : Nat := diePower s q 0 + diePower s q 1 + Config.gddrDraw + Config.otherDraw
def lossPower (s : State) (q : Period) : Nat := netPower s q * Config.conversionLoss / 1000

/-- The estimate of the period: four terms (R465; log 27). -/
def estimate (s : State) (q : Period) : Nat := netPower s q + lossPower s q

/-- P_core of the estimate. -/
def corePower (s : State) (q : Period) : Nat :=
  [0, 1].foldl (fun n d => n + gain s.power d * activityPower s.power q d Activity.ofCore / 1000000) 0

/-- P_ext: the power of the GDDR7 devices and the conversion loss (R469). -/
def externalPower (s : State) (q : Period) : Nat := Config.gddrDraw + lossPower s q

/-! ### The cap loop (R464 to R469) -/

/-- P of the loop: measured, or estimated (R464). -/
def loopPower (s : State) (q : Period) : Nat := if s.power.estimated then estimate s q else q.measured

/-- Target power in mW (R464). -/
def capTarget (p : Power) : Nat := p.cap * (if p.estimated then 990 else 980)

/-- F_new of the loop, in MHz, before its limits, from P and from P_core and P of the estimate, whose quotient is the share; none where no
power is the cores'. -/
def loopFrequency (p : Power) (power core est : Nat) : Option Int :=
  if power * core = 0 then none
  else
    let need : Int := (capTarget p : Int) * est - (power : Int) * ((est : Int) - core)
    some ((p.ft * need).fdiv (5 * (power * core)) * 5)

/-- F_T and duty of the next period (R467). -/
def loopStep (p : Power) (new : Int) : Nat × Nat :=
  let f : Int := if (p.ft : Int) < new then min new (p.ft + 50) else new
  if f < 400 then (400, max 1 ((p.duty * f).fdiv 400).toNat)
  else if p.duty < 8 then (400, min 8 (p.duty + 1))
  else (min 1350 f.toNat, p.duty)

/-- CAP_LOOP_PERIOD: F_T and duty under the cap of the period that ends, then the setting that applies from the next one and its
die limits (R464, R467, R469; log 27). -/
def capLoop (s : State) (q : Period) : State :=
  let external := externalPower s q
  let (new, s) := match loopFrequency s.power (loopPower s q) (corePower s q) (estimate s q) with
    | some f => (f, s)
    | none => let (x, s) := s.fresh 11
              ((x.toNat / 5 * 5 : Int), s)
  let (ft, duty) := loopStep s.power new
  let p := s.power
  retarget (s.setPower { p with
    ft := ft, duty := duty, cap := p.capReady, estimated := p.estimatedReady, dieLimit := some ((1020 * p.capReady - external) / 2) })

/-- A gain after a calibration: changed by at most 10 % (R465). -/
def newGain (g x : Nat) : Nat := max (g * 9 / 10) (min (g * 11 / 10) x)

/-- GAIN_CALIBRATION. -/
def calibrate (s : State) (die : Fin 2) (measured estimated : Nat) : State :=
  let g := gain s.power die.val
  let (x, s) := if estimated = 0 then (let (v, s) := s.fresh 32
                                       (v.toNat, s)) else (g * measured / estimated, s)
  let n := newGain g x
  s.setPower (if die = 0 then { s.power with gainW := n } else { s.power with gainE := n })

/-! ### Heat (R473) -/

/-- Sixteenths of a degree. -/
def degrees (n : Int) : Int := 16 * n

/-- L_i after one read. -/
def nextLimit (limit ceil : Nat) (hot : Int) : Nat :=
  if degrees 105 < hot then max 400 (limit - 50) else if hot < degrees 103 then min ceil (limit + 5) else limit

/-- THERMAL_READ: every sensor, each core's own and the hottest of its die outside the cores. -/
def thermalRead (s : State) (cores : List Int) (dieW dieE : Int) : State :=
  let p := s.power
  let s' := s.setPower { p with
    temps := (allCores).foldl (fun t c => Tab.set 0 t c.val (cores.getD c.val 0)) [], dieTempW := dieW, dieTempE := dieE
    limits := allCores.foldl (fun t c =>
      let die := if c.val < 192 then dieW else dieE
      let n := nextLimit (thermalLimit s c) (ceiling s c) (max (cores.getD c.val die) die)
      Tab.set 0 t c.val (if n = ceiling s c then 0 else n)) [] }
  retarget s'

/-! ### Ageing and remaps (R462, R463, R15, R102) -/

/-- A CORE_EVENT record (R515). -/
def coreEvent (s : State) (code : Nat) (c : CoreId) (ceil : Nat) : State :=
  bbAppend s 9 none (word 384 [(0, 16, code), (16, 5, coreCol c), (21, 4, coreRow c), (25, 1, 1), (208, 32, ceil)])

/-- The column of a site still holds a spare that no committed remap takes. -/
def columnSpare (s : State) (site : Nat) : Bool :=
  (columnUnused s (site / 13)).2 && !s.power.remapPending.any fun d => d / 13 == site / 13

/-- A queued core without a spare is recorded once. -/
def noteSpareless (s : State) (site : Nat) : State :=
  if columnSpare s site || s.power.spareless.contains site then s
  else coreEvent (s.setPower { s.power with spareless := s.power.spareless ++ [site] }) 2 (coreAt s site) (ceiling s (coreAt s site))

/-- A core whose ceiling has fallen below 1,100 MHz is queued and recorded once (R463). -/
def queueRemap (s : State) (c : CoreId) (new : Nat) : State :=
  let site := siteOf s c
  if new < 1100 ∧ s.power.remapQ.contains site = false ∧ s.power.remapPending.contains site = false then
    noteSpareless (coreEvent (s.setPower { s.power with remapQ := s.power.remapQ ++ [site] }) 1 c new) site
  else s

/-- floor5(f_meas - 50 MHz); 0 where the replica meets timing below 50 MHz (R462; log 26). -/
def agedCeiling (measured : Nat) : Nat := (measured - 50) / 5 * 5

/-- AGEING_MEASUREMENT: a ceiling never rises. -/
def ageing (s : State) (c : CoreId) (measured : Nat) : State :=
  let new := agedCeiling measured
  if ceiling s c ≤ new then s
  else
    let i := coreIsland c
    let s := s.setIsland i { s.island i with freq := some (islandFreq s i), target := some (islandTarget s i) }
    let s := s.setPower { s.power with ceilings := Tab.set none s.power.ceilings (siteOf s c) (some new) }
    queueRemap (newTarget s i (coreTarget s c)) c new

/-- REMAP_COMMIT: pending row remaps, and every queued core whose column holds a spare (R102, R463). -/
def commitRemaps (s : State) : State :=
  let s := { s with ms := { s.ms with remaps := s.ms.remaps.map fun (x : SparePlace × Bool) => (x.1, true) } }
  s.power.remapQ.foldl (fun s site =>
    if columnSpare s site then
      s.setPower { s.power with remapQ := s.power.remapQ.filter fun m => m != site, remapPending := s.power.remapPending ++ [site] }
    else noteSpareless s site) s

/-- Committed core remaps take effect: the replaced site becomes its column's unused one (R15). -/
def applyRemaps (s : State) : State :=
  s.setPower { s.power with moved := s.power.moved ++ s.power.remapPending.map fun site => (site / 13, site % 13), remapPending := [] }

/-- Islands of the GDDR7, CXL and link ports stand at the frequency of their trained rate (R458). -/
def portClocks (s : State) : State :=
  s.setPower { s.power with islands := (List.range 58).foldl (fun t k =>
    Tab.set {} t (389 + k) { Tab.get {} t (389 + k) with freq := none }) s.power.islands }

/-- Power-up and device reset: every island restarts, F_T and duty at their start (R461). -/
def restartClocks (s : State) : State :=
  let s := applyRemaps s
  s.setPower { s.power with islands := [], ft := 1100, duty := 8, limits := [] }

end Sys2Proof.Machine
end

