-- ==== Sys2Proof/Machine/ContextOps.lean ====
section
/-!
DEFINITION. Protocol, contexts, GDDR7 layout and data transfers (R260, R415, R421, R422, R426).
-/
namespace Sys2Proof.Machine

/-! ### PROTOCOL_OPEN (R415) -/

/-- The version that a host's highest one gives: the device's major with the lower minor. -/
def agreedMinor (s : State) (p : BitVec 384) : Nat := min (fld p 8 8) (fld s.host.protoMax 8 8)

def protocolCheck (s : State) (p : BitVec 384) : Option Record :=
  if fld p 0 8 ≠ fld s.host.protoMax 0 8 then
    some { status := St.protocolMismatch, result := BitVec.ofNat 64 (fld s.host.protoMax 0 16) }
  else if s.host.protoOpen ∧ s.anyOpen = true ∧ (s.host.major.toNat ≠ fld p 0 8 ∨ s.host.minor.toNat ≠ agreedMinor s p) then
    refuse St.contextOpen
  else none

def protocolOpen (s : State) (r : CmdRef) : State :=
  s.take r 0x0001 fun c =>
    let mj := fld c.payload 0 8
    let mn := agreedMinor s c.payload
    (s.setHost { s.host with protoOpen := true, major := BitVec.ofNat 8 mj, minor := BitVec.ofNat 8 mn }).finish r
      { result := BitVec.ofNat 64 (mj + 256 * mn) }

/-! ### Contexts (R250, R252, R421, R426) -/

/-- A device entry serves as a context's save area (R252). -/
def saveAreaOk (s : State) (c : CtxId) (h : Half) : Bool :=
  let e := s.devEntry h
  DE.valid e && DE.perm e pRD && DE.perm e pWR && DE.ctxOk e c && decide (2048 ≤ DE.rows e)

/-- The context is open, or an accepted CONTEXT_OPEN is to open it (log 134). -/
def contextTaken (s : State) (c : CtxId) : Bool :=
  (s.ctx c).isOpen || s.cmds.any fun d => decide (d.ring = c) && d.opcode == 0x0004 && d.isWaiting

def contextOpenCheck (s : State) (c : CtxId) (p : BitVec 384) : Option Record :=
  if contextTaken s c then refuse St.contextOpen
  else if !saveAreaOk s c (BitVec.ofNat 16 (fld p 0 16)) then refuse St.keyEntryInvalid
  else none

/-- CONTEXT_OPEN: the context opens with nothing of an earlier one. -/
def contextOpen (s : State) (r : CmdRef) : State :=
  s.take r 0x0004 fun c =>
    (s.setCtx r.ctx { isOpen := true, save := BitVec.ofNat 16 (fld c.payload 0 16), slice := BitVec.ofNat 14 (fld c.payload 16 14) }).finishSt
      r St.complete

/-- The context owns a window, a collective or the job (R426). -/
def ownsAny (s : State) (c : CtxId) : Bool :=
  s.fab.windows.any (fun w => w.2.state != .closed && w.2.ctx.toNat == c.val) || s.colls.any (fun x => x.2.ctx == c) ||
    s.job.any fun j => j.ctx == c

/-- CTXMASK of every entry loses the context. -/
def dropMask (t : Tab (BitVec 256)) (c : CtxId) : Tab (BitVec 256) :=
  t.foldl (fun u k => Tab.set 0 u k.1 (put (Tab.get 0 t k.1) (24 + c.val) 1 0)) []

/-- CONTEXT_CLOSE: after every earlier command of its ring (R426). -/
def contextClose (s : State) (r : CmdRef) : State :=
  s.take r 0x0005 fun c =>
    if !(s.earlier c).isEmpty then s.defer r
    else if ownsAny s r.ctx then s.finishSt r St.contextBusy
    else
      let s := { s.setCtx r.ctx {} with
        keys := dropMask s.keys r.ctx
        grid := { s.grid with last := if s.grid.last = some r.ctx then none else s.grid.last } }
      s.finishSt r St.complete

/-! ### GDDR_LAYOUT (R260) -/

def gddrLayoutCheck (s : State) : Option Record := if s.anyOpen then refuse St.contextOpen else none

/-- GDDR7 contents are undefined (log 4): bytes and poison go. -/
def clearGddr (m : MemSys) : MemSys :=
  { m with mem := Mem.clear m.mem 0 gddrBytes, poison := m.poison.filter fun k => decide (gddrBytes ≤ k * 32) }

/-- GDDR_LAYOUT: after a change every GDDR7 byte is undefined and the poison lists are empty. -/
def gddrLayout (s : State) (r : CmdRef) : State :=
  s.take r 0x0102 fun c =>
    let d : BitVec 6 := BitVec.ofNat 6 (fld c.payload 0 6)
    let s := if d = s.ms.gddrD then s else { s with ms := { clearGddr s.ms with gddrD := d } }
    s.finishSt r St.complete

/-! ### DATA_PUT and DATA_GET (R422) -/

namespace DP
def handle (p : BitVec 384) : Half := BitVec.ofNat 16 (fld p 0 16)
def row (p : BitVec 384) : Nat := fld p 32 32
def rows (p : BitVec 384) : Nat := fld p 64 15
def host (p : BitVec 384) : Dword := BitVec.ofNat 64 (fld p 128 64)
end DP

/-- The entry a data transfer names: a device entry. -/
def dataCap (s : State) (p : BitVec 384) : Cap := capture s none (DP.handle p)

/-- The fault that ends a transfer; DETAIL is the first row not moved. -/
def dataFault (s : State) (c : Cmd) (f : Flt) : State :=
  faultCmd s c f.status f.info (BitVec.ofNat 32 (max (DP.row c.payload) f.info.index))

/-- DATA_PUT: it waits while the entry is being filled (R363, R396). -/
def dataPut (s : State) (r : CmdRef) (host : List Row) : State :=
  s.take r 0x0103 fun c =>
    let k := dataCap s c.payload
    if capWaits s k then s.defer r
    else
      let rows := (List.range (DP.rows c.payload)).map fun i => ((host.getD i 0 : Row), (0 : BitVec 16))
      match accessWrite s (some r.ctx) k none (DP.row c.payload) rows with
      | (none, s) => s.finishSt r St.complete
      | (some f, s) => dataFault s c f

/-- DATA_GET: rows before a failing one have been delivered. -/
def dataGet (s : State) (r : CmdRef) : State :=
  s.take r 0x0104 fun c =>
    let k := dataCap s c.payload
    if capWaits s k then s.defer r
    else
      match accessRead s (some r.ctx) k none (DP.row c.payload) (DP.rows c.payload) with
      | (rows, f, s) =>
        let s := if rows.isEmpty then s else { s with hostOut := s.hostOut ++ [.rows (DP.host c.payload) rows] }
        match f with
        | none => s.finishSt r St.complete
        | some f => dataFault s c f

end Sys2Proof.Machine
end

