-- ==== Sys2Proof/Machine/LinkCtl.lean ====
section
/-!
DEFINITION. Link training and control (R284, R310 to R313), the receiving side of flits (R287 to R289), and links that retrain
or go down (R288, R312).
-/
namespace Sys2Proof.Machine

/-! ### Control messages (R310) -/

namespace MG
def major (m : Dword) : Nat := fld m 8 8
def minor (m : Dword) : Nat := fld m 16 8
def device (m : Dword) : BitVec 20 := BitVec.ofNat 20 (fld m 24 20)
def port (m : Dword) : BitVec 4 := BitVec.ofNat 4 (fld m 44 4)
def half (m : Dword) : BitVec 1 := BitVec.ofNat 1 (fld m 48 1)
def state (m : Dword) : BitVec 3 := BitVec.ofNat 3 (fld m 49 3)
end MG

/-- STATE that this device reports: 0 ready, 1 out of service, 2 not ready (R310, R440, R448). -/
def State.peerCode (s : State) : Nat :=
  match s.host.state with
  | .ready => 0
  | .engineReset => if s.rst.deadbolt then 1 else 0
  | .deadbolt => 1
  | _ => 2

/-- A control message of this device on a link. -/
def controlMsg (s : State) (l : LinkId) (msg : Nat) : Dword :=
  word 64 [(0, 8, msg), (8, 8, 1), (16, 8, 0), (24, 20, (s.fab.devId.map (·.toNat)).getD 0xFFFFF), (44, 4, l.val / 2),
    (48, 1, l.val % 2), (49, 3, s.peerCode)]

def sendControl (s : State) (l : LinkId) (msg : Nat) : State :=
  pushFlits s l [{ lane := 3, bits := flitBits 3 3 false false false 0 (toBytes (controlMsg s l msg) 8) }]

/-- PEER_STATE on every up link (R311). -/
def sendPeerStates (s : State) : State :=
  allLinks.foldl (fun s l => if (s.link l).up then sendControl s l 3 else s) s

/-- DEVICE_STATE changes, and PEER_STATE follows where the reported STATE changes (R311, R403, R410). -/
def changeState (s : State) (d : DevState) : State :=
  let t := setDevState s d
  if t.peerCode = s.peerCode then t else sendPeerStates t

/-! ### Presence and training (R282, R284, R312) -/

/-- A link of this number exists in the split in force (R282). -/
def linkPresent (s : State) (l : LinkId) : Bool := l.val % 2 == 0 || bit s.fab.cfg.split (l.val / 2)

/-- The link domain runs: powered and booted. A device reset holds it only within one step (R451 steps 1 to 3). -/
def State.linkUp (s : State) : Bool := s.mgmtUp && s.mod.booted

/-- A down link attempts training (R312). -/
def trainAttempt (s : State) (l : LinkId) : State :=
  let x := s.link l
  if s.linkUp && linkPresent s l && (x.state == .down || x.state == .mismatch) then
    s.setLink l { x with state := .training, width := 0 }
  else s

/-- Credits of a link that has trained: the whole receive buffer of the peer (R289). -/
def fullCredits : Tab Nat := [(0, laneBuffer 0), (1, laneBuffer 1), (2, laneBuffer 2), (3, laneBuffer 3), (4, laneBuffer 4)]

/-- A link as it enters flit exchange anew: its counters stay (R512). -/
def freshLink (x : Link) : Link :=
  { flitsReplayed := x.flitsReplayed, crcErrors := x.crcErrors, downEvents := x.downEvents, droppedPackets := x.droppedPackets }

/-- Every flit after the last acknowledged is sent again, in order (R287). -/
def replayAll (x : Link) : Link :=
  let (fs, y) := x.replay.foldl (fun (p : List Flit × Link) f =>
    let (b, y) := stampFlit p.2 f.bits (fld f.bits 8 12)
    (p.1 ++ [{ f with bits := b }], y)) ([], x)
  { y with sent := y.sent ++ fs, flitsReplayed := y.flitsReplayed + BitVec.ofNat 64 fs.length }

/-- The width that a link reaches past its failing lanes, 0 for none: half 0 on lanes 0 to 3, half 1 on lanes 4 to 7, and a link of
8 lanes degraded to the clean half, lanes 0 to 3 tried first (R282, R284). -/
def reachedWidth (s : State) (l : LinkId) (failing : Byte) : BitVec 2 :=
  let low := fld failing 0 4 == 0
  let high := fld failing 4 4 == 0
  if bit s.fab.cfg.split (l.val / 2) then
    (if l.val % 2 = 0 then (if low then 1 else 0) else if high then 2 else 0)
  else if low && high then 3 else if low then 1 else if high then 2 else 0

/-- LINK_TRAINED: HELLO is sent (R311); a retrained link resumes after the last acknowledged flit (R288). Without a clean half the link
stays down (R284), and one that retrains goes on retraining. -/
def linkTrained (s : State) (l : LinkId) (failing : Byte) : State :=
  let x := s.link l
  let w := reachedWidth s l failing
  match x.state with
  | .training =>
    if x.width ≠ 0 then s
    else if w = 0 then s.setLink l { freshLink x with state := .down }
    else sendControl (s.setLink l { freshLink x with state := .training, width := w, credits := fullCredits }) l 1
  | .retraining =>
    if w = 0 then s
    else sendControl (s.setLink l (replayAll { x with state := .up, width := w, replays := 0, naked := false, nakOwed := false })) l 1
  | _ => s

/-- Flits cross the link. -/
def Link.exchanging (x : Link) : Bool := x.up || (x.state == .training && x.width != 0)

/-! ### Retraining and loss (R288, R312) -/

/-- The link retrains if it is up. -/
def retrainLink (s : State) (l : LinkId) : State :=
  let x := s.link l
  if x.up then s.setLink l { x with state := .retraining } else s

/-- 128 bits of bytes from a position. -/
def quad (bs : List Byte) (i : Nat) : BitVec 128 := BitVec.ofNat 128 (ofBytes ((bs.drop (16 * i)).take 16))

/-- The packet that bytes hold (R292, R293). -/
def parsePacket (bs : List Byte) : Packet :=
  let h := quad bs 0
  let t : BitVec 4 := BitVec.ofNat 4 (fld h 0 4)
  let n := fld h 60 4
  let wide := t == ptAccumulate || t == ptExchange
  let body := bs.drop (if wide then 48 else 32)
  let rowed := t == ptWrite || t == ptExchange || t == ptResp
  { ptype := t, status := BitVec.ofNat 4 (fld h 4 4), dst := BitVec.ofNat 20 (fld h 8 20), src := BitVec.ofNat 20 (fld h 28 20),
    window := BitVec.ofNat 12 (fld h 48 12), nrows := BitVec.ofNat 4 n, wgen := BitVec.ofNat 16 (fld h 64 16),
    tag := BitVec.ofNat 24 (fld h 80 24), ext1 := quad bs 1, ext2 := if wide then quad bs 2 else 0,
    rows := if rowed then (List.range n).map fun i => BitVec.ofNat 4096 (ofBytes ((body.drop (512 * i)).take 512)) else [],
    blocks := if t = ptAccumulate then (List.range n).map fun i => BitVec.ofNat 3104 (ofBytes ((body.drop (388 * i)).take 388)) else []
    note := if t = ptNotice then BitVec.ofNat 512 (ofBytes (body.take 64)) else 0 }

/-- Payload bytes of a flit (R285). -/
def flitPayload (b : BitVec 2048) : List Byte := toBytes (BitVec.ofNat 1920 (b.toNat >>> 96)) 240

/-- Whole packets among queued flits of one lane, with the link each came in by and the window whose request it answers; flits before the
first SOP belong to a packet that had begun to leave. -/
def queuedPackets : List Flit → List Byte → Bool → List (Option LinkId × Packet × Option Nat)
  | [], _, _ => []
  | f :: t, acc, open' =>
    let isOpen := open' || bit f.bits 5
    if !isOpen then queuedPackets t [] false
    else
      let acc := (if bit f.bits 5 then [] else acc) ++ flitPayload f.bits
      if bit f.bits 6 then (f.via, parsePacket acc, f.retire) :: queuedPackets t [] false else queuedPackets t acc true

/-- Peer's device ID as a LINK_DOWN record gives it (R515). -/
def peerOrNone (x : Link) : Nat := if x.helloed then x.peerId.toNat else 0xFFFFF

/-- A link in service goes down: recorded, its replay buffer discarded, what it has not sent rerouted or answered (R312). -/
def linkDown (s : State) (l : LinkId) : State :=
  let x := s.link l
  let s := bbAppend s 7 none (word 384 [(208, 32, l.val), (256, 20, peerOrNone x)])
  let s := s.setLink l { freshLink x with downEvents := countErr x.downEvents, rx := x.rx }
  let s := (x.tx.filter fun f => f.lane == 0 && fld f.bits 0 2 == 2).foldl (fun s f => countDrop (flitGone s f) f.via) s
  [0, 1, 2, 4].foldl (fun s lane =>
    let q := x.tx.filter fun f => f.lane == lane && fld f.bits 0 2 == 1
    let s := (q.takeWhile fun f => !bit f.bits 5).foldl flitGone s
    (queuedPackets q [] false).foldl (fun s p => dispatchPacket s p.1 p.2.1 p.2.2) s) s

/-- LINK_LOSS (R312): no error while the link is not in service. -/
def linkLoss (s : State) (l : LinkId) : State :=
  let x := s.link l
  if x.usable then linkDown s l
  else if x.state = .training then s.setLink l { freshLink x with state := .down }
  else s

def retrainTimeout (s : State) (l : LinkId) : State := if (s.link l).state = .retraining then linkDown s l else s

/-- 1 ms with unacknowledged flits and no progress (R288). -/
def ackTimeout (s : State) (l : LinkId) : State := if (s.link l).replay.isEmpty then s else retrainLink s l

/-! ### Receiving (R286 to R289) -/

/-- Flits acknowledged by ACK leave the replay buffer. -/
def ackFlits (x : Link) (ack : Nat) : Link :=
  let rest := x.replay.filter fun f => serLater 12 (fld f.bits 8 12) ack
  { x with replay := rest, replays := if rest.length < x.replay.length then 0 else x.replays }

/-- ACK, NAK and credits of a good flit. -/
def applyHeader (x : Link) (b : BitVec 2048) : Link :=
  let x := if bit b 32 then ackFlits x (fld b 20 12) else x
  let lane := fld b 34 3
  let x := if lane ≤ 4 then { x with credits := Tab.set 0 x.credits lane (Tab.get 0 x.credits lane + fld b 37 8) } else x
  if bit b 33 then
    let y := replayAll x
    let y := { y with replays := y.replays + 1 }
    if 8 ≤ y.replays ∧ y.up = true then { y with state := .retraining } else y
  else x

/-- Receive lane of a flit. -/
def flitLane (b : BitVec 2048) : Nat :=
  match fld b 0 2 with
  | 1 => if bit b 4 then 4 else fld b 2 2
  | 2 => 0
  | _ => 3

/-- A flit is discarded: NAK once, until a replay arrives (R287). A good flit whose SEQ is not later than the last one seen since is
of a replay that has itself arrived damaged, which is asked for again (log 138). -/
def discardFlit (x : Link) (seq : Option (BitVec 12)) : Link :=
  if !x.naked then { x with naked := true, nakOwed := true, nakSeen := seq.getD x.rxSeq }
  else
    match seq with
    | none => x
    | some q => if serLater 12 q.toNat x.nakSeen.toNat then { x with nakSeen := q } else { x with nakOwed := true, nakSeen := q }

/-- FLIT_RECEIVE: every code word clean or corrected, and the CRC checked (R287). -/
def flitReceive (s : State) (l : LinkId) (b : BitVec 2048) (clean : Bool) : State :=
  let x := s.link l
  if !x.exchanging then s
  else if !(clean && crcGood b) then (s.setLink l (discardFlit { x with crcErrors := countErr x.crcErrors } none)).pump l
  else
    let x := applyHeader x b
    let x :=
      if fld b 0 2 = 0 then x
      else if fld b 8 12 = x.rxSeq.toNat then
        { x with rxSeq := x.rxSeq + 1, rxAny := true, naked := false, ackOwed := true,
                 rx := Tab.set [] x.rx (flitLane b) (Tab.get [] x.rx (flitLane b) ++ [b]) }
      else discardFlit x (some (BitVec.ofNat 12 (fld b 8 12)))
    (s.setLink l x).pump l

/-- Flits at the head of a receive lane up to the end of the first packet. -/
def headFlits (x : Link) (lane : Nat) : List (BitVec 2048) :=
  let q := Tab.get [] x.rx lane
  match q.findIdx? fun b => bit b 6 with
  | some i => q.take (i + 1)
  | none => []

/-- The packet at the head of a receive lane: packets of one lane arrive and are served in order (R297). -/
def headPacket (x : Link) (lane : Nat) : Option Packet :=
  match headFlits x lane with
  | [] => none
  | b :: t => if fld b 0 2 = 1 ∧ bit b 5 = true then some (parsePacket ((b :: t).flatMap flitPayload)) else none

/-- Flits leave the receive buffer of a lane; the credits of some of them go back (R289). -/
def consumeRx (s : State) (l : LinkId) (lane n freed : Nat) : State :=
  let x := s.link l
  (s.setLink l (freeFlits { x with rx := Tab.set [] x.rx lane ((Tab.get [] x.rx lane).drop n) } lane freed)).pump l

/-- A control message leaves the receive buffer. -/
def consumeControl (s : State) (l : LinkId) : State :=
  if (Tab.get [] (s.link l).rx 3).isEmpty then s else consumeRx s l 3 1 1

/-! ### HELLO, HELLO_ACK, PEER_STATE, RETRAIN (R311, R313) -/

/-- What a message says of the peer. -/
def notePeer (x : Link) (m : Dword) : Link :=
  { x with peerId := MG.device m, peerPort := MG.port m, peerHalf := MG.half m, peerState := MG.state m, helloed := true }

/-- The version two ends share (R311): this device speaks 1.0. -/
def agree (x : Link) (m : Dword) : Link :=
  if MG.major m = 1 then { x with vmajor := 1, vminor := BitVec.ofNat 8 (min 0 (MG.minor m)) } else x

def hello (s : State) (l : LinkId) (m : Dword) : State :=
  let s := consumeControl s l
  let x := s.link l
  if !x.exchanging || fld m 0 8 ≠ 1 then s
  else sendControl (s.setLink l (agree (notePeer x m) m)) l 2

def helloAck (s : State) (l : LinkId) (m : Dword) : State :=
  let s := consumeControl s l
  let x := s.link l
  if !x.exchanging || fld m 0 8 ≠ 2 then s
  else if MG.major m ≠ 1 then s.setLink l { freshLink x with state := .mismatch }
  else if x.up then s
  else sendControl (s.setLink l { agree (notePeer x m) m with state := .up }) l 3

/-- A PEER_STATE of ready also clears the peer's mark (R455). -/
def peerState (s : State) (l : LinkId) (m : Dword) : State :=
  let s := consumeControl s l
  let x := s.link l
  if !x.exchanging || fld m 0 8 ≠ 3 then s
  else
    let s := s.setLink l (notePeer x m)
    if MG.state m = 0 then { s with fab := { s.fab with marks := s.fab.marks.filter fun d => d != (MG.device m).toNat } } else s

def retrainMsg (s : State) (l : LinkId) (m : Dword) : State :=
  let s := consumeControl s l
  if fld m 0 8 = 4 then retrainLink s l else s

end Sys2Proof.Machine
end

