-- ==== Sys2Proof/Machine/WindowOps.lean ====
section
/-!
DEFINITION. Device ID and routes (R299, R300), windows (R304 to R309), requests that arrive (R296, R307), and the remote
commands (R424).
-/
namespace Sys2Proof.Machine

/-! ### DEVICE_ID_SET and ROUTE_WRITE (R299, R300) -/

def deviceIdCheck (s : State) : Option Record := if s.anyOpen then refuse St.contextOpen else none

def deviceIdSet (s : State) (r : CmdRef) : State :=
  s.take r 0x0301 fun c =>
    let p := c.payload
    let s := { s with fab := { s.fab with devId := some (BitVec.ofNat 20 (fld p 0 20)), idBase := BitVec.ofNat 4 (fld p 20 4) } }
    (sendPeerStates s).finishSt r St.complete

/-- The table with the entries of a payload written; entries past the last are none (log 32). -/
def writeRoutes (t : Tab Half) (p : BitVec 384) : Tab Half :=
  (List.range (fld p 16 5)).foldl (fun t n =>
    let i := fld p 0 16 + n
    if i < 65536 then Tab.set 0 t i (BitVec.ofNat 16 (fld p (128 + 16 * n) 12)) else t) t

def routeWrite (s : State) (r : CmdRef) : State :=
  s.take r 0x0302 fun c =>
    ({ s with fab := { s.fab with routes := writeRoutes s.fab.routes c.payload } }).finishSt r St.complete

/-! ### Windows (R304, R305, R308) -/

namespace WP
def window (p : BitVec 384) : Nat := fld p 0 12
def handle (p : BitVec 384) : Half := BitVec.ofNat 16 (fld p 16 16)
def ops (p : BitVec 384) : BitVec 5 := BitVec.ofNat 5 (fld p 32 5)
def genSet (p : BitVec 384) : Bool := bit p 37
def gen (p : BitVec 384) : Half := BitVec.ofNat 16 (fld p 48 16)
end WP

/-- Operations of a window by place (R304). -/
abbrev opWrite : Nat := 0
abbrev opRead : Nat := 1
abbrev opAcc : Nat := 2
abbrev opFadd : Nat := 3
abbrev opExch : Nat := 4

/-- The conditions of R305. -/
def windowOk (s : State) (c : CtxId) (p : BitVec 384) : Bool :=
  let w := s.window (WP.window p)
  let e := s.devEntry (WP.handle p)
  let o := WP.ops p
  w.state == .closed && !(s.starting 0x0303).any (fun q => WP.window q == WP.window p) && DE.valid e && DE.perm e pWIN && DE.tier e != 0 &&
    (!bit o opAcc || (DE.format e == 0x10 && DE.interleave e == 0 && DE.base e % 4096 == 0)) &&
    (!(bit o opWrite || bit o opExch) || DE.perm e pWR) && (!bit o opRead || DE.perm e pRD) &&
    (!bit o opAcc || DE.perm e pACC) && (!bit o opFadd || DE.perm e pFADD) && DE.ctxOk e c &&
    (!WP.genSet p || serLater 16 (WP.gen p).toNat w.gen.toNat)

def windowOpenCheck (s : State) (c : CtxId) (p : BitVec 384) : Option Record :=
  if windowOk s c p then none else refuse St.windowInvalid

/-- A window's generation and the copy of it (R309). -/
def setGen (s : State) (w : Nat) (x : Window) : State :=
  let s := s.setWindow w x
  { s with fab := { s.fab with genCopy := Tab.set 0 s.fab.genCopy w x.gen } }

def windowOpen (s : State) (r : CmdRef) : State :=
  s.take r 0x0303 fun c =>
    let p := c.payload
    let w := s.window (WP.window p)
    let g := if WP.genSet p then WP.gen p else w.gen
    (setGen s (WP.window p) { w with
      state := .opened, ops := WP.ops p, ctx := BitVec.ofNat 8 r.ctx.val, gen := g, handle := WP.handle p, service := g }).finish r
      { result := BitVec.ofNat 64 g.toNat }

def windowCloseCheck (s : State) (p : BitVec 384) : Option Record :=
  let w := s.window (WP.window p)
  if w.state = .opened then none else some { status := St.windowInvalid, result := BitVec.ofNat 64 w.gen.toNat }

/-- WINDOW_CLOSE: the hasp begins. -/
def windowClose (s : State) (r : CmdRef) : State :=
  s.take r 0x0304 fun c =>
    match windowCloseCheck s c.payload with
    | some x => s.finish r x
    | none =>
      let i := WP.window c.payload
      let w := s.window i
      (setGen s i { w with state := .closing, gen := w.gen + 1 }).setPhase r .running

/-- HASP_COMPLETE: the window closes, and its close command completes with the new GEN. -/
def haspComplete (s : State) (i : Nat) : State :=
  let w := s.window i
  if w.state ≠ .closing ∨ w.active ≠ 0 then s
  else
    let s := s.setWindow i { w with state := .closed, service := w.gen }
    { s with cmds := s.cmds.map fun c =>
        if c.opcode = 0x0304 ∧ c.phase = .running ∧ WP.window c.payload = i then
          { c with phase := .done { result := BitVec.ofNat 64 w.gen.toNat } } else c }

/-- The 128 bits of a window (R304). -/
def windowBits (w : Window) : BitVec 128 :=
  word 128 [(0, 2, match w.state with
      | .closed => 0
      | .opened => 1
      | .closing => 2),
    (2, 5, w.ops.toNat), (8, 8, w.ctx.toNat), (16, 16, w.gen.toNat), (32, 16, w.handle.toNat), (48, 17, w.dropped.toNat),
    (65, 24, w.active.toNat)]

def windowStatus (s : State) (r : CmdRef) : State :=
  s.take r 0x0305 fun c =>
    let b := windowBits (s.window (WP.window c.payload))
    s.finish r { result := BitVec.ofNat 64 (fld b 0 64), detail := BitVec.ofNat 32 (fld b 64 32) }

/-! ### Arrivals (R299, R307) -/

/-- The device serves requests: ready, an engine reset included, and not in deadbolt (R307, R440). -/
def State.serving (s : State) : Bool := (s.host.state == .ready || s.host.state == .engineReset) && !s.rst.deadbolt

/-- The payload of a packet is what its type and NROWS say. -/
def packetFits (p : Packet) : Bool :=
  if p.ptype = ptAccumulate then decide (p.blocks.length = p.nrows.toNat)
  else if p.ptype = ptWrite ∨ p.ptype = ptExchange ∨ p.ptype = ptResp then decide (p.rows.length = p.nrows.toNat)
  else true

/-- The packet is the next of its lane, where it comes from: among this device's own packets, or in the receive buffer of a link (R297;
log 13). -/
def packetNext (s : State) (via : Option LinkId) (p : Packet) : Bool :=
  s.linkUp && packetFits p &&
    match via with
    | none => s.fab.loop.find? (fun q => packetLane q == packetLane p) == some p
    | some l => headPacket (s.link l) (packetLane p) == some p

/-- The packet leaves there; of one that is forwarded, as many flits as go on keep their room until they have left (R289, R302). -/
def dropPacket (s : State) (via : Option LinkId) (p : Packet) (kept : Nat) : State :=
  match via with
  | none => { s with fab := { s.fab with loop := dropFirst (fun q => q == p) s.fab.loop } }
  | some l =>
    let n := (headFlits (s.link l) (packetLane p)).length
    consumeRx s l (packetLane p) n (n - kept)

/-- The state once a packet has been taken from where it came. -/
def takePacket (s : State) (via : Option LinkId) (p : Packet) (kept : Nat := 0) : Option State :=
  if packetNext s via p then some (dropPacket s via p kept) else none

/-- A packet of a type for this device arrives; without a device ID it is dropped and counted (R299). -/
def packetArrives (s : State) (via : Option LinkId) (p : Packet) (t : BitVec 4) (f : State → State) : State :=
  if p.ptype ≠ t then s
  else
    match takePacket s via p with
    | none => s
    | some s' => if s'.fab.devId.isNone then countDrop s' via else if s'.ownId p.dst then f s' else s

/-- Answer a request (R296). -/
def answerPacket (s : State) (p : Packet) (status detail : Nat) (word' : Word := 0) (rows : List Row := []) (poison : BitVec 128 := 0) :
    State :=
  dispatchResp s none (response (s.fab.devId.getD 0) p status detail word' rows poison)

/-- Answer an accepted request of a window: it retires when its READ_RESP is sent (R307). -/
def retire (s : State) (p : Packet) (status detail : Nat) (word' : Word := 0) (rows : List Row := []) (poison : BitVec 128 := 0) : State :=
  dispatchResp s none (response (s.fab.devId.getD 0) p status detail word' rows poison) (some p.window.toNat)

/-! ### Checks of a request (R307) -/

namespace PX
def offset (p : Packet) : Nat := fld p.ext1 0 48
def addend (p : Packet) : Nat := fld p.ext1 64 32
def limit (p : Packet) : Nat := fld p.ext1 96 32
end PX

/-- Check 1. -/
def packetFormOk (p : Packet) : Bool :=
  if p.ptype = ptFetchAdd then p.nrows == 0 && PX.addend p != 0 && PX.limit p != 0xFFFFFFFF
  else decide (1 ≤ p.nrows.toNat) && decide (p.nrows.toNat ≤ 8)

/-- Check 5. -/
def packetRangeOk (e : BitVec 256) (p : Packet) : Bool :=
  let o := PX.offset p
  let n := p.nrows.toNat
  if p.ptype = ptFetchAdd then o % 4 == 0 && decide (o / 512 < DE.rows e)
  else if p.ptype = ptAccumulate then
    o % 1024 == 0 && decide (o / 512 + 2 * n ≤ DE.rows e) && decide (o / 4096 = (o + 1024 * n - 1) / 4096)
  else o % 512 == 0 && decide (o / 512 + n ≤ DE.rows e)

/-- The operation a request asks of its window. -/
def packetOp (p : Packet) : Nat :=
  if p.ptype = ptWrite then opWrite else if p.ptype = ptRead then opRead else if p.ptype = ptAccumulate then opAcc
  else if p.ptype = ptFetchAdd then opFadd else opExch

/-- STATUS with which a request is refused, 0 when it is accepted. -/
def requestStatus (s : State) (p : Packet) : Nat :=
  let w := s.window p.window.toNat
  if !packetFormOk p then 10
  else if !s.serving then 7
  else if w.state ≠ .opened ∨ p.wgen ≠ w.gen then 1
  else if !bit w.ops (packetOp p) then 2
  else if !packetRangeOk (s.devEntry w.handle) p then 3
  else 0

/-- The window counts one refusal for a closed window (R304). -/
def countClosed (s : State) (w : Nat) : State := s.setWindow w { s.window w with dropped := countErr (s.window w).dropped }

/-- ACTIVE of a window changes. -/
def setActive (s : State) (w : Nat) (f : BitVec 24 → BitVec 24) : State := s.setWindow w { s.window w with active := f (s.window w).active }

/-- A request with a window: refused with an answer, or accepted and served (R296, R307). -/
def request (s : State) (p : Packet) (serve : BitVec 256 → State → State) : State :=
  let w := p.window.toNat
  match requestStatus s p with
  | 0 =>
    let e := s.devEntry (s.window w).handle
    serve e (setActive s w (· + 1))
  | 1 => answerPacket (countClosed s w) p 1 0
  | n => answerPacket s p n 0

/-! ### Service -/

/-- STATUS of a failed access at the target. -/
def accessStatus (st : Half) : Nat := if st = St.bankGatedRead then 5 else if st = St.cxlPortDown then 8 else 3

/-- Rows written in order: 0, or the STATUS of the first that fails. -/
def windowWrite (e : BitVec 256) : Nat → List Row → State → Nat × State
  | _, [], s => (0, s)
  | j, r :: t, s =>
    match writeRow s (devRowAddr e j) r 0 with
    | (.ok _, s) => windowWrite e (j + 1) t s
    | (.error f, s) => (accessStatus f, s)

/-- Rows read in order. -/
def windowRead (e : BitVec 256) : Nat → Nat → State → Except Nat (List (Row × BitVec 16)) × State
  | _, 0, s => (.ok [], s)
  | j, n + 1, s =>
    match readRow s (devRowAddr e j) with
    | (.error f, s) => (.error (accessStatus f), s)
    | (.ok x, s) =>
      match windowRead e (j + 1) n s with
      | (.ok xs, s) => (.ok (x :: xs), s)
      | (.error n, s) => (.error n, s)

def serveWrite (p : Packet) (e : BitVec 256) (s : State) : State :=
  let (st, s) := windowWrite e (PX.offset p / 512) p.rows s
  retire s p st 0

/-- POISON of a READ_RESP (R295). -/
def poisonBits (xs : List (Row × BitVec 16)) : BitVec 128 :=
  BitVec.ofNat 128 ((xs.zipIdx).foldl (fun a x => a ||| (x.1.2.toNat <<< (16 * x.2))) 0)

def serveRead (p : Packet) (e : BitVec 256) (s : State) : State :=
  match windowRead e (PX.offset p / 512) p.nrows.toNat s with
  | (.ok xs, s) => retire s p 0 0 0 (xs.map (·.1)) (poisonBits xs)
  | (.error st, s) => retire s p st 0

def serveFetchAdd (p : Packet) (e : BitVec 256) (s : State) : State :=
  let o := PX.offset p
  match faddRow s (devRowAddr e (o / 512)) (o % 512 / 4) (PX.addend p) (PX.limit p) with
  | (some v, s) => retire s p 0 0 (BitVec.ofNat 32 v)
  | (none, s) => retire s p 9 0

/-- Blocks of an ACCUMULATE with their addresses (R294). -/
def packetBlocks (p : Packet) (e : BitVec 256) : List (Nat × BitVec 3104) :=
  (p.blocks.zipIdx).map fun b => (devRowAddr e (PX.offset p / 512 + 2 * b.2), b.1)

def serveAccumulate (p : Packet) (e : BitVec 256) (s : State) : State :=
  let (res, s) := accRow s (gradHdr p.ext2) (packetBlocks p e)
  if res = accOk then retire s p 0 0 else if res = accPoisoned then retire s p 9 0 else retire s p 4 res

/-! ### REMOTE_WRITE, REMOTE_READ and REMOTE_FETCH_ADD (R424) -/

namespace RP
def dst (p : BitVec 384) : BitVec 20 := BitVec.ofNat 20 (fld p 0 20)
def window (p : BitVec 384) : BitVec 12 := BitVec.ofNat 12 (fld p 20 12)
def wgen (p : BitVec 384) : Half := BitVec.ofNat 16 (fld p 32 16)
def nrows (p : BitVec 384) : Nat := fld p 48 4
def offset (p : BitVec 384) : Nat := fld p 64 48
def handle (p : BitVec 384) : Half := BitVec.ofNat 16 (fld p 112 16)
def row (p : BitVec 384) : Nat := fld p 128 32
def addend (p : BitVec 384) : Nat := fld p 160 32
def limit (p : BitVec 384) : Nat := fld p 192 32
end RP

/-- The request that a remote command issues. -/
def remotePacket (t : BitVec 4) (p : BitVec 384) (rows : List Row) : Packet :=
  { ptype := t, dst := RP.dst p, src := 0, window := RP.window p, nrows := BitVec.ofNat 4 (RP.nrows p), wgen := RP.wgen p,
    ext1 := if t = ptFetchAdd then word 128 [(0, 48, RP.offset p), (64, 32, RP.addend p), (96, 32, RP.limit p)]
            else word 128 [(0, 48, RP.offset p)],
    rows := rows }

/-- Issue a command's requests; it waits while too many are outstanding (R298). -/
def issueCmd (s : State) (r : CmdRef) (ps : List Packet) : State :=
  if 16384 < s.fab.reqs.length + ps.length then s.defer r
  else
    let (ts, s) := ps.foldl (fun (a : List Nat × State) p =>
      match issueReq a.2 (.cmd r) p with
      | some (t, s) => (a.1 ++ [t], s)
      | none => a) ([], s)
    s.updCmd r fun c => { c with phase := .running, tags := ts }

/-- REMOTE_WRITE: the rows are read and sent in one request. -/
def remoteWrite (s : State) (r : CmdRef) : State :=
  s.take r 0x0306 fun c =>
    let p := c.payload
    let k := capture s none (RP.handle p)
    if capWaits s k then s.defer r
    else
      match accessRead s (some r.ctx) k none (RP.row p) (RP.nrows p) with
      | (rows, none, s) => issueCmd s r [remotePacket ptWrite p rows]
      | (_, some f, s) => faultCmd s c f.status f.info

def remoteFetchAdd (s : State) (r : CmdRef) : State :=
  s.take r 0x0308 fun c => issueCmd s r [remotePacket ptFetchAdd c.payload []]

/-- Rows of a READ_RESP with their poison. -/
def respRows (q : Packet) : List (Row × BitVec 16) :=
  (q.rows.zipIdx).map fun x => (x.1, BitVec.ofNat 16 (fld q.ext1 (16 * x.2) 16))

/-- The rows that a READ has brought are written through the local entry, once no group or exchange fills it (R363, R396, R424). -/
def readDone (s : State) (r : CmdRef) : State :=
  match s.cmd? r with
  | none => s
  | some c =>
    match c.resp with
    | none => s
    | some q =>
      let k := capture s none (RP.handle c.payload)
      if c.phase ≠ .running ∨ capWaits s k = true then s
      else
        let s := s.updCmd r fun c => { c with resp := none }
        match accessWrite s (some c.ring) k none (RP.row c.payload) (respRows q) with
        | (none, s) => s.finishSt r St.complete
        | (some f, s) => faultCmd s c f.status f.info

/-- REMOTE_READ; of a command whose rows wait, it is their next attempt (log 136). -/
def remoteRead (s : State) (r : CmdRef) : State :=
  readDone (s.take r 0x0307 fun c => issueCmd s r [remotePacket ptRead c.payload []]) r

/-- A remote command's response (R424). -/
def remoteDone (s : State) (c : Cmd) (q : Packet) : State :=
  if q.status ≠ 0 then
    s.finish c.ref { status := St.remoteRefused, detail := word 32 [(0, 8, q.status.toNat), (8, 8, fld q.ext1 32 8)] }
  else if c.opcode = 0x0307 then readDone (s.updCmd c.ref fun d => { d with tags := [], resp := some q }) c.ref
  else if c.opcode = 0x0308 then s.finish c.ref { result := BitVec.ofNat 64 (fld q.ext1 0 32) }
  else s.finishSt c.ref St.complete

end Sys2Proof.Machine
end

