-- ==== Sys2Proof/Machine/CollOps.lean ====
section
/-!
DEFINITION. Gradient reduction: collectives and their checks (R315 to R320), arming (R321, R322, R355), the bucket sender
(R324 to R329, R346), verdicts (R330 to R334, R357), scales (R337, R338), rescales (R341, R343) and layout switches (R345).
-/
namespace Sys2Proof.Machine

/-! ### Parts of a collective -/

/-- Bucket k of a collective. -/
def Collective.bucket (c : Collective) (k : Nat) : Bucket := Tab.get {} c.buckets k

/-- Change one bucket of an open collective. -/
def onBucket (s : State) (id k : Nat) (f : Bucket → Bucket) : State :=
  match s.coll id with
  | some c => s.setColl id { c with buckets := Tab.set {} c.buckets k (f (c.bucket k)) }
  | none => s

def updRecord (s : State) (c : Collective) (k : Nat) (f : Dword → Dword) : State := setRecord s c k (f (bucketRecord s c k))

/-- A row of 512 equal bytes 0xFE. -/
def feRow : Row := BitVec.ofNat 4096 (ofBytes (List.replicate 512 0xFE))

/-- Fill a bucket's scale rows with 0xFE (R316, R322). -/
def fillScales (s : State) (c : Collective) (e : BitVec 512) : State :=
  (List.range (BK.scaleRows e)).foldl (fun s j => ctxWrite s c.ctx (devRowAddr (s.devEntry (CD.scale c.desc)) (BK.scaleRow e + j)) feRow) s

/-- Write word k of an entry (R274), where the entry reaches it (log 133). -/
def entryWord (s : State) (h : Half) (k : Nat) (x : Word) : State :=
  if k / 128 < DE.rows (s.devEntry h) then wordWrite s (devRowAddr (s.devEntry h) (k / 128)) (k % 128) x else s

/-- Word k of an entry as firmware reads it, zero where the entry does not reach (log 133). -/
def readWord (s : State) (h : Half) (k : Nat) : Nat := if k / 128 < DE.rows (s.devEntry h) then (fwWord s h k).toNat else 0

/-- This device owns a bucket. -/
def ownsBucket (s : State) (e : BitVec 512) : Bool := s.ownId (BK.owner e)

/-! ### The bucket list (R318 to R320) -/

/-- A valid device entry with permissions. -/
def entryWith (s : State) (h : Half) (perms : List Nat) : Bool := let e := s.devEntry h
                                                                  DE.valid e && perms.all (DE.perm e)

/-- A device entry a context may use. -/
def entryFor (s : State) (c : CtxId) (h : Half) (perms : List Nat) : Bool := entryWith s h perms && DE.ctxOk (s.devEntry h) c

/-- Entry k of a list (R319). -/
def listEntry (s : State) (h : Half) (row k : Nat) : BitVec 512 := fwEntry64 s h row k

/-- The open-time conditions of R320 on entry k of n. -/
def bucketOk (s : State) (d : Row) (members : List (BitVec 20)) (n k : Nat) (e : BitVec 512) : Bool :=
  let full := 2 ^ (CD.bsizeLog2 d - 9)
  let st := s.devEntry (BK.stage e)
  members.contains (BK.owner e) && BK.offset e % 4096 == 0 &&
    (if k + 1 = n then decide (1 ≤ BK.blocks e) && decide (BK.blocks e ≤ full) else BK.blocks e == full) &&
    fld e 116 12 == 0 && fld e 272 240 == 0 && decide (1 ≤ BK.parts e) &&
    decide (BK.scaleRow e + BK.scaleRows e ≤ DE.rows (s.devEntry (CD.scale d))) &&
    entryWith s (BK.stage e) [pRD] && DE.format st == 0x0F && (DE.tier st == 1 || DE.tier st == 2) &&
    decide (BK.stageRow e + BK.blocks e ≤ DE.rows st)

/-- No two buckets share a scale row. -/
def scalesApart : List (BitVec 512) → Bool
  | [] => true
  | e :: t =>
    t.all (fun f => decide (BK.scaleRow e + BK.scaleRows e ≤ BK.scaleRow f) || decide (BK.scaleRow f + BK.scaleRows f ≤ BK.scaleRow e)) &&
      scalesApart t

/-- A list of n entries from a row lies within its entry and meets R320. -/
def listOk (s : State) (d : Row) (members : List (BitVec 20)) (h : Half) (row n : Nat) : Bool :=
  decide (1 ≤ n) && entryWith s h [] && decide (row + ceilDiv n 8 ≤ DE.rows (s.devEntry h)) &&
    (let es := (List.range n).map (listEntry s h row)
     (es.zipIdx).all (fun x => bucketOk s d members n x.2 x.1) && scalesApart es)

/-- The context may use every entry that a list names, an owner's update descriptors among them (R316; log 78). -/
def listFor (s : State) (c : CtxId) (h : Half) (row n : Nat) : Bool :=
  entryFor s c h [] && (List.range n).all fun k =>
    let e := listEntry s h row k
    entryFor s c (BK.stage e) [] && (!ownsBucket s e || BK.update e == 0 || entryFor s c (BK.update e) [])

/-- Words that an entry holds. -/
def entryWords (s : State) (h : Half) : Nat := DE.rows (s.devEntry h) * 128

/-- The entries of a descriptor hold n buckets (R316). -/
def roomFor (s : State) (d : Row) (n : Nat) : Bool :=
  decide (n ≤ entryWords s (CD.ready d)) && decide (n ≤ entryWords s (CD.notice d)) &&
    decide (8 * n ≤ DE.rows (s.devEntry (CD.record d)) * 512)

/-- The buckets of a list, captured. -/
def captureList (s : State) (h : Half) (row n : Nat) : Tab Bucket :=
  (List.range n).foldl (fun t k => Tab.set {} t k { entry := listEntry s h row k }) []

/-! ### COLLECTIVE_OPEN (R316) -/

/-- The row that an open names: handle in [15:0], row in [63:32]. -/
def namedRow (s : State) (p : BitVec 384) : Row := fwRow s (BitVec.ofNat 16 (fld p 0 16)) (fld p 32 32)

/-- The row lies in an entry of the context. -/
def namedRowOk (s : State) (c : CtxId) (p : BitVec 384) : Bool :=
  entryFor s c (BitVec.ofNat 16 (fld p 0 16)) [] && decide (fld p 32 32 < DE.rows (s.devEntry (BitVec.ofNat 16 (fld p 0 16))))

/-- Fields in range and reserved fields zero. -/
def collFieldsOk (d : Row) : Bool :=
  decide (fld d 24 4 ≤ 8) && decide (fld d 28 4 ≤ 8) && (fld d 32 5 == 0 || (decide (20 ≤ fld d 32 5) && decide (fld d 32 5 ≤ 26))) &&
    fld d 38 2 == 0 && decide (1 ≤ CD.members d) && decide (CD.members d ≤ 65536) && fld d 57 7 == 0 && fld d 188 4 == 0 &&
    (fld d 208 16 == 0 || (decide (10 ≤ fld d 208 16) && decide (fld d 208 16 ≤ 60000))) && fld d 240 3856 == 0

/-- The conditions of R316. An open that is accepted and has not started counts as open (R344; log 134). -/
def collOk (s : State) (c : CtxId) (d : Row) : Bool :=
  let ms := memberList s (CD.memberHandle d) (CD.members d)
  let w := s.window (CD.scaleWindow d)
  let opening := (s.starting 0x0401).map fun p => CD.id (namedRow s p)
  (s.coll (CD.id d)).isNone && !opening.contains (CD.id d) && decide (s.colls.length + opening.length < 64) && collFieldsOk d &&
    entryFor s c (CD.memberHandle d) [] && decide (CD.members d ≤ entryWords s (CD.memberHandle d)) && membersOk s (CD.memberHandle d) (CD.members d) &&
    s.fab.devId.any (fun i => ms.contains i) && decide ms.Nodup &&
    entryFor s c (CD.ready d) [pFADD] && DE.tier (s.devEntry (CD.ready d)) == 1 &&
    entryFor s c (CD.notice d) [pFADD] && (DE.tier (s.devEntry (CD.notice d)) == 1 || DE.tier (s.devEntry (CD.notice d)) == 2) &&
    entryFor s c (CD.scale d) [pRD, pWR] && entryFor s c (CD.record d) [pRD, pWR] && roomFor s d (CD.buckets d) &&
    w.state == .opened && bit w.ops opWrite && hIndex w.handle == hIndex (CD.scale d) && w.gen == CD.scaleWgen d &&
    listOk s d ms (CD.list d) 0 (CD.buckets d) && listFor s c (CD.list d) 0 (CD.buckets d)

def collectiveOpenCheck (s : State) (c : CtxId) (p : BitVec 384) : Option Record :=
  if namedRowOk s c p && collOk s c (namedRow s p) then none else refuse St.collectiveInvalid

/-- Every record of a collective is written to zero. -/
def zeroRecords (s : State) (c : Collective) : State := (List.range c.count).foldl (fun s k => setRecord s c k 0) s

/-- Every scale row that the list names is filled with 0xFE. -/
def fillAllScales (s : State) (c : Collective) : State := c.buckets.foldl (fun s b => fillScales s c b.2.entry) s

def collectiveOpen (s : State) (r : CmdRef) : State :=
  s.take r 0x0401 fun c =>
    let d := namedRow s c.payload
    let x : Collective := { desc := d, ctx := r.ctx, epoch := CD.epoch d, count := CD.buckets d,
                            buckets := captureList s (CD.list d) 0 (CD.buckets d) }
    let s := zeroRecords { s with colls := s.colls.filter (fun y => y.1 != CD.id d) ++ [(CD.id d, x)] } x
    (if CD.cal d then fillAllScales s x else s).finishSt r St.complete

/-! ### Slots -/

/-- Slots of an engine that meet a test are released, and programs that wait in them. -/
def dropSlots (g : Engine) (p : BitVec 256 → Bool) : Engine :=
  let gone := (g.slots.filter fun x => p x.2).map (·.1)
  { g with slots := g.slots.filter (fun x => !p x.2), updateQ := g.updateQ.filter fun i => !gone.contains i }

def releaseSlots (s : State) (p : BitVec 256 → Bool) : State :=
  s.engines.foldl (fun s e => s.setEngine e.1 (dropSlots e.2 p)) s

def slotOf (id : Nat) (v : BitVec 256) : Bool := SL.armed v && SL.collective v == id
def slotOfBucket (id k : Nat) (v : BitVec 256) : Bool := slotOf id v && SL.bucket v == k

/-! ### COLLECTIVE_CLOSE (R317) -/

/-- TAGs of the sender's outstanding requests of a collective, those that wait to be resent apart. -/
def senderTags (s : State) (p : Nat → Nat → Bool) : List Nat :=
  (s.fab.reqs.filter fun r => !r.retry && match r.issuer with
    | .bucket _ id k => p id k
    | _ => false).map (·.tag)

/-- Refused packets of a stopped sender are not sent again. -/
def dropRetries (s : State) (p : Nat → Nat → Bool) : State :=
  { s with fab := { s.fab with reqs := s.fab.reqs.filter fun r => !(r.retry && match r.issuer with
      | .bucket _ id k => p id k
      | _ => false) } }

/-- Unsettled buckets: ARMED clear and ABANDONED set. -/
def abandonRecord (r : Dword) : Dword := put (put r 38 1 0) 40 1 1

/-- Close a collective: slots, sender and unsettled records. -/
def closeCollective (s : State) (id : Nat) : State :=
  match s.coll id with
  | none => s
  | some c =>
    let s := releaseSlots s (slotOf id)
    let s := dropRetries s fun i _ => i == id
    let s := (List.range c.count).foldl (fun s k =>
      let r := bucketRecord s c k
      if RC.armed r && RC.verdict r == 0 then setRecord s c k (abandonRecord r) else s) s
    { s with colls := s.colls.filter fun x => x.1 != id }

/-- The fence that a JOB_CLOSE or JOB_FENCE began still waits for runs to end (R456). -/
def fenceWaits (s : State) (c : Cmd) : Bool := (c.opcode == 0x0502 || c.opcode == 0x0704) && s.job.any (·.fencing)

/-- A command whose last awaited request has ended completes (R317, R370, R377, R456); JOB_CLOSE then discards the job. -/
def settleTags (s : State) (r : CmdRef) : State :=
  match s.cmd? r with
  | some c =>
    if c.phase = .running ∧ c.tags.isEmpty = true ∧ c.queue.isEmpty = true ∧ fenceWaits s c = false then
      (if c.opcode = 0x0502 then { s with job := none, arrivals := [] } else s).finishSt r c.bad
    else s
  | none => s

def collectiveCloseCheck (s : State) (p : BitVec 384) : Option Record :=
  if (s.coll (fld p 0 16)).isSome then none else refuse St.collectiveInvalid

def collectiveClose (s : State) (r : CmdRef) : State :=
  s.take r 0x0402 fun c =>
    let id := fld c.payload 0 16
    if (s.coll id).isNone then s.finishSt r St.collectiveInvalid
    else
      let s := closeCollective s id
      let ts := senderTags s fun i _ => i == id
      settleTags (s.updCmd r fun c => { c with phase := .running, tags := ts }) r

/-! ### BUCKET_ARM (R320 to R322, R355) -/

/-- Generation of attempt n at step t, and of a calibration pass, which a rescale raises by 1 (R321, R341, R343). -/
def generation (t n : Nat) (cal : Bool) : Nat := if cal then (4 * t + 65535 + n) % 65536 else (4 * t + n) % 65536

/-- Blocks of a bucket on each engine: engine number and blocks (R320). -/
def engineShares (s : State) (e : BitVec 512) : Tab Nat :=
  let w := s.devEntry (s.window (BK.window e)).handle
  (List.range (ceilDiv (BK.blocks e) 4)).foldl (fun t i =>
    match engineOf s (devRowAddr w (BK.offset e / 512 + 8 * i)) with
    | some g => Tab.set 0 t g (Tab.get 0 t g + min 4 (BK.blocks e - 4 * i))
    | none => t) []

/-- Engine number of an update-capable controller (R1, R404). -/
def updateCapable (g : Nat) : Bool := decide (512 ≤ g) && (g - 512) % 5 == 0

/-- Arm-time conditions of R320 on the owner. -/
def armOk (s : State) (c : Collective) (cal : Bool) (e : BitVec 512) : Bool :=
  let w := s.window (BK.window e)
  let d := s.devEntry w.handle
  let shares := engineShares s e
  w.state == .opened && bit w.ops opAcc && w.gen == BK.wgen e && DE.format d == 0x10 && DE.interleave d == 0 && DE.base d % 4096 == 0 &&
    decide (BK.offset e / 512 + 2 * BK.blocks e ≤ DE.rows d) && shares.all (fun x => decide (CD.members c.desc * x.2 ≤ 2 ^ 24)) &&
    (cal || BK.update e == 0 || (shares.length == 1 && shares.all fun x => updateCapable x.1))

/-- The update descriptor of a bucket passes R279. -/
def programOk (s : State) (ctx : CtxId) (cal : Bool) (e : BitVec 512) : Bool :=
  cal || BK.update e == 0 ||
    (let w := s.devEntry (s.window (BK.window e)).handle
     let lo := devRowAddr w (BK.offset e / 512)
     entryFor s ctx (BK.update e) [] && decide (BK.updateRow e < DE.rows (s.devEntry (BK.update e))) &&
       (engineShares s e).all fun x => updateOk s (x.1 - 512) ctx (fwRow s (BK.update e) (BK.updateRow e)) lo (lo + 1024 * BK.blocks e))

namespace BA
def coll (p : BitVec 384) : Nat := fld p 0 16
def cal (p : BitVec 384) : Bool := bit p 16
def step (p : BitVec 384) : Nat := fld p 32 32
def first (p : BitVec 384) : Nat := fld p 64 32
def count (p : BitVec 384) : Nat := fld p 96 32
end BA

/-- Buckets of an arm with their entries. -/
def armRange (c : Collective) (p : BitVec 384) : List (Nat × BitVec 512) :=
  (List.range (BA.count p)).map fun i => (BA.first p + i, (c.bucket (BA.first p + i)).entry)

/-- The buckets that this device owns of those that an arm names: collective, bucket, entry. -/
def armOwn (s : State) (p : BitVec 384) : List (Nat × Nat × BitVec 512) :=
  match s.coll (BA.coll p) with
  | some c => ((armRange c p).filter fun b => ownsBucket s b.2).map fun b => (BA.coll p, b.1, b.2)
  | none => []

/-- Every engine of the range has slots enough after the arms accepted earlier, whose slots are theirs (R344); those of the buckets' own
earlier attempts count as free (R322). -/
def slotsEnough (s : State) (p : BitVec 384) : Bool :=
  let all := (s.starting 0x0403 ++ [p]).flatMap (armOwn s)
  let need := all.foldl (fun (t : Tab Nat) b => (engineShares s b.2.2).foldl (fun t x => Tab.set 0 t x.1 (Tab.get 0 t x.1 + 1)) t) []
  ((armOwn s p).flatMap fun b => (engineShares s b.2.2).map (·.1)).all fun g =>
    decide (Tab.get 0 need g + (s.engine g).slots.countP (fun v => SL.armed v.2 && !(all.any fun b => slotOfBucket b.1 b.2.1 v.2)) ≤ 128)

/-- An arm accepted earlier and not started names a bucket of the range: it counts as armed (log 134). -/
def armPending (s : State) (p : BitVec 384) : Bool :=
  (s.starting 0x0403).any fun q => BA.coll q == BA.coll p && decide (BA.first q < BA.first p + BA.count p) &&
    decide (BA.first p < BA.first q + BA.count q)

/-- The first refusal of R322. -/
def armRefusal (s : State) (ctx : CtxId) (p : BitVec 384) : Half :=
  match s.coll (BA.coll p) with
  | none => St.bucketInvalid
  | some c =>
    if c.count < BA.first p + BA.count p then St.bucketInvalid
    else
      let bs := armRange c p
      let rs := bs.map fun b => bucketRecord s c b.1
      let own := bs.filter fun b => ownsBucket s b.2
      if rs.any RC.armed || armPending s p then St.bucketInvalid
      else if !BA.cal p && rs.any (fun r => RC.abandoned r || (RC.verdict r != 1 && !(RC.verdict r == 0 && !CD.cal c.desc))) then
        St.scaleNotAgreed
      else if !own.all (fun b => armOk s c (BA.cal p) b.2) then St.bucketInvalid
      else if !own.all (fun b => programOk s ctx (BA.cal p) b.2) then St.updateProgramInvalid
      else if !slotsEnough s p then St.slotsExhausted
      else 0

def bucketArmCheck (s : State) (c : CtxId) (p : BitVec 384) : Option Record :=
  match armRefusal s c p with
  | 0 => none
  | st => refuse st

/-- The record of a bucket at its arm (R322). -/
def armedRecord (t : Nat) (cal own : Bool) : Dword := word 64 [(0, 32, t), (36, 1, b2n cal), (38, 1, 1), (39, 1, b2n own)]

/-- What an arm does at every member. -/
def armMember (s : State) (id k t : Nat) (cal : Bool) : State :=
  match s.coll id with
  | none => s
  | some c =>
    let e := (c.bucket k).entry
    let s := setRecord s c k (armedRecord t cal (ownsBucket s e))
    let s := if cal then fillScales s c e else s
    onBucket (entryWord s (CD.ready c.desc) k 0) id k fun b => { b with awaiting := true, ignored := 0, sending := none, tags := [], refused := 0 }

/-- The first free slot of an engine. -/
def Engine.freeSlot (g : Engine) : Option Nat := (List.range 128).find? fun i => !SL.armed (g.slot i)

/-- An engine's first free slot takes a value. -/
def fillSlot (s : State) (n : Nat) (v : BitVec 256) : State :=
  match (s.engine n).freeSlot with
  | some i => s.setEngine n ((s.engine n).setSlot i v)
  | none => s

/-- Zero the accumulated rows of a bucket (R322, R343). -/
def zeroSum (s : State) (e : BitVec 512) : State :=
  let w := s.devEntry (s.window (BK.window e)).handle
  (List.range (2 * BK.blocks e)).foldl (fun s j => fwWrite s (devRowAddr w (BK.offset e / 512 + j)) 0) s

/-- A slot as an arm fills it (R322). -/
def armedSlot (c : Collective) (id k gen ctx blocks : Nat) (e : BitVec 512) (cal : Bool) : BitVec 256 :=
  word 256 [(0, 1, 1), (16, 16, id), (32, 32, k), (64, 16, gen), (80, 8, c.epoch.toNat), (88, 8, ctx),
    (96, 25, CD.members c.desc * blocks), (160, 16, (CD.notice c.desc).toNat), (176, 32, k),
    (208, 16, if cal then 0 else (BK.update e).toNat), (224, 32, if cal then 0 else BK.updateRow e)]

/-- What an arm does at the owner (R322, R355). -/
def armOwner (s : State) (ctx : CtxId) (id k t : Nat) (cal : Bool) : State :=
  match s.coll id with
  | none => s
  | some c =>
    let e := (c.bucket k).entry
    if !ownsBucket s e then s
    else
      let shares := engineShares s e
      let s := entryWord (zeroSum s e) (CD.notice c.desc) k 0
      let s :=
        if cal || BK.update e == 0 then s
        else
          let a := devRowAddr (s.devEntry (BK.update e)) (BK.updateRow e)
          ctxModify s c.ctx a fun r => put r 96 32 t
      let s := releaseSlots s (slotOfBucket id k)
      let s := shares.foldl (fun s x => fillSlot s x.1 (armedSlot c id k (generation t 0 cal) ctx.val x.2 e cal)) s
      onBucket s id k fun b => { b with armedOwner := true, distributing := false, cleanQ := [], scaleQ := [], scaleTags := [] }

/-- BUCKET_ARM: it waits until the notices of the buckets' previous attempts are acknowledged. A collective that has been closed since
has nothing to arm (log 134). -/
def bucketArm (s : State) (r : CmdRef) : State :=
  s.take r 0x0403 fun c =>
    let p := c.payload
    match s.coll (BA.coll p) with
    | none => s.finishSt r St.bucketInvalid
    | some x =>
      let ks := ((armRange x p).map (·.1)).filter fun k => decide (k < x.count)
      if ks.any fun k => (x.bucket k).distributing || !(x.bucket k).noticeTags.isEmpty || !(x.bucket k).noticeQ.isEmpty then s.defer r
      else
        let s := ks.foldl (fun s k =>
          armOwner (armMember s (BA.coll p) k (BA.step p) (BA.cal p)) r.ctx (BA.coll p) k (BA.step p) (BA.cal p)) s
        s.finishSt r St.complete

/-! ### The bucket sender (R326 to R329) -/

/-- ACCUMULATE packet of blocks from block j of a bucket. -/
def bucketPacket (c : Collective) (id k : Nat) (rec' : Dword) (e : BitVec 512) (j : Nat) (bs : List (BitVec 3104)) : Packet :=
  { ptype := ptAccumulate, dst := BK.owner e, src := 0, window := BitVec.ofNat 12 (BK.window e), nrows := BitVec.ofNat 4 bs.length,
    wgen := BK.wgen e, ext1 := word 128 [(0, 48, BK.offset e + 1024 * j)],
    ext2 := word 128 [(0, 16, id), (16, 32, k), (48, 16, generation (RC.step rec') (RC.rescales rec') (RC.cal rec')),
      (64, 8, c.epoch.toNat), (72, 1, b2n (RC.cal rec')), (80, 32, RC.step rec')],
    blocks := bs }

/-- The staged blocks j to j + n − 1 of a bucket, or the fault of the one that cannot be sent (R97). -/
def stagedBlocks (s : State) (e : BitVec 512) (j : Nat) : Nat → Except Flt (List (BitVec 3104)) × State
  | 0 => (.ok [], s)
  | n + 1 =>
    match stagedBlocks s e j n with
    | (.error f, s) => (.error f, s)
    | (.ok bs, s) =>
      let row := BK.stageRow e + j + n
      match readRow s (devRowAddr (s.devEntry (BK.stage e)) row) with
      | (.error f, s) => (.error ⟨f, { handle := BK.stage e, index := row }⟩, s)
      | (.ok (x, p), s) =>
        if p = 0 then (.ok (bs ++ [BitVec.ofNat 3104 x.toNat]), s)
        else (.error ⟨St.poisonConsumed, { handle := BK.stage e, index := row, aux := firstSector p }⟩, s)

/-- Send one packet of a bucket that is being sent; staged rows wait for a group or exchange that fills their entry (R363, R396). -/
def sendPart (s : State) (id k : Nat) : State :=
  match s.coll id with
  | none => s
  | some c =>
    let b := c.bucket k
    match b.sending with
    | none => s
    | some left =>
      if 16384 ≤ s.fab.reqs.length || capWaits s (capture s none (BK.stage b.entry)) then s
      else
        let j := BK.blocks b.entry - left
        let n := min left 4
        match stagedBlocks s b.entry j n with
        | (.error f, s) => faultCtx (onBucket s id k fun b => { b with sending := none }) (some c.ctx) f
        | (.ok bs, s) =>
          match issueReq s (.bucket c.ctx id k) (bucketPacket c id k (bucketRecord s c k) b.entry j bs) with
          | none => s
          | some (t, s) => onBucket s id k fun b =>
              { b with tags := b.tags ++ [t], sending := if left ≤ n then none else some (left - n) }

/-- Send all that TAGs allow of a bucket. -/
def sendBucket (s : State) (id k : Nat) : State :=
  match (s.coll id).bind fun c => (c.bucket k).sending with
  | some left => (List.range (ceilDiv left 4)).foldl (fun s _ => sendPart s id k) s
  | none => s

/-- READY_WORD_POLL (R325, R341): the sender ignores the claims of a sealed replay (R443). -/
def readyPoll (s : State) (id k : Nat) : State :=
  match s.coll id with
  | none => s
  | some c =>
    let b := c.bucket k
    if k < c.count ∧ b.sending.isSome = true then sendBucket s id k
    else if c.count ≤ k ∨ b.awaiting = false ∨ readWord s (CD.ready c.desc) k - b.ignored < BK.parts b.entry then s
    else
      let s := updRecord s c k fun r => put r 37 1 0
      sendBucket (onBucket s id k fun b => { b with awaiting := false, sending := some (BK.blocks b.entry), tags := [] }) id k

/-- ACCUMULATE at its receiver: matched against the collective, then at the engine (R327). -/
def collAccumulate (p : Packet) (e : BitVec 256) (s : State) : State :=
  let h := gradHdr p.ext2
  match s.coll h.coll with
  | none => retire s p 4 accNotArmed
  | some c => if c.epoch.toNat ≠ h.epoch then retire s p 4 accEpoch else serveAccumulate p e s

/-- The fault of a refused request (R298). -/
def remoteFault (q : Req) (status detail : Nat) : FaultInfo :=
  { aux := status + 16 * detail, dst := q.packet.dst.toNat, window := q.packet.window.toNat, offset := PX.offset q.packet }

/-- The sender's action on an answer (R328); the request has left the table unless it is to be sent again. An answer to a packet of a
sender that has been stopped, or of an older generation, only closes its request (R341, R435, R440). -/
def bucketAnswer (s : State) (q : Req) (id k status detail : Nat) : State :=
  match s.coll id with
  | none => s
  | some c =>
    let done := onBucket s id k fun b => { b with tags := b.tags.filter fun t => t != q.tag }
    if !(c.bucket k).tags.contains q.tag then s
    else if status = 0 then sendBucket done id k
    else if status = 4 ∧ detail = accOver then raiseFault done (some c.ctx) St.bucketOverCount (remoteFault q status detail)
    else if status = 4 ∧ detail = accStale then sendBucket done id k
    else if status = 4 ∧ (detail = accAhead ∨ detail = accEpoch ∨ detail = accNotArmed) then
      { s with fab := { s.fab with reqs := s.fab.reqs ++
          [{ q with retry := true, refusal := detail, interval := if q.interval = 0 then 2 else min 128 (2 * q.interval) }] } }
    else raiseFault done (some c.ctx) St.remoteRefused (remoteFault q status detail)

/-- ACCUMULATE_RETRY: the interval has passed and the packet is sent again. -/
def accRetry (s : State) (tag : Nat) : State :=
  match s.fab.reqs.find? fun q => q.tag == tag && q.retry with
  | none => s
  | some q =>
    dispatchPacket { s with fab := { s.fab with reqs := updFirst (fun (x : Req) => x.tag == tag) (fun x => { x with retry := false }) s.fab.reqs } }
      none q.packet

/-- EPOCH_AHEAD: refused for a millisecond (R346). -/
def epochAhead (s : State) (tag : Nat) : State :=
  match s.fab.reqs.find? fun q => q.tag == tag && q.retry && q.refusal == accEpoch with
  | none => s
  | some q =>
    let s := { s with fab := { s.fab with reqs := s.fab.reqs.filter fun x => x.tag != tag } }
    match q.issuer with
    | .bucket c id k =>
      raiseFault (onBucket s id k fun b => { b with tags := b.tags.filter fun t => t != tag }) (some c) St.epochAhead
        (remoteFault q 4 accEpoch)
    | _ => s

/-! ### BUCKET_WAIT (R334, R357) -/

namespace BW
def coll (p : BitVec 384) : Nat := fld p 0 16
def step (p : BitVec 384) : Nat := fld p 32 32
def bucket (p : BitVec 384) : Nat := fld p 64 32
end BW

/-- The record with which a wait completes now, if it does. -/
def waitOutcome (s : State) (p : BitVec 384) : Option Record :=
  match s.coll (BW.coll p) with
  | none => none
  | some c =>
    let r := bucketRecord s c (BW.bucket p)
    let fl := BitVec.ofNat 8 (RC.uflags r)
    if serLater 32 (RC.step r) (BW.step p) then refuse St.bucketInvalid
    else if RC.step r ≠ BW.step p then none
    else
      match RC.verdict r with
      | 0 => none
      | 1 => some { status := (c.bucket (BW.bucket p)).refused, flags := fl }
      | 2 => some { status := St.wardExhausted, flags := fl }
      | _ => some { status := St.gradientNonfinite, flags := fl }

/-- Complete every wait on a bucket that its record now settles. -/
def wakeWaits (s : State) (id k : Nat) : State :=
  (s.cmds.filter fun c => c.opcode == 0x0404 && c.phase == .running && BW.coll c.payload == id && BW.bucket c.payload == k).foldl
    (fun s c =>
      match waitOutcome s c.payload with
      | some x => s.finish c.ref x
      | none => s) s

def bucketWaitCheck (s : State) (p : BitVec 384) : Option Record :=
  match s.coll (BW.coll p) with
  | none => refuse St.bucketInvalid
  | some c => if c.count ≤ BW.bucket p then refuse St.bucketInvalid else none

def bucketWait (s : State) (r : CmdRef) : State :=
  s.take r 0x0404 fun c =>
    match waitOutcome s c.payload with
    | some x => s.finish r x
    | none => s.setPhase r .running

/-! ### Verdicts (R330 to R332) -/

namespace NT
def code (p : Packet) : Nat := fld p.ext1 0 8
def coll (p : Packet) : Nat := fld p.ext1 16 16
def bucket (p : Packet) : Nat := fld p.ext1 32 32
def gen (p : Packet) : Nat := fld p.ext1 64 16
def epoch (p : Packet) : Nat := fld p.ext1 80 8
def step (p : Packet) : Nat := fld p.ext1 96 32
end NT

/-- A member's record takes a verdict. -/
def settleRecord (s : State) (id k v : Nat) : State :=
  match s.coll id with
  | none => s
  | some c => wakeWaits (updRecord s c k fun r => put (put r 32 2 v) 38 1 0) id k

/-- A byte of a scale row raised (R341). -/
def raiseByte (step b : Nat) : Nat := min 254 (b + step)

/-- The first n bytes of a row changed. -/
def mapRowBytes (r : Row) (n : Nat) (f : Nat → Nat → Nat) : Row :=
  BitVec.ofNat 4096 ((List.range 512).foldl (fun a i =>
    let b := fld r (8 * i) 8
    a ||| ((if i < n then f i b % 256 else b) <<< (8 * i))) 0)

/-- Every scale byte of a bucket is raised. -/
def raiseScales (s : State) (c : Collective) (e : BitVec 512) : State :=
  (List.range (BK.scaleRows e)).foldl (fun s j =>
    let a := devRowAddr (s.devEntry (CD.scale c.desc)) (BK.scaleRow e + j)
    ctxModify s c.ctx a fun r => mapRowBytes r (min 512 (BK.blocks e - 512 * j)) fun _ b => raiseByte (CD.rescaleStep c.desc) b) s

/-- What a member does at a RESCALE (R341). -/
def memberRescale (s : State) (id k : Nat) : State :=
  match s.coll id with
  | none => s
  | some c =>
    let s := raiseScales s c (c.bucket k).entry
    let s := updRecord s c k fun r => put (put r 34 2 (RC.rescales r + 1)) 37 1 1
    onBucket (entryWord s (CD.ready c.desc) k 0) id k fun b => { b with awaiting := true, ignored := 0, sending := none, tags := [] }

/-- A notice to a member (R332). -/
def verdictNotice (c : Collective) (id k code gen : Nat) (r : Dword) (dev : BitVec 20) : Packet :=
  { ptype := ptNotice, dst := dev, src := 0,
    ext1 := word 128 [(0, 8, code), (16, 16, id), (32, 32, k), (64, 16, gen), (80, 8, c.epoch.toNat), (88, 1, b2n (RC.cal r)),
      (96, 32, RC.step r)] }

/-- Members other than this device. -/
def otherMembers (s : State) (c : Collective) : List (BitVec 20) :=
  (memberList s (CD.memberHandle c.desc) (CD.members c.desc)).filter fun m => !s.ownId m

/-- Issue queued packets while TAGs are free: the TAGs, those left, and the state. -/
def issueQueue (i : Issuer) : List Packet → State → List Nat × List Packet × State
  | [], s => ([], [], s)
  | p :: t, s =>
    match issueReq s i p with
    | none => ([], p :: t, s)
    | some (tag, s) =>
      let (ts, left, s) := issueQueue i t s
      (tag :: ts, left, s)

/-- Issue what a bucket's owner has queued. -/
def pumpOwner (s : State) (id k : Nat) : State :=
  match s.coll id with
  | none => s
  | some c =>
    let b := c.bucket k
    let (ts, q, s) := issueQueue (.scale c.ctx id k) b.scaleQ s
    let (us, r, s) := issueQueue (.verdict c.ctx id k) b.noticeQ s
    onBucket s id k fun b => { b with scaleTags := b.scaleTags ++ ts, scaleQ := q, noticeTags := b.noticeTags ++ us, noticeQ := r }

/-- Send a verdict notice to every other member. -/
def sendNotices (s : State) (id k code gen : Nat) : State :=
  match s.coll id with
  | none => s
  | some c =>
    let r := bucketRecord s c k
    pumpOwner (onBucket s id k fun b =>
      { b with noticeQ := b.noticeQ ++ (otherMembers s c).map (verdictNotice c id k code gen r) }) id k

/-! ### Scales after a clean verdict (R338) -/

/-- The next scale of block j: HWE is byte 769 of its accumulated block (R50). -/
def nextScale (s : State) (c : Collective) (e : BitVec 512) (j cur : Nat) : Nat :=
  let w := s.devEntry (s.window (BK.window e)).handle
  let h := fld (fwRead s (devRowAddr w (BK.offset e / 512 + 2 * j + 1))) 2056 8
  if h = 0 then cur else min 254 (h + 1 + CD.ward c.desc)

/-- The bucket's scale rows for the next step. -/
def nextScaleRows (s : State) (c : Collective) (e : BitVec 512) : List Row :=
  (List.range (BK.scaleRows e)).map fun i =>
    let old := fwRead s (devRowAddr (s.devEntry (CD.scale c.desc)) (BK.scaleRow e + i))
    mapRowBytes old 512 fun j b => if 512 * i + j < BK.blocks e then nextScale s c e (512 * i + j) b else 0

/-- Rows cut into pieces of 8 with the index of each first row. -/
def scaleGroups : Nat → Nat → List Row → List (Nat × List Row)
  | 0, _, _ => []
  | _ + 1, _, [] => []
  | f + 1, i, l => (i, l.take 8) :: scaleGroups f (i + 8) (l.drop 8)

/-- Derive and distribute the next scales. -/
def distribute (s : State) (id k : Nat) : State :=
  match s.coll id with
  | none => s
  | some c =>
    let e := (c.bucket k).entry
    let rows := nextScaleRows s c e
    let s := (rows.zipIdx).foldl (fun s x => ctxWrite s c.ctx (devRowAddr (s.devEntry (CD.scale c.desc)) (BK.scaleRow e + x.2)) x.1) s
    let ps := (otherMembers s c).flatMap fun m => (scaleGroups (rows.length + 1) 0 rows).map fun g =>
      ({ ptype := ptWrite, dst := m, src := 0, window := BitVec.ofNat 12 (CD.scaleWindow c.desc), nrows := BitVec.ofNat 4 g.2.length,
         wgen := CD.scaleWgen c.desc, ext1 := word 128 [(0, 48, (BK.scaleRow e + g.1) * 512)], rows := g.2 } : Packet)
    let r := bucketRecord s c k
    let clean := (otherMembers s c).map (verdictNotice c id k 0x10 (generation (RC.step r) (RC.rescales r) (RC.cal r)) r)
    pumpOwner (onBucket s id k fun b => { b with distributing := true, scaleQ := ps, cleanQ := clean }) id k

/-- SCALE_DISTRIBUTION_DONE: every scale write is acknowledged, so VERDICT_CLEAN goes out. -/
def distributionDone (s : State) (id k : Nat) : State :=
  match s.coll id with
  | none => s
  | some c =>
    let b := c.bucket k
    if !b.distributing then s
    else if !b.scaleQ.isEmpty then pumpOwner s id k
    else if !b.scaleTags.isEmpty then s
    else pumpOwner (onBucket s id k fun b => { b with distributing := false, noticeQ := b.noticeQ ++ b.cleanQ, cleanQ := [] }) id k

/-- A scale write failed: the owner abandons the distribution. -/
def distributionFailed (s : State) (id k : Nat) (q : Req) (st : Half) (status detail : Nat) : State :=
  match s.coll id with
  | none => s
  | some c =>
    if !(c.bucket k).distributing then s
    else
      let s := updRecord s c k fun r => put r 40 1 1
      raiseFault (onBucket s id k fun b => { b with distributing := false, cleanQ := [], scaleQ := [], scaleTags := [] }) (some c.ctx) st
        (remoteFault q status detail)

/-! ### The owner's verdict (R330, R343) -/

/-- The slots of a bucket with their engines. -/
def bucketSlots (s : State) (id k : Nat) : List (Nat × Nat × BitVec 256) :=
  s.engines.flatMap fun e => (e.2.slots.filter fun v => slotOfBucket id k v.2).map fun v => (e.1, v.1, v.2)

/-- Re-arm a bucket for the next generation. -/
def rearm (s : State) (id k : Nat) : State :=
  match s.coll id with
  | none => s
  | some c =>
    let s := entryWord (zeroSum s (c.bucket k).entry) (CD.notice c.desc) k 0
    (bucketSlots s id k).foldl (fun s x =>
      let v := put (put (put x.2.2 1 3 0) 128 25 0) 64 16 (SL.gen x.2.2 + 1)
      s.setEngine x.1 ((s.engine x.1).setSlot x.2.1 v)) s

/-- NOTICE_WORD_POLL: a complete bucket gets its verdict. -/
def noticePoll (s : State) (id k : Nat) : State :=
  match s.coll id with
  | none => s
  | some c =>
    let b := c.bucket k
    let slots := bucketSlots s id k
    let n := readWord s (CD.notice c.desc) k
    if c.count ≤ k ∨ b.armedOwner = false ∨ n % 65536 ≠ slots.length then s
    else
      let r := bucketRecord s c k
      let gen := generation (RC.step r) (RC.rescales r) (RC.cal r)
      let beyond := onBucket s id k fun b => { b with armedOwner := false }
      if n / 65536 = 0 then distribute (settleRecord beyond id k 1) id k
      else if slots.any fun x => SL.nf x.2.2 then sendNotices (settleRecord beyond id k 3) id k 0x13 gen
      else if RC.rescales r < 3 then
        memberRescale (sendNotices (rearm s id k) id k 0x11 ((gen + 1) % 65536)) id k
      else sendNotices (settleRecord beyond id k 2) id k 0x12 gen

/-- An answer to a verdict notice: a refused one faults the context (R330). -/
def noticeAnswer (s : State) (q : Req) (id k status detail : Nat) : State :=
  match s.coll id with
  | none => s
  | some c =>
    let s := onBucket s id k fun b => { b with noticeTags := b.noticeTags.filter fun t => t != q.tag }
    if status = 0 then pumpOwner s id k else raiseFault s (some c.ctx) St.remoteRefused (remoteFault q status detail)

/-- An answer to a scale write. -/
def scaleAnswer (s : State) (q : Req) (id k status detail : Nat) : State :=
  if status ≠ 0 then distributionFailed s id k q St.remoteRefused status detail
  else pumpOwner (onBucket s id k fun b => { b with scaleTags := b.scaleTags.filter fun t => t != q.tag }) id k

/-- A notice concerns an attempt in progress here (log 33). -/
def noticeApplies (s : State) (p : Packet) : Bool :=
  (s.coll (NT.coll p)).any fun c =>
    let r := bucketRecord s c (NT.bucket p)
    decide (NT.bucket p < c.count) && RC.armed r && RC.step r == NT.step p && c.epoch.toNat == NT.epoch p

/-- A notice reaches firmware: checks 1 and 2 of R307, then its effect, then its answer (R296). -/
def takeNotice (s : State) (p : Packet) (act : State → State) : State :=
  if p.nrows ≠ 0 then answerPacket s p 10 0
  else if !s.serving then answerPacket s p 7 0
  else answerPacket (act s) p 0 0

/-- A verdict notice arrives at a member. -/
def verdictArrives (s : State) (via : Option LinkId) (p : Packet) (code v : Nat) : State :=
  if NT.code p ≠ code then s
  else packetArrives s via p ptNotice fun s =>
    takeNotice s p fun s => if noticeApplies s p then settleRecord s (NT.coll p) (NT.bucket p) v else s

/-- A RESCALE arrives at a member. -/
def rescaleArrives (s : State) (via : Option LinkId) (p : Packet) : State :=
  if NT.code p ≠ 0x11 then s
  else packetArrives s via p ptNotice fun s =>
    takeNotice s p fun s => if noticeApplies s p then memberRescale s (NT.coll p) (NT.bucket p) else s

/-! ### Waits that run out (R435) -/

/-- Abandon a bucket at this member. -/
def abandonBucket (s : State) (id k : Nat) : State :=
  match s.coll id with
  | none => s
  | some c => onBucket (updRecord s c k abandonRecord) id k fun b => { b with awaiting := false }

/-- The BUCKET_WAIT in progress on a bucket. -/
def waitingCmd (s : State) (id k : Nat) : Option Cmd :=
  s.cmds.find? fun c => c.opcode == 0x0404 && c.phase == .running && BW.coll c.payload == id && BW.bucket c.payload == k

/-- A BUCKET_WAIT ends at its wait: the fault is the collective's context's, and the command reports it (R435; log 135). -/
def waitFault (s : State) (c : Collective) (d : Cmd) : State :=
  if c.ctx = d.ring then faultCmd s d St.collectiveWaitTimeout
  else
    let ref := s.nextRef
    (raiseFault s (some c.ctx) St.collectiveWaitTimeout).finish d.ref { status := St.collectiveWaitTimeout, faultRef := ref }

/-- One of the four waits passes WAIT_MS. -/
def collWaitExpired (s : State) (id k : Nat) (w : CollWait) : State :=
  match s.coll id with
  | none =>
    match w with
    | .bucketWait =>
      match waitingCmd s id k with
      | some c => faultCmd s c St.collectiveWaitTimeout
      | none => s
    | _ => s
  | some c =>
    let b := c.bucket k
    if c.count ≤ k then s
    else
      match w with
      | .senderRetry =>
        if s.fab.reqs.any fun q => q.retry && q.issuer == .bucket c.ctx id k && q.refusal != accEpoch then
          let s := dropRetries (abandonBucket s id k) fun i j => i == id && j == k
          raiseFault (onBucket s id k fun b => { b with sending := none, tags := [] }) (some c.ctx) St.collectiveWaitTimeout
        else s
      | .ownerCompletion =>
        if b.armedOwner && (bucketSlots s id k).any (fun x => SL.count x.2.2 != 0) then
          let s := releaseSlots (abandonBucket s id k) (slotOfBucket id k)
          raiseFault (onBucket s id k fun b => { b with armedOwner := false }) (some c.ctx) St.collectiveWaitTimeout
        else s
      | .memberVerdict =>
        if RC.armed (bucketRecord s c k) && !b.awaiting && b.sending.isNone && b.tags.isEmpty then
          raiseFault (abandonBucket s id k) (some c.ctx) St.collectiveWaitTimeout
        else s
      | .bucketWait =>
        match waitingCmd s id k with
        | some d => waitFault (abandonBucket s id k) c d
        | none => s

/-! ### LAYOUT_SWITCH (R345) -/

namespace LS
def coll (p : BitVec 384) : Nat := fld p 0 16
def epoch (p : BitVec 384) : Byte := BitVec.ofNat 8 (fld p 16 8)
def cal (p : BitVec 384) : Bool := bit p 24
def list (p : BitVec 384) : Half := BitVec.ofNat 16 (fld p 32 16)
def row (p : BitVec 384) : Nat := fld p 64 32
def count (p : BitVec 384) : Nat := fld p 96 32
end LS

/-- The new list keeps BUCKETS, BLOCKS and SCALE_ROW. -/
def sameShape (s : State) (c : Collective) (p : BitVec 384) : Bool :=
  LS.count p == c.count && (List.range c.count).all fun k =>
    let e := listEntry s (LS.list p) (LS.row p) k
    BK.blocks e == BK.blocks (c.bucket k).entry && BK.scaleRow e == BK.scaleRow (c.bucket k).entry

/-- R345 names these cases alone; words and records that the descriptor's entries do not reach stay unwritten (log 133). -/
def layoutSwitchCheck (s : State) (p : BitVec 384) : Option Record :=
  match s.coll (LS.coll p) with
  | none => refuse St.bucketInvalid
  | some c =>
    if c.epoch ≠ LS.epoch p ∧
        listOk s c.desc (memberList s (CD.memberHandle c.desc) (CD.members c.desc)) (LS.list p) (LS.row p) (LS.count p) = true ∧
        (LS.cal p = true ∨ sameShape s c p = true) then none
    else refuse St.bucketInvalid

def layoutSwitch (s : State) (r : CmdRef) : State :=
  s.take r 0x0405 fun c =>
    match s.coll (LS.coll c.payload) with
    | none => s.finishSt r St.bucketInvalid
    | some x =>
      if x.switch.isSome then s.defer r
      else (s.setColl (LS.coll c.payload) { x with switch := some r }).setPhase r .running

/-- A distribution in progress goes on across the switch (R338, R345). -/
def keepDistributions (old new : Tab Bucket) : Tab Bucket :=
  old.foldl (fun t b =>
    if b.2.distributing then
      Tab.set {} t b.1 { Tab.get {} t b.1 with distributing := true, scaleQ := b.2.scaleQ, scaleTags := b.2.scaleTags, cleanQ := b.2.cleanQ }
    else t) new

/-- LAYOUT_SWITCH_EFFECT: no bucket is armed and every notice sent is acknowledged. -/
def layoutEffect (s : State) (id : Nat) : State :=
  match s.coll id with
  | none => s
  | some c =>
    match c.switch.bind fun r => s.cmd? r with
    | none => s
    | some cmd =>
      let p := cmd.payload
      if (List.range c.count).any (fun k => RC.armed (bucketRecord s c k)) ||
          c.buckets.any (fun b => !b.2.noticeTags.isEmpty || !b.2.noticeQ.isEmpty) then s
      else
        let s := releaseSlots s (slotOf id)
        let c := { c with epoch := LS.epoch p, count := LS.count p, switch := none,
                          buckets := keepDistributions c.buckets (captureList s (LS.list p) (LS.row p) (LS.count p)) }
        let s := s.setColl id c
        let s := if LS.cal p then zeroRecords (fillAllScales s c) c else s
        s.finishSt cmd.ref St.complete

end Sys2Proof.Machine
end

