-- ==== Sys2Proof/Machine/GatherOps.lean ====
section
/-!
DEFINITION. The gather engine (R361 to R367).
-/
namespace Sys2Proof.Machine

/-- Fault of a list entry of a run: its DETAIL names the entry (R421). -/
def faultEntry (s : State) (c : CtxId) (e : Nat) (f : Flt) : State := raiseFault s (some c) f.status f.info (BitVec.ofNat 32 e)

/-- READs whose rows waited on an entry go on (R363, R396). -/
def releaseReads (s : State) : State :=
  (s.cmds.filter fun c => c.resp.isSome).foldl (fun s c => readDone s c.ref) s

/-- What waited on an entry goes on (R363, R396), and a run that waited for its last entry ends. -/
def entryReleased (s : State) (c : CtxId) : State :=
  settleRun (allCores.foldl (fun s i => if (s.core i).tile.isSome then pumpTile s i else s) (releaseReads s)) c

/-- Change a gather group of a run. -/
def onGroup (s : State) (c : CtxId) (g : Nat) (f : GatherGroup → GatherGroup) : State :=
  match (s.ctx c).run with
  | some r => s.setRun c { r with gathers := (r.gathers.zipIdx).map fun x => if x.2 = g then f x.1 else x.1 }
  | none => s

/-- Change one piece of a group. -/
def onPiece (s : State) (c : CtxId) (g p : Nat) (f : GatherPiece → GatherPiece) : State :=
  onGroup s c g fun x => { x with pieces := (x.pieces.zipIdx).map fun y => if y.2 = p then f y.1 else y.1 }

/-- Group and piece of a run. -/
def getPiece (s : State) (c : CtxId) (g p : Nat) : Option (GatherGroup × GatherPiece) :=
  match (s.ctx c).run with
  | some r =>
    match r.gathers[g]? with
    | some x => (x.pieces[p]?).map fun y => (x, y)
    | none => none
  | none => none

/-! ### Groups and their checks (R361) -/

/-- The entries of the group that begins at entry e; none where the list ends before LAST. -/
def groupEntries (s : State) (h : Half) (row : Nat) : Nat → Nat → Option (List (BitVec 512))
  | 0, _ => none
  | n + 1, e =>
    let x := fwEntry64 s h row e
    if GLE.last x then some [x] else (groupEntries s h row n (e + 1)).map fun t => x :: t

/-- A piece's own fields are in range. -/
def pieceOk (x : BitVec 512) : Bool :=
  decide (1 ≤ GLE.rows x) && GLE.offset x % 512 == 0 && GLE.hdrOffset x % 512 == 0 &&
    (GLE.waitMs x == 0 || (decide (10 ≤ GLE.waitMs x) && decide (GLE.waitMs x ≤ 60000)))

/-- Two pieces share no row of the buffer. -/
def piecesApart : List (BitVec 512) → Bool
  | [] => true
  | x :: t =>
    t.all (fun y => decide (GLE.dstRow x + GLE.rows x ≤ GLE.dstRow y) || decide (GLE.dstRow y + GLE.rows y ≤ GLE.dstRow x)) && piecesApart t

def groupOk (s : State) (c : CtxId) (es : List (BitVec 512)) : Bool :=
  match es with
  | [] => false
  | x :: _ =>
    es.all (fun y => GLE.dst y == GLE.dst x && GLE.start y == GLE.start x && GLE.mode y == GLE.mode x && pieceOk y) && piecesApart es &&
      entryFor s c (GLE.dst x) [pRD, pWR]

/-! ### READs -/

def readPacket (dst : BitVec 20) (w : BitVec 12) (gen : Half) (off n : Nat) : Packet :=
  { ptype := ptRead, dst := dst, src := 0, window := w, nrows := BitVec.ofNat 4 n, wgen := gen, ext1 := word 128 [(0, 48, off)] }

/-- Ask for a piece's shard header; it is asked again later where no TAG is free. -/
def askHeader (s : State) (c : CtxId) (g p : Nat) : State :=
  match getPiece s c g p with
  | none => s
  | some (_, x) =>
    match issueReq s (.gatherHdr c g p) (readPacket (GLE.owner x.entry) (GLE.hdrWindow x.entry) (GLE.hdrWgen x.entry) (GLE.hdrOffset x.entry) 1) with
    | none => onPiece s c g p fun x => { x with backoff := some 0 }
    | some (t, s) => onPiece s c g p fun x => { x with asking := true, backoff := none, tags := [t] }

/-- Ask for rows of a piece, 8 at a time, while TAGs are free. -/
def askRows (c : CtxId) (g p : Nat) : Nat → State → State
  | 0, s => s
  | n + 1, s =>
    match getPiece s c g p with
    | none => s
    | some (_, x) =>
      let left := GLE.rows x.entry - x.asked
      let m := min 8 left
      if left = 0 then s
      else
        match issueReq s (.gatherRow c g p x.asked) (readPacket (GLE.owner x.entry) (GLE.window x.entry) (GLE.wgen x.entry)
            (GLE.offset x.entry + 512 * x.asked) m) with
        | none => s
        | some (t, s) => askRows c g p n (onPiece s c g p fun x => { x with asked := x.asked + m, tags := x.tags ++ [t] })

/-- Rows still wanted are asked for; when every row has arrived, the header is read once more. -/
def pumpPiece (s : State) (c : CtxId) (g p : Nat) : State :=
  match getPiece s c g p with
  | none => s
  | some (_, x) =>
    let s := askRows c g p (ceilDiv (GLE.rows x.entry - x.asked) 8) s
    match getPiece s c g p with
    | some (_, x) => if x.asked = GLE.rows x.entry ∧ x.tags.isEmpty = true then askHeader s c g p else s
    | none => s

/-! ### Commands of the engine -/

/-- The run's lists are worked on: it is not stopped, and no sealed replay (R429, R443). -/
def listLive (s : State) (c : CtxId) (r : RunSt) : Bool := (s.ctx c).fault.isNone && r.stop.isNone && !s.sealed (some c)

/-- GATHER_GROUP_START (R362): the entries of the list are read under R92 (R81). -/
def gatherStart (s : State) (c : CtxId) : State :=
  match (s.ctx c).run with
  | none => s
  | some r =>
    let p := r.payload
    let e := r.gatherNext
    let x := fwEntry64 s (RUN.glHandle p) (RUN.glRow p) e
    if !listLive s c r || decide (RUN.glCount p ≤ e) || decide (r.begun ≤ GLE.start x) ||
        decide (4 ≤ r.gathers.countP fun g => !g.complete) then s
    else
      let es := (groupEntries s (RUN.glHandle p) (RUN.glRow p) (RUN.glCount p - e) e).getD []
      let again := GLE.mode x
      let i := hIndex (GLE.dst x)
      let first := RUN.glRow p + e / 8
      let (_, f, s) := accessRead s (some c) (capture s none (RUN.glHandle p)) none first (RUN.glRow p + (e + max 1 es.length - 1) / 8 - first + 1)
      if f.isSome then faultEntry s c e (f.getD ⟨0, {}⟩)
      else if !groupOk s c es then faultEntry s c e ⟨St.gatherListInvalid, { handle := GLE.dst x, index := e }⟩
      else if again ∧ DE.epochValid (s.key i) = false then faultEntry s c e ⟨St.shardEpochChanged, { handle := GLE.dst x, index := e }⟩
      else
        let g := r.gathers.length
        let group : GatherGroup := { first := e, dst := GLE.dst x, regather := again, pieces := es.map fun y => { entry := y } }
        let r := ((s.ctx c).run).getD r
        let s := s.setRun c { r with gatherNext := e + es.length, gathers := r.gathers ++ [group] }
        let s := if again then s else s.setKey i (put (s.key i) 144 1 0)
        (List.range es.length).foldl (fun s p => askHeader s c g p) s

/-- The first header read of a piece allows its rows, must be repeated, or faults (R364, R365). -/
inductive HeaderView where
  | good
  | again
  | bad (status : Half)

def viewHeader (s : State) (g : GatherGroup) (x : GatherPiece) (h : Row) : HeaderView :=
  if g.regather then
    if SH'.updating h || SH'.inconsistent h || SH'.step h != DE.epoch (s.key (hIndex g.dst)) then .bad St.shardEpochChanged
    else if SH'.hver h ≠ 1 then .bad St.gatherShardInconsistent
    else .good
  else if x.headerOk then
    if SH'.step h = GLE.expect x.entry ∧ SH'.updating h = false then .good else .bad St.shardEpochAhead
  else if SH'.hver h ≠ 1 ∨ SH'.inconsistent h = true then .bad St.gatherShardInconsistent
  else if serLater 32 (SH'.step h) (GLE.expect x.entry) || serUnordered 32 (SH'.step h) (GLE.expect x.entry) then .bad St.shardEpochAhead
  else if SH'.step h ≠ GLE.expect x.entry ∨ SH'.updating h = true then .again
  else .good

/-- Place of a piece in its list. -/
def pieceIndex (g : GatherGroup) (p : Nat) : Nat := g.first + p

/-- An answer to a header read. -/
def headerAnswer (s : State) (q : Req) (c : CtxId) (g p : Nat) (a : Packet) : State :=
  match getPiece s c g p with
  | none => s
  | some (gr, x) =>
    if !x.tags.contains q.tag then s
    else
      let e := pieceIndex gr p
      let s := onPiece s c g p fun x => { x with tags := [], asking := false }
      if a.status ≠ 0 then faultEntry s c e ⟨St.remoteRefused, remoteFault q a.status.toNat (fld a.ext1 32 8)⟩
      else if fld a.ext1 0 16 ≠ 0 then
        faultEntry s c e ⟨St.poisonConsumed, { handle := gr.dst, index := e, aux := firstSector (BitVec.ofNat 16 (fld a.ext1 0 16)) }⟩
      else
        match viewHeader s gr x (a.rows.headD 0) with
        | .bad st => faultEntry s c e ⟨st, { handle := gr.dst, index := e }⟩
        | .again =>
          onPiece s c g p fun y => { y with backoff := some (match x.backoff with
            | none => 2
            | some i => if i = 0 then 2 else min 128 (2 * i)) }
        | .good =>
          if x.headerOk then onPiece s c g p fun y => { y with complete := true }
          else pumpPiece (onPiece s c g p fun y => { y with headerOk := true, backoff := none }) c g p

/-- An answer to a row read: the rows are written, poisoned as they arrive (R366). -/
def rowAnswer (s : State) (q : Req) (c : CtxId) (g p row : Nat) (a : Packet) : State :=
  match getPiece s c g p with
  | none => s
  | some (gr, x) =>
    if !x.tags.contains q.tag then s
    else
      let e := pieceIndex gr p
      let s := onPiece s c g p fun x => { x with tags := x.tags.filter fun t => t != q.tag }
      if a.status ≠ 0 then faultEntry s c e ⟨St.remoteRefused, remoteFault q a.status.toNat (fld a.ext1 32 8)⟩
      else
        match accessWrite s (some c) (capture s none gr.dst) none (GLE.dstRow x.entry + row) (respRows a) with
        | (some f, s) => faultEntry s c e f
        | (none, s) => pumpPiece s c g p

/-- Group and piece of a list entry. -/
def findPiece (s : State) (c : CtxId) (e : Nat) : Option (Nat × Nat) :=
  match (s.ctx c).run with
  | none => none
  | some r =>
    ((r.gathers.zipIdx).find? fun x => decide (x.1.first ≤ e) && decide (e < x.1.first + x.1.pieces.length)).map fun x =>
      (x.2, e - x.1.first)

/-- GATHER_HEADER_RETRY: the interval has passed. -/
def headerRetry (s : State) (c : CtxId) (e : Nat) : State :=
  match findPiece s c e with
  | none => s
  | some (g, p) =>
    match getPiece s c g p with
    | some (_, x) =>
      if x.backoff.isSome && !x.asking && !x.complete then
        match issueReq s (.gatherHdr c g p) (readPacket (GLE.owner x.entry) (GLE.hdrWindow x.entry) (GLE.hdrWgen x.entry) (GLE.hdrOffset x.entry) 1) with
        | none => s
        | some (t, s) => onPiece s c g p fun x => { x with asking := true, tags := [t] }
      else s
    | none => s

/-- GATHER_TIMEOUT: WAIT_MS has passed from the first header read without success. -/
def gatherTimeout (s : State) (c : CtxId) (e : Nat) : State :=
  match findPiece s c e with
  | none => s
  | some (g, p) =>
    match getPiece s c g p with
    | some (gr, x) =>
      if !gr.regather && !x.headerOk then faultEntry s c e ⟨St.gatherTimeout, { handle := gr.dst, index := e }⟩ else s
    | none => s

/-- GATHER_GROUP_COMPLETE: a forward group records the epoch of its last piece (R364; log 34). -/
def gatherComplete (s : State) (c : CtxId) (g : Nat) : State :=
  match (s.ctx c).run with
  | none => s
  | some r =>
    match r.gathers[g]? with
    | none => s
    | some x =>
      if x.complete || !x.pieces.all (·.complete) || !listLive s c r then s
      else
        let i := hIndex x.dst
        let ep := ((x.pieces.getLast?).map fun p => GLE.expect p.entry).getD 0
        let s := if x.regather then s else s.setKey i (put (put (s.key i) 160 32 ep) 144 1 1)
        entryReleased (onGroup s c g fun y => { y with complete := true }) c

end Sys2Proof.Machine
end

