-- ==== Sys2Proof/Machine/ExchOps.lean ====
section
/-!
DEFINITION. The token exchange units (R385 to R398).

What a unit computes from routing entries, placements, count rows and grant rows it computes anew from those rows whenever it
needs it (R398).
-/
namespace Sys2Proof.Machine

/-! ### Headers -/

/-! Exchange header (R389) -/

namespace XH
def job (p : Packet) : Nat := fld p.ext2 0 16
def group (p : Packet) : Nat := fld p.ext2 16 4
def phase (p : Packet) : Nat := fld p.ext2 20 2
def xkind (p : Packet) : Nat := fld p.ext2 22 2
def round (p : Packet) : Nat := fld p.ext2 24 1
def dseq (p : Packet) : Half := BitVec.ofNat 16 (fld p.ext2 32 16)
def token (p : Packet) : Nat := fld p.ext2 48 20
def choice (p : Packet) : Nat := fld p.ext2 68 3
def alt (p : Packet) : Nat := fld p.ext2 71 1
def slot (p : Packet) : Nat := fld p.ext2 72 6
def pos (p : Packet) : Nat := fld p.ext2 80 20
end XH

/-! Fields of an EXCHANGE_READY notice (R375) -/

namespace XN
def xkind (p : Packet) : Nat := fld p.ext1 9 2
def job (p : Packet) : Nat := fld p.ext1 16 16
def group (p : Packet) : Nat := fld p.ext1 32 4
def seq (p : Packet) : Nat := fld p.ext1 64 32
end XN

/-- One assignment: token, choice, expert, sent to the alternate, and where it was placed. -/
structure Asg where
  token : Nat
  choice : Nat
  expert : Nat
  alt : Bool := false
  member : Nat := 0
  slot : Nat := 0
  pos : Nat := 0
  deriving DecidableEq, Repr

/-! ### The job's groups -/

/-- The group of a number in the open job. -/
def State.group (s : State) (n : Nat) : Option Group := s.job.bind fun j => j.groups.find? fun g => GP.number g.entry == n

/-- Members of a group in rank order. -/
def groupMembers (s : State) (g : Group) : List (BitVec 20) := memberList s (GP.memberHandle g.entry) (GP.members g.entry)

/-- Rank of a device in a list. -/
def rankOf (ms : List (BitVec 20)) (d : BitVec 20) : Option Nat := ms.findIdx? fun m => m == d

/-- Members of a descriptor's expert group; none without one. -/
def exchMembers (s : State) (d : Row) : List (BitVec 20) :=
  match s.group (XD.group d) with
  | some g => if GP.kind g.entry = 3 then groupMembers s g else []
  | none => []

/-- This device's index among them. -/
def ownRank (s : State) (ms : List (BitVec 20)) : Nat := (rankOf ms (s.fab.devId.getD 0)).getD 0

/-! ### Routing and placement (R387) -/

def routeEntry (s : State) (d : Row) (t : Nat) : BitVec 256 := BitVec.ofNat 256 (fld (fwRow s (XD.route d) (t / 16)) (256 * (t % 16)) 256)

/-- Expert of halfword c of a routing entry, where it is valid. -/
def choiceOf (e : BitVec 256) (c : Nat) : Option Nat := if bit e (16 * c + 15) then some (fld e (16 * c) 12) else none

/-- The valid choices below TOPK. -/
def choices (d : Row) (e : BitVec 256) : List (Nat × Nat) :=
  (List.range (XD.topk d)).filterMap fun c => (choiceOf e c).map fun x => (c, x)

/-- Member and slot of an expert. -/
def placeOf (s : State) (d : Row) (x : Nat) : Nat × Nat :=
  let w := fwWord s (XD.place d) x
  (fld w 0 16, fld w 16 6)

/-- Members that the placement table names, in ascending index. -/
def namedMembers (s : State) (d : Row) (n : Nat) : List Nat :=
  let ps := (List.range (XD.experts d)).map fun x => (placeOf s d x).1
  (List.range n).filter fun m => ps.contains m

/-- Assignments of round 0: every valid choice, by token and choice. -/
def firstRound (s : State) (d : Row) : List Asg :=
  (List.range (XD.tokens d)).flatMap fun t => (choices d (routeEntry s d t)).map fun c => { token := t, choice := c.1, expert := c.2 }

/-- Assignments of each expert. -/
def expertCounts (l : List Asg) : Tab Nat := l.foldl (fun t a => Tab.set 0 t a.expert (Tab.get 0 t a.expert + 1)) []

/-! ### Counts and grants (R390 to R392) -/

/-- The count row of a round for a destination. -/
def countRow (s : State) (d : Row) (l : List Asg) (round dest : Nat) : Row :=
  let n := expertCounts l
  word 4096 <| (0, 32, if round = 0 then XD.tokens d else 0) ::
    (List.range (XD.experts d)).filterMap fun x =>
      let p := placeOf s d x
      if p.1 = dest then some (32 * (2 + p.2), 32, Tab.get 0 n x) else none

/-- A row of a window of this device as its unit reads it. -/
def windowRow (s : State) (w i : Nat) : Row := fwRow s (s.window w).handle i

/-- Count row that source i sent for a round. -/
def heldCount (s : State) (d : Row) (dseq : Half) (round i : Nat) : Row :=
  windowRow s (XD.countWindow d) (4 * i + 2 * (dseq.toNat % 2) + round)

/-- T (R391). -/
def totalTokens (s : State) (d : Row) (dseq : Half) (n : Nat) : Nat :=
  (List.range n).foldl (fun a i => a + fld (heldCount s d dseq 0 i) 0 32) 0

/-- Capacity of a slot. -/
def slotCapacity (d : Row) (t : Nat) : Nat := min (XD.slotTokens d) (ceilDiv (XD.cap d * t * XD.topk d) (16 * XD.experts d))

/-- Offsets and grants of a slot, source by source, and what is then used. -/
def grantSlot (cap : Nat) : List Nat → Nat → List (Nat × Nat) × Nat
  | [], used => ([], used)
  | c :: t, used =>
    let g := min c (cap - used)
    let (l, u) := grantSlot cap t (used + g)
    ((used, g) :: l, u)

/-- The counts of a slot over the sources. -/
def slotCounts (s : State) (d : Row) (dseq : Half) (n round j : Nat) : List Nat :=
  (List.range n).map fun i => fld (heldCount s d dseq round i) (32 * (2 + j)) 32

/-- Grants of a round for slot j, and what is used after it. -/
def slotGrants (s : State) (d : Row) (dseq : Half) (n round j : Nat) : List (Nat × Nat) × Nat :=
  let cap := slotCapacity d (totalTokens s d dseq n)
  let a := grantSlot cap (slotCounts s d dseq n 0 j) 0
  if round = 0 then a else grantSlot cap (slotCounts s d dseq n 1 j) a.2

/-- Rounds of a dispatch. -/
def rounds (d : Row) : Nat := if XD.policy d then 2 else 1

/-- Tokens received in each slot: used after the last round. -/
def slotsUsed (s : State) (d : Row) (dseq : Half) (n : Nat) : List Nat :=
  (List.range (XD.slots d)).map fun j => (slotGrants s d dseq n (rounds d - 1) j).2

/-- The grant row for one source. -/
def grantRow (s : State) (d : Row) (dseq : Half) (n round src : Nat) : Row :=
  word 4096 <| (List.range (XD.slots d)).flatMap fun j =>
    let g := (slotGrants s d dseq n round j).1.getD src (0, 0)
    [(64 * j, 32, g.1), (64 * j + 32, 32, g.2)]

/-! ### A source's placements (R391, R392) -/

/-- Offset and grant that this source holds for an expert. -/
def heldGrant (s : State) (d : Row) (round x : Nat) : Nat × Nat :=
  let p := placeOf s d x
  let r := windowRow s (XD.grantWindow d) (2 * p.1 + round)
  (fld r (64 * p.2) 32, fld r (64 * p.2 + 32) 32)

/-- Assignments of a round in order of token, placed or overflowed. -/
def placeRound (s : State) (d : Row) (round : Nat) : List Asg → Tab Nat → List Asg × List Asg
  | [], _ => ([], [])
  | a :: t, seen =>
    let k := Tab.get 0 seen a.expert
    let (yes, no) := placeRound s d round t (Tab.set 0 seen a.expert (k + 1))
    let g := heldGrant s d round a.expert
    let p := placeOf s d a.expert
    if k < g.2 then ({ a with member := p.1, slot := p.2, pos := g.1 + k } :: yes, no) else (yes, a :: no)

/-- Of the overflowed assignments, those that go to an alternate of the layer, and those dropped at once. -/
def alternates (s : State) (d : Row) : Option Nat → List Asg → List Asg × List Asg
  | _, [] => ([], [])
  | last, a :: t =>
    let (yes, no) := alternates s d (some a.token) t
    let e := routeEntry s d a.token
    match choiceOf e 8 with
    | some x =>
      if x < XD.experts d ∧ last ≠ some a.token ∧ (choices d e).all (fun c => c.2 != x) = true then ({ a with expert := x, alt := true } :: yes, no)
      else (yes, a :: no)
    | none => (yes, a :: no)

/-- Overflowed assignments that this source offers in round 1. -/
def secondRound (s : State) (d : Row) : List Asg × List Asg := alternates s d none (placeRound s d 0 (firstRound s d) []).2

/-- Every placed assignment of this source, in order of token, and every dropped one. -/
def placements (s : State) (d : Row) : List Asg × List Asg :=
  let a := placeRound s d 0 (firstRound s d) []
  if !XD.policy d then a
  else
    let b := alternates s d none a.2
    let c := placeRound s d 1 b.1 []
    ((List.range (XD.tokens d)).flatMap fun t => (a.1 ++ c.1).filter fun x => x.token == t, c.2 ++ b.2)

/-! ### Packets -/

def exchHeader (s : State) (d : Row) (dseq : Half) (phase round : Nat) : List (Nat × Nat × Nat) :=
  [(0, 16, (s.job.map (·.id.toNat)).getD 0), (16, 4, XD.group d), (20, 2, phase), (24, 1, round), (32, 16, dseq.toNat)]

/-- A count or grant row (R390, R391). -/
def tablePacket (s : State) (d : Row) (dseq : Half) (phase round : Nat) (dev : BitVec 20) (w : Nat) (gen : Half) (i : Nat) (r : Row) :
    Packet :=
  { ptype := ptExchange, dst := dev, src := 0, window := BitVec.ofNat 12 w, nrows := 1, wgen := gen, ext1 := word 128 [(0, 48, 512 * i)],
    ext2 := word 128 (exchHeader s d dseq phase round), rows := [r] }

/-- Rows cut into pieces of 8 with the index of each first row. -/
def rowPieces (rows : List Row) : List (Nat × List Row) := scaleGroups (rows.length + 1) 0 rows

/-- The packets of one token's rows (R389, R393). -/
def payloadPackets (s : State) (x : ExchEntry) (dev : BitVec 20) (row : Nat) (a : Asg) (rows : List Row) : List Packet :=
  (rowPieces rows).map fun g =>
    { ptype := ptExchange, dst := dev, src := 0, window := BitVec.ofNat 12 (XE.dstWindow x.entry), nrows := BitVec.ofNat 4 g.2.length,
      wgen := XE.dstWgen x.entry, ext1 := word 128 [(0, 48, 512 * (row + g.1))],
      ext2 := word 128 (exchHeader s x.desc x.dseq 2 (b2n a.alt) ++ [(22, 2, XE.kind x.entry), (48, 20, a.token), (68, 3, a.choice),
        (71, 1, b2n a.alt), (72, 6, a.slot), (80, 20, a.pos)]),
      rows := g.2 }

/-- EXCHANGE_READY to a peer (R395). -/
def readyNotice (s : State) (x : ExchEntry) (dev : BitVec 20) : Packet :=
  { ptype := ptNotice, dst := dev, src := 0,
    ext1 := word 128 [(0, 8, 0x21), (9, 2, XE.kind x.entry), (16, 16, (s.job.map (·.id.toNat)).getD 0), (32, 4, XD.group x.desc),
      (64, 32, x.dseq.toNat)] }

/-! ### Entries in progress -/

def onExch (s : State) (c : CtxId) (i : Nat) (f : ExchEntry → ExchEntry) : State :=
  match (s.ctx c).run with
  | some r => s.setRun c { r with exchs := r.exchs.map fun x => if x.index = i then f x else x }
  | none => s

def getExch (s : State) (c : CtxId) (i : Nat) : Option ExchEntry :=
  match (s.ctx c).run with
  | some r => r.exchs.find? fun x => x.index == i
  | none => none

/-- Issue what an entry has queued while TAGs are free. -/
def pumpExch (s : State) (c : CtxId) (i : Nat) : State :=
  match getExch s c i with
  | none => s
  | some x =>
    let (ts, q, s) := issueQueue (.exch c i) x.queue s
    onExch s c i fun y => { y with tags := y.tags ++ ts, queue := q }

/-- Queue packets of an entry and issue what can go. -/
def sendExch (s : State) (c : CtxId) (i : Nat) (ps : List Packet) : State :=
  pumpExch (onExch s c i fun y => { y with queue := y.queue ++ ps }) c i

/-- Fault of an entry of the list. -/
def faultExch (s : State) (c : CtxId) (x : BitVec 512) (i : Nat) (st : Half) : State :=
  faultEntry s c i ⟨st, { handle := XE.desc x, index := i }⟩

/-- The state row follows the descriptor (R386). -/
def exchStateRow (s : State) (x : BitVec 512) : Row := fwRow s (XE.desc x) (XE.descRow x + 1)

/-- The unit changes it for its context, its poison kept (R96, R265). -/
def setExchState (s : State) (c : CtxId) (x : BitVec 512) (f : Row → Row) : State :=
  ctxModify s c (devRowAddr (s.devEntry (XE.desc x)) (XE.descRow x + 1)) f

/-! ### Starting an entry (R388, R395, R397) -/

/-- The entry's own fields are what R385 allows; its ready word is a word of chip memory that a claim may use (R81, R92). -/
def exchFormFault (s : State) (c : CtxId) (x : BitVec 512) : Option Flt :=
  let k := capture s none (XE.ready x)
  match k.refuse (some c) pFADD none with
  | some st => some ⟨st, { handle := k.handle }⟩
  | none =>
    if (k.addr (XE.readyWord x / 128)).isNone then some ⟨St.keyOutOfBounds, { handle := k.handle, index := XE.readyWord x / 128 }⟩
    else if XE.kind x = 3 ∨ XE.parts x = 0 ∨ k.tier ≠ 1 then some ⟨St.exchangeInvalid, { handle := XE.desc x }⟩
    else none

/-- Element bits of a token format, RAW as 8 (R82, R388). -/
def tokenBits (f : Nat) : Nat := if f = 1 then 32 else if f = 2 ∨ f = 3 then 16 else 8

/-- The descriptor's fields are in range, reserved ones ignored (R9), and the token fits (R386, R388). -/
def exchDescOk (d : Row) : Bool :=
  XD.xver d == 1 && decide (XD.fmt d ≤ 5) && decide (1 ≤ XD.hidden d) && decide (XD.hidden d ≤ 32768) && decide (1 ≤ XD.cap d) &&
    decide (1 ≤ XD.slotTokens d) && decide (XD.slotTokens d ≤ 1048576) && decide (XD.tokens d ≤ 1048576) &&
    decide (XD.hidden d * tokenBits (XD.fmt d) ≤ XD.tokenRows d * 4096)

/-- Placements name members and slots in range, each pair once. -/
def placesOk (s : State) (d : Row) (n : Nat) : Bool :=
  let ps := (List.range (XD.experts d)).map (placeOf s d)
  ps.all (fun p => decide (p.1 < n) && decide (p.2 < XD.slots d)) && decide ps.Nodup

/-- Choices of every token name experts of the layer, each once. -/
def routesOk (s : State) (d : Row) : Bool :=
  (List.range (XD.tokens d)).all fun t =>
    let cs := (choices d (routeEntry s d t)).map (·.2)
    cs.all (fun x => decide (x < XD.experts d)) && decide cs.Nodup

/-- Origin records of slot j at a destination: position, token, choice, ALT, source (R394). -/
def originsOf (s : State) (d : Row) (j used : Nat) : List (Nat × Asg) :=
  (List.range used).map fun p =>
    let o := fwBytes s (XD.origin d) (8 * (j * XD.slotTokens d + p)) 8
    (fld (BitVec.ofNat 64 o) 24 16, { token := o % 2 ^ 20, choice := o / 2 ^ 20 % 8, expert := 0, alt := (BitVec.ofNat 64 o).toNat.testBit 23,
                                       slot := j, pos := p })

/-- Every token this device received in the latest dispatch, with its source. -/
def origins (s : State) (d : Row) (dseq : Half) (n : Nat) : List (Nat × Asg) :=
  ((slotsUsed s d dseq n).zipIdx).flatMap fun u => originsOf s d u.2 u.1

/-- Rows of the send layout of an assignment (R385). -/
def sourceRow (x : ExchEntry) (a : Asg) : Nat :=
  let d := x.desc
  XE.srcRow x.entry + XD.tokenRows d *
    (if XE.kind x.entry = 0 then a.token else if XE.kind x.entry = 1 then a.slot * XD.slotTokens d + a.pos else a.token * XD.topk d + a.choice)

/-- What a combine or redispatch sends: the receiving member and the assignment. -/
def outgoing (s : State) (x : ExchEntry) (ms : List (BitVec 20)) : List (Nat × Asg) :=
  if XE.kind x.entry = 1 then
    (if (namedMembers s x.desc ms.length).contains (ownRank s ms) then origins s x.desc x.dseq ms.length else [])
  else (placements s x.desc).1.map fun a => (a.member, a)

/-- A check of R92 that fails makes the entry invalid; what the row itself answers keeps its own fault (R97, R105, R265, R388). -/
def exchFault (f : Flt) : Flt :=
  if [St.keyInvalid, St.keyAccessDenied, St.keyFormatMismatch, St.keyOutOfBounds].contains f.status then { f with status := St.exchangeInvalid } else f

/-- Read rows of a table. -/
def readTable (s : State) (c : CtxId) (h : Half) (o n : Nat) : Option Flt × State :=
  match accessRead s (some c) (capture s none h) none o n with
  | (_, f, s) => (f, s)

/-- The origin records of a combine, slot by slot (R394, R395). -/
def readOrigins (s : State) (c : CtxId) (d : Row) : List (Nat × Nat) → Option Flt × State
  | [] => (none, s)
  | (u, j) :: t =>
    let lo := 8 * (j * XD.slotTokens d)
    match (if u = 0 then (none, s) else readTable s c (XD.origin d) (lo / 512) ((lo + 8 * u - 1) / 512 - lo / 512 + 1)) with
    | (some f, s) => (some f, s)
    | (none, s) => readOrigins s c d t

/-- The rows that an entry can send lie within SRC_HANDLE (check 5 of R92; log 84). -/
def sourceFits (s : State) (e : ExchEntry) : Bool :=
  let k := capture s none (XE.src e.entry)
  let as := if XE.kind e.entry = 0 then firstRound s e.desc else (outgoing s e (exchMembers s e.desc)).map (·.2)
  as.all fun a => (List.range (XD.tokenRows e.desc)).all fun i => (k.addr (sourceRow e a + i)).isSome

/-- The checks of R388 at an entry's start. -/
def exchCheck (s : State) (c : CtxId) (e : ExchEntry) : Option Flt × State :=
  let x := e.entry
  let d := e.desc
  let bad : Flt := ⟨St.exchangeInvalid, { handle := XE.desc x }⟩
  let n := (exchMembers s d).length
  let tables := fun (f : Option Flt) => f.map exchFault
  if !exchDescOk d || n = 0 || ((capture s none (XE.src x)).refuse (some c) pRD (some (XD.fmt d))).isSome then (some bad, s)
  else
    match readTable s c (XD.place d) 0 (ceilDiv (XD.experts d) 128) with
    | (some f, s) => (tables f, s)
    | (none, s) =>
      match readTable s c (XD.route d) 0 (ceilDiv (XD.tokens d) 16) with
      | (some f, s) => (tables f, s)
      | (none, s) =>
        if !placesOk s d n || !routesOk s d then (some bad, s)
        else if XE.kind x ≠ 0 ∧ bit (exchStateRow s x) 16 = false then (some { bad with status := St.exchangeNoDispatch }, s)
        else
          match (if XE.kind x = 1 then readOrigins s c d (slotsUsed s d e.dseq n).zipIdx else (none, s)) with
          | (some f, s) => (some f, s)
          | (none, s) => (if sourceFits s e then none else some bad, s)

/-- A held count or grant row of a window with a poisoned sector (R97). -/
def windowPoison (s : State) (w i : Nat) : Option Flt :=
  let h := (s.window w).handle
  let p := fwPoison s (devRowAddr (s.devEntry h) i)
  if p = 0 then none else some ⟨St.poisonConsumed, { handle := h, index := i, aux := firstSector p }⟩

/-- Every grant row of a round has arrived. -/
def grantsHeld (s : State) (x : ExchEntry) (round n : Nat) : Bool :=
  (namedMembers s x.desc n).all fun m => x.grantsIn.contains (2 * m + round)

/-! ### What R396 waits for, and RECORDED (R394) -/

/-- The count output row (R394). -/
def countOutput (s : State) (x : ExchEntry) : Row :=
  word 4096 (((slotsUsed s x.desc x.dseq (exchMembers s x.desc).length).zipIdx).map fun u => (32 * u.2, 32, u.1))

/-- The entry is a dispatch of which this device is a destination (R394). -/
def countsHere (s : State) (x : ExchEntry) : Bool :=
  let ms := exchMembers s x.desc
  XE.kind x.entry == 0 && (namedMembers s x.desc ms.length).contains (ownRank s ms)

/-- Once every row to receive has committed, a destination writes its count row, and accesses that waited go on (R394, R396). -/
def settleRows (s : State) (c : CtxId) (x : ExchEntry) : State :=
  if x.settled || x.expect != some x.received then s
  else
    match (if countsHere s x then accessWrite s (some c) (capture s none (XD.cnt x.desc)) none 0 [(countOutput s x, 0)] else (none, s)) with
    | (some f, s) => faultEntry s c x.index f
    | (none, s) => entryReleased (onExch s c x.index fun y => { y with settled := true }) c

/-- RECORDED is set once the grants and origins of a dispatch are complete (R386, R394). -/
def recordDispatch (s : State) (c : CtxId) (x : ExchEntry) : State :=
  if XE.kind x.entry != 0 || x.recorded || !x.settled || !grantsHeld s x (rounds x.desc - 1) (exchMembers s x.desc).length then s
  else setExchState (onExch s c x.index fun y => { y with recorded := true }) c x.entry fun r => put r 16 1 1

/-- An entry goes as far as its rows and grants allow. -/
def settleExch (s : State) (c : CtxId) (i : Nat) : State :=
  match (s.ctx c).run, getExch s c i with
  | some r, some x =>
    if !listLive s c r then s
    else
      let s := settleRows s c x
      match getExch s c i with
      | some x => recordDispatch s c x
      | none => s
  | _, _ => s

/-- Count rows of a round go to every member that the placement table names. -/
def sendCounts (s : State) (c : CtxId) (x : ExchEntry) (round : Nat) (l : List Asg) : State :=
  let d := x.desc
  let ms := exchMembers s d
  let me := ownRank s ms
  let ps := (namedMembers s d ms.length).map fun m =>
    tablePacket s d x.dseq 0 round (ms.getD m 0) (XD.countWindow d) (XD.countWgen d) (4 * me + 2 * (x.dseq.toNat % 2) + round)
      (countRow s d l round m)
  sendExch (onExch s c x.index fun y => { y with counted := round + 1 }) c x.index ps

/-- A dispatch starts (R390). A member that the table does not name receives no token. -/
def startDispatch (s : State) (c : CtxId) (i : Nat) (x : BitVec 512) (d : Row) : State :=
  let q : Half := BitVec.ofNat 16 (fld (exchStateRow s x) 0 16 + 1)
  let s := setExchState s c x fun r => put (put r 0 16 q.toNat) 16 1 0
  let ms := exchMembers s d
  let named := (namedMembers s d ms.length).contains (ownRank s ms)
  let e : ExchEntry := { index := i, entry := x, desc := d, dseq := q, granted := if named then 0 else rounds d,
                         expect := if named then none else some 0 }
  match (s.ctx c).run with
  | none => s
  | some r => settleExch (sendCounts (s.setRun c { r with exchs := r.exchs ++ [e], exchNext := i + 1 }) c e 0 (firstRound s d)) c i

/-- Members that send to this device in a combine or redispatch, and the rows each sends. -/
def incoming (s : State) (kind : Nat) (d : Row) (dseq : Half) (n me : Nat) : List (Nat × Nat) :=
  if kind = 1 then
    let ps := (placements s d).1
    (List.range n).filterMap fun m => let k := ps.countP fun a => a.member == m
      if k = 0 then none else some (m, k * XD.tokenRows d)
  else if (namedMembers s d n).contains me then
    (List.range n).filterMap fun i =>
      let k := (List.range (XD.slots d)).foldl (fun a j => a + (List.range (rounds d)).foldl (fun b r =>
        b + ((slotGrants s d dseq n r j).1.getD i (0, 0)).2) 0) 0
      if k = 0 then none else some (i, k * XD.tokenRows d)
  else []

/-- Zeros in the rows of every dropped or invalid choice of a combine (R395). -/
def zeroFill (s : State) (c : CtxId) (x : BitVec 512) (d : Row) : Option Flt × State :=
  let ps := (placements s d).1
  let k := capture s none (s.window (XE.dstWindow x)).handle
  ((List.range (XD.tokens d)).flatMap fun t => (List.range (XD.topk d)).map fun ch => (t, ch)).foldl (fun a y =>
    match a with
    | (some f, s) => (some f, s)
    | (none, s) =>
      if ps.any fun p => p.token == y.1 && p.choice == y.2 then (none, s)
      else accessWrite s (some c) k none ((y.1 * XD.topk d + y.2) * XD.tokenRows d) (List.replicate (XD.tokenRows d) (0, 0))) (none, s)

/-- A combine or redispatch starts: it tells its senders, and a combine's receiver zero-fills (R395). -/
def startReturn (s : State) (c : CtxId) (i : Nat) (x : BitVec 512) (d : Row) : State :=
  let ms := exchMembers s d
  let q : Half := BitVec.ofNat 16 (fld (exchStateRow s x) 0 16)
  let me := ownRank s ms
  let ins := incoming s (XE.kind x) d q ms.length me
  let e : ExchEntry := { index := i, entry := x, desc := d, dseq := q, expect := some (ins.foldl (fun a y => a + y.2) 0) }
  match (s.ctx c).run with
  | none => s
  | some r =>
    let s := s.setRun c { r with exchs := r.exchs ++ [e], exchNext := i + 1 }
    match (if XE.kind x = 1 then zeroFill s c x d else (none, s)) with
    | (some f, s) => faultEntry s c i f
    | (none, s) => settleExch (sendExch s c i ((ins.filter fun y => y.1 != me).map fun y => readyNotice s e (ms.getD y.1 0))) c i

/-- Exchange entries in progress on the device. -/
def exchsInProgress (s : State) : Nat :=
  s.ctxs.foldl (fun a x => a + ((x.2.run.map fun r => r.exchs.countP fun e => !e.complete).getD 0)) 0

/-- The descriptor and its state row: the unit reads both and writes the second (R81, R92, R97). -/
def readDesc (s : State) (c : CtxId) (x : BitVec 512) : Except Flt Row × State :=
  let k := capture s none (XE.desc x)
  match begin' s (some c) k pWR none with
  | (some f, s) => (.error f, s)
  | (none, s) =>
    match accessRead s (some c) k none (XE.descRow x) 2 with
    | (_, some f, s) => (.error f, s)
    | (rows, none, s) => (.ok (rows.headD 0), s)

/-- A table that an entry reads waits for an entry that is being filled (R363, R396). -/
def tablesWait (s : State) (d : Row) : Bool := capWaits s (capture s none (XD.place d)) || capWaits s (capture s none (XD.route d))

/-- EXCHANGE_ENTRY_START (R397). -/
def exchStart (s : State) (c : CtxId) : State :=
  match (s.ctx c).run with
  | none => s
  | some r =>
    let p := r.payload
    let i := r.exchNext
    let x := fwEntry64 s (RUN.xlHandle p) (RUN.xlRow p) i
    if !listLive s c r || decide (RUN.xlCount p ≤ i) || decide (r.begun ≤ XE.start x) || decide (4 ≤ exchsInProgress s) then s
    else
      match readTable s c (RUN.xlHandle p) (RUN.xlRow p + i / 8) 1 with
      | (some f, s) => faultEntry s c i f
      | (none, s) =>
        match exchFormFault s c x with
        | some f => faultEntry s c i f
        | none =>
          if (fwWord s (XE.ready x) (XE.readyWord x)).toNat < XE.parts x then s
          else if tablesWait s (fwRow s (XE.desc x) (XE.descRow x)) then s
          else
            let s := entryWord s (XE.ready x) (XE.readyWord x) 0
            match readDesc s c x with
            | (.error f, s) => faultEntry s c i f
            | (.ok d, s) =>
              match exchCheck s c { index := i, entry := x, desc := d, dseq := BitVec.ofNat 16 (fld (exchStateRow s x) 0 16) } with
              | (some f, s) => faultEntry s c i f
              | (none, s) => if XE.kind x = 0 then startDispatch s c i x d else startReturn s c i x d

/-! ### Grants (R391) -/

/-- Count rows of a round are held from every member. -/
def countsHeld (s : State) (x : ExchEntry) (round : Nat) (ms : List (BitVec 20)) : Bool :=
  ms.all fun m => s.arrivals.contains { kind := 0, place := XD.countWindow x.desc, dseq := x.dseq, sub := round, src := m }

/-- Send the grant rows of a round. -/
def sendGrants (s : State) (c : CtxId) (x : ExchEntry) (round : Nat) : State :=
  let d := x.desc
  let ms := exchMembers s d
  let me := ownRank s ms
  let ps := (ms.zipIdx).map fun m =>
    tablePacket s d x.dseq 1 round m.1 (XD.grantWindow d) (XD.grantWgen d) (2 * me + round) (grantRow s d x.dseq ms.length round m.2)
  let last := decide (round + 1 = rounds d)
  let e := if last then some (XD.tokenRows d * (slotsUsed s d x.dseq ms.length).foldl (· + ·) 0) else none
  settleExch (sendExch (onExch s c x.index fun y => { y with granted := round + 1, expect := e }) c x.index ps) c x.index

/-- EXCHANGE_GRANT. -/
def exchGrant (s : State) (c : CtxId) (i : Nat) : State :=
  match (s.ctx c).run, getExch s c i with
  | some r, some x =>
    let ms := exchMembers s x.desc
    if !listLive s c r || XE.kind x.entry != 0 || x.complete || decide (rounds x.desc ≤ x.granted) || !countsHeld s x x.granted ms then s
    else match (List.range ms.length).findSome? fun m =>
        windowPoison s (XD.countWindow x.desc) (4 * m + 2 * (x.dseq.toNat % 2) + x.granted) with
    | some f => faultEntry s c i f
    | none =>
      let round := x.granted
      let t := totalTokens s x.desc x.dseq ms.length
      let s := { s with arrivals := s.arrivals.filter fun a =>
        !(a.kind == 0 && a.place == XD.countWindow x.desc && a.dseq == x.dseq && a.sub == round) }
      if round = 0 ∧ 1048576 < t then faultExch s c x.entry i St.exchangeOverLimit
      else
        let s := if round = 0 then setExchState s c x.entry fun r => put r 32 32 t else s
        sendGrants s c x round
  | _, _ => s

/-! ### Payload (R393, R395) -/

/-- Row of the receive layout (R385). -/
def targetRow (x : ExchEntry) (a : Asg) : Nat :=
  let d := x.desc
  XD.tokenRows d * (if XE.kind x.entry = 1 then a.token * XD.topk d + a.choice else a.slot * XD.slotTokens d + a.pos)

/-- The packets of assignments toward members; the first row that cannot be sent ends the entry (R97). -/
def readPayload (c : CtxId) (x : ExchEntry) (ms : List (BitVec 20)) : List (Nat × Asg) → State → Except Flt (List Packet) × State
  | [], s => (.ok [], s)
  | (m, a) :: t, s =>
    match accessRead s (some c) (capture s none (XE.src x.entry)) (some (XD.fmt x.desc)) (sourceRow x a) (XD.tokenRows x.desc) with
    | (_, some f, s) => (.error f, s)
    | (rows, none, s) =>
      match readPayload c x ms t s with
      | (.error f, s) => (.error f, s)
      | (.ok ps, s) => (.ok (payloadPackets s x (ms.getD m 0) (targetRow x a) a rows ++ ps), s)

/-- The source rows wait for an entry that is being filled (R363, R396). -/
def sourceWaits (s : State) (x : ExchEntry) : Bool := capWaits s (capture s none (XE.src x.entry))

/-- Read and send assignments of an entry. -/
def sendPayload (s : State) (c : CtxId) (x : ExchEntry) (ms : List (BitVec 20)) (l : List (Nat × Asg)) : State :=
  match readPayload c x ms l s with
  | (.error f, s) => faultEntry s c x.index f
  | (.ok ps, s) => sendExch s c x.index ps

/-- A dispatch's source: round-1 counts, or the granted rows. -/
def dispatchSend (s : State) (c : CtxId) (x : ExchEntry) : State :=
  let d := x.desc
  let ms := exchMembers s d
  if x.payloadSent || !grantsHeld s x (x.counted - 1) ms.length || (sourceWaits s x && decide (rounds d ≤ x.counted)) then s
  else match (namedMembers s d ms.length).findSome? fun m => windowPoison s (XD.grantWindow d) (2 * m + x.counted - 1) with
  | some f => faultEntry s c x.index f
  | none =>
  if x.counted < rounds d then sendCounts s c x 1 (secondRound s d).1
  else
    let (yes, no) := placements s d
    let s := setExchState s c x.entry fun r => put r 64 32 no.length
    sendPayload (onExch s c x.index fun y => { y with payloadSent := true }) c x ms (yes.map fun a => (a.member, a))

/-- A peer's ready notice is held; this device needs none of itself. -/
def peerReady (s : State) (x : ExchEntry) (ms : List (BitVec 20)) (m : Nat) : Bool :=
  m == ownRank s ms ||
    s.arrivals.contains { kind := 1, place := XD.group x.desc, dseq := x.dseq, sub := XE.kind x.entry, src := ms.getD m 0 }

/-- A combine's or redispatch's sender: every peer that is ready and not yet served. -/
def returnSend (s : State) (c : CtxId) (x : ExchEntry) : State :=
  let ms := exchMembers s x.desc
  let out := outgoing s x ms
  let peers := (out.map (·.1)).eraseDups
  let now := peers.filter fun m => !x.served.contains m && peerReady s x ms m
  let served := x.served ++ now
  let s := { s with arrivals := s.arrivals.filter fun a =>
    !(a.kind == 1 && a.place == XD.group x.desc && a.dseq == x.dseq && a.sub == XE.kind x.entry && now.any fun m => ms.getD m 0 == a.src) }
  sendPayload (onExch s c x.index fun y => { y with served := served, payloadSent := peers.all served.contains }) c x ms
    (out.filter fun o => now.contains o.1)

/-- EXCHANGE_PAYLOAD_SEND. -/
def exchSend (s : State) (c : CtxId) (i : Nat) : State :=
  match (s.ctx c).run, getExch s c i with
  | some r, some x =>
    if !listLive s c r || x.complete then s
    else if XE.kind x.entry = 0 then dispatchSend s c x
    else if sourceWaits s x then s
    else returnSend s c x
  | _, _ => s

/-! ### Arrivals -/

/-- The entries in progress of the device, with their contexts. -/
def exchsOpen (s : State) : List (CtxId × ExchEntry) :=
  ((List.range 8).map (Fin.ofNat 8)).flatMap fun c =>
    match (s.ctx c).run with
    | some r => (r.exchs.filter fun e => !e.complete).map fun e => (c, e)
    | none => []

/-- The origin record of a token (R394). -/
def writeOrigin (s : State) (c : CtxId) (x : ExchEntry) (p : Packet) : State :=
  let d := x.desc
  let src := (rankOf (exchMembers s d) p.src).getD 0
  let o := word 64 [(0, 20, XH.token p), (20, 3, XH.choice p), (23, 1, XH.alt p), (24, 16, src)]
  match writeBytes s (some c) (capture s none (XD.origin d)) (8 * (XH.slot p * XD.slotTokens d + XH.pos p)) (toBytes o 8) with
  | (none, s) => s
  | (some f, s) => faultEntry s c x.index f

/-- What the units note of an accepted packet (R391, R393, R394). -/
def noteExchange (s : State) (p : Packet) : State :=
  let w := p.window.toNat
  let first := PX.offset p / 512
  match XH.phase p with
  | 0 =>
    let a : Arrival := { kind := 0, place := w, dseq := XH.dseq p, sub := XH.round p, src := p.src }
    if s.arrivals.contains a then s else { s with arrivals := s.arrivals ++ [a] }
  | 1 =>
    match (exchsOpen s).find? fun x => XE.kind x.2.entry == 0 && XD.grantWindow x.2.desc == w && x.2.dseq == XH.dseq p with
    | some (c, x) => settleExch (onExch s c x.index fun y => { y with grantsIn := insertSorted first y.grantsIn }) c x.index
    | none => s
  | 2 =>
    match (exchsOpen s).find? fun x => XE.kind x.2.entry == XH.xkind p && XE.dstWindow x.2.entry == w && x.2.dseq == XH.dseq p with
    | some (c, x) =>
      let s := onExch s c x.index fun y => { y with received := y.received + p.nrows.toNat }
      settleExch (if XE.kind x.entry = 0 ∧ first % XD.tokenRows x.desc = 0 then writeOrigin s c x p else s) c x.index
    | none => s
  | _ => s

/-- EXCHANGE at its receiver: its rows are written as a WRITE's are (R296, R307, R389). -/
def serveExchange (p : Packet) (e : BitVec 256) (s : State) : State :=
  match windowWrite e (PX.offset p / 512) p.rows s with
  | (0, s) => retire (noteExchange s p) p 0 0
  | (st, s) => retire s p st 0

/-- EXCHANGE_READY arrives (R395). -/
def readyArrives (s : State) (via : Option LinkId) (p : Packet) : State :=
  if fld p.ext1 0 8 ≠ 0x21 then s
  else packetArrives s via p ptNotice fun s =>
    takeNotice s p fun s =>
      let a : Arrival := { kind := 1, place := XN.group p, dseq := BitVec.ofNat 16 (XN.seq p), sub := XN.xkind p, src := p.src }
      if (s.job.any fun j => j.id.toNat == XN.job p) && !s.arrivals.contains a then { s with arrivals := s.arrivals ++ [a] } else s

/-! ### Answers and completion -/

/-- An answer to a packet of an entry (R298). -/
def exchAnswer (s : State) (q : Req) (c : CtxId) (i status detail : Nat) : State :=
  match getExch s c i with
  | none => s
  | some x =>
    if !x.tags.contains q.tag then s
    else
      let s := onExch s c i fun y => { y with tags := y.tags.filter fun t => t != q.tag }
      if status ≠ 0 then faultEntry s c i ⟨St.remoteRefused, remoteFault q status detail⟩ else pumpExch s c i

/-- EXCHANGE_ENTRY_COMPLETE: all that R396 names has committed, and every packet sent is acknowledged (R397). -/
def exchComplete (s : State) (c : CtxId) (i : Nat) : State :=
  match (s.ctx c).run, getExch s c i with
  | some r, some x =>
    if !listLive s c r || x.complete || !x.settled || (XE.kind x.entry == 0 && !x.recorded) || !x.payloadSent || !x.queue.isEmpty ||
        !x.tags.isEmpty then s
    else entryReleased (onExch s c i fun y => { y with complete := true }) c
  | _, _ => s

end Sys2Proof.Machine
end

