-- ==== Sys2Proof/Machine/JobOps.lean ====
section
/-!
DEFINITION. Jobs and groups (R368 to R370, R425), barriers (R373 to R376, R436), broadcasts (R377), the fence (R456), and link
streams (R378 to R384).
-/
namespace Sys2Proof.Machine

/-! ### JOB_OPEN (R369, R425) -/

/-- Entry i of a group table. -/
def groupEntry (s : State) (p : BitVec 384) (i : Nat) : BitVec 512 := fwEntry64 s (BitVec.ofNat 16 (fld p 0 16)) (fld p 32 32 + 1) i

/-- Entries of the table that a job descriptor names. -/
def groupCount (d : Row) : Nat := fld d 16 5

/-- A group entry's fields are in range, its reserved fields zero, and its member list holds this device once (R368, R369). -/
def groupOk' (s : State) (c : CtxId) (e : BitVec 512) : Bool :=
  let ms := memberList s (GP.memberHandle e) (GP.members e)
  decide (GP.kind e ≤ 4) && fld e 7 1 == 0 && decide (1 ≤ GP.members e) && decide (GP.members e ≤ 65536) && fld e 25 7 == 0 &&
    decide (GP.keyholder e < GP.members e) && fld e 76 4 == 0 &&
    (fld e 80 16 == 0 || (decide (10 ≤ fld e 80 16) && decide (fld e 80 16 ≤ 60000))) && fld e 144 368 == 0 &&
    entryFor s c (GP.memberHandle e) [] && decide (GP.members e ≤ entryWords s (GP.memberHandle e)) && membersOk s (GP.memberHandle e) (GP.members e) &&
    s.fab.devId.any (fun i => ms.contains i) && decide ms.Nodup

/-- The conditions of R369. An open that is accepted and has not started counts as open (log 134). -/
def jobOk (s : State) (c : CtxId) (p : BitVec 384) : Bool :=
  let d := namedRow s p
  let n := groupCount d
  let es := (List.range n).map (groupEntry s p)
  s.job.isNone && (s.starting 0x0501).isEmpty && namedRowOk s c p && fld d 21 43 == 0 && fld d 128 3968 == 0 && decide (1 ≤ n) && decide (n ≤ 16) &&
    decide (fld p 32 32 + 1 + ceilDiv n 8 ≤ DE.rows (s.devEntry (BitVec.ofNat 16 (fld p 0 16)))) &&
    es.all (groupOk' s c) && decide (es.map GP.number).Nodup

def jobOpenCheck (s : State) (c : CtxId) (p : BitVec 384) : Option Record := if jobOk s c p then none else refuse St.jobInvalid

def jobOpen (s : State) (r : CmdRef) : State :=
  s.take r 0x0501 fun c =>
    let p := c.payload
    let d := namedRow s p
    let group := fun (e : BitVec 512) =>
      ({ entry := e, holder := memberAt s (GP.memberHandle e) (GP.keyholder e), step := GP.step0 e } : Group)
    ({ s with job := some { id := BitVec.ofNat 16 (fld d 0 16), seed := BitVec.ofNat 64 (fld d 64 64), ctx := r.ctx,
                            groups := ((List.range (groupCount d)).map (groupEntry s p)).map group } }).finishSt r St.complete

/-! ### Groups -/

/-- Change a group of the open job. -/
def State.onGroupNo (s : State) (n : Nat) (f : Group → Group) : State :=
  match s.job with
  | some j => { s with job := some { j with groups := j.groups.map fun g => (if GP.number g.entry = n then f g else g) } }
  | none => s

/-- Issue the release notices of a group while TAGs are free. -/
def pumpGroup (s : State) (n : Nat) : State :=
  match s.job, s.group n with
  | some j, some g =>
    let (_, q, s) := issueQueue (.notice j.ctx) g.noticeQ s
    s.onGroupNo n fun g => { g with noticeQ := q }
  | _, _ => s

/-! ### Barriers (R373 to R376) -/

namespace BE
def group (p : BitVec 384) : Nat := fld p 0 4
def advance (p : BitVec 384) : Bool := bit p 4
def step (p : BitVec 384) : Word := BitVec.ofNat 32 (fld p 32 32)
end BE

/-! Barrier header -/

namespace BH
def job (p : Packet) : Nat := fld p.ext1 0 16
def group (p : Packet) : Nat := fld p.ext1 16 4
def advance (p : Packet) : Bool := bit p.ext1 20
def bseq (p : Packet) : Word := BitVec.ofNat 32 (fld p.ext1 32 32)
def step (p : Packet) : Word := BitVec.ofNat 32 (fld p.ext1 64 32)
end BH

/-- A member acts on a release (R375): its BARRIER_ENTER completes if one is outstanding (R436). -/
def applyRelease (s : State) (n : Nat) (skew : Bool) (step : Word) : State :=
  match s.group n with
  | none => s
  | some g =>
    let s := s.onGroupNo n fun g => { g with step := step, bseq := g.bseq + 1, barrier := {}, entered := none }
    match g.entered with
    | some r => s.finish r { status := if skew then St.stepSkew else St.complete, result := BitVec.ofNat 64 step.toNat }
    | none => s

/-- A release notice. -/
def releaseNotice (job : Nat) (n : Nat) (skew : Bool) (bseq step : Word) (dev : BitVec 20) : Packet :=
  { ptype := ptNotice, dst := dev, src := 0,
    ext1 := word 128 [(0, 8, 0x20), (8, 1, b2n skew), (16, 16, job), (32, 4, n), (64, 32, bseq.toNat), (96, 32, step.toNat)] }

/-- The barrier of a group is released (R375). -/
def releaseBarrier (s : State) (n : Nat) : State :=
  match s.job, s.group n with
  | some j, some g =>
    let step := if g.barrier.advance = some true ∧ g.barrier.skew = false then g.step + 1 else g.step
    let ps := ((groupMembers s g).filter fun m => !s.ownId m).map (releaseNotice j.id.toNat n g.barrier.skew g.bseq step)
    applyRelease (pumpGroup (s.onGroupNo n fun g => { g with noticeQ := g.noticeQ ++ ps }) n) n g.barrier.skew step
  | _, _ => s

/-- The keyholder takes an arrival (R374). -/
def takeArrival (s : State) (n : Nat) (src : BitVec 20) (bseq step : Word) (adv : Bool) : State :=
  match s.group n with
  | none => s
  | some g =>
    match rankOf (groupMembers s g) src with
    | none => s
    | some i =>
      if bseq ≠ g.bseq ∨ g.barrier.arrived.contains i = true ∨ s.ownId (g.holder) = false then s
      else
        let b := g.barrier
        let b : Barrier := { arrived := insertSorted i b.arrived, advance := some (b.advance.getD adv),
                             skew := b.skew || step != g.step || b.advance.any fun a => a != adv }
        let s := s.onGroupNo n fun g => { g with barrier := b }
        if b.arrived.length = GP.members g.entry then releaseBarrier s n else s

/-- BARRIER arrives at the keyholder. -/
def barrierArrives (s : State) (via : Option LinkId) (p : Packet) : State :=
  packetArrives s via p ptBarrier fun s =>
    takeNotice s p fun s =>
      if (s.job.any fun j => j.id.toNat == BH.job p) then takeArrival s (BH.group p) p.src (BH.bseq p) (BH.step p) (BH.advance p) else s

/-- BARRIER_RELEASE arrives at a member. -/
def releaseArrives (s : State) (via : Option LinkId) (p : Packet) : State :=
  if fld p.ext1 0 8 ≠ 0x20 then s
  else packetArrives s via p ptNotice fun s =>
    takeNotice s p fun s =>
      if (s.job.any fun j => j.id.toNat == XN.job p) then applyRelease s (XN.group p) (bit p.ext1 8) (BitVec.ofNat 32 (fld p.ext1 96 32))
      else s

/-- A command names a group of the open job. -/
def groupCheck (s : State) (n : Nat) : Option Record := if (s.group n).isSome then none else refuse St.jobInvalid

def barrierEnterCheck (s : State) (p : BitVec 384) : Option Record := groupCheck s (BE.group p)

/-- The packet of an arrival (R373). -/
def arrivalPacket (dev : BitVec 20) (job : Nat) (g : Group) (p : BitVec 384) : Packet :=
  { ptype := ptBarrier, dst := dev, src := 0,
    ext1 := word 128 [(0, 16, job), (16, 4, BE.group p), (20, 1, b2n (BE.advance p)), (32, 32, g.bseq.toNat), (64, 32, (BE.step p).toNat)] }

/-- BARRIER_ENTER: one at a time per group; this device's own arrival is taken here when it is the keyholder (R373). -/
def barrierEnter (s : State) (r : CmdRef) : State :=
  s.take r 0x0503 fun c =>
    let p := c.payload
    let n := BE.group p
    match s.job, s.group n with
    | some j, some g =>
      if g.entered.isSome then s.defer r
      else
        let k := g.holder
        let held := s.onGroupNo n fun g => { g with entered := some r }
        if s.ownId k then takeArrival (held.setPhase r .running) n k g.bseq (BE.step p) (BE.advance p)
        else
          if 16384 ≤ s.fab.reqs.length then s.defer r else issueCmd held r [arrivalPacket k j.id.toNat g p]
    | _, _ => s.finishSt r St.jobInvalid

/-- No arrival of a command is outstanding any more. -/
def clearEntered (s : State) (r : CmdRef) : State :=
  match s.job with
  | some j => { s with job := some { j with groups := j.groups.map fun g => (if g.entered = some r then { g with entered := none } else g) } }
  | none => s

/-- The keyholder's answer to an arrival (R376). -/
def barrierAnswer (s : State) (q : Req) (c : Cmd) (status detail : Nat) : State :=
  if status = 0 then s.updCmd c.ref fun c => { c with tags := [] }
  else if status = 6 ∨ status = 7 then (clearEntered s c.ref).finishSt c.ref St.keyholderUnreachable
  else faultCmd (clearEntered s c.ref) c St.remoteRefused (remoteFault q status detail)

/-- GROUP_WAIT_TIMEOUT: the barrier sequence stays (R376, R436). -/
def groupWaitExpired (s : State) (n : Nat) : State :=
  match (s.group n).bind (·.entered) with
  | none => s
  | some r =>
    match s.cmd? r with
    | some c => if c.phase = .running ∧ c.tags.isEmpty = true then faultCmd (clearEntered s r) c St.groupWaitTimeout else s
    | none => s

/-! ### GROUP_BROADCAST (R377) -/

namespace GB
def group (p : BitVec 384) : Nat := fld p 0 4
def rows (p : BitVec 384) : Nat := fld p 8 4
def src (p : BitVec 384) : Half := BitVec.ofNat 16 (fld p 16 16)
def srcRow (p : BitVec 384) : Nat := fld p 32 32
def offset (p : BitVec 384) : Nat := fld p 64 48
end GB

def broadcastCheck (s : State) (p : BitVec 384) : Option Record :=
  match s.group (GB.group p) with
  | none => refuse St.jobInvalid
  | some g => if s.ownId (g.holder) then none else refuse St.notKeyholder

/-- Issue what a command has queued while TAGs are free. -/
def pumpCmd (s : State) (r : CmdRef) : State :=
  match s.cmd? r with
  | some c =>
    let (ts, q, s) := issueQueue (.cmd r) c.queue s
    s.updCmd r fun c => { c with tags := c.tags ++ ts, queue := q }
  | none => s

def groupBroadcast (s : State) (r : CmdRef) : State :=
  s.take r 0x0504 fun c =>
    let p := c.payload
    match s.group (GB.group p) with
    | none => s.finishSt r St.jobInvalid
    | some g =>
      let k := capture s none (GB.src p)
      let w := s.window (GP.bcastWindow g.entry)
      let own := capture s none w.handle
      if capWaits s k || capWaits s own then s.defer r
      else
        match accessRead s (some r.ctx) k none (GB.srcRow p) (GB.rows p) with
        | (_, some f, s) => faultCmd s c f.status f.info
        | (rows, none, s) =>
          match accessWrite s (some r.ctx) own none (GB.offset p / 512) (rows.map fun x => (x, 0)) with
          | (some f, s) => faultCmd s c f.status f.info
          | (none, s) =>
            let ps := ((groupMembers s g).filter fun m => !s.ownId m).map fun m =>
              ({ ptype := ptWrite, dst := m, src := 0, window := BitVec.ofNat 12 (GP.bcastWindow g.entry), nrows := BitVec.ofNat 4 rows.length,
                 wgen := GP.bcastWgen g.entry, ext1 := word 128 [(0, 48, GB.offset p)], rows := rows } : Packet)
            settleTags (pumpCmd (s.updCmd r fun c => { c with phase := .running, queue := ps }) r) r

/-- One answer of a broadcast: a refusal outweighs a timeout (R377). -/
def broadcastAnswer (s : State) (q : Req) (c : Cmd) (bad : Half) : State :=
  settleTags (pumpCmd (s.updCmd c.ref fun c =>
    { c with tags := c.tags.filter fun t => t != q.tag, bad := if bad = 0 ∨ c.bad = St.remoteRefused then c.bad else bad }) c.ref) c.ref

/-! ### The fence (R370, R456) -/

/-- Commands in progress that a fence ends. -/
def fenceEnds : List Nat := [0x0404, 0x0503, 0x0504, 0x0405, 0x0306, 0x0307, 0x0308]

/-- A run that the fence ends has not ended. -/
def runsLeft (s : State) : Bool := ((List.range 8).map (Fin.ofNat 8)).any fun c => (s.ctx c).run.any fun r => r.stop.isSome || (s.ctx c).fault.isSome

/-- Step 1 of R456: every RUN in progress is stopped, and the job counts as fenced. -/
def fenceJob (s : State) : State :=
  let s := ((List.range 8).map (Fin.ofNat 8)).foldl (fun s c => stopRun s c St.jobFenced) s
  match s.job with
  | some j => { s with job := some { j with fenced := true, fencing := true } }
  | none => s

/-- Steps 2 to 5 of R456. -/
def fenceRest (s : State) : State :=
  let s := (s.cmds.filter fun c => c.phase == .running && fenceEnds.contains c.opcode).foldl (fun s c => s.finishSt c.ref St.jobFenced) s
  let s := (s.colls.map (·.1)).foldl closeCollective s
  let s := abandonReqs s fun i =>
    match i with
    | .gatherHdr _ _ _ => true
    | .gatherRow _ _ _ _ => true
    | .exch _ _ => true
    | _ => false
  let s := { s with streams := [], arrivals := [] }
  match s.job with
  | some j => { s with job := some { j with fencing := false, groups := [] } }
  | none => s

/-- A command waits for every request that the device has outstanding. -/
def awaitAll (s : State) (r : CmdRef) : State :=
  let ts := (s.fab.reqs.filter fun q => !q.retry).map (·.tag)
  settleTags (s.updCmd r fun c => { c with phase := .running, tags := ts }) r

/-- Once the runs that a fence stopped have ended, it does the rest, and the commands that wait for it go on (R370, R456). -/
def fenceOn (s : State) : State :=
  if s.job.any (·.fencing) && !runsLeft s then
    let s := fenceRest s
    (s.cmds.filter fun c => c.phase == .running && (c.opcode == 0x0502 || c.opcode == 0x0704)).foldl (fun s c => awaitAll s c.ref) s
  else s

def jobCloseCheck (s : State) : Option Record := if s.job.isSome then none else refuse St.jobInvalid

/-- JOB_CLOSE. -/
def jobClose (s : State) (r : CmdRef) : State :=
  s.take r 0x0502 fun _ =>
    match s.job with
    | none => s.finishSt r St.jobInvalid
    | some j => fenceOn (awaitAll (if j.fenced then s else fenceJob s) r)

def jobFenceCheck (s : State) (p : BitVec 384) : Option Record :=
  if (s.job.any fun j => j.id.toNat == fld p 0 16) then none else refuse St.jobInvalid

/-- JOB_FENCE: a second one of a fenced job only waits. -/
def jobFence (s : State) (r : CmdRef) : State :=
  s.take r 0x0704 fun c =>
    match jobFenceCheck s c.payload with
    | some x => s.finish r x
    | none => fenceOn (awaitAll (if s.fenced then s else fenceJob s) r)

/-! ### STREAM_BIND (R379) -/

namespace SB
def stream (p : BitVec 384) : Nat := fld p 0 10
def entry (p : BitVec 384) : BitVec 128 := BitVec.ofNat 128 (fld p 128 128)
end SB

/-- A running section names the stream. -/
def streamNamed (s : State) (n : Nat) : Bool :=
  (s.grid.phase == .running || s.grid.phase == .starting || s.grid.phase == .draining) &&
    s.cores.any fun k => k.2.chans.any fun e => CH.valid e.2 && CH.endpoint e.2 == 1 && CH.stream e.2 == n

/-- A receive end's buffer: chip memory or the named core's own memory (R379). -/
def streamBufferOk (s : State) (x : BitVec 128) : Bool :=
  let e := s.devEntry (SE.bufHandle x)
  DE.valid e && DE.perm e pRD && DE.perm e pWR && decide (SE.bufRows x ≤ DE.rows e) &&
    (DE.tier e == 1 || (DE.tier e == 0 && (DE.base e - coreBase) / 0x200000 == (SE.core x).val))

/-- Fields of a valid entry are in range. -/
def streamEntryOk (s : State) (x : BitVec 128) : Bool :=
  decide (fld x 13 4 ≤ 11) &&
    (if SE.send x then SE.bufHandle x == 0 && SE.bufRows x == 0 && decide (16 ≤ SE.credits x) && decide (SE.credits x ≤ 4095)
     else decide (16 ≤ SE.bufRows x) && SE.credits x == 0 && streamBufferOk s x)

def streamBindCheck (s : State) (p : BitVec 384) : Option Record :=
  let x := SB.entry p
  if streamNamed s (SB.stream p) || (SE.valid x && !streamEntryOk s x) then refuse St.streamInvalid else none

def streamBind (s : State) (r : CmdRef) : State :=
  s.take r 0x0505 fun c =>
    let x := SB.entry c.payload
    (s.setStream (SB.stream c.payload) { entry := x, credits := if SE.send x then SE.credits x else 0 }).finishSt r St.complete

/-! ### Stream flits (R381, R382, R384) -/

/-- A record of a stream flit. -/
inductive StreamRec where
  | token (t : Token)
  | credit (n : Nat)

/-- Read records from bytes: those whole, and the bytes of one that continues; none for a reserved code (R381). -/
def readRecords : Nat → List Byte → Option (List StreamRec × List Byte)
  | 0, bs => some ([], bs)
  | _ + 1, [] => some ([], [])
  | n + 1, code :: t =>
    let size := match code.toNat with
      | 0x00 => some 258
      | 0x01 => some 4
      | 0x02 => some 2
      | 0x10 => some 2
      | _ => none
    match size with
    | none => if code = 0xFF then some ([], []) else none
    | some k =>
      if t.length < k then some ([], code :: t)
      else
        let body := ofBytes (t.take k)
        let r : StreamRec := match code.toNat with
          | 0x00 => .token (dataToken (BitVec.ofNat 16 body) (BitVec.ofNat 2048 (body >>> 16)))
          | 0x01 => .token ⟨1, 0, BitVec.ofNat 2048 body⟩
          | 0x02 => .token ⟨2, 0, BitVec.ofNat 2048 body⟩
          | _ => .credit body
        (readRecords n (t.drop k)).map fun x => (r :: x.1, x.2)

/-- Records suit the entry: tokens a receive end with room, credits a send end. -/
def recordsSuit (x : Stream) (rs : List StreamRec) : Bool :=
  if SE.send x.entry then rs.all fun r => match r with
    | .credit _ => true
    | .token _ => false
  else
    decide (x.buf.length + rs.length ≤ SE.bufRows x.entry) && rs.all fun r => match r with
      | .credit _ => false
      | .token _ => true

/-- One record is delivered. -/
def deliver (s : State) (n : Nat) (r : StreamRec) : State :=
  match r with
  | .token t => streamPush s n t
  | .credit k => s.setStream n { s.stream n with credits := (s.stream n).credits + k }

/-- The core of a stream goes on: it takes what has arrived, or sends what waited for credit. -/
def wakeStream (s : State) (n : Nat) : State :=
  let e := (s.stream n).entry
  let c := SE.core e
  if !(s.core c).active then s
  else if SE.send e then pumpChannel c (SE.channel e) (Tab.get [] (s.core c).txq (SE.channel e)).length s
  else runRecvs s c

/-- A stream flit for this device (R381). -/
def streamTake (s : State) (via : LinkId) (n : Nat) (body : List Byte) : State :=
  let x := s.stream n
  if !SE.valid x.entry || decide (1024 ≤ n) then countLinkDrop s via
  else
    let bs := x.partialBytes ++ body
    match readRecords (bs.length + 1) bs with
    | none => countLinkDrop s via
    | some (rs, rest) =>
      if !recordsSuit x rs then countLinkDrop s via
      else wakeStream (rs.foldl (fun s r => deliver s n r) (s.setStream n { x with partialBytes := rest })) n

/-- The flit is the next of TC0 in the receive buffer of a link (R297; log 13). -/
def streamNext (s : State) (via : LinkId) (n : BitVec 16) (payload : BitVec 1920) : Bool :=
  s.linkUp && (Tab.get [] (s.link via).rx 0).head?.any fun b =>
    fld b 0 2 == 2 && fld b 48 16 == n.toNat && flitPayload b == toBytes payload 240

/-- STREAM_FLIT: delivered, forwarded along PRIMARY routes, or dropped and counted (R299, R301, R313, R384). -/
def streamFlit (s : State) (via : LinkId) (n : BitVec 16) (payload : BitVec 1920) : State :=
  let dst : BitVec 20 := BitVec.ofNat 20 (fld payload 0 20)
  let take := consumeRx s via 0 1 1
  if !streamNext s via n payload then s
  else if s.fab.devId.isNone then countLinkDrop take via
  else if s.ownId dst then streamTake take via n.toNat ((toBytes payload 240).drop 4)
  else if s.outOfService dst then countLinkDrop take via
  else
    match s.streamLink dst with
    | none => countLinkDrop take via
    | some l =>
      pushFlits (consumeRx s via 0 1 0) l [{ lane := 0, via := some via, bits := flitBits 2 0 false false false n.toNat (toBytes payload 240) }]

/-- STREAM_CREDIT_SEND: what a receive end owes goes back (R382). -/
def streamCreditSend (s : State) (n : Nat) : State := if SE.valid (s.stream n).entry then streamCredit s n else s

end Sys2Proof.Machine
end

