-- ==== Sys2Proof/Machine/Responses.lean ====
section
/-!
DEFINITION. Responses and requests that time out (R298), packets forwarded (R301, R302, R313), and malformed packets (R307).
-/
namespace Sys2Proof.Machine

/-! ### Issuers that wait for a TAG (R298) -/

/-- Pieces of a context's gathers that still have rows to ask for. -/
def hungryPieces (s : State) (c : CtxId) : List (Nat × Nat) :=
  match (s.ctx c).run with
  | none => []
  | some r => (r.gathers.zipIdx).flatMap fun g =>
      ((g.1.pieces.zipIdx).filter fun p => p.1.headerOk && decide (p.1.asked < GLE.rows p.1.entry)).map fun p => (g.2, p.2)

/-- Issuers that found no TAG go on. -/
def resumeIssuers (s : State) : State :=
  let s := (s.colls.flatMap fun x => x.2.buckets.map fun b => (x.1, b.1)).foldl (fun s x => pumpOwner (sendBucket s x.1 x.2) x.1 x.2) s
  let s := ((List.range 8).map (Fin.ofNat 8)).foldl (fun s c => (hungryPieces s c).foldl (fun s p => pumpPiece s c p.1 p.2) s) s
  let s := (exchsOpen s).foldl (fun s x => pumpExch s x.1 x.2.index) s
  let s := (s.cmds.filter fun c => !c.queue.isEmpty && c.phase == .running).foldl (fun s c => pumpCmd s c.ref) s
  ((s.job.map fun j => j.groups.map fun g => GP.number g.entry).getD []).foldl pumpGroup s

/-- Commands that wait for every request named by their TAGs: closes and fences. -/
def tagWaiters : List Nat := [0x0402, 0x0502, 0x0704]

/-- A request has ended for good: commands that waited for its TAG, and issuers that waited for any, go on. -/
def tagEnded (s : State) (tag : Nat) : State :=
  if s.fab.reqs.any fun q => q.tag == tag then s
  else
    let s := (s.cmds.filter fun c => tagWaiters.contains c.opcode && c.phase == .running && c.tags.contains tag).foldl
      (fun s c => settleTags (s.updCmd c.ref fun d => { d with tags := d.tags.filter fun t => t != tag }) c.ref) s
    resumeIssuers s

/-! ### READ_RESP (R298) -/

/-- The answer to a request of a command. -/
def cmdAnswer (s : State) (q : Req) (r : CmdRef) (a : Packet) : State :=
  match s.cmd? r with
  | none => s
  | some c =>
    if c.phase ≠ .running ∨ c.tags.contains q.tag = false then s
    else if c.opcode = 0x0503 then barrierAnswer s q c a.status.toNat (fld a.ext1 32 8)
    else if c.opcode = 0x0504 then broadcastAnswer s q c (if a.status = 0 then 0 else St.remoteRefused)
    else remoteDone s c a

/-- The issuer acts on an answer. -/
def answer (s : State) (q : Req) (a : Packet) : State :=
  let st := a.status.toNat
  let dt := fld a.ext1 32 8
  match q.issuer with
  | .bucket _ id k => bucketAnswer s q id k st dt
  | .scale _ id k => scaleAnswer s q id k st dt
  | .verdict _ id k => noticeAnswer s q id k st dt
  | .gatherHdr c g p => headerAnswer s q c g p a
  | .gatherRow c g p row => rowAnswer s q c g p row a
  | .exch c i => exchAnswer s q c i st dt
  | .cmd r => cmdAnswer s q r a
  | .notice c => if st = 0 then s else raiseFault s (some c) St.remoteRefused (remoteFault q st dt)
  | .abandoned => s

/-- A request leaves the table. -/
def dropReq (s : State) (tag : Nat) : State := { s with fab := { s.fab with reqs := s.fab.reqs.filter fun q => q.tag != tag } }

/-- READ_RESP arrives; one whose request has ended is discarded and counted. -/
def respArrives (s : State) (via : Option LinkId) (p : Packet) : State :=
  packetArrives s via p ptResp fun s =>
    match s.fab.reqs.find? fun q => q.tag == p.tag.toNat && !q.retry with
    | none => { s with fab := { s.fab with lateResponses := s.fab.lateResponses + 1 } }
    | some q => tagEnded (answer (dropReq s q.tag) q p) q.tag

/-! ### REMOTE_TIMEOUT (R298, R338, R376, R377, R424) -/

/-- A command's request has timed out. -/
def cmdTimeout (s : State) (q : Req) (r : CmdRef) : State :=
  match s.cmd? r with
  | none => s
  | some c =>
    if c.phase ≠ .running ∨ c.tags.contains q.tag = false then s
    else if c.opcode = 0x0503 then (clearEntered s r).finishSt r St.keyholderUnreachable
    else if c.opcode = 0x0504 then broadcastAnswer s q c St.remoteTimeout
    else s.finishSt r St.remoteTimeout

/-- The issuer acts on a timeout; a collective closed meanwhile does not save its context from the fault (R298). -/
def timedOut (s : State) (q : Req) : State :=
  let f := remoteFault q 0 0
  match q.issuer with
  | .bucket c id k =>
    raiseFault (onBucket s id k fun b => { b with tags := b.tags.filter fun t => t != q.tag }) (some c) St.remoteTimeout f
  | .scale c id k =>
    if (s.coll id).isSome then distributionFailed s id k q St.remoteTimeout 0 0 else raiseFault s (some c) St.remoteTimeout f
  | .verdict c id k =>
    raiseFault (onBucket s id k fun b => { b with noticeTags := b.noticeTags.filter fun t => t != q.tag }) (some c) St.remoteTimeout f
  | .gatherHdr c g p =>
    match getPiece s c g p with
    | some (x, _) => faultEntry s c (pieceIndex x p) ⟨St.remoteTimeout, f⟩
    | none => s
  | .gatherRow c g p _ =>
    match getPiece s c g p with
    | some (x, _) => faultEntry s c (pieceIndex x p) ⟨St.remoteTimeout, f⟩
    | none => s
  | .exch c i => faultEntry s c i ⟨St.remoteTimeout, f⟩
  | .cmd r => cmdTimeout s q r
  | .notice c => raiseFault s (some c) St.remoteTimeout f
  | .abandoned => s

/-- REMOTE_TIMEOUT: a request that waits to be sent again has no timeout running. -/
def remoteTimeout (s : State) (tag : Nat) : State :=
  match s.fab.reqs.find? fun q => q.tag == tag && !q.retry with
  | none => s
  | some q => tagEnded (timedOut (dropReq s tag) q) tag

/-! ### Packets for others, and malformed ones -/

/-- PACKET_FORWARD (R299, R301, R302, R313). -/
def packetForward (s : State) (via : Option LinkId) (p : Packet) : State :=
  if s.ownId p.dst then s
  else
    match takePacket s via p (packetFlits p none).length with
    | none => s
    | some s => dispatchPacket s via p

/-- NCODEs that a chapter assigns (R307). -/
def noticeCodes : List Nat := [0x10, 0x11, 0x12, 0x13, 0x20, 0x21]

/-- A packet of a reserved PTYPE, or a NOTICE of a reserved NCODE. -/
def malformed (p : Packet) : Bool :=
  p.ptype == 0 || decide (9 ≤ p.ptype.toNat) || (p.ptype == ptNotice && !noticeCodes.contains (fld p.ext1 0 8))

/-- MALFORMED_PACKET (R307). -/
def malformedArrives (s : State) (via : Option LinkId) (p : Packet) : State :=
  if malformed p then packetArrives s via p p.ptype fun s => answerPacket s p 10 0 else s

end Sys2Proof.Machine
end

