-- ==== Sys2Proof/Machine/ResetOps.lean ====
section
/-!
DEFINITION. Engine resets (R437 to R441), suspects and their replay (R442 to R446), deadbolt (R447 to R449), device resets
(R450, R451) and peer notices (R453 to R455).
-/
namespace Sys2Proof.Machine

def State.setRst (s : State) (x : ResetCtl) : State := { s with rst := x }

/-- The device is in service: resets can start. -/
def State.inService (s : State) : Bool :=
  s.mgmtUp && (s.host.state == .ready || s.host.state == .deadbolt || s.host.state == .engineReset)

/-! ### Records of accepted commands that a reset ends (R448, R450) -/

/-- The record of a command, finished or not, becomes a bare status; FLAGS stay (R69). -/
def overridden (s : State) (c : Cmd) (st : Half) : Record :=
  match c.phase with
  | .done x => { status := st, flags := x.flags }
  | .ending x => { status := st, flags := x.flags }
  | _ => { status := st, flags := if c.opcode = 0x0201 ∧ c.phase ≠ .waiting then (s.ctx c.ring).accFlags else 0 }

/-- The END record of a command that waits to be written takes its status (R497). -/
def restateEnd (s : State) (c : Cmd) (x : Record) : State :=
  let one := fun (q : BitVec 2048 × Option CmdRef) =>
    if decide (q.2 = some c.ref) && auditKind q.1 == AK.ended then (put (put q.1 160 16 x.status.toNat) 176 32 x.detail.toNat, q.2) else q
  s.setSec { s.sec with auditQ := s.sec.auditQ.map one }

/-- End one command with a status. One whose audit BEGIN is written has an END record first (R496). -/
def endCmd (s : State) (st : Half) (c : Cmd) : State :=
  let x := overridden s c st
  match c.phase with
  | .begun => endAudit s c x
  | .cleared => endAudit s c x
  | .running => if installerOps.contains c.opcode || makerOps.contains c.opcode then endAudit s c x else s.setPhase c.ref (.done x)
  | .ending _ => (restateEnd s c x).setPhase c.ref (.ending x)
  | _ => s.setPhase c.ref (.done x)

def endCmds (s : State) (st : Half) (p : Cmd → Bool) : State := (s.cmds.filter p).foldl (fun s c => endCmd s st c) s

/-- Job commands (R421). -/
def jobOps : List Nat := fencedOps ++ [0x0502]

/-! ### ENGINE_RESET and the other triggers (R437, R438, R444) -/

/-- ENGINE_RESET: refused in deadbolt; one that comes during a reset joins it; where a failed device reset holds the compute domain it
has nothing to do (log 132). -/
def engineReset (s : State) (r : CmdRef) : State :=
  s.take r 0x0701 fun c =>
    if s.rst.deadbolt then s.finishSt r St.deadbolt
    else if !s.inService then s.finishSt r St.complete
    else
      let s := triggerEngine s 2 none r.seq (bit c.payload 0)
      (s.setRst { s.rst with cmds := s.rst.cmds ++ [r] }).setPhase r .running

/-- An error in the section sequencer or a stash engine that no context answers for. -/
def sequencerError (s : State) : State := if s.inService then triggerEngine s 3 none 0 false else s

/-- The replay watchdog finds the suspect guilty. -/
def replayExpired (s : State) : State :=
  if s.grid.replay && s.rst.replaying.any fun q => q.outcome == 0 then triggerEngine s 0 none 0 true else s

/-! ### Engine reset, step 1 (R439, R440 to R442, R447) -/

/-- RESETS resets started within WINDOW, this one counted. -/
def limitReached (x : ResetCtl) (now : Dword) : Bool :=
  decide (x.limit ≤ (x.history.filter fun t => decide ((now - t).toNat < x.windowMin * 60000000)).length)

/-- The bucket sender stops every bucket of a context's runs, started or not; what is refused is not sent again (R440). -/
def stopSender (s : State) (c : CtxId) : State :=
  let ids := (s.colls.filter fun x => x.2.ctx == c).map (·.1)
  let s := dropRetries s fun i _ => ids.contains i
  { s with colls := s.colls.map fun x =>
      if x.2.ctx = c then (x.1, { x.2 with buckets := x.2.buckets.map fun b => (b.1, { b.2 with awaiting := false, sending := none, tags := [] }) }) else x }

/-- Grid time of a run, with what it has run since the last hinge (R443). -/
def ranFor (s : State) (c : CtxId) (r : RunSt) : Nat :=
  r.gridTime + (if s.grid.ctx = some c ∧ s.grid.phase = .running then (s.time - s.grid.mark).toNat else 0)

/-- The run of a context ends and becomes a suspect. One whose abort is draining has stopped, and is ABORTED (R418, R419). -/
def suspectRun (s : State) (c : CtxId) : State :=
  let x := s.ctx c
  match x.run with
  | none => s
  | some r =>
    let gone := r.stop == some St.aborted
    let q : Suspect := { ctx := c, run := { r with gridTime := ranFor s c r }, firstFault := x.fault, flags := x.accFlags, aborted := gone }
    let s := stopSender (abandonRun s c) c
    let s := settleBinding s c r.payload St.contextReset
    let s := s.updCmd (r.ref c) fun d => { d with bound := false }
    let s := s.setCtx c { s.ctx c with run := none, fault := none, switchedOut := false, accFlags := 0 }
    let s := s.setRst { s.rst with suspects := s.rst.suspects ++ [q] }
    if gone then s.finish (r.ref c) { status := St.aborted, flags := x.accFlags } else s

/-- Every context, in ascending number. -/
def allCtxs : List CtxId := List.finRange 8

/-- The payload of an ENGINE_RESET record (R515). -/
def engineRecord (x : ResetCtl) : BitVec 384 :=
  let core := if x.recovery then none else x.trigCore
  word 384 [(0, 16, St.coreProgressTimeout.toNat), (16, 5, (core.map coreCol).getD 0), (21, 4, (core.map coreRow).getD 0),
    (25, 1, b2n core.isSome), (32, 32, if x.recovery then 0 else x.trigSeq.toNat), (240, 16, if x.recovery then 4 else x.trigger)]

/-- The compute domain is held: no context holds the grid, no core issues. -/
def holdGrid (s : State) : State :=
  allCores.foldl (fun s i => s.setCore i { s.core i with active := false }) { s with grid := { phase := .held } }

/-- The run of a replay ends with its recovery reset. -/
def dropReplay (s : State) : State :=
  match s.rst.replaying with
  | some q => let s := abandonRun s q.ctx
              s.setCtx q.ctx { s.ctx q.ctx with run := none, fault := none, switchedOut := false, accFlags := 0 }
  | none => s

/-- ENGINE_RESET_START. -/
def engineStart (s : State) : State :=
  if s.rst.eng ≠ .triggered ∨ s.rst.dev = true then s
  else
    let x := s.rst
    let ref := s.nextRef
    let s := bbFreeze (bbAppend s 3 none (engineRecord x))
    let s := changeState s .engineReset
    let s := { s with tel := { s.tel with engineResets := countReset s.tel.engineResets } }
    if x.recovery then
      applyHeld (holdGrid (dropReplay (s.setRst { x with eng := .started })))
    else
      let x := { x with eng := .started, ref := ref, history := x.history ++ [s.time] }
      let s := s.setRst { x with enterDeadbolt := limitReached x s.time }
      fenceOn (releaseReads (applyHeld (holdGrid (allCtxs.foldl suspectRun (joinFlags s)))))

/-! ### Steps 2 and 3 -/

/-- ENGINE_RESET_EDGE_CLOSED: every queue, register, accumulator and core-memory row is cleared. -/
def engineEdge (s : State) : State :=
  if s.rst.eng ≠ .started then s
  else
    let s := clearCores s
    let s := allCores.foldl (fun s c => s.setCore c { vectors := (s.core c).vectors, vinstr := (s.core c).vinstr }) s
    { s with grid := { phase := .held }, rst := { s.rst with eng := .edgeClosed } }

/-! ### Settling suspects (R444, R445) -/

/-- Outcome code of a SUSPECT record (R515). -/
def outcomeCode (q : Suspect) (outcome : Nat) : Nat :=
  match outcome with
  | 0 => if q.aborted then 5 else 4
  | 1 => 0
  | 2 => 1
  | 3 => 2
  | 4 => 3
  | n => n - 1

/-- The record of a suspect's run, by the first row of R445 that applies. Outcomes: 0 not replayed, 1 innocent, 2 inconclusive,
3 guilty, 4 killed. -/
def suspectRecord (s : State) (q : Suspect) (outcome : Nat) : Record :=
  if q.aborted then { status := St.aborted, flags := q.flags }
  else if outcome = 3 ∨ outcome = 4 then { status := St.coreProgressTimeout, faultRef := s.rst.ref, flags := q.flags }
  else
    match q.firstFault with
    | some f => { status := f.status, detail := f.detail, faultRef := f.ref, flags := q.flags }
    | none => { status := St.contextReset, flags := q.flags }

def settleSuspect (s : State) (q : Suspect) (outcome : Nat) : State :=
  let x := suspectRecord s q outcome
  let s := bbAppend s 5 (some q.ctx) (word 384 [(0, 16, outcomeCode q outcome), (32, 32, q.run.seq.toNat), (240, 16, x.status.toNat)])
  if q.aborted then s else s.finish (q.run.ref q.ctx) x

/-- No entry was both read and written (R442). -/
def replayable (r : RunSt) : Bool := !r.rdSeen.any fun i => r.wrSeen.contains i

/-- The reset and its replays have ended: ENGINE_RESET completes (R438). -/
def resetEnded (s : State) : State :=
  let s' := s.rst.cmds.foldl (fun s r => s.finishSt r St.complete) s
  s'.setRst { s'.rst with cmds := [], suspects := [] }

/-- Suspects in ascending context number, up to the first that is to be replayed. -/
def settleFrom : List Suspect → State → State
  | [], s => resetEnded s
  | q :: t, s =>
    if q.aborted then settleFrom t (settleSuspect s q 0)
    else if replayable q.run then s.setRst { s.rst with suspects := q :: t }
    else settleFrom t (settleSuspect s q 4)

/-- Settle what needs no replay. -/
def settleNext (s : State) : State := settleFrom s.rst.suspects s

/-! ### Deadbolt (R447, R448) -/

/-- Entering deadbolt: recorded, frozen, kept in flash, told to the peers; job commands end. -/
def enterDeadbolt (s : State) (keep : Cmd → Bool) : State :=
  let s := s.setRst { s.rst with deadbolt := true, enterDeadbolt := false }
  let s := bbFreeze (bbAppend s 0xD none (word 384 [(208, 32, s.rst.limit), (240, 16, s.rst.windowMin)]))
  let s := changeState s .deadbolt
  let s := endCmds s St.deadbolt fun c => jobOps.contains c.opcode && !keep c
  let s := { s with colls := s.colls.map fun (x : Nat × Collective) => (x.1, { x.2 with switch := none }) }
  match s.job with
  | some j => { s with job := some { j with groups := j.groups.map fun g => { g with entered := none } } }
  | none => s

/-! ### Step 4 (R439, R444, R445) -/

/-- ENGINE_RESET_DONE. -/
def engineDone (s : State) : State :=
  if s.rst.eng ≠ .edgeClosed then s
  else
    let x := s.rst
    let s := { s with grid := {}, rst := { x with eng := .idle, recovery := false } }
    match x.replaying with
    | some q =>
      let s := changeState s .ready
      settleNext (settleSuspect (s.setRst { s.rst with replaying := none }) q q.outcome)
    | none =>
      let runs := x.suspects.map fun q => q.run.ref q.ctx
      if x.enterDeadbolt then
        let s := x.suspects.foldl (fun s q => settleSuspect s q 0) s
        resetEnded (enterDeadbolt s fun c => runs.contains c.ref)
      else
        let s := changeState s (if x.deadbolt then .deadbolt else .ready)
        if x.noReplay then resetEnded (x.suspects.foldl (fun s q => settleSuspect s q 0) s) else settleNext s

/-- ENGINE_RESET_TIMEOUT: a device reset begins. -/
def engineTimeout (s : State) : State :=
  if (s.rst.eng = .started ∨ s.rst.eng = .edgeClosed) ∧ s.rst.devWanted.isNone = true then s.setRst { s.rst with devWanted := some 0 } else s

/-! ### Replays (R443, R444) -/

/-- The run of a replay: its first section, its original payload. -/
def replayRun (r : RunSt) : RunSt :=
  { seq := r.seq, nth := r.nth, payload := r.payload, cur := RUN.first r.payload, left := if RUN.count r.payload = 0 then none else some (RUN.count r.payload) }

/-- SUSPECT_REPLAY_START: sealed, alone on the grid. -/
def replayStart (s : State) : State :=
  if s.rst.eng ≠ .idle ∨ s.rst.dev = true ∨ s.rst.replaying.isSome = true ∨ s.grid.phase ≠ .idle then s
  else
    let s := settleNext s
    match s.rst.suspects with
    | [] => s
    | q :: t =>
      let s := s.setRst { s.rst with suspects := t, replaying := some q }
      let s := s.setCtx q.ctx { s.ctx q.ctx with run := some (replayRun q.run), fault := none, accFlags := 0, switchedOut := false }
      loadSection { s with grid := { s.grid with replay := true } } q.ctx

/-- SUSPECT_REPLAY_END: the replay has completed or ended in a fault. -/
def replayEnd (s : State) : State :=
  match s.rst.replaying with
  | some q =>
    if q.outcome = 0 ∨ s.rst.eng ≠ .idle ∨ s.grid.phase ≠ .idle then s
    else settleNext (settleSuspect (s.setRst { s.rst with replaying := none }) q q.outcome)
  | none => s

/-! ### Device reset (R450, R451) -/

/-- DEVICE_RESET: the command is in progress until the device is ready; a second one waits, and the reset ends it. -/
def deviceReset (s : State) (r : CmdRef) : State :=
  s.take r 0x0702 fun _ =>
    if s.rst.devWanted.isSome then s.defer r
    else (s.setRst { s.rst with devWanted := some 3, devCmd := some r }).setPhase r .running

/-- LINK_DOMAIN_FAILURE (R428). -/
def domainFailure (s : State) (memory : Bool) : State :=
  if s.inService && s.rst.devWanted.isNone then s.setRst { s.rst with devWanted := some (if memory then 2 else 1) } else s

/-- The act of DEADBOLT_CLEAR: history and flash record, then a device reset (R449). -/
def clearDeadbolt (c : Cmd) (s : State) : State :=
  if s.rst.devWanted.isSome then s
  else
    let x := { s.rst with deadbolt := false, enterDeadbolt := false, history := [] }
    (s.setRst { x with devWanted := some 4, devCmd := some c.ref }).setPhase c.ref .running

def deadboltClear (s : State) (r : CmdRef) : State := audited s r 0x0906 [] clearDeadbolt

/-- What the memory domain holds after its reset: the CXL tier's rows, and what firmware keeps (R102, R534; log 4). -/
def resetMem (m : MemSys) : MemSys :=
  { mem := m.mem.filter fun c => decide (cxlBase ≤ c.1) && decide (c.1 < chipBase)
    poison := m.poison.filter fun k => decide (cxlBase ≤ k * 32) && decide (k * 32 < chipBase)
    errRows := m.errRows, remaps := m.remaps, kept := m.kept }

/-- Every window closed at a generation, and the copies of the generations. -/
def closedWindows (g : Nat → Half) : Tab Window :=
  (List.range 4096).filterMap fun w => if g w = 0 then none else some (w, { gen := g w, service := g w })
def genTable (g : Nat → Half) : Tab Half := (List.range 4096).filterMap fun w => if g w = 0 then none else some (w, g w)

/-- The link domain after its reset; the installer's settings take effect (R300, R309, R421). -/
def resetFab (f : Fabric) : Fabric :=
  let g := fun w => Tab.get 0 f.genCopy w + 1
  { devId := f.devId, idBase := f.idBase, routes := f.routeDefaults, routeDefaults := f.routeDefaults, windows := closedWindows g,
    genCopy := genTable g, cfg := f.cfgNext, cfgNext := f.cfgNext }

/-- The compute domain, cleared: what the management domain counts of each core stays. -/
def resetCores (s : State) : Tab Core :=
  allCores.foldl (fun t c => Tab.set {} t c.val { vectors := (s.core c).vectors, vinstr := (s.core c).vinstr }) []

/-- Link, memory and compute domains at reset, and what R450 closes. -/
def resetDomains (s : State) : State :=
  restartClocks { s with
    ctxs := [], job := none, colls := [], arrivals := [], streams := [], grid := { phase := .held }, cores := resetCores s
    engines := [], keys := [], held := [], ms := resetMem s.ms, fab := resetFab s.fab }

/-- DEVICE_RESET_START: bound headers become INCONSISTENT (R359), and every accepted command but the trigger ends. -/
def deviceStart (s : State) : State :=
  match s.rst.devWanted with
  | none => s
  | some t =>
    if s.rst.dev && s.host.state == .deviceReset then s
    else
      let x := s.rst
      let mine := fun (c : Cmd) => x.devCmd.any fun r => Cmd.is r c
      let seq := (x.devCmd.map fun r => r.seq.toNat).getD 0
      let s := bbFreeze (bbAppend s 4 none (word 384 [(32, 32, seq), (240, 16, t)]))
      let s := setDevState s .deviceReset
      let s := { s with tel := { s.tel with deviceResets := countReset s.tel.deviceResets } }
      let s := (s.cmds.filter (·.bound)).foldl (fun s c => settleBinding s c.ring c.payload St.contextReset) (joinFlags s)
      let s := { s with cmds := s.cmds.map fun c => { c with bound := false } }
      let s := endCmds s St.contextReset fun c => !mine c
      (resetDomains s).setRst { x with eng := .idle, noReplay := false, recovery := false, cmds := [], suspects := [], replaying := none,
                                       dev := true, devWanted := none }

/-- What training and enumeration found (R255, R263). -/
def applyTraining (s : State) (k : Fin 5) (t : Training) : State :=
  let port := fun (f : CxlFound) => ({ units := min f.units 8192, lanes := f.lanes, code := f.code } : CxlPort)
  portClocks { s with ms := { s.ms with
      gddrRate := BitVec.ofNat 8 (32 + 4 * k.val), cxl := Tab.set {} (Tab.set {} [] 0 (port t.cxl0)) 1 (port t.cxl1)
      cxlInterleave := s.fab.cfg.interleave } }

/-- A channel has failed training at 32 Gbit/s: recorded, and ready is not reached (R256). -/
def trainingFailed (s : State) (c : ChanId) : State :=
  bbFreeze (bbAppend (s.setRst { s.rst with failed := true }) 0xB none (word 384 [(208, 32, c.val)]))

/-- The rate lies within the ceiling in force. -/
def rateAllowed (s : State) (k : Fin 5) : Bool := decide (k.val ≤ s.fab.cfg.ceiling.toNat)

/-- The triggering command's record; DEADBOLT_CLEAR has its END record first. -/
def endDevCmd (s : State) (r : CmdRef) (st : Half) : State :=
  match s.cmd? r with
  | some c => if c.opcode = 0x0906 then endAudit s c { status := st } else s.finishSt r st
  | none => s

/-- The command that triggered the reset ends. -/
def releaseDevCmd (s : State) (st : Half) : State :=
  let r := s.rst.devCmd
  let s := s.setRst { s.rst with devCmd := none }
  match r with
  | some r => endDevCmd s r st
  | none => s

/-- DEVICE_RESET_DONE. -/
def deviceDone (s : State) (t : Training) : State :=
  if s.rst.dev = false ∨ s.host.state ≠ .deviceReset ∨ s.rst.failed = true then s
  else
    match t.rate with
    | none => trainingFailed s t.failing
    | some k =>
      if !rateAllowed s k then s
      else
        let s := applyTraining s k t
        let s := { s with grid := {}, rst := { s.rst with dev := false } }
        let s := if s.rst.enterDeadbolt then enterDeadbolt s fun _ => false
                 else changeState s (if s.rst.deadbolt then .deadbolt else .ready)
        releaseDevCmd s St.complete

/-- DEVICE_RESET_TIMEOUT: not ready, and FAULT# asserted (R450, R524). -/
def deviceTimeout (s : State) : State :=
  if s.rst.dev = false ∨ s.host.state ≠ .deviceReset then s
  else
    let s := changeState { s with mod := { s.mod with fault := true }, rst := { s.rst with failed := true } } .notReady
    releaseDevCmd s St.deviceNotReady

/-! ### PEER_NOTICE (R453 to R455) -/

namespace PN
def peer (p : BitVec 384) : Nat := fld p 0 20
def event (p : BitVec 384) : Nat := fld p 20 3
def step (p : BitVec 384) : Nat := fld p 32 32
end PN

def peerNotice (s : State) (r : CmdRef) : State :=
  s.take r 0x0703 fun c =>
    let p := c.payload
    let s := bbAppend s 6 none (word 384 [(0, 16, PN.event p), (208, 32, PN.step p), (256, 20, PN.peer p)])
    let s :=
      if 1 ≤ PN.event p ∧ PN.event p ≤ 3 then { s with fab := { s.fab with marks := insertSorted (PN.peer p) s.fab.marks } }
      else if PN.event p = 4 then { s with fab := { s.fab with marks := s.fab.marks.filter fun d => d != PN.peer p } }
      else s
    s.finishSt r St.complete

/-! ### RESET_LIMITS_SET (R447) -/

def resetLimits (s : State) (r : CmdRef) : State :=
  audited s r 0x0902 [] fun c s =>
    endAudit (resettle s (s.setRst { s.rst with limit := fld c.payload 0 4, windowMin := fld c.payload 16 11 })) c {}

end Sys2Proof.Machine
end

