-- ==== Sys2Proof/Machine/SecurityOps.lean ====
section
/-!
DEFINITION. Fuses (R477, R478), the boot chain and firmware updates (R479 to R484), attestation (R485 to R487), roles (R489 to
R493), the debug lock (R494, R495), and the installer's and maker's settings.
-/
namespace Sys2Proof.Machine

/-! ### FUSE_PROGRAM (R478) -/

namespace FP
def field (p : BitVec 384) : Nat := fld p 0 8
def index (p : BitVec 384) : Nat := fld p 8 8
def length (p : BitVec 384) : Nat := fld p 32 32
end FP

/-- A FUSE_PROGRAM of a field is accepted and not finished. -/
def fusePending (s : State) (code : Nat) : Bool := s.cmds.any fun c => c.opcode == 0x0A01 && !c.isDone && FP.field c.payload == code

/-- Identity seed and serial are written once; one that an accepted command is to write counts as written (log 134). -/
def fuseTaken (s : State) (p : BitVec 384) : Bool :=
  (FP.field p == FU.identity || FP.field p == FU.serial) && (fuse s (FP.field p) (FP.index p) != 0 || fusePending s (FP.field p))

def fuseCheck (s : State) (p : BitVec 384) : Option Record := if fuseTaken s p then refuse St.payloadInvalid else none

/-- FUSE_PROGRAM: LENGTH bytes are read. -/
def fuseProgram (s : State) (r : CmdRef) (host : List Byte) : State :=
  match s.cmd? r with
  | some c =>
    if c.isWaiting && host.length != FP.length c.payload then s
    else
      audited s r 0x0A01 host fun c s =>
        let t := setFuse s (FP.field c.payload) (FP.index c.payload) (ofBytes c.data)
        endAudit (measureFuses t t.sec.debugOpen) c {}
  | none => s

/-! ### Images (R479, R480) -/

/-- A section of an image. -/
structure FwSection where
  header : List Byte
  key : List Byte
  sig : List Byte
  body : List Byte

namespace FwSection
def head (x : FwSection) : BitVec 640 := BitVec.ofNat 640 (ofBytes x.header)
def svn (x : FwSection) : Nat := fld x.head 16 8
def slot (x : FwSection) : Nat := fld x.head 24 2
/-- All bytes of the section. -/
def bytes (x : FwSection) : List Byte := x.header ++ x.key ++ x.sig ++ x.body
end FwSection

/-- Sections that bytes hold one after the other; none where the last is cut short. -/
def sections : Nat → List Byte → Option (List FwSection)
  | 0, bs => if bs.isEmpty then some [] else none
  | n + 1, bs =>
    if bs.isEmpty then some []
    else
      let x : FwSection := { header := bs.take 80, key := (bs.drop 80).take 2592, sig := (bs.drop 2672).take 4627, body := [] }
      let len := fld x.head 32 32
      if bs.length < 7299 + len then none
      else (sections n (bs.drop (7299 + len))).map fun t => { x with body := (bs.drop 7299).take len } :: t

/-- R480 of one section. -/
def sectionOk (s : State) (x : FwSection) : Bool :=
  fld x.head 0 16 == 1 && !(fuse s FU.rootRevoke 0).testBit x.slot && (Config.sha3 x.key).toNat == fuse s FU.rootHash x.slot &&
    Config.mlDsaVerify x.key (x.header ++ x.key) x.sig && (Config.sha3 x.body).toNat == fld x.head 128 512 &&
    decide (rollbackCount s ≤ x.svn)

/-- The sections of an image that verifies: stage 1, stage 2 and the rest, of one SVN. -/
def verified (s : State) (image : List Byte) : Option (List FwSection) :=
  match sections image.length image with
  | some (x :: y :: t) => if (x :: y :: t).all (fun z => sectionOk s z && z.svn == x.svn) then some (x :: y :: t) else none
  | _ => none

/-- R480 of the image as shipped: key slot 0 signed it, ROOT_HASH[0] still holds the hash of that key as provisioned, and its SVN is 0
(log 9). -/
def shippedOk (s : State) : Bool :=
  !(fuse s FU.rootRevoke 0).testBit 0 && fuse s FU.rootHash 0 == fuseMask FU.rootHash (Config.shippedFuse (256 * FU.rootHash)) &&
    rollbackCount s == 0

/-- SVN of an image and the digests of its sections in order, where the slot verifies. -/
def slotVerifies (s : State) (x : Slot) : Option (Nat × List (BitVec 512)) :=
  if x.invalid then none
  else if x.shipped then
    (if shippedOk s then some (0, [Config.shippedDigest 1, Config.shippedDigest 2, Config.shippedDigest 3]) else none)
  else (verified s x.image).map fun l => ((l.map (·.svn)).headD 0, l.map fun z => Config.sha3 z.bytes)

/-- Digest of section 1 of a slot, where it verifies by itself: the ROM runs it (R481, R482). The sections of an image as shipped verify
together or not at all (log 9). -/
def firstStage (s : State) (x : Slot) : Option (BitVec 512) :=
  if x.invalid then none
  else if x.shipped then (if shippedOk s then some (Config.shippedDigest 1) else none)
  else
    match (sections x.image.length x.image).bind (·.head?) with
    | some z => if sectionOk s z then some (Config.sha3 z.bytes) else none
    | none => none

/-! ### Slots (R481, R483) -/

def getSlot (s : State) (b : Bool) : Slot := if b then s.sec.slotB else s.sec.slotA
def setSlot (s : State) (b : Bool) (x : Slot) : State :=
  s.setSec (if b then { s.sec with slotB := x } else { s.sec with slotA := x })

/-- Copy 0 of the active-slot record counts: it is valid, and copy 1 is not or carries no higher number (R481; log 9). -/
def firstCounts (x : Security) : Bool := x.rec0.valid && !(x.rec1.valid && decide (x.rec0.seq < x.rec1.seq)) || !x.rec1.valid

/-- The slot that the active-slot record names: the valid copy with the higher number counts. -/
def activeSlot (x : Security) : Bool := if firstCounts x then x.rec0.slot else x.rec1.slot

/-- The copy that does not count is being written: until it is whole it is not valid (R484). -/
def openActive (s : State) : State :=
  s.setSec (if firstCounts s.sec then { s.sec with rec1 := { s.sec.rec1 with valid := false } } else { s.sec with rec0 := { s.sec.rec0 with valid := false } })

/-- Write the copy that carries the lower number. -/
def writeActive (s : State) (b : Bool) : State :=
  s.setSec (if firstCounts s.sec then { s.sec with rec1 := { seq := s.sec.rec0.seq + 1, slot := b } }
            else { s.sec with rec0 := { seq := s.sec.rec1.seq + 1, slot := b } })

/-- SVN of the image in a slot. -/
def slotSvn (x : Slot) : Nat :=
  if x.shipped then 0 else (((sections x.image.length x.image).bind fun l => l.head?).map FwSection.svn).getD 0

/-- The slot that does not run. -/
def idleSlot (s : State) : Bool := !(s.sec.running.getD (activeSlot s.sec))

/-! ### FIRMWARE_UPDATE (R483, R484) -/

namespace FW
def action (p : BitVec 384) : Nat := fld p 0 2
def length (p : BitVec 384) : Nat := fld p 32 32
end FW

def firmwareRefused (d : Nat) : Record := { status := St.payloadInvalid, detail := BitVec.ofNat 32 d }

/-- A FIRMWARE_UPDATE is in progress: accepted and not finished (log 134). -/
def firmwareBusy (s : State) : Bool := s.cmds.any fun c => c.opcode == 0x0905 && !c.isDone

/-- The reason of R484 for which an action cannot take place. -/
def firmwareBar (s : State) (p : BitVec 384) : Option Record :=
  let x := getSlot s (idleSlot s)
  if FW.action p = 1 ∧ (x.staged && !x.invalid) = false then some (firmwareRefused 3)
  else if FW.action p = 2 ∧ s.sec.runningSvn ≤ rollbackCount s then some (firmwareRefused 5)
  else none

def firmwareCheck (s : State) (p : BitVec 384) : Option Record := if firmwareBusy s then some (firmwareRefused 4) else firmwareBar s p

/-- STAGE: the image goes into the idle slot, which is unverified meanwhile. -/
def stageImage (c : Cmd) (s : State) : State := (setSlot s (idleSlot s) { image := c.data }).setPhase c.ref .running

/-- STAGE has verified every section. -/
def stageDone (c : Cmd) (s : State) : State :=
  let good := (verified s c.data).isSome
  let s := setSlot s (idleSlot s) { image := c.data, staged := good }
  endAudit s c (if good then {} else firmwareRefused 2)

/-- ACTIVATE: a copy of the active-slot record is being written. -/
def activateSlot (c : Cmd) (s : State) : State := (openActive s).setPhase c.ref .running

/-- ACTIVATE: the copy is whole. -/
def activateDone (c : Cmd) (s : State) : State := endAudit (writeActive s (idleSlot s)) c {}

/-- The lowest clear bits of a number are set until n are. -/
def raiseTo (n v : Nat) : Nat :=
  (List.range 64).foldl (fun v i => if popCount 64 v < n ∧ v.testBit i = false then v ||| 2 ^ i else v) v

/-- COMMIT. -/
def commitImage (c : Cmd) (s : State) : State :=
  let n := s.sec.runningSvn
  let s := setFuse s FU.rollback 0 (raiseTo n (fuse s FU.rollback 0))
  let x := getSlot s (idleSlot s)
  let s := if slotSvn x < n then setSlot s (idleSlot s) { x with invalid := true } else s
  endAudit (measureFuses s s.sec.debugOpen) c {}

/-- A FIRMWARE_UPDATE of one action: what it does once its BEGIN is durable, and what a flash write under way ends with. -/
def firmware (s : State) (r : CmdRef) (action : Nat) (host : List Byte) (act fin : Cmd → State → State) : State :=
  match s.cmd? r with
  | some c =>
    if FW.action c.payload ≠ action then s
    else if c.phase = .running ∧ c.opcode = 0x0905 then fin c s
    else audited s r 0x0905 host act
  | none => s

/-- STAGE reads LENGTH bytes. -/
def firmwareStage (s : State) (r : CmdRef) (image : List Byte) : State :=
  match s.cmd? r with
  | some c => if c.isWaiting && image.length != FW.length c.payload then s else firmware s r 0 image stageImage stageDone
  | none => s

/-! ### BOOT (R481, R482, R515, R517) -/

/-- The slot that boots, with its SVN and digests. -/
def bootSlot (s : State) : Option (Bool × Nat × List (BitVec 512)) :=
  let a := activeSlot s.sec
  match slotVerifies s (getSlot s a) with
  | some x => some (a, x)
  | none => (slotVerifies s (getSlot s !a)).map fun x => (!a, x)

/-- Measurements of a boot (R482, R488); the stage 1 of a slot tried first, which ran, among them. -/
def measureBoot (s : State) (tried : Option (BitVec 512)) (ds : List (BitVec 512)) : State :=
  let s := s.setSec { s.sec with meas := [] }
  let s := extend s 1 Config.romMeasurement
  let s := match tried with
    | some d => extend s 2 d
    | none => s
  let s := extend (extend s 2 (ds.getD 0 0)) 3 (ds.getD 1 0)
  let s := (ds.drop 2).foldl (fun s d => extend s 4 d) s
  measureFuses (measureSettings s) false

/-- Records of a span that ends at one. -/
def spanOf (b : BlackBox) (k : Nat) : List (BitVec 512) :=
  ((b.recs.filter fun r => decide (r.1 ≤ k) && decide (k ≤ r.1 + 2047)).map (·.2))

/-- One copy into the oldest freeze slot. -/
def copySpan (b : BlackBox) (k : Nat) : BlackBox := { b with slots := (spanOf b k :: b.slots).take 8 }

/-- The copies that PERST# cut short or left waiting, in order, then one more freeze (R517). -/
def resumeCopies (s : State) : State :=
  let b := s.bb
  let b := (b.copying.toList ++ b.waiting).foldl copySpan b
  let s := { s with bb := { b with copying := none, waiting := [] } }
  if s.mod.coldBoot then s else bbFreeze s

/-- Stage 2 sets every window's generation from entropy (R309; log 2), loads the routes and settings in flash (R300, R421) and
starts the islands and the cap loop (R461, R464). -/
def startDomains (s : State) : State :=
  let g := fun w => (Config.freeValue (s.free + w)).setWidth 16
  let f := { s.fab with routes := s.fab.routeDefaults, cfg := s.fab.cfgNext, windows := closedWindows g, genCopy := genTable g }
  let p := { s.power with cap := s.power.capNext, estimated := s.power.estimatedNext, capReady := s.power.capNext, estimatedReady := s.power.estimatedNext }
  restartClocks { s with free := s.free + 4096, fab := f, power := p }

/-- A verified image runs: measurements, the black box and the audit log; ALERT# pulses (R529 step 3). The manual does not place the
slot and the SVN within the DETAIL of the BOOT record (R496; log 111). -/
def runImage (s : State) (slot : Bool) (svn : Nat) (ds : List (BitVec 512)) : State :=
  let tried := if slot = activeSlot s.sec then none else firstStage s (getSlot s !slot)
  let s := if slot = activeSlot s.sec then s else writeActive s slot
  let s := measureBoot s tried ds
  let s := s.setSec { s.sec with running := some slot, runningSvn := svn }
  let s := { s with mod := { s.mod with booted := true } }
  let s := resumeCopies (pulseAlert s)
  let s := bbAppend s 0xF none (word 384 [(0, 16, if s.mod.coldBoot then 0 else 1), (208, 32, b2n slot), (240, 16, svn)])
  startDomains (queueAudit s (auditRecord s AK.boot 0 0 (Config.bootDetail slot svn).toNat 0 (s.meas 4)) none)

/-- The signing unit derives the identity key (R485). -/
def deriveKey (s : State) : State := s.setSec { s.sec with idKey := some (Config.mlDsaKeygen (BitVec.ofNat 256 (fuse s FU.identity 0))) }

/-- BOOT: where both slots fail, the device is not ready and asserts FAULT#. -/
def boot (s : State) : State :=
  if !s.mgmtUp || s.mod.booted || s.host.state != .booting then s
  else
    let s := deriveKey s
    match bootSlot s with
    | some (b, n, ds) => runImage s b n ds
    | none => setDevState { s with mod := { s.mod with fault := true } } .notReady

/-! ### SPDM (R486, R487, R495) -/

namespace SP
/-- Version and request code of an SPDM request, and the slot that it names (log 12). -/
def version (q : List Byte) : Nat := (q.getD 0 0).toNat
def code (q : List Byte) : Nat := (q.getD 1 0).toNat
def slot (q : List Byte) : Nat := (q.getD 2 0).toNat % 16
abbrev getDigests : Nat := 0x81
abbrev getCertificate : Nat := 0x82
abbrev challenge : Nat := 0x83
abbrev getVersion : Nat := 0x84
abbrev getMeasurements : Nat := 0xE0
abbrev getCapabilities : Nat := 0xE1
abbrev negotiateAlgorithms : Nat := 0xE3
end SP

/-- What R487 fixes of the algorithms: SPDM 1.3, and registry and algorithm of the ExtAsym entry. -/
def spdmAlgorithms : List Nat := [0x13, 0x5A52, 0x0001]

/-- An ERROR response: its code and data (log 12). -/
def spdmError (code data : Nat) : List Byte := [0x13, 0x7F, BitVec.ofNat 8 code, BitVec.ofNat 8 data]

/-- CHALLENGE and GET_MEASUREMENTS: the two whose responses the signing unit builds and signs (R486). -/
def spdmSignedOps : List Nat := [SP.challenge, SP.getMeasurements]

/-- The other requests supported (R487). -/
def spdmPlainOps : List Nat := [SP.getVersion, SP.getCapabilities, SP.negotiateAlgorithms, SP.getDigests, SP.getCertificate]

/-- A request names a slot other than 0. -/
def spdmOtherSlot (q : List Byte) : Bool := (SP.code q == SP.challenge || SP.code q == SP.getCertificate) && SP.slot q != 0

/-- The response to a request: while debug is open nothing is signed (R486, R495), and what R487 does not list is not supported. -/
def spdmAnswer (s : State) (q : List Byte) : List Byte :=
  if spdmSignedOps.contains (SP.code q) && s.sec.debugOpen then spdmError 0x05 0
  else if SP.code q ≠ SP.getVersion ∧ SP.version q ≠ 0x13 then spdmError 0x41 0
  else if spdmOtherSlot q then spdmError 0x01 0
  else if spdmSignedOps.contains (SP.code q) then
    Config.spdmSigned q ((List.range 7).map fun i => s.meas (i + 1)) Config.certChain ((s.sec.idKey.map (·.2)).getD [])
  else if spdmPlainOps.contains (SP.code q) then Config.spdmPlain q Config.certChain spdmAlgorithms
  else spdmError 0x07 (SP.code q)

/-- SPDM_MESSAGE. -/
def spdmMessage (s : State) (r : CmdRef) (request : List Byte) : State :=
  s.take r 0x0804 fun c =>
    let p := c.payload
    if request.length ≠ fld p 0 32 then s
    else
      let a := (spdmAnswer s request).take (fld p 32 32)
      { s with hostOut := s.hostOut ++ [HostOut.bytes (BitVec.ofNat 64 (fld p 192 64)) a] }.finish r { result := BitVec.ofNat 64 a.length }

/-! ### Roles (R489 to R493) -/

def roleDenied (d : Nat) : Record := { status := St.roleDenied, detail := BitVec.ofNat 32 d }

/-- Within 60 s of the local counter. -/
def within60 (s : State) (t : Dword) : Bool := decide ((s.time - t).toNat ≤ 60000000)

/-- Challenges are refused for 60 s after three refused responses within 60 s (R493). -/
def lockedOut (s : State) : Bool := s.sec.lockout.any (within60 s)

def challengeCheck (s : State) : Option Record := if lockedOut s then some (roleDenied 5) else none

/-- The challenge record (R491). -/
def challengeRecord (nonce : BitVec 256) (serial role number : Nat) : BitVec 1024 :=
  word 1024 [(0, 256, nonce.toNat), (256, 64, serial), (320, 2, role), (512, 64, number)]

/-- ROLE_CHALLENGE. -/
def roleChallenge (s : State) (r : CmdRef) : State :=
  s.take r 0x0801 fun c =>
    let p := c.payload
    let (nonce, s) := s.fresh 256
    let n := s.sec.challenges + 1
    let x := challengeRecord nonce (fuse s FU.serial 0) (fld p 0 2) n.toNat
    let s := s.setSec { s.sec with challenges := n, challenge := some (x, BitVec.ofNat 2 (fld p 0 2), s.time) }
    { s with hostOut := s.hostOut ++ [HostOut.bytes (BitVec.ofNat 64 (fld p 128 64)) (toBytes x 128)] }.finishSt r St.complete

/-- Header of a credential. -/
def credHead (b : List Byte) : BitVec 512 := BitVec.ofNat 512 (ofBytes (b.take 64))

/-- Third item of the conditions of R492, and the form and scope of the credential. -/
def credentialOk (s : State) (role : Nat) (b : List Byte) : Bool :=
  let h := credHead b
  let a := fld h 10 2
  fld h 0 8 == 1 && fld h 8 2 == role && !(fuse s FU.anchorRevoke 0).testBit a && (fuse s FU.anchorRole a).testBit (role - 1) &&
    (Config.sha3 (Config.anchorKey a)).toNat == fuse s FU.anchorHash a && (!bit h 12 || fld h 64 64 == fuse s FU.serial 0)

/-- Both signatures verify. -/
def signaturesOk (x : BitVec 1024) (b : List Byte) : Bool :=
  let a := fld (credHead b) 10 2
  Config.mlDsaVerify (Config.anchorKey a) (b.take 2656) ((b.drop 2656).take 4627) &&
    Config.mlDsaVerify ((b.drop 64).take 2592) (toBytes x 128) ((b.drop 7283).take 4627)

/-- The reason for which a response is refused, 0 for a grant. -/
def responseReason (s : State) (role : Nat) (b : List Byte) : Nat :=
  match s.sec.challenge with
  | none => 2
  | some (x, r, t) =>
    if r.toNat ≠ role ∨ within60 s t = false then 2
    else if !credentialOk s role b then 3
    else if !signaturesOk x b then 4
    else 0

/-- A refused response counts toward the lockout. -/
def countRefusal (x : Security) (now : Dword) : Security :=
  let l := now :: (x.refusals.filter fun t => decide ((now - t).toNat ≤ 60000000))
  { x with refusals := l.take 3, lockout := if 3 ≤ l.length then some now else x.lockout }

/-- ROLE_RESPONSE: the challenge is consumed; the grant takes effect once its record is durable (R499). -/
def roleResponse (s : State) (r : CmdRef) (host : List Byte) : State :=
  s.take r 0x0802 fun c =>
    if host.length ≠ 11910 then s
    else
      let role := fld c.payload 0 2
      let why := responseReason s role host
      let t := s.setSec { s.sec with challenge := none }
      if why = 0 then
        let a := auditRecord (t.setSec { t.sec with role := roleOf role }) AK.granted 0x0802 0 0 (credIdOf host) 0
        (queueAudit t a (some r)).updCmd r fun c => { c with phase := .ending {}, data := host }
      else
        let t := t.setSec (countRefusal t.sec t.time)
        (queueAudit t (auditRecord t AK.refused 0x0802 0 why (credIdOf host) 0) (some r)).setPhase r (.ending (roleDenied why))

/-- A role other than operator is past the 30 minutes of its grant (R493). -/
def roleExpired (s : State) : Bool := s.sec.role != .operator && decide (1800000000 ≤ (s.time - s.sec.grantTime).toNat)

/-- The role that a command may count on. -/
def heldRole (s : State) : Role := if roleExpired s then .operator else s.sec.role

/-- The record of a role that ends; the role ends once it is durable (R499). -/
def endRole (s : State) (opcode : Nat) (r : Option CmdRef) : State :=
  queueAudit s (auditRecord s AK.dropped opcode 0 0 s.sec.credId 0) r

/-- ROLE_DROP. -/
def roleDrop (s : State) (r : CmdRef) : State :=
  s.take r 0x0803 fun _ => (endRole s 0x0803 (some r)).setPhase r (.ending {})

/-- A record that decides the role held waits: the role's end, or a grant that replaces it. -/
def roleRecordWaits (s : State) : Bool := s.sec.auditQ.any fun q => auditKind q.1 == AK.dropped || auditKind q.1 == AK.granted

/-- ROLE_LAPSE: 30 minutes after the grant. -/
def roleLapse (s : State) : State := if roleExpired s && !roleRecordWaits s then endRole s 0 none else s

/-! ### DEBUG_UNLOCK (R494, R495) -/

def debugCheck (s : State) : Option Record := if fuse s FU.debugDisable 0 ≠ 0 then some (roleDenied 7) else none

/-- DEBUG_UNLOCK: measured, then open. -/
def debugUnlock (s : State) (r : CmdRef) : State :=
  audited s r 0x0A02 [] fun c s =>
    let s := measureFuses s true
    endAudit (s.setSec { s.sec with debugOpen := true }) c {}

/-! ### The installer's settings (R102, R300, R421, R463, R464) -/

/-- POWER_SET. -/
def powerSet (s : State) (r : CmdRef) : State :=
  audited s r 0x0901 [] fun c s =>
    endAudit (resettle s (s.setPower { s.power with capNext := 1200 + 25 * fld c.payload 0 6, estimatedNext := bit c.payload 8 })) c {}

/-- The link settings of a payload. -/
def linkCfg (p : BitVec 384) : LinkCfg :=
  { split := BitVec.ofNat 16 (fld p 0 16), w0 := BitVec.ofNat 4 (fld p 16 4), w1 := BitVec.ofNat 4 (fld p 20 4),
    w2 := BitVec.ofNat 4 (fld p 24 4), timeout := BitVec.ofNat 10 (fld p 32 10), ceiling := BitVec.ofNat 3 (fld p 48 3),
    interleave := bit p 51 }

/-- LINK_CONFIG_SET. -/
def linkConfigSet (s : State) (r : CmdRef) : State :=
  audited s r 0x0903 [] fun c s => endAudit (resettle s { s with fab := { s.fab with cfgNext := linkCfg c.payload } }) c {}

/-- ROUTE_DEFAULTS_WRITE. -/
def routeDefaults (s : State) (r : CmdRef) : State :=
  audited s r 0x0904 [] fun c s =>
    endAudit (resettle s { s with fab := { s.fab with routeDefaults := writeRoutes s.fab.routeDefaults c.payload } }) c {}

/-- REMAP_COMMIT. -/
def remapCommit (s : State) (r : CmdRef) : State := audited s r 0x0907 [] fun c s => endAudit (commitRemaps s) c {}

end Sys2Proof.Machine
end

