-- ==== Sys2Proof/Machine/BackOps.lean ====
section
/-!
DEFINITION. Telemetry (R511 to R513), reads of the black box and of the audit log (R501, R516 to R518), wear levelling (R506) and
the sideband (R519).
-/
namespace Sys2Proof.Machine

/-! ### Telemetry records (R511, R512) -/

/-- INDEX and LOCAL. -/
def telHead (s : State) (i : Nat) : List (Nat × Nat × Nat) := [(0, 16, i), (16, 48, s.time.toNat)]

/-- A temperature in 16 bits. -/
def tempBits (t : Int) : Nat := (BitVec.ofInt 16 t).toNat

def moduleRecord (s : State) (p1 p100 : Word) : BitVec 512 :=
  word 512 (telHead s 0 ++ [(64, 32, p1.toNat), (96, 32, p100.toNat), (128, 16, s.power.cap), (144, 1, b2n s.power.estimated),
    (160, 64, s.tel.energy.toNat), (224, 16, s.tel.engineResets.toNat), (240, 16, s.tel.deviceResets.toNat),
    (256, 17, s.bb.lost.toNat), (273, 17, s.fab.localDropped.toNat)])

/-- Sum of error counters in one counter field (R508). -/
def sumErr (l : List (BitVec 17)) : Nat :=
  let n := l.foldl (fun a c => a + fld c 0 16) 0
  if 0xFFFF < n ∨ l.any (fun c => bit c 16) = true then 0x1FFFF else n

/-- Chip-memory engines of a die. -/
def dieEngines (s : State) (east : Bool) : List Engine :=
  (s.engines.filter fun e => decide (e.1 < 512) && (decide (256 ≤ e.1) == east)).map (·.2)

/-- A die record; the sensors of the pintle and the mesh have no row of their own and are free (log 2). Corrections of the pintle links
are counted by the die that receives (R95). -/
def dieRecord (s : State) (east : Bool) : BitVec 512 × State :=
  let (x, s) := s.fresh 32
  let t := allCores.foldl (fun (m : Int) c => if decide (192 ≤ c.val) == east then max m (Tab.get 0 s.power.temps c.val) else m)
    (if east then s.power.dieTempE else s.power.dieTempW)
  let es := dieEngines s east
  (word 512 (telHead s (if east then 2 else 1) ++ [(64, 16, tempBits t), (80, 16, fld x 0 16), (96, 16, fld x 16 16),
    (112, 17, (Tab.get 0 s.ms.linkCorrected (b2n east)).toNat), (129, 17, sumErr (es.map (·.scaleMismatch))), (146, 17, sumErr (es.map (·.overCount))),
    (163, 64, (es.foldl (fun (a : Dword) e => a + e.stale) 0).toNat)]), s)

def coreRecord (s : State) (c : CoreId) : BitVec 512 :=
  let k := s.core c
  word 512 (telHead s (16 + c.val) ++ [(64, 16, tempBits (Tab.get 0 s.power.temps c.val)), (80, 16, ceiling s c),
    (96, 1, b2n (s.power.remapQ.contains (siteOf s c))), (128, 64, k.vectors.toNat), (192, 64, k.vinstr.toNat),
    (256, 17, k.cmCorrected.toNat), (273, 17, k.obCorrected.toNat)] ++
    (List.finRange 8).map fun b => (290 + 3 * b.val, 3, sparesLeft s (.core c b 0)))

def bankRecord (s : State) (b : BankId) : BitVec 512 :=
  let x := s.bank b.val
  word 512 (telHead s (400 + b.val) ++ [(64, 1, b2n (x.power == .gated)), (65, 17, x.lateWake.toNat), (82, 17, x.corrected.toNat),
    (99, 17, x.uncorrected.toNat), (116, 5, sparesLeft s (.chip b 0))])

/-- Poison-list entries of a channel (R259). -/
def poisonEntries (s : State) (c : ChanId) : Nat :=
  (s.ms.poison.filter fun k => decide (k * 32 < gddrBytes) && (channelOf s (k * 32)).1 == c.val).length

/-- A channel record; the device's temperature is a free value (log 2). -/
def channelRecord (s : State) (c : ChanId) : BitVec 512 × State :=
  let (t, s) := s.fresh 16
  let x := s.chan c.val
  let e := s.engine (512 + c.val)
  (word 512 (telHead s (912 + c.val) ++ [(64, 16, t.toNat), (80, 17, x.crcRetried.toNat), (97, 17, x.eccCorrected.toNat),
    (114, 17, x.uncorrected.toNat), (131, 15, poisonEntries s c), (146, 1, b2n x.poisoned), (147, 17, e.scaleMismatch.toNat),
    (164, 17, e.overCount.toNat), (181, 64, e.stale.toNat), (245, 25, x.patrolRow.toNat)]), s)

def cxlRecord (s : State) (p : Fin 2) : BitVec 512 :=
  let x := s.cxlPort p.val
  word 512 (telHead s (952 + p.val) ++ [(64, 5, if x.down then 0 else x.lanes.toNat), (69, 3, if x.down then 0 else x.code.toNat),
    (72, 17, x.poisonLines.toNat), (89, 1, b2n x.down)])

def setRecordAt (s : State) (i : Nat) (r : BitVec 512) : State := { s with tel := { s.tel with records := Tab.set 0 s.tel.records i r } }

/-- TELEMETRY_SAMPLE: every record, each as one unit. -/
def telemetrySample (s : State) (p1 p100 : Word) (energy : Dword) : State :=
  if !(s.mgmtUp && s.mod.booted) then s
  else
    let s := { s with tel := { s.tel with energy := s.tel.energy + energy } }
    let s := setRecordAt s 0 (moduleRecord s p1 p100)
    let s := [false, true].foldl (fun s d => let (r, s) := dieRecord s d
                                             setRecordAt s (if d then 2 else 1) r) s
    let s := allCores.foldl (fun s c => setRecordAt s (16 + c.val) (coreRecord s c)) s
    let s := (List.finRange 512).foldl (fun s b => setRecordAt s (400 + b.val) (bankRecord s b)) s
    let s := (List.finRange 40).foldl (fun s c => let (r, s) := channelRecord s c
                                                  setRecordAt s (912 + c.val) r) s
    (List.finRange 2).foldl (fun s p => setRecordAt s (952 + p.val) (cxlRecord s p)) s

/-- An index of R511. -/
def telListed (i : Nat) : Bool := decide (i ≤ 2) || (decide (16 ≤ i) && decide (i ≤ 953))

/-- The latest sample of a record; before the first one its reset values, of which CAP alone is not zero (R512). -/
def telRecord (s : State) (i : Nat) : BitVec 512 :=
  let r := Tab.get 0 s.tel.records i
  if r = 0 then word 512 [(0, 16, i), (128, 16, if i = 0 then 2400 else 0)] else r

/-- COUNT records from FIRST, to the first index not listed. -/
def telRead (s : State) : Nat → Nat → List (BitVec 512)
  | 0, _ => []
  | n + 1, i => if telListed i then telRecord s i :: telRead s n (i + 1) else []

/-! ### Reads into an entry (R501, R513, R518) -/

namespace RD
def handle (p : BitVec 384) : Half := BitVec.ofNat 16 (fld p 0 16)
def row (p : BitVec 384) : Nat := fld p 32 32
def first (p : BitVec 384) : Nat := fld p 64 32
def count (p : BitVec 384) : Nat := fld p 96 16
def audit (p : BitVec 384) : Bool := bit p 112
end RD

/-- Bytes in whole rows, the last completed with zeros. -/
def rowsOf : Nat → List Byte → List Row
  | 0, _ => []
  | n + 1, bs => if bs.isEmpty then [] else BitVec.ofNat 4096 (ofBytes (bs.take 512)) :: rowsOf n (bs.drop 512)

/-- Write records of an entry's rows; RESULT gives their number. -/
def readInto (s : State) (c : Cmd) (n : Nat) (bytes : List Byte) : State :=
  let p := c.payload
  let k := capture s none (RD.handle p)
  if capWaits s k then s.defer c.ref
  else
    match accessWrite s (some c.ring) k none (RD.row p) ((rowsOf (bytes.length + 1) bytes).map fun r => (r, 0)) with
    | (none, s) => s.finish c.ref { result := BitVec.ofNat 64 n }
    | (some f, s) => faultCmd s c f.status f.info

def recordBytes (l : List (BitVec 512)) : List Byte := l.flatMap fun r => toBytes r 64

/-- TELEMETRY_READ. -/
def telemetryRead (s : State) (r : CmdRef) : State :=
  s.take r 0x0601 fun c =>
    let l := telRead s (RD.count c.payload) (RD.first c.payload)
    readInto s c l.length (recordBytes l)

/-- Records of a source, oldest first: the live ring, or a freeze slot. -/
def bbSource (s : State) (src : Nat) : List (BitVec 512) :=
  if src = 0 then s.bb.recs.map (·.2) else if src ≤ 8 then s.bb.slots.getD (src - 1) [] else []

/-- COUNT records of the black box that end at FIRST. -/
def bbRead (s : State) (first count : Nat) : List (BitVec 512) :=
  let l := bbSource s (first / 2 ^ 28)
  let back := first % 2 ^ 28
  let upto := l.take (l.length - back)
  if l.length ≤ back then [] else upto.drop (upto.length - count)

/-- BLACKBOX_READ of black-box records. -/
def blackboxRead (s : State) (r : CmdRef) : State :=
  s.take r 0x0602 fun c =>
    if RD.audit c.payload then s
    else
      let l := bbRead s (RD.first c.payload) (RD.count c.payload)
      readInto s c l.length (recordBytes l)

/-- Up to COUNT retained audit records from a SEQ onward. -/
def auditFrom (s : State) (first count : Nat) : List (BitVec 2048) :=
  let n := s.sec.auditNext.toNat
  if n ≤ first ∨ first + 16384 < n then []
  else (List.range (min count (n - first))).map fun i => Tab.get 0 s.sec.auditLog ((first + i) % 16384)

def auditBytes (l : List (BitVec 2048)) : List Byte := l.flatMap fun r => toBytes r 256

/-- AUDIT_READ: BLACKBOX_READ with bit 112 set (R501). -/
def auditRead (s : State) (r : CmdRef) : State :=
  s.take r 0x0602 fun c =>
    if !RD.audit c.payload then s
    else
      let l := auditFrom s (RD.first c.payload) (RD.count c.payload)
      readInto s c l.length (auditBytes l)

/-! ### Freeze copies and flash (R506, R516) -/

/-- The slot holds the span; a freeze that waits begins its copy. -/
def endCopy (s : State) : State :=
  match s.bb.copying with
  | none => s
  | some k =>
    let b := copySpan s.bb k
    match b.waiting with
    | [] => { s with bb := { b with copying := none } }
    | w :: t => { s with bb := { b with copying := some w, waiting := t, slots := b.slots.take 7 } }

/-- FREEZE_COPY_DONE: audit records go before a freeze copy (R506; log 137). -/
def copyDone (s : State) : State := if s.sec.auditQ.isEmpty then endCopy s else s

/-- WEAR_LEVELLING moves bytes within flash: one step more, once no other flash work waits (R506; log 137). -/
def wearStep (s : State) : State :=
  if s.mgmtUp && s.sec.auditQ.isEmpty && s.bb.copying.isNone then { s with bg := { s.bg with wearSteps := s.bg.wearSteps + 1 } } else s

/-! ### The sideband (R519) -/

/-- It answers while the management domain runs its firmware; nothing else changes. -/
def sideband (s : State) (a : List Byte) : State := if s.mgmtUp && s.mod.booted then { s with hostOut := s.hostOut ++ [HostOut.sideband a] } else s

end Sys2Proof.Machine
end

