-- ==== Sys2Proof/Machine/Background.lean ====
section
/-!
DEFINITION. The meanings of telemetry, the black box and the sideband (18).
-/
namespace Sys2Proof.Machine

/-- TELEMETRY_READ (R513). -/
def execTelemetryRead (cmd : CmdRef) (s : State) : Host.Outcome State Fault Refusal := .next (telemetryRead s cmd)

/-- BLACKBOX_READ (R518). -/
def execBlackboxRead (cmd : CmdRef) (s : State) : Host.Outcome State Fault Refusal := .next (blackboxRead s cmd)

/-- BLACKBOX_READ of audit records (R501). -/
def execAuditRead (cmd : CmdRef) (s : State) : Host.Outcome State Fault Refusal := .next (auditRead s cmd)

/-- The telemetry records are sampled (R511). -/
def execTelemetrySample (power1ms power100ms : Word) (energy : Dword) (s : State) : Host.Outcome State Fault Refusal := .next (telemetrySample s power1ms power100ms energy)

/-- A wear-levelling step (R506). -/
def execWearLevelling (s : State) : Host.Outcome State Fault Refusal := .next (wearStep s)

/-- A freeze copy ends (R516). -/
def execFreezeCopyDone (s : State) : Host.Outcome State Fault Refusal := .next (copyDone s)

/-- MCTP control (R519). -/
def execMctpControl (request : List Byte) (s : State) : Host.Outcome State Fault Refusal := .next (sideband s (Config.mctpControl request))

/-- SPDM on the sideband (R487, R519). -/
def execMctpSpdm (request : List Byte) (s : State) : Host.Outcome State Fault Refusal := .next (sideband s (spdmAnswer s request))

/-- Telemetry on the sideband (R519). -/
def execSbTelemetryRead (first : Word) (count : BitVec 16) (s : State) : Host.Outcome State Fault Refusal := .next (sideband s (recordBytes (telRead s (min 4 count.toNat) first.toNat)))

/-- The black box on the sideband (R519). -/
def execSbBlackboxRead (first : Word) (count : BitVec 16) (s : State) : Host.Outcome State Fault Refusal := .next (sideband s (recordBytes (bbRead s first.toNat (min 4 count.toNat))))

/-- The audit log on the sideband (R519). -/
def execSbAuditRead (first : Word) (count : BitVec 16) (s : State) : Host.Outcome State Fault Refusal := .next (sideband s (auditBytes (auditFrom s first.toNat (min 4 count.toNat))))

/-- Any other message (R519). -/
def execSbUnsupportedMessage (request : List Byte) (s : State) : Host.Outcome State Fault Refusal := .next (sideband s (Config.mctpError request))

end Sys2Proof.Machine
end

