-- ==== Sys2Proof/Machine/Collectives.lean ====
section
/-!
DEFINITION. The meanings of gradient reduction (11).
-/
namespace Sys2Proof.Machine

/-- COLLECTIVE_OPEN (R316). -/
def execCollectiveOpen (cmd : CmdRef) (s : State) : Host.Outcome State Fault Refusal := .next (collectiveOpen s cmd)

/-- COLLECTIVE_CLOSE (R317). -/
def execCollectiveClose (cmd : CmdRef) (s : State) : Host.Outcome State Fault Refusal := .next (collectiveClose s cmd)

/-- BUCKET_ARM (R322). -/
def execBucketArm (cmd : CmdRef) (s : State) : Host.Outcome State Fault Refusal := .next (bucketArm s cmd)

/-- BUCKET_WAIT (R334, R357). -/
def execBucketWait (cmd : CmdRef) (s : State) : Host.Outcome State Fault Refusal := .next (bucketWait s cmd)

/-- LAYOUT_SWITCH (R345). -/
def execLayoutSwitch (cmd : CmdRef) (s : State) : Host.Outcome State Fault Refusal := .next (layoutSwitch s cmd)

/-- A layout switch takes effect (R345). -/
def execLayoutSwitchEffect (collective : BitVec 16) (s : State) : Host.Outcome State Fault Refusal := .next (layoutEffect s collective.toNat)

/-- A ready word is read (R325, R326). -/
def execReadyWordPoll (collective : BitVec 16) (bucket : Word) (s : State) : Host.Outcome State Fault Refusal := .next (readyPoll s collective.toNat bucket.toNat)

/-- A notice word is read (R330). -/
def execNoticeWordPoll (collective : BitVec 16) (bucket : Word) (s : State) : Host.Outcome State Fault Refusal := .next (noticePoll s collective.toNat bucket.toNat)

/-- Every scale write is answered (R338). -/
def execScaleDistributionDone (collective : BitVec 16) (bucket : Word) (s : State) : Host.Outcome State Fault Refusal := .next (distributionDone s collective.toNat bucket.toNat)

/-- A refused ACCUMULATE is sent again (R329). -/
def execAccumulateRetry (tag : BitVec 24) (s : State) : Host.Outcome State Fault Refusal := .next (accRetry s tag.toNat)

/-- An EPOCH_DIFFERS retry is still refused after 1 ms (R346). -/
def execEpochAhead (tag : BitVec 24) (s : State) : Host.Outcome State Fault Refusal := .next (epochAhead s tag.toNat)

/-- A collective wait expires (R435). -/
def execCollectiveWaitTimeout (collective : BitVec 16) (bucket : Word) (wait : CollWait) (s : State) : Host.Outcome State Fault Refusal := .next (collWaitExpired s collective.toNat bucket.toNat wait)

/-- VERDICT_CLEAN arrives (R330). -/
def execVerdictClean (via : Option LinkId) (packet : Packet) (s : State) : Host.Outcome State Fault Refusal := .next (verdictArrives s via packet 0x10 1)

/-- RESCALE arrives (R341). -/
def execRescale (via : Option LinkId) (packet : Packet) (s : State) : Host.Outcome State Fault Refusal := .next (rescaleArrives s via packet)

/-- The ward-exhausted verdict arrives (R330). -/
def execVerdictWardExhausted (via : Option LinkId) (packet : Packet) (s : State) : Host.Outcome State Fault Refusal := .next (verdictArrives s via packet 0x12 2)

/-- The non-finite verdict arrives (R330). -/
def execVerdictNonfinite (via : Option LinkId) (packet : Packet) (s : State) : Host.Outcome State Fault Refusal := .next (verdictArrives s via packet 0x13 3)

end Sys2Proof.Machine
end

