-- ==== Sys2Proof/Machine/Contexts.lean ====
section
/-!
DEFINITION. The meanings of the protocol, context, layout and data commands (14).
-/
namespace Sys2Proof.Machine

/-- PROTOCOL_OPEN (R415). -/
def execProtocolOpen (cmd : CmdRef) (s : State) : Host.Outcome State Fault Refusal := .next (protocolOpen s cmd)

/-- CONTEXT_OPEN (R250, R252, R421). -/
def execContextOpen (cmd : CmdRef) (s : State) : Host.Outcome State Fault Refusal := .next (contextOpen s cmd)

/-- CONTEXT_CLOSE (R426). -/
def execContextClose (cmd : CmdRef) (s : State) : Host.Outcome State Fault Refusal := .next (contextClose s cmd)

/-- GDDR_LAYOUT (R260). -/
def execGddrLayout (cmd : CmdRef) (s : State) : Host.Outcome State Fault Refusal := .next (gddrLayout s cmd)

/-- DATA_PUT (R422). -/
def execDataPut (cmd : CmdRef) (host : List Row) (s : State) : Host.Outcome State Fault Refusal := .next (dataPut s cmd host)

/-- DATA_GET (R422). -/
def execDataGet (cmd : CmdRef) (s : State) : Host.Outcome State Fault Refusal := .next (dataGet s cmd)

end Sys2Proof.Machine
end

