-- ==== Sys2Proof/Machine/Exchanges.lean ====
section
/-!
DEFINITION. The meanings of token exchanges (13).
-/
namespace Sys2Proof.Machine

/-- An exchange entry starts (R388, R397). -/
def execExchangeEntryStart (ctx : CtxId) (s : State) : Host.Outcome State Fault Refusal := .next (exchStart s ctx)

/-- A destination grants a round (R391). -/
def execExchangeGrant (ctx : CtxId) (entry : Nat) (s : State) : Host.Outcome State Fault Refusal := .next (exchGrant s ctx entry)

/-- A source sends its granted rows (R393). -/
def execExchangePayloadSend (ctx : CtxId) (entry : Nat) (s : State) : Host.Outcome State Fault Refusal := .next (exchSend s ctx entry)

/-- An exchange entry completes (R394). -/
def execExchangeEntryComplete (ctx : CtxId) (entry : Nat) (s : State) : Host.Outcome State Fault Refusal := .next (exchComplete s ctx entry)

/-- EXCHANGE arrives (R389). -/
def execExchange (via : Option LinkId) (packet : Packet) (s : State) : Host.Outcome State Fault Refusal := .next (packetArrives s via packet ptExchange fun s => request s packet (serveExchange packet))

/-- A peer's ready notice (R395). -/
def execExchangeReady (via : Option LinkId) (packet : Packet) (s : State) : Host.Outcome State Fault Refusal := .next (readyArrives s via packet)

end Sys2Proof.Machine
end

