-- ==== Sys2Proof/Machine/Gathers.lean ====
section
/-!
DEFINITION. The meanings of parameter gathers (12).
-/
namespace Sys2Proof.Machine

/-- A gather group starts (R362). -/
def execGatherGroupStart (ctx : CtxId) (s : State) : Host.Outcome State Fault Refusal := .next (gatherStart s ctx)

/-- A shard header is read again (R364). -/
def execGatherHeaderRetry (ctx : CtxId) (piece : Nat) (s : State) : Host.Outcome State Fault Refusal := .next (headerRetry s ctx piece)

/-- A gather wait expires (R364). -/
def execGatherTimeout (ctx : CtxId) (piece : Nat) (s : State) : Host.Outcome State Fault Refusal := .next (gatherTimeout s ctx piece)

/-- A gather group completes (R364). -/
def execGatherGroupComplete (ctx : CtxId) (group : Nat) (s : State) : Host.Outcome State Fault Refusal := .next (gatherComplete s ctx group)

end Sys2Proof.Machine
end

