-- ==== Sys2Proof/Machine/ModuleOps.lean ====
section
/-!
DEFINITION. The module: PERST# (R21, R523, R533), power-up and power-down (R529 to R532), the input monitor (R521), THERMTRIP#
(R474, R526), FAULT# and ALERT# (R524, R525).
-/
namespace Sys2Proof.Machine

def State.setMod (s : State) (m : Module) : State := { s with mod := m }

/-! ### What outlives a reset of all four domains -/

/-- The CXL tier's rows stay with the expander (R534); remaps are in flash or fuses (R102). -/
def keptMem (m : MemSys) : MemSys := { resetMem m with errRows := [] }

/-- Settings, ceilings and the core-remap queue in flash (R462 to R464). -/
def keptPower (p : Power) : Power :=
  { cap := p.capNext, estimated := p.estimatedNext, capNext := p.capNext, estimatedNext := p.estimatedNext, capReady := p.capNext, estimatedReady := p.estimatedNext, ceilings := p.ceilings,
    remapQ := p.remapQ, spareless := p.spareless, remapPending := p.remapPending, moved := p.moved }

/-- Fuses, image slots, the active-slot record and the audit log (R477, R481, R496). -/
def keptSec (x : Security) (challenges : Dword) : Security :=
  { fuses := x.fuses, slotA := x.slotA, slotB := x.slotB, rec0 := x.rec0, rec1 := x.rec1, auditLog := x.auditLog,
    auditNext := x.auditNext, challenges := challenges }

/-- Limits and deadbolt in flash; the history is lost (R447, R448). -/
def keptRst (x : ResetCtl) : ResetCtl := { limit := x.limit, windowMin := x.windowMin, deadbolt := x.deadbolt }

/-- The black box at PERST#: the ring and what waits to be copied survive; a copy cut short has lost its slot (R517). -/
def perstBox (b : BlackBox) : BlackBox :=
  { recs := b.recs, total := b.total, boot := b.boot + 1, copying := b.copying, waiting := b.waiting, slots := b.slots }

/-- The black box without power: the freeze slots and the boot number alone. -/
def coldBox (b : BlackBox) : BlackBox := { boot := b.boot, slots := b.slots }

/-- All four domains at reset (R21), but for the module's own pins and latches. -/
def resetAll (s : State) (box : BlackBox) (challenges : Dword) : State :=
  { State.reset with
    pending := s.pending, free := s.free, mod := s.mod, hostOut := s.hostOut, ms := keptMem s.ms, power := keptPower s.power,
    fab := { routeDefaults := s.fab.routeDefaults, cfg := s.fab.cfgNext, cfgNext := s.fab.cfgNext }, sec := keptSec s.sec challenges,
    bb := box, rst := keptRst s.rst }

/-! ### PERST# -/

/-- PERST_ASSERT: FAULT# is released, but for an over-voltage (R524); ALERT# is not driven (R528). -/
def perstAssert (s : State) : State :=
  if s.mod.perst then s
  else if !s.mod.powered then s.setMod { s.mod with perst := true, fault := false }
  else
    let t := resetAll s (perstBox s.bb) s.sec.challenges
    t.setMod { t.mod with perst := true, booted := false, coldBoot := false, fault := false, alert := false }

/-- PERST_DEASSERT: the straps are sampled (R523), and the boot ROM may run. -/
def perstDeassert (s : State) (sel : Bool) (addr : BitVec 2) : State :=
  if s.mod.perst then s.setMod { s.mod with perst := false, sbSel := sel, sbAddr := addr } else s

/-! ### Power -/

/-- The power stages are off: everything outside flash, fuses and latches is lost (R528, R531). -/
def powerOff (s : State) : State :=
  if !s.mod.powered then s
  else
    let t := resetAll s (coldBox s.bb) 0
    t.setMod { t.mod with powered := false, pwrGood := false, booted := false, coldBoot := true, fault := false, alert := false }

/-- POWER_UP: MOD_EN is high and the input in range; a latch keeps the stages off (R521, R526, R529). -/
def powerUp (s : State) : State :=
  let s := s.setMod { s.mod with standby := true, modEn := true }
  if s.mod.powered || s.mod.thermtrip || s.mod.faultOv then s
  else
    let t := resetAll s (coldBox { s.bb with boot := s.bb.boot + 1 }) 0
    t.setMod { t.mod with powered := true, pwrGood := true, booted := false, coldBoot := true }

/-- Training of a power-up has not ended. -/
def awaitsReady (s : State) : Bool := s.mgmtUp && s.mod.booted && s.host.state == .booting

/-- POWER_UP_READY (R448, R529 steps 5 to 7). -/
def powerUpReady (s : State) (t : Training) : State :=
  if !awaitsReady s || s.rst.failed then s
  else
    match t.rate with
    | none => trainingFailed s t.failing
    | some k =>
      if !rateAllowed s k then s else changeState (applyTraining s k t) (if s.rst.deadbolt then .deadbolt else .ready)

/-- POWER_UP_TIMEOUT (R530). -/
def powerUpTimeout (s : State) : State :=
  if awaitsReady s then changeState ((s.setMod { s.mod with fault := true }).setRst { s.rst with dev := true, failed := true }) .notReady else s

/-- MOD_EN_FALL: the audit record in progress is finished; accepted commands complete with no record (R531). -/
def modEnFall (s : State) : State :=
  let s := if s.mod.powered then powerOff (auditDurable s true) else s
  s.setMod { s.mod with modEn := false, fault := false, faultOv := false }

/-- LOSS_OF_INPUT (R532). -/
def lossOfInput (s : State) : State :=
  let s := powerOff s
  s.setMod { s.mod with fault := false }

/-- OVER_VOLTAGE: stages off, and FAULT# latched (R521). -/
def overVoltage (s : State) : State :=
  let s := powerOff s
  s.setMod { s.mod with faultOv := true }

/-- STANDBY_SUPPLY_LOSS: the input is gone, and the latches clear (R521, R526). -/
def standbyLoss (s : State) : State :=
  let s := lossOfInput s
  s.setMod { s.mod with standby := false, thermtrip := false, faultOv := false }

/-- MODULE_FAILURE asserts FAULT# (R524). -/
def moduleFailure (s : State) : State := if s.mod.standby then s.setMod { s.mod with fault := true } else s

/-- ALERT_PULSE_END (R525). -/
def alertEnd (s : State) : State := s.setMod { s.mod with alert := false }

/-- The record and freeze of a trip, while firmware still can; whether the copy ends in time is free (R474, R515). -/
def tripRecord (s : State) (sensor : Option CoreId) (temp : Int) : State :=
  if !(s.mgmtUp && s.mod.booted) then s
  else
    let s := bbFreeze (bbAppend s 0xE none (word 384 [(208, 32, (sensor.map (·.val)).getD 0xFFFFFFFF), (240, 16, tempBits temp)]))
    let (x, s) := s.fresh 1
    if x = 1 then endCopy s else s

/-- THERMTRIP: a sensor at 120 °C turns the stages off, and the trip is latched. -/
def thermtrip (s : State) (sensor : Option CoreId) (temp : Int) : State :=
  if s.mod.powered = false ∨ temp < degrees 120 then s
  else
    let s := powerOff (tripRecord s sensor temp)
    s.setMod { s.mod with thermtrip := true }

end Sys2Proof.Machine
end

