-- ==== Sys2Proof/Machine/Accept.lean ====
section
/-!
DEFINITION. ENTRY_FETCH: acceptance (R406, R408, R412) and the checks of an entry (R413, R421, R423); and ABORT (R418, R419).
-/
namespace Sys2Proof.Machine

/-! ### Opcodes and their kinds (R421) -/

/-- Context commands. -/
def contextOps : List Nat :=
  [0x0005, 0x0101, 0x0103, 0x0104, 0x0201, 0x0303, 0x0304, 0x0306, 0x0307, 0x0308, 0x0401, 0x0402, 0x0403, 0x0404, 0x0405, 0x0501,
   0x0502, 0x0503, 0x0504, 0x0505]

def otherOps : List Nat :=
  [0x0001, 0x0002, 0x0003, 0x0004, 0x0102, 0x0301, 0x0302, 0x0305, 0x0601, 0x0602, 0x0701, 0x0702, 0x0703, 0x0704, 0x0801, 0x0802,
   0x0803, 0x0804]

/-- OPCODE is in the table. -/
def opcodeKnown (op : Nat) : Bool := contextOps.contains op || installerOps.contains op || makerOps.contains op || otherOps.contains op

/-! ### Check 6: payload ranges (R413, R421, R423) -/

/-- The run's payload (R423). -/
def runRangeOk (p : BitVec 384) : Bool :=
  ((!RUN.replay p && !RUN.ub p) || RUN.stepValid p) && (!RUN.ub p || (decide (1 ≤ RUN.ubCount p) && decide (RUN.ubCount p ≤ 256))) &&
    fld p 100 12 == 0 && fld p 320 64 == 0

/-- A number lies in a range. -/
def inRange (lo hi n : Nat) : Bool := decide (lo ≤ n) && decide (n ≤ hi)

/-- Every field of a payload lies in its range. -/
def payloadInRange (op : Nat) (p : BitVec 384) : Bool :=
  match op with
  | 0x0004 => inRange 0 10000 (fld p 16 14)
  | 0x0102 => inRange 0 32 (fld p 0 6)
  | 0x0103 => inRange 1 16384 (DP.rows p) && DP.host p % 64 == 0
  | 0x0104 => inRange 1 16384 (DP.rows p) && DP.host p % 64 == 0
  | 0x0201 => runRangeOk p
  | 0x0301 => fld p 0 20 / 65536 == fld p 20 4
  | 0x0302 => inRange 1 16 (fld p 16 5)
  | 0x0306 => inRange 1 8 (RP.nrows p)
  | 0x0307 => inRange 1 8 (RP.nrows p)
  | 0x0308 => RP.nrows p == 0
  | 0x0504 => inRange 1 8 (GB.rows p) && GB.offset p % 512 == 0
  | 0x0703 => inRange 0 4 (PN.event p)
  | 0x0801 => inRange 1 2 (fld p 0 2)
  | 0x0802 => inRange 1 2 (fld p 0 2) && fld p 32 32 == 11910
  | 0x0901 => inRange 0 48 (fld p 0 6)
  | 0x0902 => inRange 1 15 (fld p 0 4) && inRange 1 1440 (fld p 16 11)
  | 0x0903 => inRange 1 15 (fld p 16 4) && inRange 1 15 (fld p 20 4) && inRange 1 15 (fld p 24 4) && inRange 1 1000 (fld p 32 10) &&
      inRange 0 4 (fld p 48 3)
  | 0x0904 => inRange 1 16 (fld p 16 5)
  | 0x0A01 => (inRange 1 9 (FP.field p) || inRange 0x40 0x7F (FP.field p)) && decide (FP.index p < fuseCount (FP.field p))
  | _ => true

/-- Reason 1 of R484. -/
def firmwareRangeOk (p : BitVec 384) : Bool := inRange 0 2 (FW.action p) && inRange 1 16777216 (FW.length p)

def payloadCheck (op : Nat) (plen : Nat) (p : BitVec 384) : Option Record :=
  if op = 0x0905 ∧ firmwareRangeOk p = false then some (firmwareRefused 1)
  else if plen ≠ 48 ∨ payloadInRange op p = false then refuse St.payloadInvalid
  else none

/-! ### Checks 7 to 9 -/

def roleCheck (s : State) (op : Nat) : Option Record :=
  if (installerOps.contains op ∧ heldRole s ≠ .installer) ∨ (makerOps.contains op ∧ heldRole s ≠ .maker) then some (roleDenied 1) else none

/-- A job command: the device is ready, and not in deadbolt. -/
def readyCheck (s : State) (op : Nat) : Option Record :=
  if !jobOps.contains op || s.host.state == .ready then none
  else if s.host.state = .deadbolt then refuse St.deadbolt
  else refuse St.deviceNotReady

def openCheck (s : State) (c : CtxId) (op : Nat) : Option Record :=
  if contextOps.contains op ∧ (s.ctx c).isOpen = false then refuse St.contextInvalid else none

/-- Job commands of a fenced job, JOB_CLOSE apart (R456). -/
def fenceCheck (s : State) (op : Nat) : Option Record := if s.fenced && fencedOps.contains op then refuse St.jobFenced else none

/-! ### Check 10: the command's own conditions -/

def ownCheck (s : State) (c : CtxId) (op : Nat) (p : BitVec 384) : Option Record :=
  match op with
  | 0x0001 => protocolCheck s p
  | 0x0004 => contextOpenCheck s c p
  | 0x0101 => if keyRefusal s p = 0 then none else refuse (keyRefusal s p)
  | 0x0102 => gddrLayoutCheck s
  | 0x0301 => deviceIdCheck s
  | 0x0303 => windowOpenCheck s c p
  | 0x0304 => windowCloseCheck s p
  | 0x0401 => collectiveOpenCheck s c p
  | 0x0402 => collectiveCloseCheck s p
  | 0x0403 => bucketArmCheck s c p
  | 0x0404 => bucketWaitCheck s p
  | 0x0405 => layoutSwitchCheck s p
  | 0x0501 => jobOpenCheck s c p
  | 0x0502 => jobCloseCheck s
  | 0x0503 => barrierEnterCheck s p
  | 0x0504 => broadcastCheck s p
  | 0x0505 => streamBindCheck s p
  | 0x0701 => if s.rst.deadbolt then refuse St.deadbolt else none
  | 0x0704 => jobFenceCheck s p
  | 0x0801 => challengeCheck s
  | 0x0905 => firmwareCheck s p
  | 0x0A01 => fuseCheck s p
  | 0x0A02 => debugCheck s
  | _ => none

/-- A list or table of 64-byte entries, a member list, and a row of an entry: addresses of the rows that check 10 reads. -/
def rowsFrom (s : State) (h : Half) (row n : Nat) : List Nat := (List.range n).map fun j => devRowAddr (s.devEntry h) (row + j)

/-- Rows that check 10 of an opcode reads (R316, R345, R369). -/
def checkedRows (s : State) (op : Nat) (p : BitVec 384) : List Nat :=
  let h := BitVec.ofNat 16 (fld p 0 16)
  let d := namedRow s p
  let named := rowsFrom s h (fld p 32 32) 1
  match op with
  | 0x0401 => named ++ rowsFrom s (CD.memberHandle d) 0 (ceilDiv (CD.members d) 128) ++ rowsFrom s (CD.list d) 0 (ceilDiv (CD.buckets d) 8)
  | 0x0405 => rowsFrom s (LS.list p) (LS.row p) (ceilDiv (LS.count p) 8)
  | 0x0501 => named ++ rowsFrom s h (fld p 32 32 + 1) (ceilDiv (groupCount d) 8)
  | _ => []

/-- A row that check 10 reads lies behind a port that is down (R265). -/
def checkDown (s : State) (op : Nat) (p : BitVec 384) : Bool := (checkedRows s op p).any (rowDown s)

/-! ### R413 -/

namespace EN
def opcode (e : BitVec 512) : Nat := fld e 0 16
def ctx (e : BitVec 512) : Nat := fld e 24 3
def seq (e : BitVec 512) : Word := BitVec.ofNat 32 (fld e 32 32)
def plen (e : BitVec 512) : Nat := fld e 64 6
def vmajor (e : BitVec 512) : Nat := fld e 72 8
def vminor (e : BitVec 512) : Nat := fld e 80 8
def payload (e : BitVec 512) : BitVec 384 := BitVec.ofNat 384 (e.toNat >>> 128)
end EN

/-- Checks 4 and 5. -/
def protocolOk (s : State) (e : BitVec 512) : Option Record :=
  if EN.opcode e = 0x0001 then none
  else if !s.host.protoOpen then refuse St.protocolNotOpen
  else if EN.vmajor e ≠ s.host.major.toNat ∨ EN.vminor e ≠ s.host.minor.toNat then refuse St.protocolMismatch
  else none

/-- The first check that an entry fails, given whether its SEQ is the expected one. -/
def entryCheck (s : State) (c : CtxId) (inOrder : Bool) (e : BitVec 512) : Option Record :=
  let op := EN.opcode e
  if !inOrder then refuse St.seqOutOfOrder
  else if EN.ctx e ≠ c.val then refuse St.contextInvalid
  else if !opcodeKnown op then refuse St.opcodeUnknown
  else
    (protocolOk s e).or <| (payloadCheck op (EN.plen e) (EN.payload e)).or <| (roleCheck s op).or <| (readyCheck s op).or <|
      (openCheck s c op).or <| (fenceCheck s op).or <|
        if checkDown s op (EN.payload e) then refuse St.cxlPortDown else ownCheck s c op (EN.payload e)

/-! ### ENTRY_FETCH -/

/-- Commands of a ring that are accepted and not committed. -/
def State.inflight (s : State) (c : CtxId) : Nat := (s.cmds.filter fun d => decide (d.ring = c)).length

/-- Fetching goes on: it pauses from the start of a reset to its end (R439, R451), and begins with the end of power-up (R529). -/
def State.fetching (s : State) : Bool :=
  s.mgmtUp && s.mod.booted && (s.host.state == .ready || s.host.state == .deadbolt || s.host.state == .notReady)

/-- The next entry of a ring may be accepted (R405, R406, R408, R409). -/
def mayFetch (s : State) (c : CtxId) : Bool :=
  let r := s.ring c
  s.fetching && s.host.cqEnable && !s.host.cqDisabling && r.enable && r.head != r.tail && decide (s.cmds.length < cqFree s) &&
    decide (s.inflight c < 64)

/-- The number of a new command among those in flight of its ring and SEQ. -/
def freshNth (s : State) (c : CtxId) (q : Word) : Nat :=
  s.cmds.foldl (fun a d => if d.ring = c ∧ d.seq = q then max a (d.nth + 1) else a) 0

/-- The entry as an accepted command. -/
def newCmd (s : State) (c : CtxId) (e : BitVec 512) (phase : Phase) : Cmd :=
  { ring := c, seq := EN.seq e, nth := freshNth s c (EN.seq e), entry := e, phase := phase }

/-- The entry is accepted: SQ_HEAD and the expected SEQ move on, and one that fails a check has its record at once; one whose rows lie
behind a port that is down faults its context (R265). -/
def accept (s : State) (c : CtxId) (e : BitVec 512) : State :=
  let r := s.ring c
  let inOrder := r.expect.all fun x => x == EN.seq e
  let head : BitVec 12 := BitVec.ofNat 12 ((r.head.toNat + 1) % 2 ^ r.size.toNat)
  let t := s.setRing c { r with head := head, expect := some (EN.seq e + 1) }
  match entryCheck s c inOrder e with
  | none => { t with cmds := s.cmds ++ [newCmd s c e .waiting] }
  | some x =>
    if x.status = St.cxlPortDown then faultCmd { t with cmds := s.cmds ++ [newCmd s c e .waiting] } (newCmd s c e .waiting) St.cxlPortDown
    else { t with cmds := s.cmds ++ [newCmd s c e (.done x)] }

/-- ENTRY_FETCH. -/
def entryFetch (s : State) (c : CtxId) (e : BitVec 512) : State := if mayFetch s c then accept s c e else s

/-! ### NOP and ABORT -/

def nop (s : State) (r : CmdRef) : State := s.take r 0x0002 fun _ => s.finishSt r St.complete

/-- The run of a command is held for replay, or its replay runs (R452). -/
def heldForReplay (s : State) (r : CmdRef) : Bool :=
  let mine := fun (q : Suspect) => q.run.ref q.ctx == r
  s.rst.suspects.any mine || s.rst.replaying.any mine

/-- A suspect is aborted: its record is ABORTED, and a replay not begun is skipped. -/
def abortSuspect (s : State) (c : Cmd) : State :=
  let mark := fun (q : Suspect) => if q.run.ref q.ctx = c.ref then { q with aborted := true } else q
  let s := endCmd (s.setRst { s.rst with suspects := s.rst.suspects.map mark, replaying := s.rst.replaying.map mark }) St.aborted c
  if s.rst.eng = .idle ∧ s.rst.dev = false ∧ s.rst.replaying.isNone = true then settleNext s else s

/-- What a command in progress leaves behind when it is aborted (R419). -/
def abortRunning (s : State) (c : Cmd) : State :=
  if c.opcode = 0x0201 then (if heldForReplay s c.ref then abortSuspect s c else stopRun s c.ring St.aborted)
  else
    let s := if c.opcode = 0x0503 then clearEntered s c.ref else s
    let s := { s with
      held := s.held.filter fun r => r != c.ref
      colls := s.colls.map fun (x : Nat × Collective) => if x.2.switch = some c.ref then (x.1, { x.2 with switch := none }) else x }
    let s := s.setRst { s.rst with
      cmds := s.rst.cmds.filter fun r => r != c.ref
      devCmd := if s.rst.devCmd = some c.ref then none else s.rst.devCmd }
    endCmd s St.aborted c

/-- An abort of the same target is in progress: its record comes first (R418). -/
def abortPending (s : State) (t : CmdRef) : Bool := s.cmds.any fun c => c.opcode == 0x0003 && c.phase == .running && c.target == some t

/-- ABORT: the target's record becomes ABORTED, and the abort completes after it; with none to abort it says so. -/
def abort (s : State) (r : CmdRef) : State :=
  s.take r 0x0003 fun c =>
    match abortTarget s c.payload with
    | none => s.finishSt r St.nothingToAbort
    | some d =>
      if d.ref = r then s.finishSt r St.nothingToAbort
      else if abortPending s d.ref then s.defer r
      else
        let s := s.updCmd r fun c => { c with phase := .running, target := some d.ref }
        if d.phase = .running then abortRunning s d else endCmd s St.aborted d

end Sys2Proof.Machine
end

