-- ==== Sys2Proof/Machine/HostIface.lean ====
section
/-!
DEFINITION. The meanings of the host interface: doorbells, rings, registers, acceptance and completion (14).
-/
namespace Sys2Proof.Machine

/-- DOORBELL (R406). -/
def execDoorbell (value : Word) (s : State) : Host.Outcome State Fault Refusal := .next (s.hosted fun s => doorbell s value)

/-- CQ_DOORBELL (R407). -/
def execCqDoorbell (value : Word) (s : State) : Host.Outcome State Fault Refusal := .next (s.hosted fun s => cqDoorbell s value)

/-- SQ_CTRL with ENABLE set (R405). -/
def execSqEnable (ring : CtxId) (size : BitVec 4) (s : State) : Host.Outcome State Fault Refusal := .next (s.hosted fun s => sqCtrl s ring size true)

/-- SQ_CTRL with ENABLE clear (R405). -/
def execSqDisable (ring : CtxId) (size : BitVec 4) (s : State) : Host.Outcome State Fault Refusal := .next (s.hosted fun s => sqCtrl s ring size false)

/-- CQ_CTRL with ENABLE set (R409). -/
def execCqEnable (size : BitVec 4) (s : State) : Host.Outcome State Fault Refusal := .next (s.hosted fun s => cqCtrl s size true)

/-- CQ_CTRL with ENABLE clear (R409). -/
def execCqDisable (size : BitVec 4) (s : State) : Host.Outcome State Fault Refusal := .next (s.hosted fun s => cqCtrl s size false)

/-- A clear of CQ_CTRL.ENABLE takes effect (R409). -/
def execCqDisableTakesEffect (s : State) : Host.Outcome State Fault Refusal := .next (s.hosted cqDisabled)

/-- An RW1C write of IRQ_PENDING (R8, R403). -/
def execIrqPendingClear (value : Word) (s : State) : Host.Outcome State Fault Refusal := .next (s.hosted fun s => irqClear s value)

/-- A write into BAR0 (R403). -/
def execRegisterWrite (offset : BitVec 16) (bytes : Nat) (value : Dword) (s : State) : Host.Outcome State Fault Refusal := .next (s.hosted fun s => writeReg s offset.toNat bytes value)

/-- ENTRY_FETCH (R406, R408, R412, R413). -/
def execEntryFetch (ring : CtxId) (entry : BitVec 512) (s : State) : Host.Outcome State Fault Refusal := .next (entryFetch s ring entry)

/-- COMPLETION_COMMIT (R407, R417, R427). -/
def execCompletionCommit (cmd : CmdRef) (s : State) : Host.Outcome State Fault Refusal := .next (s.hosted fun s => commit s cmd)

/-- The coalescing delay has passed (R410). -/
def execIrqCoalesceDelayExpiry (vector : CtxId) (s : State) : Host.Outcome State Fault Refusal := .next (s.hosted fun s => coalesceExpired s vector)

/-- NOP (R421). -/
def execNop (cmd : CmdRef) (s : State) : Host.Outcome State Fault Refusal := .next (nop s cmd)

/-- ABORT (R418, R419, R452). -/
def execAbort (cmd : CmdRef) (s : State) : Host.Outcome State Fault Refusal := .next (abort s cmd)

end Sys2Proof.Machine
end

