-- ==== Sys2Proof/Machine/Jobs.lean ====
section
/-!
DEFINITION. The meanings of jobs, groups, fences and link streams (13, 15).
-/
namespace Sys2Proof.Machine

/-- JOB_OPEN (R369, R425). -/
def execJobOpen (cmd : CmdRef) (s : State) : Host.Outcome State Fault Refusal := .next (jobOpen s cmd)

/-- JOB_CLOSE (R370). -/
def execJobClose (cmd : CmdRef) (s : State) : Host.Outcome State Fault Refusal := .next (jobClose s cmd)

/-- BARRIER_ENTER (R373). -/
def execBarrierEnter (cmd : CmdRef) (s : State) : Host.Outcome State Fault Refusal := .next (barrierEnter s cmd)

/-- GROUP_BROADCAST (R377). -/
def execGroupBroadcast (cmd : CmdRef) (s : State) : Host.Outcome State Fault Refusal := .next (groupBroadcast s cmd)

/-- STREAM_BIND (R379). -/
def execStreamBind (cmd : CmdRef) (s : State) : Host.Outcome State Fault Refusal := .next (streamBind s cmd)

/-- JOB_FENCE (R456). -/
def execJobFence (cmd : CmdRef) (s : State) : Host.Outcome State Fault Refusal := .next (jobFence s cmd)

/-- A group wait expires (R376). -/
def execGroupWaitTimeout (group : Fin 16) (s : State) : Host.Outcome State Fault Refusal := .next (groupWaitExpired s group.val)

/-- BARRIER arrives (R374). -/
def execBarrier (via : Option LinkId) (packet : Packet) (s : State) : Host.Outcome State Fault Refusal := .next (barrierArrives s via packet)

/-- A release notice arrives (R375, R436). -/
def execBarrierRelease (via : Option LinkId) (packet : Packet) (s : State) : Host.Outcome State Fault Refusal := .next (releaseArrives s via packet)

/-- A stream flit arrives (R381). -/
def execStreamFlit (via : LinkId) (stream : BitVec 16) (payload : BitVec 1920) (s : State) : Host.Outcome State Fault Refusal := .next (streamFlit s via stream.toNat payload)

/-- Owed credits are sent (R382). -/
def execStreamCreditSend (stream : Fin 1024) (s : State) : Host.Outcome State Fault Refusal := .next (streamCreditSend s stream.val)

end Sys2Proof.Machine
end

