-- ==== Sys2Proof/Machine/Keyring.lean ====
section
/-!
DEFINITION. The meaning of KEYRING_WRITE (R85 to R88).
-/
namespace Sys2Proof.Machine

/-- KEYRING_WRITE (R85 to R88). -/
def execKeyringWrite (cmd : CmdRef) (s : State) : Host.Outcome State Fault Refusal := .next (keyringWrite s cmd)

end Sys2Proof.Machine
end

