-- ==== Sys2Proof/Machine/Links.lean ====
section
/-!
DEFINITION. The meanings of device ID, routes, windows, remote commands, packets and links (10).
-/
namespace Sys2Proof.Machine

/-- DEVICE_ID_SET (R299). -/
def execDeviceIdSet (cmd : CmdRef) (s : State) : Host.Outcome State Fault Refusal := .next (deviceIdSet s cmd)

/-- ROUTE_WRITE (R300). -/
def execRouteWrite (cmd : CmdRef) (s : State) : Host.Outcome State Fault Refusal := .next (routeWrite s cmd)

/-- WINDOW_OPEN (R305, R309). -/
def execWindowOpen (cmd : CmdRef) (s : State) : Host.Outcome State Fault Refusal := .next (windowOpen s cmd)

/-- WINDOW_CLOSE (R308). -/
def execWindowClose (cmd : CmdRef) (s : State) : Host.Outcome State Fault Refusal := .next (windowClose s cmd)

/-- A hasp completes (R308). -/
def execHaspComplete (window : BitVec 12) (s : State) : Host.Outcome State Fault Refusal := .next (haspComplete s window.toNat)

/-- WINDOW_STATUS (R304). -/
def execWindowStatus (cmd : CmdRef) (s : State) : Host.Outcome State Fault Refusal := .next (windowStatus s cmd)

/-- REMOTE_WRITE (R424). -/
def execRemoteWrite (cmd : CmdRef) (s : State) : Host.Outcome State Fault Refusal := .next (remoteWrite s cmd)

/-- REMOTE_READ (R424). -/
def execRemoteRead (cmd : CmdRef) (s : State) : Host.Outcome State Fault Refusal := .next (remoteRead s cmd)

/-- REMOTE_FETCH_ADD (R424). -/
def execRemoteFetchAdd (cmd : CmdRef) (s : State) : Host.Outcome State Fault Refusal := .next (remoteFetchAdd s cmd)

/-- A request times out (R298). -/
def execRemoteTimeout (tag : BitVec 24) (s : State) : Host.Outcome State Fault Refusal := .next (remoteTimeout s tag.toNat)

/-- WRITE arrives (R307). -/
def execWrite (via : Option LinkId) (packet : Packet) (s : State) : Host.Outcome State Fault Refusal := .next (packetArrives s via packet ptWrite fun s => request s packet (serveWrite packet))

/-- ACCUMULATE arrives (R307, R327). -/
def execAccumulate (via : Option LinkId) (packet : Packet) (s : State) : Host.Outcome State Fault Refusal := .next (packetArrives s via packet ptAccumulate fun s => request s packet (collAccumulate packet))

/-- READ arrives (R307). -/
def execRead (via : Option LinkId) (packet : Packet) (s : State) : Host.Outcome State Fault Refusal := .next (packetArrives s via packet ptRead fun s => request s packet (serveRead packet))

/-- READ_RESP arrives (R298). -/
def execReadResp (via : Option LinkId) (packet : Packet) (s : State) : Host.Outcome State Fault Refusal := .next (respArrives s via packet)

/-- FETCH_ADD arrives (R307). -/
def execFetchAdd (via : Option LinkId) (packet : Packet) (s : State) : Host.Outcome State Fault Refusal := .next (packetArrives s via packet ptFetchAdd fun s => request s packet (serveFetchAdd packet))

/-- A packet for another device (R301, R302). -/
def execPacketForward (via : Option LinkId) (packet : Packet) (s : State) : Host.Outcome State Fault Refusal := .next (packetForward s via packet)

/-- A malformed packet (R307). -/
def execMalformedPacket (via : Option LinkId) (packet : Packet) (s : State) : Host.Outcome State Fault Refusal := .next (malformedArrives s via packet)

/-- A flit arrives (R287). -/
def execFlitReceive (link : LinkId) (flit : BitVec 2048) (clean : Bool) (s : State) : Host.Outcome State Fault Refusal := .next (flitReceive s link flit clean)

/-- 1 ms with no progress of ACK (R288). -/
def execAckTimeoutRetrain (link : LinkId) (s : State) : Host.Outcome State Fault Refusal := .next (ackTimeout s link)

/-- A retrain has taken 100 ms (R288). -/
def execRetrainTimeout (link : LinkId) (s : State) : Host.Outcome State Fault Refusal := .next (retrainTimeout s link)

/-- A link loses its peer (R312). -/
def execLinkLoss (link : LinkId) (s : State) : Host.Outcome State Fault Refusal := .next (linkLoss s link)

/-- A down link attempts training (R312). -/
def execLinkTrainAttempt (link : LinkId) (s : State) : Host.Outcome State Fault Refusal := .next (trainAttempt s link)

/-- Training reaches flit exchange (R284, R311). -/
def execLinkTrained (link : LinkId) (failing : Byte) (s : State) : Host.Outcome State Fault Refusal := .next (linkTrained s link failing)

/-- HELLO (R311). -/
def execHello (link : LinkId) (message : Dword) (s : State) : Host.Outcome State Fault Refusal := .next (hello s link message)

/-- HELLO_ACK (R311). -/
def execHelloAck (link : LinkId) (message : Dword) (s : State) : Host.Outcome State Fault Refusal := .next (helloAck s link message)

/-- PEER_STATE (R313, R455). -/
def execPeerState (link : LinkId) (message : Dword) (s : State) : Host.Outcome State Fault Refusal := .next (peerState s link message)

/-- RETRAIN (R310). -/
def execRetrain (link : LinkId) (message : Dword) (s : State) : Host.Outcome State Fault Refusal := .next (retrainMsg s link message)

/-- A link loses lock (R288). -/
def execPhyLockLoss (link : LinkId) (s : State) : Host.Outcome State Fault Refusal := .next (retrainLink s link)

end Sys2Proof.Machine
end

