-- ==== Sys2Proof/Machine/Memory.lean ====
section
/-!
DEFINITION. The meanings of the commands of banks, engines and the external tiers (03, 09, 12, 18).
-/
namespace Sys2Proof.Machine

/-- A gate request reaches the head of its bank's queue (R104, R106). -/
def execGateRequestEffect (b : BankId) (s : State) : Host.Outcome State Fault Refusal := .next (gateDone s b.val)

/-- A waking bank is awake and serves what waits (R105). -/
def execBankWakeDone (b : BankId) (s : State) : Host.Outcome State Fault Refusal := .next (wakeDone s b.val)

/-- A row read, with what the bank's or channel's code and the links find in it (R80, R95, R96, R98, R258). -/
def execMemoryMeshRowRead (c : Option CtxId) (x : RowRead) (s : State) : Host.Outcome State Fault Refusal :=
  .next (meshRequest s (.read c x.addr x.found x.transit))

/-- A row write, acknowledged when it commits (R80, R95, R96). -/
def execMemoryMeshRowWrite (c : Option CtxId) (a : BitVec 52) (r : Row) (p : RowPoison) (s : State) :
    Host.Outcome State Fault Refusal :=
  .next (meshRequest s (.write c a r p.poison p.transit))

/-- ACC_SI24 (R268, R269, R271, R272): a local issuer's access is checked as an accumulate through an entry of format 0x10. -/
def execAccSi24 (i : Requester) (a : BitVec 52) (h : BitVec 128) (b : BitVec 3104) (s : State) : Host.Outcome State Fault Refusal :=
  .next (engineRequest s i.ctx i.handle pACC (some 0x10) 2 (.acc i.ctx a h b))

/-- FADD32 (R185, R273): a local issuer's entry has FADD. No claim has an addend of 0; such a request is answered as failed and
changes nothing (DESIGN CHOICE, log 127). -/
def execFadd32 (i : Requester) (a : BitVec 52) (d l : Word) (s : State) : Host.Outcome State Fault Refusal :=
  .next (if d = 0 then s.answer (.failed a St.seqOperationInvalid)
    else engineRequest s i.ctx i.handle pFADD none 1 (.fadd i.ctx a d l))

/-- WORD_WRITE (R267, R274). -/
def execWordWrite (a : BitVec 52) (x : Word) (s : State) : Host.Outcome State Fault Refusal :=
  .next (meshRequest s (.word a x))

/-- UPDATE: the step check, UPDATING and the granules (R280, R356). -/
def execUpdate (e : Fin 8) (s : State) : Host.Outcome State Fault Refusal := .next (updateStart s e)

/-- The final header and the notice of an update (R356). -/
def execUpdateProgramComplete (e : Fin 8) (s : State) : Host.Outcome State Fault Refusal := .next (updateDone s e)

/-- A row moves to a spare (R98 to R102). -/
def execRowRemap (p : SparePlace) (afterPoison : Bool) (s : State) : Host.Outcome State Fault Refusal :=
  .next (remapRow s p afterPoison)

/-- A core-memory scrub (R503). -/
def execCoreMemoryScrub (c : CoreId) (b : Fin 8) (f : Finding) (s : State) : Host.Outcome State Fault Refusal :=
  .next (scrubCore s c b f)

/-- A chip-memory scrub (R504). -/
def execChipMemoryScrub (b : BankId) (f : Finding) (s : State) : Host.Outcome State Fault Refusal := .next (scrubChip s b f)

/-- A patrol tick (R505). -/
def execPatrolScrubTick (fs : List (ChanId × Finding)) (s : State) : Host.Outcome State Fault Refusal := .next (patrolTick s fs)

/-- A channel's retraining: requests wait and none is lost (R257). -/
def execGddrRetraining (c : ChanId) (s : State) : Host.Outcome State Fault Refusal :=
  .next (s.setChan c.val { s.chan c.val with retrainings := (s.chan c.val).retrainings + 1 })

/-- A transfer is retried, or its sectors are poisoned (R258). -/
def execGddrTransferRetry (a : BitVec 52) (failures : Fin 5) (m : BitVec 16) (s : State) : Host.Outcome State Fault Refusal :=
  .next (transferRetry s a.toNat failures.val m)

/-- A CXL port goes down (R265). -/
def execCxlPortDown (p : Fin 2) (s : State) : Host.Outcome State Fault Refusal := .next (portDown s p.val)

end Sys2Proof.Machine
end

