-- ==== Sys2Proof/Machine/MeshEvents.lean ====
section
/-!
DEFINITION. The meanings of the stream mesh's events (R190 to R224).
-/
namespace Sys2Proof.Machine

/-- A token arrives (R192, R195, R218 to R220). -/
def execTokenArrival (c : CoreId) (port : Fin 4) (vc : Fin 8) (parityError : Bool) (s : State) :
    Host.Outcome State Fault Refusal :=
  .next (if sectionLive s then arrive s c port.val vc.val parityError else s)

/-- The spill head moves into the queue (R218). -/
def execSpillRefill (c : CoreId) (channel : Fin 64) (s : State) : Host.Outcome State Fault Refusal :=
  .next (if sectionLive s then runRecvs (refill s c channel.val) c else s)

/-- A credit reaches a sender (R216). -/
def execCreditReturn (c : CoreId) (channel : Fin 64) (s : State) : Host.Outcome State Fault Refusal :=
  .next (if sectionLive s then creditArrive s c channel.val else s)

/-- A route moves a token (R195). -/
def execRouteForward (c : CoreId) (route : Fin 4) (s : State) : Host.Outcome State Fault Refusal :=
  .next (if sectionLive s then forwardRoute s c route.val else s)

/-- SELECT fires (R213, R215). -/
def execSelectFire (c : CoreId) (s : State) : Host.Outcome State Fault Refusal := .next (moveFire s c 0)

/-- ROUTE fires (R213, R215). -/
def execRouteFire (c : CoreId) (s : State) : Host.Outcome State Fault Refusal := .next (moveFire s c 1)

/-- MERGE fires (R213 to R215). -/
def execMergeFire (c : CoreId) (s : State) : Host.Outcome State Fault Refusal := .next (mergeStep s c)

/-- REPEAT fires (R213, R215). -/
def execRepeatFire (c : CoreId) (s : State) : Host.Outcome State Fault Refusal := .next (repeatStep s c)

/-- A unit passes a complete set (R214). -/
def execSteerEndPass (c : CoreId) (unit : Fin 4) (s : State) : Host.Outcome State Fault Refusal :=
  .next (endPass s c unit.val)

/-- The deadlock counter reaches its window (R222, R224). -/
def execStreamDeadlock (s : State) : Host.Outcome State Fault Refusal := .next (deadlock s)

end Sys2Proof.Machine
end

