-- ==== Sys2Proof/Machine/ModulePins.lean ====
section
/-!
DEFINITION. The meanings of the module's pins and power (16, 19).
-/
namespace Sys2Proof.Machine

/-- PERST# is asserted (R21, R533). -/
def execPerstAssert (s : State) : Host.Outcome State Fault Refusal := .next (perstAssert s)

/-- PERST# is deasserted (R523, R529). -/
def execPerstDeassert (sbSel : Bool) (sbAddr : BitVec 2) (s : State) : Host.Outcome State Fault Refusal := .next (perstDeassert s sbSel sbAddr)

/-- Power-up (R529). -/
def execPowerUp (s : State) : Host.Outcome State Fault Refusal := .next (powerUp s)

/-- Power-up reaches ready (R529). -/
def execPowerUpReady (training : Training) (s : State) : Host.Outcome State Fault Refusal := .next (powerUpReady s training)

/-- Power-up has not reached ready (R530). -/
def execPowerUpTimeout (s : State) : Host.Outcome State Fault Refusal := .next (powerUpTimeout s)

/-- MOD_EN falls (R531). -/
def execModEnFall (s : State) : Host.Outcome State Fault Refusal := .next (modEnFall s)

/-- The input is lost (R532). -/
def execLossOfInput (s : State) : Host.Outcome State Fault Refusal := .next (lossOfInput s)

/-- Over-voltage (R521). -/
def execOverVoltage (s : State) : Host.Outcome State Fault Refusal := .next (overVoltage s)

/-- A module failure (R524). -/
def execModuleFailure (_cause : ModuleFault) (s : State) : Host.Outcome State Fault Refusal := .next (moduleFailure s)

/-- An ALERT# pulse ends (R525). -/
def execAlertPulseEnd (s : State) : Host.Outcome State Fault Refusal := .next (alertEnd s)

/-- The standby supply is lost (R526). -/
def execStandbySupplyLoss (s : State) : Host.Outcome State Fault Refusal := .next (standbyLoss s)

/-- A thermal trip (R474, R526). -/
def execThermtrip (sensor : Option CoreId) (temperature : Int) (s : State) : Host.Outcome State Fault Refusal := .next (thermtrip s sensor temperature)

end Sys2Proof.Machine
end

