-- ==== Sys2Proof/Machine/PowerClocks.lean ====
section
/-!
DEFINITION. The meanings of clocks, power and heat (16).
-/
namespace Sys2Proof.Machine

/-- A period of the cap loop ends (R467). -/
def execCapLoopPeriod (measured : Nat) (west east : Counts) (s : State) : Host.Outcome State Fault Refusal :=
  .next (capLoop s ⟨measured, west ++ east⟩)

/-- A gain is calibrated (R465). -/
def execGainCalibration (die : Fin 2) (measured estimated : Nat) (s : State) : Host.Outcome State Fault Refusal := .next (calibrate s die measured estimated)

/-- An island takes one step (R459). -/
def execFrequencyStep (island : IslandId) (s : State) : Host.Outcome State Fault Refusal := .next (frequencyStep s island)

/-- A droop is detected, or a die draws more than its limit (R469, R470). -/
def execDroop (island : IslandId) (cause : DroopCause) (s : State) : Host.Outcome State Fault Refusal := .next (droop s island cause)

/-- 2 µs of a droop (R471). -/
def execDroopStepDown (island : IslandId) (s : State) : Host.Outcome State Fault Refusal := .next (droopStepDown s island)

/-- A droop clears (R471). -/
def execDroopClear (island : IslandId) (limit : Bool) (s : State) : Host.Outcome State Fault Refusal := .next (droopClear s island limit)

/-- The wait after a droop ends (R472). -/
def execDroopRecoveryWaitEnd (island : IslandId) (s : State) : Host.Outcome State Fault Refusal := .next (droopRecovered s island)

/-- The sensors are read (R473). -/
def execThermalRead (cores : List Int) (dieW dieE : Int) (s : State) : Host.Outcome State Fault Refusal := .next (thermalRead s cores dieW dieE)

/-- An ageing monitor is read (R462, R463). -/
def execAgeingMeasurement (core : CoreId) (measured : Nat) (s : State) : Host.Outcome State Fault Refusal := .next (ageing s core measured)

end Sys2Proof.Machine
end

