-- ==== Sys2Proof/Machine/Resets.lean ====
section
/-!
DEFINITION. The meanings of resets, replays and peer notices (15).
-/
namespace Sys2Proof.Machine

/-- ENGINE_RESET (R437, R438). -/
def execEngineReset (cmd : CmdRef) (s : State) : Host.Outcome State Fault Refusal := .next (engineReset s cmd)

/-- DEVICE_RESET (R450). -/
def execDeviceReset (cmd : CmdRef) (s : State) : Host.Outcome State Fault Refusal := .next (deviceReset s cmd)

/-- PEER_NOTICE (R453 to R455). -/
def execPeerNotice (cmd : CmdRef) (s : State) : Host.Outcome State Fault Refusal := .next (peerNotice s cmd)

/-- RESET_LIMITS_SET (R447). -/
def execResetLimitsSet (cmd : CmdRef) (s : State) : Host.Outcome State Fault Refusal := .next (resetLimits s cmd)

/-- DEADBOLT_CLEAR (R449). -/
def execDeadboltClear (cmd : CmdRef) (s : State) : Host.Outcome State Fault Refusal := .next (deadboltClear s cmd)

/-- Step 1 of an engine reset (R439). -/
def execEngineResetStart (s : State) : Host.Outcome State Fault Refusal := .next (engineStart s)

/-- Steps 2 and 3 of an engine reset (R439, R440). -/
def execEngineResetEdgeClosed (s : State) : Host.Outcome State Fault Refusal := .next (engineEdge s)

/-- Step 4 of an engine reset (R439, R447). -/
def execEngineResetDone (s : State) : Host.Outcome State Fault Refusal := .next (engineDone s)

/-- An engine reset has taken 20 ms (R439). -/
def execEngineResetTimeout (s : State) : Host.Outcome State Fault Refusal := .next (engineTimeout s)

/-- A suspect is replayed (R443). -/
def execSuspectReplayStart (s : State) : Host.Outcome State Fault Refusal := .next (replayStart s)

/-- A replay ends (R444). -/
def execSuspectReplayEnd (s : State) : Host.Outcome State Fault Refusal := .next (replayEnd s)

/-- The replay watchdog expires (R444). -/
def execReplayWatchdogExpiry (s : State) : Host.Outcome State Fault Refusal := .next (replayExpired s)

/-- A device reset starts (R450, R451). -/
def execDeviceResetStart (s : State) : Host.Outcome State Fault Refusal := .next (deviceStart s)

/-- A device reset reaches ready (R451). -/
def execDeviceResetDone (training : Training) (s : State) : Host.Outcome State Fault Refusal := .next (deviceDone s training)

/-- A device reset has taken 2.5 s (R450). -/
def execDeviceResetTimeout (s : State) : Host.Outcome State Fault Refusal := .next (deviceTimeout s)

/-- Logic of the link or memory domain fails (R428). -/
def execLinkDomainFailure (memoryDomain : Bool) (s : State) : Host.Outcome State Fault Refusal := .next (domainFailure s memoryDomain)

/-- An error that no context answers for (R437). -/
def execSequencerUncorrectableError (s : State) : Host.Outcome State Fault Refusal := .next (sequencerError s)

end Sys2Proof.Machine
end

