-- ==== Sys2Proof/Machine/Section.lean ====
section
/-!
DEFINITION. The meanings of the section sequencer's commands and of the grid's watchdogs (08, 15).
-/
namespace Sys2Proof.Machine

/-- RUN starts (R226, R342, R358). -/
def execRun (r : CmdRef) (s : State) : Host.Outcome State Fault Refusal := .next (startRun s r)

/-- HINGE_BEGIN (R235 to R237). -/
def execHingeBegin (s : State) : Host.Outcome State Fault Refusal := .next (hinge s)

/-- SECTION_START (R237 step 8). -/
def execSectionStart (s : State) : Host.Outcome State Fault Refusal := .next (startSection s)

/-- The section watchdog expires (R433). -/
def execSectionTimeout (s : State) : Host.Outcome State Fault Refusal := .next (sectionExpired s)

/-- A core's progress watchdog expires (R434). -/
def execCoreProgressTimeout (c : CoreId) (s : State) : Host.Outcome State Fault Refusal := .next (coreExpired s c)

/-- A context stops (R429). -/
def execContextStop (c : CtxId) (s : State) : Host.Outcome State Fault Refusal := .next (contextStop s c)

/-- A context's drain has finished (R429); a fence that waited for it goes on (R456). -/
def execContextStopDrained (c : CtxId) (s : State) : Host.Outcome State Fault Refusal := .next (fenceOn (releaseReads (contextDrained s c)))

/-- A drain has not finished in 1 ms (R430). -/
def execDrainBoundExpiry (s : State) : Host.Outcome State Fault Refusal := .next (drainExpired s)

end Sys2Proof.Machine
end

