-- ==== Sys2Proof/Machine/SeqOps.lean ====
section
/-!
DEFINITION. Row moves, key-sets, claims and jumps of the core sequencer (R165 to R169, R184, R185, R230).
-/
namespace Sys2Proof.Machine

/-- The rows of an entry that lie in the CXL tier (R265). -/
def cxlRows (s : State) (b : Cap) (o n : Nat) : List Nat :=
  (List.range n).filterMap fun j => (b.addr (o + j)).filter fun a => region s a == .cxl

/-- RMOV: a ninth outstanding one stalls; the rows are copied when it issues and stand until it completes (R165 to R167;
log 17). -/
def rmovWord (w : BitVec 128) (s : State) (c : CoreId) : Option (Option Flt × State) :=
  let k := s.core c
  if 8 ≤ k.moves then none
  else
    let a := capture s (some c) (BitVec.ofNat 16 (fld w 8 16))
    let b := capture s (some c) (BitVec.ofNat 16 (fld w 24 16))
    match copyRows s (some c) a b (fld w 40 32) (fld w 72 32) (fld w 104 20) with
    | (some f, s) => some (some f, s)
    | (none, s) =>
      let k := s.core c
      some (none, s.setCore c { k with moves := k.moves + 1, moveRows := k.moveRows ++ cxlRows s b (fld w 72 32) (fld w 104 20), waiting := if bit w 4 then 1 else k.waiting })

/-- The oldest row move of a core completes; a WAIT ends with the last one (R166, R167). -/
def moveDone (s : State) (c : CoreId) : State :=
  let k := s.core c
  if k.moves = 0 then s
  else s.setCore c { k with moves := k.moves - 1, moveRows := if k.moves = 1 then [] else k.moveRows, waiting := if k.waiting = 1 ∧ k.moves = 1 then 0 else k.waiting }

/-- KSET: fields of a valid core entry rewritten under WMASK (R168, R169). -/
def ksetWord (w : BitVec 128) (s : State) (c : CoreId) : Option (Option Flt × State) :=
  let k := s.core c
  let i := fld w 4 6
  let e : BitVec 128 := Tab.get 0 k.keys i
  if bit w 10 && decide (0x12 ≤ fld w 16 5) then some (some seqInvalid, s)
  else if !CE.valid e then some (some ⟨St.keyInvalid, { handle := BitVec.ofNat 16 i }⟩, s)
  else
    let e := if bit w 10 then put e 2 5 (fld w 16 5) else e
    let e := if bit w 11 then put e 7 7 (fld w 21 7) else e
    let e := if bit w 12 then put e 32 32 (if bit w 15 then CE.offset e + fld w 32 32 else fld w 32 32) else e
    let e := if bit w 13 then put e 64 32 (fld w 64 32) else e
    let e := if bit w 14 then put e 96 16 (fld w 96 16) else e
    some (none, s.setCore c { k with keys := Tab.set 0 k.keys i e })

/-- A field condition of WCLAIM fails: INC, LIMIT, or a counter outside chip memory (R184). -/
def wclaimBad (w : BitVec 128) (s : State) (c : CoreId) : Bool :=
  let cap := capture s (some c) (BitVec.ofNat 16 (fld w 32 16))
  fld w 80 16 == 0 || fld w 96 32 == 0xFFFFFFFF || (cap.valid && (cap.isLocal || cap.tier != 1))

/-- WCLAIM: a claim on a word of chip memory, its result in a lane (R184, R185). -/
def wclaimWord (w : BitVec 128) (s : State) (c : CoreId) : Option (Option Flt × State) :=
  let cap := capture s (some c) (BitVec.ofNat 16 (fld w 32 16))
  let i := fld w 48 32
  if wclaimBad w s c then some (some seqInvalid, s)
  else
    match begin' s s.grid.ctx cap pFADD none with
    | (some f, s) => some (some f, s)
    | (none, s) =>
      match cap.addr (i / 128) with
      | none => some (some ⟨St.keyOutOfBounds, { handle := cap.handle, index := i / 128 }⟩, s)
      | some a =>
        match claimRow s a (i % 128) (fld w 80 16) (fld w 96 32) with
        | (none, s) =>
          some (some ⟨St.poisonConsumed, { handle := cap.handle, index := i / 128, aux := i % 128 / 8 }⟩, s)
        | (some v, s) => some (none, s.setCore c ((s.core c).setLane (fld w 4 6) (fld w 10 7) v))

/-- SEQJ: the program's end, or a counted jump; the index left stands two slots before the next word (R230). -/
def seqjWord (w : BitVec 128) (s : State) (c : CoreId) : Option (Option Flt × State) :=
  let k := s.core c
  if bit w 4 then some (none, s.setCore c { k with ended := true })
  else
    let ctr := fld w 5 2
    let v := Tab.get 0 k.loops ctr + 1
    let k := k.setLane (fld w 64 6) (fld w 70 7) v.toNat
    if v.toNat < fld w 32 32 then
      some (none, s.setCore c { k with loops := Tab.set 0 k.loops ctr v, pc := BitVec.ofNat 16 (fld w 16 16) - 2 })
    else some (none, s.setCore c { k with loops := Tab.set 0 k.loops ctr 0 })

end Sys2Proof.Machine
end

