-- ==== Sys2Proof/Machine/Sequencer.lean ====
section
/-!
DEFINITION. The meanings of the core sequencer's words and of the events that end them (06, 08).
-/
namespace Sys2Proof.Machine

/-- RMOV (R165 to R167). -/
def execRmov (c : CoreId) (w : BitVec 128) (s : State) : Host.Outcome State Fault Refusal :=
  .next (issueWord 4 c w s fun w s => rmovWord w s c)

/-- A row move completes (R166). -/
def execRmovComplete (c : CoreId) (s : State) : Host.Outcome State Fault Refusal := .next (moveDone s c)

/-- KSET (R168, R169). -/
def execKset (c : CoreId) (w : BitVec 128) (s : State) : Host.Outcome State Fault Refusal :=
  .next (issueWord 5 c w s fun w s => ksetWord w s c)

/-- TILE (R174 to R176). -/
def execTile (c : CoreId) (w : BitVec 128) (s : State) : Host.Outcome State Fault Refusal :=
  .next (issueWord 6 c w s fun w s => tileWord w s c)

/-- The epilogue of an output tile (R178). -/
def execTileEpilogue (c : CoreId) (s : State) : Host.Outcome State Fault Refusal := .next (tileEpilogue s c)

/-- The shipment of an L1 output tile (R179). -/
def execTileShip (c : CoreId) (s : State) : Host.Outcome State Fault Refusal := .next (tileShip s c)

/-- The end of a run (R179, R243, R244). -/
def execTileComplete (c : CoreId) (s : State) : Host.Outcome State Fault Refusal := .next (tileEnd s c)

/-- WCLAIM (R184, R185). -/
def execWclaim (c : CoreId) (w : BitVec 128) (s : State) : Host.Outcome State Fault Refusal :=
  .next (issueWord 7 c w s (fun w s => wclaimWord w s c) fun w s => wclaimBad w s c)

/-- CSEND (R200, R204 to R207, R210). -/
def execCsend (c : CoreId) (w : BitVec 128) (s : State) : Host.Outcome State Fault Refusal :=
  .next (issueWord 8 c w s (fun w s => csend w s c) fun w s => rowWordBad true w s c)

/-- CRECV (R204, R206 to R210). -/
def execCrecv (c : CoreId) (w : BitVec 128) (s : State) : Host.Outcome State Fault Refusal :=
  .next (issueWord 9 c w s (fun w s => crecv w s c) fun w s => rowWordBad false w s c)

/-- CTOK (R205, R206). -/
def execCtok (c : CoreId) (w : BitVec 128) (s : State) : Host.Outcome State Fault Refusal :=
  .next (issueWord 0xA c w s fun w s => ctok w s c)

/-- CTAKE (R205, R206, R209). -/
def execCtake (c : CoreId) (w : BitVec 128) (s : State) : Host.Outcome State Fault Refusal :=
  .next (issueWord 0xB c w s fun w s => ctake w s c)

/-- WQUEUE (R240). -/
def execWqueue (c : CoreId) (w : BitVec 128) (s : State) : Host.Outcome State Fault Refusal :=
  .next (issueWord 0xC c w s fun w s => wqueue w s c)

/-- WFENCE (R244). -/
def execWfence (c : CoreId) (w : BitVec 128) (s : State) : Host.Outcome State Fault Refusal :=
  .next (issueWord 0xD c w s fun _ s => wfence s c)

/-- STASH (R245 to R249). -/
def execStash (c : CoreId) (w : BitVec 128) (s : State) : Host.Outcome State Fault Refusal :=
  .next (issueWord 0xE c w s (fun w s => stashWord w s c) fun w s => stashBad w s c)

/-- A stash operation completes (R245). -/
def execStashComplete (c : CoreId) (s : State) : Host.Outcome State Fault Refusal := .next (stashDone s c)

/-- SEQJ (R230). -/
def execSeqj (c : CoreId) (w : BitVec 128) (s : State) : Host.Outcome State Fault Refusal :=
  .next (issueWord 0xF c w s fun w s => seqjWord w s c)

/-- The head deferred entry starts or resumes (R242). -/
def execDeferredWorkStart (c : CoreId) (s : State) : Host.Outcome State Fault Refusal := .next (deferredStart s c)

/-- Deferred work suspends (R242, R243). -/
def execDeferredWorkSuspend (c : CoreId) (s : State) : Host.Outcome State Fault Refusal := .next (deferredSuspend s c)

end Sys2Proof.Machine
end

