-- ==== Sys2Proof/Machine/Trust.lean ====
section
/-!
DEFINITION. The meanings of roles, firmware, fuses, settings and the audit log (17).
-/
namespace Sys2Proof.Machine

/-- ROLE_CHALLENGE (R491). -/
def execRoleChallenge (cmd : CmdRef) (s : State) : Host.Outcome State Fault Refusal := .next (roleChallenge s cmd)

/-- ROLE_RESPONSE (R492). -/
def execRoleResponse (cmd : CmdRef) (host : List Byte) (s : State) : Host.Outcome State Fault Refusal := .next (roleResponse s cmd host)

/-- ROLE_DROP (R493). -/
def execRoleDrop (cmd : CmdRef) (s : State) : Host.Outcome State Fault Refusal := .next (roleDrop s cmd)

/-- A role lapses (R493). -/
def execRoleLapse (s : State) : Host.Outcome State Fault Refusal := .next (roleLapse s)

/-- SPDM_MESSAGE (R487). -/
def execSpdmMessage (cmd : CmdRef) (request : List Byte) (s : State) : Host.Outcome State Fault Refusal := .next (spdmMessage s cmd request)

/-- POWER_SET (R464). -/
def execPowerSet (cmd : CmdRef) (s : State) : Host.Outcome State Fault Refusal := .next (powerSet s cmd)

/-- LINK_CONFIG_SET (R421). -/
def execLinkConfigSet (cmd : CmdRef) (s : State) : Host.Outcome State Fault Refusal := .next (linkConfigSet s cmd)

/-- ROUTE_DEFAULTS_WRITE (R300). -/
def execRouteDefaultsWrite (cmd : CmdRef) (s : State) : Host.Outcome State Fault Refusal := .next (routeDefaults s cmd)

/-- FIRMWARE_UPDATE STAGE (R483). -/
def execFirmwareStage (cmd : CmdRef) (image : List Byte) (s : State) : Host.Outcome State Fault Refusal := .next (firmwareStage s cmd image)

/-- FIRMWARE_UPDATE ACTIVATE (R483). -/
def execFirmwareActivate (cmd : CmdRef) (s : State) : Host.Outcome State Fault Refusal := .next (firmware s cmd 1 [] activateSlot activateDone)

/-- FIRMWARE_UPDATE COMMIT (R483). -/
def execFirmwareCommit (cmd : CmdRef) (s : State) : Host.Outcome State Fault Refusal := .next (firmware s cmd 2 [] commitImage fun _ s => s)

/-- REMAP_COMMIT (R102, R463). -/
def execRemapCommit (cmd : CmdRef) (s : State) : Host.Outcome State Fault Refusal := .next (remapCommit s cmd)

/-- FUSE_PROGRAM (R478). -/
def execFuseProgram (cmd : CmdRef) (host : List Byte) (s : State) : Host.Outcome State Fault Refusal := .next (fuseProgram s cmd host)

/-- DEBUG_UNLOCK (R495). -/
def execDebugUnlock (cmd : CmdRef) (s : State) : Host.Outcome State Fault Refusal := .next (debugUnlock s cmd)

/-- An audit record becomes durable (R499, R500). -/
def execAuditRecordDurable (written : Bool) (s : State) : Host.Outcome State Fault Refusal := .next (auditDurable s written)

/-- The boot chain is verified (R481, R482). -/
def execBoot (s : State) : Host.Outcome State Fault Refusal := .next (boot s)

end Sys2Proof.Machine
end

