-- ==== Sys2Proof/Machine/Vector.lean ====
section
/-!
DEFINITION. The meanings of the vector instructions (R137 to R162).
-/
namespace Sys2Proof.Machine

/-- What a vector instruction's meaning answers. -/
abbrev Out : Type := Host.Outcome State Fault Refusal

/-- VNOP changes nothing (R144). -/
def execVnop (c : CoreId) (x : VecIssue) (s : State) : Out := .next (issueVector 0x00 c x.word x.check s)

/-- Wrapping add (R144). -/
def execViadd (c : CoreId) (x : VecIssue) (s : State) : Out := .next (issueVector 0x01 c x.word x.check s)

/-- Wrapping subtract (R144). -/
def execVisub (c : CoreId) (x : VecIssue) (s : State) : Out := .next (issueVector 0x02 c x.word x.check s)

/-- Low half of the product (R144, R147). -/
def execVimul (c : CoreId) (x : VecIssue) (s : State) : Out := .next (issueVector 0x03 c x.word x.check s)

/-- Saturating add (R45, R144). -/
def execViadds (c : CoreId) (x : VecIssue) (s : State) : Out := .next (issueVector 0x04 c x.word x.check s)

/-- Saturating subtract (R45, R144). -/
def execVisubs (c : CoreId) (x : VecIssue) (s : State) : Out := .next (issueVector 0x05 c x.word x.check s)

/-- Signed minimum (R144). -/
def execVimin (c : CoreId) (x : VecIssue) (s : State) : Out := .next (issueVector 0x06 c x.word x.check s)

/-- Signed maximum (R144). -/
def execVimax (c : CoreId) (x : VecIssue) (s : State) : Out := .next (issueVector 0x07 c x.word x.check s)

/-- Bitwise AND (R144). -/
def execVand (c : CoreId) (x : VecIssue) (s : State) : Out := .next (issueVector 0x08 c x.word x.check s)

/-- Bitwise OR (R144). -/
def execVor (c : CoreId) (x : VecIssue) (s : State) : Out := .next (issueVector 0x09 c x.word x.check s)

/-- Bitwise XOR (R144). -/
def execVxor (c : CoreId) (x : VecIssue) (s : State) : Out := .next (issueVector 0x0A c x.word x.check s)

/-- Shift left (R144). -/
def execVshl (c : CoreId) (x : VecIssue) (s : State) : Out := .next (issueVector 0x0B c x.word x.check s)

/-- Arithmetic shift right (R144). -/
def execVshra (c : CoreId) (x : VecIssue) (s : State) : Out := .next (issueVector 0x0C c x.word x.check s)

/-- Logical shift right (R144). -/
def execVshrl (c : CoreId) (x : VecIssue) (s : State) : Out := .next (issueVector 0x0D c x.word x.check s)

/-- Floating-point add (R59). -/
def execVadd (c : CoreId) (x : VecIssue) (s : State) : Out := .next (issueVector 0x20 c x.word x.check s)

/-- Floating-point subtract (R59). -/
def execVsub (c : CoreId) (x : VecIssue) (s : State) : Out := .next (issueVector 0x21 c x.word x.check s)

/-- Floating-point multiply (R59). -/
def execVmul (c : CoreId) (x : VecIssue) (s : State) : Out := .next (issueVector 0x22 c x.word x.check s)

/-- Fused multiply-add into the destination (R59, R144). -/
def execVfma (c : CoreId) (x : VecIssue) (s : State) : Out := .next (issueVector 0x23 c x.word x.check s)

/-- Minimum (R146). -/
def execVmin (c : CoreId) (x : VecIssue) (s : State) : Out := .next (issueVector 0x24 c x.word x.check s)

/-- Maximum (R146). -/
def execVmax (c : CoreId) (x : VecIssue) (s : State) : Out := .next (issueVector 0x25 c x.word x.check s)

/-- Sign bit cleared (R144). -/
def execVabs (c : CoreId) (x : VecIssue) (s : State) : Out := .next (issueVector 0x26 c x.word x.check s)

/-- Sign bit inverted (R144). -/
def execVneg (c : CoreId) (x : VecIssue) (s : State) : Out := .next (issueVector 0x27 c x.word x.check s)

/-- Compare equal (R146). -/
def execVcmpeq (c : CoreId) (x : VecIssue) (s : State) : Out := .next (issueVector 0x30 c x.word x.check s)

/-- Compare less (R146). -/
def execVcmplt (c : CoreId) (x : VecIssue) (s : State) : Out := .next (issueVector 0x31 c x.word x.check s)

/-- Compare less or equal (R146). -/
def execVcmple (c : CoreId) (x : VecIssue) (s : State) : Out := .next (issueVector 0x32 c x.word x.check s)

/-- Compare unordered (R146). -/
def execVcmpun (c : CoreId) (x : VecIssue) (s : State) : Out := .next (issueVector 0x33 c x.word x.check s)

/-- Mask from a lane bound (R144). -/
def execVmset (c : CoreId) (x : VecIssue) (s : State) : Out := .next (issueVector 0x38 c x.word x.check s)

/-- AND of masks (R144). -/
def execVmand (c : CoreId) (x : VecIssue) (s : State) : Out := .next (issueVector 0x39 c x.word x.check s)

/-- OR of masks (R144). -/
def execVmor (c : CoreId) (x : VecIssue) (s : State) : Out := .next (issueVector 0x3A c x.word x.check s)

/-- XOR of masks (R144). -/
def execVmxor (c : CoreId) (x : VecIssue) (s : State) : Out := .next (issueVector 0x3B c x.word x.check s)

/-- NOT of a mask (R144). -/
def execVmnot (c : CoreId) (x : VecIssue) (s : State) : Out := .next (issueVector 0x3C c x.word x.check s)

/-- Base-2 exponential (R148, R149). -/
def execVexp2 (c : CoreId) (x : VecIssue) (s : State) : Out := .next (issueVector 0x40 c x.word x.check s)

/-- Base-2 logarithm (R148, R149). -/
def execVlog2 (c : CoreId) (x : VecIssue) (s : State) : Out := .next (issueVector 0x41 c x.word x.check s)

/-- Reciprocal (R148, R149). -/
def execVrcp (c : CoreId) (x : VecIssue) (s : State) : Out := .next (issueVector 0x42 c x.word x.check s)

/-- Reciprocal square root (R148, R149). -/
def execVrsqrt (c : CoreId) (x : VecIssue) (s : State) : Out := .next (issueVector 0x43 c x.word x.check s)

/-- Hyperbolic tangent (R148, R149). -/
def execVtanh (c : CoreId) (x : VecIssue) (s : State) : Out := .next (issueVector 0x44 c x.word x.check s)

/-- Sum over the active lanes (R150). -/
def execVrsum (c : CoreId) (x : VecIssue) (s : State) : Out := .next (issueVector 0x50 c x.word x.check s)

/-- Maximum over the active lanes (R150). -/
def execVrmax (c : CoreId) (x : VecIssue) (s : State) : Out := .next (issueVector 0x51 c x.word x.check s)

/-- Online-softmax step (R151). -/
def execVsmx (c : CoreId) (x : VecIssue) (s : State) : Out := .next (issueVector 0x52 c x.word x.check s)

/-- Lane rotation (R144). -/
def execVrot (c : CoreId) (x : VecIssue) (s : State) : Out := .next (issueVector 0x53 c x.word x.check s)

/-- Move (R144). -/
def execVmov (c : CoreId) (x : VecIssue) (s : State) : Out := .next (issueVector 0x60 c x.word x.check s)

/-- Conversion (R153, R154). -/
def execVcvt (c : CoreId) (x : VecIssue) (s : State) : Out := .next (issueVector 0x61 c x.word x.check s)

/-- SI24 quantization (R155). -/
def execVqsi (c : CoreId) (x : VecIssue) (s : State) : Out := .next (issueVector 0x62 c x.word x.check s)

/-- SI24 dequantization (R155). -/
def execVdqsi (c : CoreId) (x : VecIssue) (s : State) : Out := .next (issueVector 0x63 c x.word x.check s)

/-- Row load (R156). -/
def execVld (c : CoreId) (x : VecIssue) (s : State) : Out := .next (issueVector 0x70 c x.word x.check s)

/-- Row store (R156). -/
def execVst (c : CoreId) (x : VecIssue) (s : State) : Out := .next (issueVector 0x71 c x.word x.check s)

/-- One generator output per lane (R161). -/
def execVrnd (c : CoreId) (x : VecIssue) (s : State) : Out := .next (issueVector 0x78 c x.word x.check s)

/-- Flag words read (R160). -/
def execVflagrd (c : CoreId) (x : VecIssue) (s : State) : Out := .next (issueVector 0x79 c x.word x.check s)

/-- Flag bits cleared (R160). -/
def execVflagclr (c : CoreId) (x : VecIssue) (s : State) : Out := .next (issueVector 0x7A c x.word x.check s)

end Sys2Proof.Machine
end

