-- ==== Sys2Proof/Machine/Dispatch.lean ====
section
/-!
DEFINITION. One arm per command: its meaning.
-/
namespace Sys2Proof.Machine

def exec (i : Instr) (s : State) : Host.Outcome State Fault Refusal :=
  match i with
  | .doorbell value => Sys2Proof.Machine.execDoorbell value s
  | .cqDoorbell value => Sys2Proof.Machine.execCqDoorbell value s
  | .sqEnable ring size => Sys2Proof.Machine.execSqEnable ring size s
  | .sqDisable ring size => Sys2Proof.Machine.execSqDisable ring size s
  | .cqEnable size => Sys2Proof.Machine.execCqEnable size s
  | .cqDisable size => Sys2Proof.Machine.execCqDisable size s
  | .cqDisableTakesEffect => Sys2Proof.Machine.execCqDisableTakesEffect s
  | .irqPendingClear value => Sys2Proof.Machine.execIrqPendingClear value s
  | .registerWrite offset bytes value => Sys2Proof.Machine.execRegisterWrite offset bytes value s
  | .entryFetch ring entry => Sys2Proof.Machine.execEntryFetch ring entry s
  | .completionCommit cmd => Sys2Proof.Machine.execCompletionCommit cmd s
  | .irqCoalesceDelayExpiry vector => Sys2Proof.Machine.execIrqCoalesceDelayExpiry vector s
  | .protocolOpen cmd => Sys2Proof.Machine.execProtocolOpen cmd s
  | .nop cmd => Sys2Proof.Machine.execNop cmd s
  | .abort cmd => Sys2Proof.Machine.execAbort cmd s
  | .contextOpen cmd => Sys2Proof.Machine.execContextOpen cmd s
  | .contextClose cmd => Sys2Proof.Machine.execContextClose cmd s
  | .keyringWrite cmd => Sys2Proof.Machine.execKeyringWrite cmd s
  | .gddrLayout cmd => Sys2Proof.Machine.execGddrLayout cmd s
  | .dataPut cmd host => Sys2Proof.Machine.execDataPut cmd host s
  | .dataGet cmd => Sys2Proof.Machine.execDataGet cmd s
  | .run cmd => Sys2Proof.Machine.execRun cmd s
  | .deviceIdSet cmd => Sys2Proof.Machine.execDeviceIdSet cmd s
  | .routeWrite cmd => Sys2Proof.Machine.execRouteWrite cmd s
  | .windowOpen cmd => Sys2Proof.Machine.execWindowOpen cmd s
  | .windowClose cmd => Sys2Proof.Machine.execWindowClose cmd s
  | .haspComplete window => Sys2Proof.Machine.execHaspComplete window s
  | .windowStatus cmd => Sys2Proof.Machine.execWindowStatus cmd s
  | .remoteWrite cmd => Sys2Proof.Machine.execRemoteWrite cmd s
  | .remoteRead cmd => Sys2Proof.Machine.execRemoteRead cmd s
  | .remoteFetchAdd cmd => Sys2Proof.Machine.execRemoteFetchAdd cmd s
  | .collectiveOpen cmd => Sys2Proof.Machine.execCollectiveOpen cmd s
  | .collectiveClose cmd => Sys2Proof.Machine.execCollectiveClose cmd s
  | .bucketArm cmd => Sys2Proof.Machine.execBucketArm cmd s
  | .bucketWait cmd => Sys2Proof.Machine.execBucketWait cmd s
  | .layoutSwitch cmd => Sys2Proof.Machine.execLayoutSwitch cmd s
  | .layoutSwitchEffect collective => Sys2Proof.Machine.execLayoutSwitchEffect collective s
  | .jobOpen cmd => Sys2Proof.Machine.execJobOpen cmd s
  | .jobClose cmd => Sys2Proof.Machine.execJobClose cmd s
  | .barrierEnter cmd => Sys2Proof.Machine.execBarrierEnter cmd s
  | .groupBroadcast cmd => Sys2Proof.Machine.execGroupBroadcast cmd s
  | .streamBind cmd => Sys2Proof.Machine.execStreamBind cmd s
  | .telemetryRead cmd => Sys2Proof.Machine.execTelemetryRead cmd s
  | .blackboxRead cmd => Sys2Proof.Machine.execBlackboxRead cmd s
  | .auditRead cmd => Sys2Proof.Machine.execAuditRead cmd s
  | .engineReset cmd => Sys2Proof.Machine.execEngineReset cmd s
  | .deviceReset cmd => Sys2Proof.Machine.execDeviceReset cmd s
  | .peerNotice cmd => Sys2Proof.Machine.execPeerNotice cmd s
  | .jobFence cmd => Sys2Proof.Machine.execJobFence cmd s
  | .roleChallenge cmd => Sys2Proof.Machine.execRoleChallenge cmd s
  | .roleResponse cmd host => Sys2Proof.Machine.execRoleResponse cmd host s
  | .roleDrop cmd => Sys2Proof.Machine.execRoleDrop cmd s
  | .spdmMessage cmd request => Sys2Proof.Machine.execSpdmMessage cmd request s
  | .powerSet cmd => Sys2Proof.Machine.execPowerSet cmd s
  | .resetLimitsSet cmd => Sys2Proof.Machine.execResetLimitsSet cmd s
  | .linkConfigSet cmd => Sys2Proof.Machine.execLinkConfigSet cmd s
  | .routeDefaultsWrite cmd => Sys2Proof.Machine.execRouteDefaultsWrite cmd s
  | .firmwareStage cmd image => Sys2Proof.Machine.execFirmwareStage cmd image s
  | .firmwareActivate cmd => Sys2Proof.Machine.execFirmwareActivate cmd s
  | .firmwareCommit cmd => Sys2Proof.Machine.execFirmwareCommit cmd s
  | .deadboltClear cmd => Sys2Proof.Machine.execDeadboltClear cmd s
  | .remapCommit cmd => Sys2Proof.Machine.execRemapCommit cmd s
  | .fuseProgram cmd host => Sys2Proof.Machine.execFuseProgram cmd host s
  | .debugUnlock cmd => Sys2Proof.Machine.execDebugUnlock cmd s
  | .sload core word => Sys2Proof.Machine.execSload core word s
  | .sloadSetValid core => Sys2Proof.Machine.execSloadSetValid core s
  | .mmul core word => Sys2Proof.Machine.execMmul core word s
  | .vectorIssue core parityError => Sys2Proof.Machine.execVectorIssue core parityError s
  | .accumulatorCommit core commit => Sys2Proof.Machine.execAccumulatorCommit core commit s
  | .rmov core word => Sys2Proof.Machine.execRmov core word s
  | .rmovComplete core => Sys2Proof.Machine.execRmovComplete core s
  | .kset core word => Sys2Proof.Machine.execKset core word s
  | .tile core word => Sys2Proof.Machine.execTile core word s
  | .tileEpilogue core => Sys2Proof.Machine.execTileEpilogue core s
  | .tileShip core => Sys2Proof.Machine.execTileShip core s
  | .tileComplete core => Sys2Proof.Machine.execTileComplete core s
  | .wclaim core word => Sys2Proof.Machine.execWclaim core word s
  | .csend core word => Sys2Proof.Machine.execCsend core word s
  | .crecv core word => Sys2Proof.Machine.execCrecv core word s
  | .ctok core word => Sys2Proof.Machine.execCtok core word s
  | .ctake core word => Sys2Proof.Machine.execCtake core word s
  | .wqueue core word => Sys2Proof.Machine.execWqueue core word s
  | .wfence core word => Sys2Proof.Machine.execWfence core word s
  | .stash core word => Sys2Proof.Machine.execStash core word s
  | .seqj core word => Sys2Proof.Machine.execSeqj core word s
  | .deferredWorkStart core => Sys2Proof.Machine.execDeferredWorkStart core s
  | .deferredWorkSuspend core => Sys2Proof.Machine.execDeferredWorkSuspend core s
  | .vnop core issue => Sys2Proof.Machine.execVnop core issue s
  | .viadd core issue => Sys2Proof.Machine.execViadd core issue s
  | .visub core issue => Sys2Proof.Machine.execVisub core issue s
  | .vimul core issue => Sys2Proof.Machine.execVimul core issue s
  | .viadds core issue => Sys2Proof.Machine.execViadds core issue s
  | .visubs core issue => Sys2Proof.Machine.execVisubs core issue s
  | .vimin core issue => Sys2Proof.Machine.execVimin core issue s
  | .vimax core issue => Sys2Proof.Machine.execVimax core issue s
  | .vand core issue => Sys2Proof.Machine.execVand core issue s
  | .vor core issue => Sys2Proof.Machine.execVor core issue s
  | .vxor core issue => Sys2Proof.Machine.execVxor core issue s
  | .vshl core issue => Sys2Proof.Machine.execVshl core issue s
  | .vshra core issue => Sys2Proof.Machine.execVshra core issue s
  | .vshrl core issue => Sys2Proof.Machine.execVshrl core issue s
  | .vadd core issue => Sys2Proof.Machine.execVadd core issue s
  | .vsub core issue => Sys2Proof.Machine.execVsub core issue s
  | .vmul core issue => Sys2Proof.Machine.execVmul core issue s
  | .vfma core issue => Sys2Proof.Machine.execVfma core issue s
  | .vmin core issue => Sys2Proof.Machine.execVmin core issue s
  | .vmax core issue => Sys2Proof.Machine.execVmax core issue s
  | .vabs core issue => Sys2Proof.Machine.execVabs core issue s
  | .vneg core issue => Sys2Proof.Machine.execVneg core issue s
  | .vcmpeq core issue => Sys2Proof.Machine.execVcmpeq core issue s
  | .vcmplt core issue => Sys2Proof.Machine.execVcmplt core issue s
  | .vcmple core issue => Sys2Proof.Machine.execVcmple core issue s
  | .vcmpun core issue => Sys2Proof.Machine.execVcmpun core issue s
  | .vmset core issue => Sys2Proof.Machine.execVmset core issue s
  | .vmand core issue => Sys2Proof.Machine.execVmand core issue s
  | .vmor core issue => Sys2Proof.Machine.execVmor core issue s
  | .vmxor core issue => Sys2Proof.Machine.execVmxor core issue s
  | .vmnot core issue => Sys2Proof.Machine.execVmnot core issue s
  | .vexp2 core issue => Sys2Proof.Machine.execVexp2 core issue s
  | .vlog2 core issue => Sys2Proof.Machine.execVlog2 core issue s
  | .vrcp core issue => Sys2Proof.Machine.execVrcp core issue s
  | .vrsqrt core issue => Sys2Proof.Machine.execVrsqrt core issue s
  | .vtanh core issue => Sys2Proof.Machine.execVtanh core issue s
  | .vrsum core issue => Sys2Proof.Machine.execVrsum core issue s
  | .vrmax core issue => Sys2Proof.Machine.execVrmax core issue s
  | .vsmx core issue => Sys2Proof.Machine.execVsmx core issue s
  | .vrot core issue => Sys2Proof.Machine.execVrot core issue s
  | .vmov core issue => Sys2Proof.Machine.execVmov core issue s
  | .vcvt core issue => Sys2Proof.Machine.execVcvt core issue s
  | .vqsi core issue => Sys2Proof.Machine.execVqsi core issue s
  | .vdqsi core issue => Sys2Proof.Machine.execVdqsi core issue s
  | .vld core issue => Sys2Proof.Machine.execVld core issue s
  | .vst core issue => Sys2Proof.Machine.execVst core issue s
  | .vrnd core issue => Sys2Proof.Machine.execVrnd core issue s
  | .vflagrd core issue => Sys2Proof.Machine.execVflagrd core issue s
  | .vflagclr core issue => Sys2Proof.Machine.execVflagclr core issue s
  | .tokenArrival core port vc parityError => Sys2Proof.Machine.execTokenArrival core port vc parityError s
  | .spillRefill core channel => Sys2Proof.Machine.execSpillRefill core channel s
  | .creditReturn core channel => Sys2Proof.Machine.execCreditReturn core channel s
  | .routeForward core route => Sys2Proof.Machine.execRouteForward core route s
  | .selectFire core => Sys2Proof.Machine.execSelectFire core s
  | .routeFire core => Sys2Proof.Machine.execRouteFire core s
  | .mergeFire core => Sys2Proof.Machine.execMergeFire core s
  | .repeatFire core => Sys2Proof.Machine.execRepeatFire core s
  | .steerEndPass core unit => Sys2Proof.Machine.execSteerEndPass core unit s
  | .streamDeadlock => Sys2Proof.Machine.execStreamDeadlock s
  | .hingeBegin => Sys2Proof.Machine.execHingeBegin s
  | .sectionStart => Sys2Proof.Machine.execSectionStart s
  | .gateRequestEffect bank => Sys2Proof.Machine.execGateRequestEffect bank s
  | .bankWakeDone bank => Sys2Proof.Machine.execBankWakeDone bank s
  | .memoryMeshRowRead issuer read => Sys2Proof.Machine.execMemoryMeshRowRead issuer read s
  | .memoryMeshRowWrite issuer addr row poison => Sys2Proof.Machine.execMemoryMeshRowWrite issuer addr row poison s
  | .accSi24 issuer addr header block => Sys2Proof.Machine.execAccSi24 issuer addr header block s
  | .fadd32 issuer addr addend limit => Sys2Proof.Machine.execFadd32 issuer addr addend limit s
  | .wordWrite addr value => Sys2Proof.Machine.execWordWrite addr value s
  | .update engine => Sys2Proof.Machine.execUpdate engine s
  | .updateProgramComplete engine => Sys2Proof.Machine.execUpdateProgramComplete engine s
  | .rowRemap place afterPoison => Sys2Proof.Machine.execRowRemap place afterPoison s
  | .coreMemoryScrub core bank finding => Sys2Proof.Machine.execCoreMemoryScrub core bank finding s
  | .chipMemoryScrub bank finding => Sys2Proof.Machine.execChipMemoryScrub bank finding s
  | .patrolScrubTick findings => Sys2Proof.Machine.execPatrolScrubTick findings s
  | .gddrRetraining chan => Sys2Proof.Machine.execGddrRetraining chan s
  | .gddrTransferRetry addr failures sectors => Sys2Proof.Machine.execGddrTransferRetry addr failures sectors s
  | .cxlPortDown port => Sys2Proof.Machine.execCxlPortDown port s
  | .readyWordPoll collective bucket => Sys2Proof.Machine.execReadyWordPoll collective bucket s
  | .noticeWordPoll collective bucket => Sys2Proof.Machine.execNoticeWordPoll collective bucket s
  | .scaleDistributionDone collective bucket => Sys2Proof.Machine.execScaleDistributionDone collective bucket s
  | .accumulateRetry tag => Sys2Proof.Machine.execAccumulateRetry tag s
  | .epochAhead tag => Sys2Proof.Machine.execEpochAhead tag s
  | .collectiveWaitTimeout collective bucket wait => Sys2Proof.Machine.execCollectiveWaitTimeout collective bucket wait s
  | .gatherGroupStart ctx => Sys2Proof.Machine.execGatherGroupStart ctx s
  | .gatherHeaderRetry ctx piece => Sys2Proof.Machine.execGatherHeaderRetry ctx piece s
  | .gatherTimeout ctx piece => Sys2Proof.Machine.execGatherTimeout ctx piece s
  | .gatherGroupComplete ctx group => Sys2Proof.Machine.execGatherGroupComplete ctx group s
  | .exchangeEntryStart ctx => Sys2Proof.Machine.execExchangeEntryStart ctx s
  | .exchangeGrant ctx entry => Sys2Proof.Machine.execExchangeGrant ctx entry s
  | .exchangePayloadSend ctx entry => Sys2Proof.Machine.execExchangePayloadSend ctx entry s
  | .exchangeEntryComplete ctx entry => Sys2Proof.Machine.execExchangeEntryComplete ctx entry s
  | .groupWaitTimeout group => Sys2Proof.Machine.execGroupWaitTimeout group s
  | .remoteTimeout tag => Sys2Proof.Machine.execRemoteTimeout tag s
  | .write via packet => Sys2Proof.Machine.execWrite via packet s
  | .accumulate via packet => Sys2Proof.Machine.execAccumulate via packet s
  | .read via packet => Sys2Proof.Machine.execRead via packet s
  | .readResp via packet => Sys2Proof.Machine.execReadResp via packet s
  | .fetchAdd via packet => Sys2Proof.Machine.execFetchAdd via packet s
  | .exchange via packet => Sys2Proof.Machine.execExchange via packet s
  | .barrier via packet => Sys2Proof.Machine.execBarrier via packet s
  | .barrierRelease via packet => Sys2Proof.Machine.execBarrierRelease via packet s
  | .exchangeReady via packet => Sys2Proof.Machine.execExchangeReady via packet s
  | .verdictClean via packet => Sys2Proof.Machine.execVerdictClean via packet s
  | .rescale via packet => Sys2Proof.Machine.execRescale via packet s
  | .verdictWardExhausted via packet => Sys2Proof.Machine.execVerdictWardExhausted via packet s
  | .verdictNonfinite via packet => Sys2Proof.Machine.execVerdictNonfinite via packet s
  | .packetForward via packet => Sys2Proof.Machine.execPacketForward via packet s
  | .streamFlit via stream payload => Sys2Proof.Machine.execStreamFlit via stream payload s
  | .streamCreditSend stream => Sys2Proof.Machine.execStreamCreditSend stream s
  | .flitReceive link flit clean => Sys2Proof.Machine.execFlitReceive link flit clean s
  | .ackTimeoutRetrain link => Sys2Proof.Machine.execAckTimeoutRetrain link s
  | .retrainTimeout link => Sys2Proof.Machine.execRetrainTimeout link s
  | .linkLoss link => Sys2Proof.Machine.execLinkLoss link s
  | .linkTrainAttempt link => Sys2Proof.Machine.execLinkTrainAttempt link s
  | .linkTrained link failing => Sys2Proof.Machine.execLinkTrained link failing s
  | .hello link message => Sys2Proof.Machine.execHello link message s
  | .helloAck link message => Sys2Proof.Machine.execHelloAck link message s
  | .peerState link message => Sys2Proof.Machine.execPeerState link message s
  | .retrain link message => Sys2Proof.Machine.execRetrain link message s
  | .sectionTimeout => Sys2Proof.Machine.execSectionTimeout s
  | .coreProgressTimeout core => Sys2Proof.Machine.execCoreProgressTimeout core s
  | .contextStop ctx => Sys2Proof.Machine.execContextStop ctx s
  | .contextStopDrained ctx => Sys2Proof.Machine.execContextStopDrained ctx s
  | .drainBoundExpiry => Sys2Proof.Machine.execDrainBoundExpiry s
  | .engineResetStart => Sys2Proof.Machine.execEngineResetStart s
  | .engineResetEdgeClosed => Sys2Proof.Machine.execEngineResetEdgeClosed s
  | .engineResetDone => Sys2Proof.Machine.execEngineResetDone s
  | .engineResetTimeout => Sys2Proof.Machine.execEngineResetTimeout s
  | .suspectReplayStart => Sys2Proof.Machine.execSuspectReplayStart s
  | .suspectReplayEnd => Sys2Proof.Machine.execSuspectReplayEnd s
  | .replayWatchdogExpiry => Sys2Proof.Machine.execReplayWatchdogExpiry s
  | .deviceResetStart => Sys2Proof.Machine.execDeviceResetStart s
  | .deviceResetDone training => Sys2Proof.Machine.execDeviceResetDone training s
  | .deviceResetTimeout => Sys2Proof.Machine.execDeviceResetTimeout s
  | .linkDomainFailure memoryDomain => Sys2Proof.Machine.execLinkDomainFailure memoryDomain s
  | .capLoopPeriod measured west east => Sys2Proof.Machine.execCapLoopPeriod measured west east s
  | .gainCalibration die measured estimated => Sys2Proof.Machine.execGainCalibration die measured estimated s
  | .frequencyStep island => Sys2Proof.Machine.execFrequencyStep island s
  | .droop island cause => Sys2Proof.Machine.execDroop island cause s
  | .droopStepDown island => Sys2Proof.Machine.execDroopStepDown island s
  | .droopClear island limit => Sys2Proof.Machine.execDroopClear island limit s
  | .droopRecoveryWaitEnd island => Sys2Proof.Machine.execDroopRecoveryWaitEnd island s
  | .thermalRead cores dieW dieE => Sys2Proof.Machine.execThermalRead cores dieW dieE s
  | .thermtrip sensor temperature => Sys2Proof.Machine.execThermtrip sensor temperature s
  | .ageingMeasurement core measured => Sys2Proof.Machine.execAgeingMeasurement core measured s
  | .telemetrySample power1ms power100ms energy => Sys2Proof.Machine.execTelemetrySample power1ms power100ms energy s
  | .wearLevelling => Sys2Proof.Machine.execWearLevelling s
  | .freezeCopyDone => Sys2Proof.Machine.execFreezeCopyDone s
  | .auditRecordDurable written => Sys2Proof.Machine.execAuditRecordDurable written s
  | .roleLapse => Sys2Proof.Machine.execRoleLapse s
  | .mctpControl request => Sys2Proof.Machine.execMctpControl request s
  | .mctpSpdm request => Sys2Proof.Machine.execMctpSpdm request s
  | .sbTelemetryRead first count => Sys2Proof.Machine.execSbTelemetryRead first count s
  | .sbBlackboxRead first count => Sys2Proof.Machine.execSbBlackboxRead first count s
  | .sbAuditRead first count => Sys2Proof.Machine.execSbAuditRead first count s
  | .perstAssert => Sys2Proof.Machine.execPerstAssert s
  | .perstDeassert sbSel sbAddr => Sys2Proof.Machine.execPerstDeassert sbSel sbAddr s
  | .boot => Sys2Proof.Machine.execBoot s
  | .powerUp => Sys2Proof.Machine.execPowerUp s
  | .powerUpTimeout => Sys2Proof.Machine.execPowerUpTimeout s
  | .modEnFall => Sys2Proof.Machine.execModEnFall s
  | .lossOfInput => Sys2Proof.Machine.execLossOfInput s
  | .overVoltage => Sys2Proof.Machine.execOverVoltage s
  | .moduleFailure cause => Sys2Proof.Machine.execModuleFailure cause s
  | .phyLockLoss link => Sys2Proof.Machine.execPhyLockLoss link s
  | .sequencerUncorrectableError => Sys2Proof.Machine.execSequencerUncorrectableError s
  | .powerUpReady training => Sys2Proof.Machine.execPowerUpReady training s
  | .stashComplete core => Sys2Proof.Machine.execStashComplete core s
  | .malformedPacket via packet => Sys2Proof.Machine.execMalformedPacket via packet s
  | .sbUnsupportedMessage request => Sys2Proof.Machine.execSbUnsupportedMessage request s
  | .alertPulseEnd => Sys2Proof.Machine.execAlertPulseEnd s
  | .standbySupplyLoss => Sys2Proof.Machine.execStandbySupplyLoss s

end Sys2Proof.Machine
end

