-- ==== Sys2Proof/Machine/Bar0.lean ====
section
/-!
DEFINITION. What a host read of BAR0 returns (R402 to R404, R314, R535): a view of the state. No register of BAR0 changes when it
is read, so a read is no command of its own.
-/
namespace Sys2Proof.Machine

/-- DEVICE_STATE code. -/
def stateCode : DevState → Nat
  | .booting => 0
  | .ready => 1
  | .notReady => 2
  | .deadbolt => 3
  | .engineReset => 4
  | .deviceReset => 5

/-- DEVICE_STATE (R403, R415). -/
def regDeviceState (s : State) : Nat :=
  stateCode s.host.state + 8 * b2n s.host.protoOpen + 16 * s.host.major.toNat + 4096 * s.host.minor.toNat

/-- LINK_STATE code: 5 while an up peer is out of service (R314). -/
def linkCode (x : Link) : Nat :=
  match x.state with
  | .down => 0
  | .training => 1
  | .up => if x.helloed && x.peerState != 0 then 5 else 2
  | .retraining => 3
  | .mismatch => 4

/-- A word of a link's status block (R314). -/
def linkReg (x : Link) (off : Nat) : Nat :=
  match off with
  | 0x00 => linkCode x + 8 * x.width.toNat + 32 * x.vminor.toNat + 8192 * x.vmajor.toNat
  | 0x04 => x.peerId.toNat + 2 ^ 20 * x.peerPort.toNat + 2 ^ 24 * x.peerHalf.toNat
  | 0x08 => x.flitsReplayed.toNat % 2 ^ 32
  | 0x0C => x.flitsReplayed.toNat >>> 32
  | 0x10 => x.crcErrors.toNat
  | 0x14 => x.downEvents.toNat
  | 0x18 => x.droppedPackets.toNat
  | _ => 0

/-- Columns of a die that hold a spare (R16). -/
def spareColumns (s : State) (die : Nat) : Nat := ((List.range 16).filter fun i => (columnUnused s (die * 16 + i)).2).length

/-- The update-capable controllers (R267). -/
abbrev capUpdate : Nat := 2 ^ 0 + 2 ^ 5 + 2 ^ 10 + 2 ^ 15 + 2 ^ 20 + 2 ^ 25 + 2 ^ 30 + 2 ^ 35

/-- A CXL port in CAP_CXL (R404, R535). -/
def capCxlPort (p : CxlPort) : Nat := if p.down then 0 else p.lanes.toNat + 32 * p.code.toNat

/-- A word of the capability table (R404). -/
def capReg (s : State) (off : Nat) : Nat :=
  if off = 0x4000 then 32 + 256 * 12 + 65536 * 2
  else if off = 0x4004 then spareColumns s 0 + 256 * spareColumns s 1
  else if off = 0x4008 then 512
  else if off = 0x400C then 40 + 256 * s.ms.gddrRate.toNat + 65536 * 64 + 2 ^ 24 * s.ms.gddrD.toNat
  else if off = 0x4010 then capUpdate % 2 ^ 32
  else if off = 0x4014 then capUpdate >>> 32
  else if off = 0x4018 then capCxlPort (s.cxlPort 0) + 256 * capCxlPort (s.cxlPort 1) + 65536 * 2
  else if off = 0x4020 then cxlBytes s % 2 ^ 32
  else if off = 0x4024 then cxlBytes s >>> 32
  else if off = 0x4028 then 16 + 32 * 2
  else if 0x4100 ≤ off ∧ off < 0x4100 + 2 * 384 then
    let i := (off - 0x4100) / 2
    ceiling s (Fin.ofNat 384 i) + 65536 * ceiling s (Fin.ofNat 384 (i + 1))
  else 0

/-- A word of a submission ring's block (R403). -/
def ringReg (s : State) (c : CtxId) (off : Nat) : Nat :=
  let r := s.ring c
  match off with
  | 0x00 => r.base.toNat % 2 ^ 32
  | 0x04 => r.base.toNat >>> 32
  | 0x08 => r.size.toNat + 2 ^ 31 * b2n r.enable
  | 0x0C => r.head.toNat
  | 0x10 => (s.cmds.filter fun d => decide (d.ring = c)).length
  | _ => 0

/-- An aligned 32-bit read (R403): zero where no register is listed, and from a write-only one. -/
def read32 (s : State) (off : Nat) : Nat :=
  let h := s.host
  if off = 0x00 then h.ident.toNat
  else if off = 0x04 then h.protoMax.toNat
  else if off = 0x08 then regDeviceState s
  else if off = 0x10 then h.cqBase.toNat % 2 ^ 32
  else if off = 0x14 then h.cqBase.toNat >>> 32
  else if off = 0x18 then h.cqSize.toNat + 2 ^ 31 * b2n h.cqEnable
  else if off = 0x1C then h.cqTail.toNat + 2 ^ 14 * b2n h.cqPhase
  else if off = 0x20 then h.irqCoalesce.toNat
  else if off = 0x24 then h.irqPending.toNat
  else if 0x100 ≤ off ∧ off < 0x200 then ringReg s (Fin.ofNat 8 ((off - 0x100) / 0x20)) ((off - 0x100) % 0x20)
  else if 0x2000 ≤ off ∧ off < 0x2400 then linkReg (s.link (Fin.ofNat 32 ((off - 0x2000) / 0x20))) ((off - 0x2000) % 0x20)
  else if 0x3000 ≤ off ∧ off < 0x3100 then (msixWord h ((off - 0x3000) / 4)).toNat
  else if off = 0x3800 then h.msixPending.toNat
  else capReg s off

/-- A host read of BAR0: any access that is not an aligned one of 32 or 64 bits reads zero (R403). -/
def readReg (s : State) (off bytes : Nat) : Dword :=
  if bytes = 4 ∧ off % 4 = 0 then BitVec.ofNat 64 (read32 s off)
  else if bytes = 8 ∧ off % 8 = 0 then BitVec.ofNat 64 (read32 s off + 2 ^ 32 * read32 s (off + 4))
  else 0

end Sys2Proof.Machine
end

