-- ==== Sys2Proof/Safety.lean ====
section
/-!
DEFINITION. The words in which claims are stated: when a command may start, when a core may issue, and the canonical form
of the memory system.
-/
namespace Sys2Proof.Machine

/-- Strictly rising. -/
def rising : List Nat → Bool
  | a :: b :: t => decide (a < b) && rising (b :: t)
  | _ => true

/-- The memory system stands in its one form: memory canonical, the poisoned sectors strictly rising. -/
def MemSys.canonical (m : MemSys) : Bool := Mem.wf m.mem && rising m.poison

/-- The command of an accepted entry may start and is not ended by a fence (R414, R456). -/
def Startable (s : State) (r : CmdRef) (opcode : Nat) (c : Cmd) : Prop :=
  s.cmd? r = some c ∧ c.opcode = opcode ∧ s.mayStart c = true ∧ (s.fenced && fencedOps.contains opcode) = false

/-- An aligned row that its tier serves at once: GDDR7, core memory, CXL behind a port that is up, or an awake bank with no
request waiting (R31, R105, R265). -/
def Served (s : State) (a : Nat) : Prop :=
  a % 512 = 0 ∧ (region s a = .gddr ∨ region s a = .coreMem ∨ (region s a = .cxl ∧ (s.cxlPort (cxlPortOf s a)).down = false) ∨
    (region s a = .chip ∧ (s.bank (bankOf a)).power = .awake ∧ (s.bank (bankOf a)).queue = []))

/-- A core issues this vector instruction now and it passes every check (R133, R139, R145, R229): the core may issue, its program row
is fetched, and neither an entry nor an accumulator entry makes it wait. -/
def VectorReady (s : State) (c : CoreId) (w : BitVec 64) : Prop :=
  canIssue s c = true ∧ fetchFault s c false = none ∧ vecOk (vdecode w) = true ∧
    (vecHandles (vdecode w)).any (handleWaits s c) = false ∧ (accEntries (vdecode w)).any (accBusy (s.core c)) = false

/-- The state after a vector instruction whose effect leaves the core as k: it is counted and the program index moves on. -/
def vectorDone (s : State) (c : CoreId) (k : Core) : State := s.setCore c { k with vinstr := k.vinstr + 1, pc := k.pc + 1, stall := none, heldBy := [] }

/-- The vector instructions with their OPCODEs (R144). -/
def vectorRows : List (Nat × (CoreId → VecIssue → Instr)) :=
  [(0x00, .vnop), (0x01, .viadd), (0x02, .visub), (0x03, .vimul), (0x04, .viadds), (0x05, .visubs), (0x06, .vimin),
   (0x07, .vimax), (0x08, .vand), (0x09, .vor), (0x0A, .vxor), (0x0B, .vshl), (0x0C, .vshra), (0x0D, .vshrl), (0x20, .vadd),
   (0x21, .vsub), (0x22, .vmul), (0x23, .vfma), (0x24, .vmin), (0x25, .vmax), (0x26, .vabs), (0x27, .vneg), (0x30, .vcmpeq),
   (0x31, .vcmplt), (0x32, .vcmple), (0x33, .vcmpun), (0x38, .vmset), (0x39, .vmand), (0x3A, .vmor), (0x3B, .vmxor),
   (0x3C, .vmnot), (0x40, .vexp2), (0x41, .vlog2), (0x42, .vrcp), (0x43, .vrsqrt), (0x44, .vtanh), (0x50, .vrsum), (0x51, .vrmax),
   (0x52, .vsmx), (0x53, .vrot), (0x60, .vmov), (0x61, .vcvt), (0x62, .vqsi), (0x63, .vdqsi), (0x70, .vld), (0x71, .vst),
   (0x78, .vrnd), (0x79, .vflagrd), (0x7A, .vflagclr)]

/-- The sequencer words with their OPs (R163). -/
def sequencerRows : List (Nat × (CoreId → BitVec 128 → Instr)) :=
  [(0x1, .sload), (0x2, .mmul), (0x4, .rmov), (0x5, .kset), (0x6, .tile), (0x7, .wclaim), (0x8, .csend), (0x9, .crecv),
   (0xA, .ctok), (0xB, .ctake), (0xC, .wqueue), (0xD, .wfence), (0xE, .stash), (0xF, .seqj)]

/-- The elements of m bits of a lane word that an operation makes of the elements of two lane words. -/
def elements (m p q : Nat) (op : Nat → Nat → Nat) : Nat :=
  (List.range (32 / m)).foldl (fun a e => a ||| (op (p / 2 ^ (m * e) % 2 ^ m) (q / 2 ^ (m * e) % 2 ^ m) <<< (m * e))) 0

/-- The flags that an operation raises on any element of two lane words. -/
def anyElement (m p q : Nat) (op : Nat → Nat → Nat) : Nat :=
  (List.range (32 / m)).foldl (fun a e => a ||| op (p / 2 ^ (m * e) % 2 ^ m) (q / 2 ^ (m * e) % 2 ^ m)) 0

/-- What an operation writes into each lane: nothing where the lane is inactive. -/
def laneResults (k : Core) (i : VIns) (a b : List Nat) (op : Nat → Nat → Nat) : List (Option Nat) :=
  (List.range 128).map fun l => if (activeLanes k i).getD l false then some (op (a.getD l 0) (b.getD l 0)) else none

/-- The flags that an operation raises in each lane: none where the lane is inactive. -/
def laneFlagsOf (k : Core) (i : VIns) (a b : List Nat) (op : Nat → Nat → Nat) : List Nat :=
  (List.range 128).map fun l => if (activeLanes k i).getD l false then op (a.getD l 0) (b.getD l 0) else 0

/-- A core's sequencer issues this word of an operation now (R229, R231, R363): the core may issue, the word's row is fetched, and no
entry that it names waits. -/
def SequencerReady (s : State) (c : CoreId) (op : Nat) (w : BitVec 128) : Prop :=
  canIssue s c = true ∧ fetchFault s c true = none ∧ fld w 0 4 = op ∧ (wordHandles op w).any (handleWaits s c) = false

/-- The state after a sequencer word whose effect leaves the core as k: the program index moves past the word's two slots. -/
def sequencerDone (s : State) (c : CoreId) (k : Core) : State := s.setCore c { k with pc := k.pc + 2, stall := none, heldBy := [] }

/-- A packet whose parts are those of its type (R292, R293): the second extension with ACCUMULATE and EXCHANGE alone, NROWS blocks
with ACCUMULATE, NROWS rows with WRITE, EXCHANGE and READ_RESP, up to 64 bytes with NOTICE, and no payload with any other. -/
def PacketEncodable (p : Packet) : Prop :=
  (p.ptype ≠ ptAccumulate → p.ptype ≠ ptExchange → p.ext2 = 0) ∧
  (if p.ptype = ptAccumulate then p.blocks.length = p.nrows.toNat else p.blocks = []) ∧
  (if p.ptype = ptWrite ∨ p.ptype = ptExchange ∨ p.ptype = ptResp then p.rows.length = p.nrows.toNat else p.rows = []) ∧
  (p.ptype ≠ ptNotice → p.note = 0)

/-- The state once a packet that arrives has been taken from where it came. -/
def arrived (s : State) (via : Option LinkId) (p : Packet) : State := dropPacket s via p 0

/-- A packet of a type for this device arrives now: it is the next of its lane where it comes from (R297, R299). -/
def Arrives (s : State) (via : Option LinkId) (p : Packet) (t : BitVec 4) : Prop :=
  p.ptype = t ∧ packetNext s via p = true ∧ (arrived s via p).ownId p.dst = true

end Sys2Proof.Machine
end

