-- ==== Sys2Proof/WellFormed.lean ====
section
/-!
DEFINITION. Which commands their sender can form: payloads of the sizes the manual gives.
Every other operand has the width of its field, so that its type says its range.
-/
namespace Sys2Proof

/-- A packet carries at most 8 rows or blocks and never both (R292, R293). -/
def Packet.wf (p : Packet) : Bool :=
  decide (p.rows.length ≤ 8) && decide (p.blocks.length ≤ 8) && (p.rows.isEmpty || p.blocks.isEmpty)

/-- Packets whose payload is checked. -/
def Instr.packet? : Instr → Option Packet
  | .write _ p | .accumulate _ p | .read _ p | .readResp _ p | .fetchAdd _ p | .exchange _ p | .barrier _ p
  | .barrierRelease _ p | .exchangeReady _ p | .verdictClean _ p | .rescale _ p | .verdictWardExhausted _ p
  | .verdictNonfinite _ p | .packetForward _ p | .malformedPacket _ p => some p
  | _ => none

/-- The checks of a command's operands. -/
def Instr.wf (i : Instr) : Bool :=
  (match i.packet? with
   | some p => p.wf
   | none => true) &&
  (match i with
   /- a transfer of DATA_PUT has at most 16,384 rows (R421) -/
   | .dataPut _ host => decide (host.length ≤ 16384)
   /- an image is at most 16 MiB (R484) -/
   | .firmwareStage _ image => decide (image.length ≤ 16777216)
   /- one reading per core sensor (R473) -/
   | .thermalRead cores _ _ => decide (cores.length = 384)
   /- one finding per channel at most (R505) -/
   | .patrolScrubTick fs => decide (fs.length ≤ 40) && decide ((fs.map (·.1)).Nodup)
   /- a sideband response carries at most 4 records (R519) -/
   | .sbTelemetryRead _ n | .sbBlackboxRead _ n | .sbAuditRead _ n => decide (n.toNat ≤ 4)
   /- an addend from 1 (R273) -/
   | .fadd32 _ _ d _ => decide (d ≠ 0)
   | _ => true)

end Sys2Proof
end

