-- ==== Sys2Proof/Certificates/Slice0/Obligations.lean ====
section
/-!
DEFINITION. The statements about the model, for the provers.

Every command of the model answers a next state. A statement of a command's effect therefore says, for the states and operands
under which the manual gives the command that effect, which next state it is; where the next state is written as an update of the
old one, every part not named is unchanged.
-/
open Sys2Proof Sys2Proof.Machine

/-! ### The block -/

/-- A step runs the command at the front of the queue on the queue's rest. -/
def Obligations.StepRunsFront : Prop :=
  ∀ (c : Instr) (q : List Instr) (s : State), step { s with pending := c :: q } = exec c { s with pending := q }

/-- With no command waiting, one microsecond of the local counter passes while the management domain runs (R510; the
model's choice, log 1), and nothing else changes. -/
def Obligations.IdleStep : Prop :=
  ∀ s : State, s.pending = [] →
    (s.mgmtUp = true → step s = .next { s with time := s.time + 1 }) ∧
    (s.mgmtUp = false → step s = .next s)

/-! ### The host interface (14) -/

/-- Submission rings (R405, R406): a DOORBELL within an enabled ring sets its TAIL and any other is ignored; setting ENABLE
with a size of 4 to 12 empties the ring and forgets its SEQ, with another size leaves it disabled; clearing it disables the ring; SIZE is
stored by each. That ENABLE written set again does nothing else is the model's choice (log 30).

The completion ring (R407, R409): setting ENABLE with a size of 4 to 14 starts the ring at index 0 and PHASE 1 with every
entry free; clearing it stops acceptance at once and takes effect once no accepted command is left; CQ_DOORBELL sets HEAD. -/
def Obligations.HostRings : Prop :=
  ((∀ (s : State) (v : Word), s.mgmtUp = true →
     let c : CtxId := Fin.ofNat 8 (fld v 0 3)
     ((s.ring c).enable = true → fld v 4 12 < 2 ^ (s.ring c).size.toNat →
       exec (.doorbell v) s = .next (s.setRing c { s.ring c with tail := BitVec.ofNat 12 (fld v 4 12) })) ∧
     ((s.ring c).enable = false ∨ 2 ^ (s.ring c).size.toNat ≤ fld v 4 12 → exec (.doorbell v) s = .next s)) ∧
   (∀ (s : State) (c : CtxId) (n : BitVec 4), s.mgmtUp = true → (s.ring c).enable = false →
     (4 ≤ n.toNat → n.toNat ≤ 12 → exec (.sqEnable c n) s =
       .next (s.setRing c { base := (s.ring c).base, size := n, enable := true, head := 0, tail := 0, expect := none })) ∧
     (n.toNat < 4 ∨ 12 < n.toNat → exec (.sqEnable c n) s = .next (s.setRing c { s.ring c with size := n }))) ∧
   (∀ (s : State) (c : CtxId) (n : BitVec 4), s.mgmtUp = true → (s.ring c).enable = true →
     exec (.sqEnable c n) s = .next (s.setRing c { s.ring c with size := n })) ∧
   (∀ (s : State) (c : CtxId) (n : BitVec 4), s.mgmtUp = true →
     exec (.sqDisable c n) s = .next (s.setRing c { s.ring c with size := n, enable := false }))) ∧
  ((∀ (s : State) (n : BitVec 4), s.mgmtUp = true → s.host.cqEnable = false →
     (4 ≤ n.toNat → n.toNat ≤ 14 → exec (.cqEnable n) s = .next { s with host := { s.host with
       cqSize := n, cqEnable := true, cqDisabling := false, cqTail := 0, cqPhase := true, cqHead := 0 } }) ∧
     (n.toNat < 4 ∨ 14 < n.toNat → exec (.cqEnable n) s = .next { s with host := { s.host with cqSize := n } })) ∧
   (∀ (s : State) (n : BitVec 4), s.mgmtUp = true → s.host.cqEnable = true →
     exec (.cqDisable n) s = .next { s with host := { s.host with cqDisabling := true } }) ∧
   (∀ (s : State) (c : CtxId) (e : BitVec 512), s.host.cqDisabling = true → exec (.entryFetch c e) s = .next s) ∧
   (∀ s : State, s.mgmtUp = true → s.host.cqDisabling = true →
     (s.cmds = [] → exec .cqDisableTakesEffect s = .next { s with host := { s.host with cqEnable := false, cqDisabling := false } }) ∧
     (s.cmds ≠ [] → exec .cqDisableTakesEffect s = .next s)) ∧
   (∀ (s : State) (v : Word), s.mgmtUp = true → s.host.cqEnable = true → fld v 0 14 < 2 ^ s.host.cqSize.toNat →
     exec (.cqDoorbell v) s = .next { s with host := { s.host with cqHead := BitVec.ofNat 14 (fld v 0 14) } }))

/-- BAR0 writes (R8, R403): the upper half of CQ_BASE completes the base that its lower half holds, with bits [11:0] zero, and is
ignored while the ring is enabled; the upper half of SQ_BASE completes its base in the same way; IRQ_COALESCE keeps [23:0]; an RW1C write of IRQ_PENDING clears the bits
written 1; a write that unmasks a vector of the MSI-X table sends the message that was pending; an access of another size or alignment
is ignored. What MSI-X does is the model's, from PCIe (log 5). -/
def Obligations.RegisterWrites : Prop :=
  (∀ (s : State) (v : Dword), s.mgmtUp = true → s.host.cqEnable = false → exec (.registerWrite 0x10 4 v) s =
    .next { s with host := { s.host with halves := Tab.set 0 s.host.halves 0x10 (BitVec.ofNat 32 v.toNat) } }) ∧
  (∀ (s : State) (v : Dword), s.mgmtUp = true → s.host.cqEnable = false → exec (.registerWrite 0x14 4 v) s =
    .next { s with host := { s.host with
      cqBase := (BitVec.ofNat 32 v.toNat ++ Tab.get 0 s.host.halves 0x10 &&& 0xFFFFFFFFFFFFF000) } }) ∧
  (∀ (s : State) (v : Dword), s.mgmtUp = true → s.host.cqEnable = true →
    exec (.registerWrite 0x10 4 v) s = .next s ∧ exec (.registerWrite 0x14 4 v) s = .next s) ∧
  (∀ (s : State) (c : CtxId) (v : Dword), s.mgmtUp = true →
    exec (.registerWrite (BitVec.ofNat 16 (0x104 + 0x20 * c.val)) 4 v) s =
    .next (s.setRing c { s.ring c with
      base := (BitVec.ofNat 32 v.toNat ++ Tab.get 0 s.host.halves (0x100 + 0x20 * c.val) &&& 0xFFFFFFFFFFFFF000) })) ∧
  (∀ (s : State) (v : Dword), s.mgmtUp = true → exec (.registerWrite 0x20 4 v) s =
    .next { s with host := { s.host with irqCoalesce := BitVec.ofNat 32 v.toNat &&& 0x00FFFFFF } }) ∧
  (∀ (s : State) (v : Word), s.mgmtUp = true → exec (.irqPendingClear v) s =
    .next { s with host := { s.host with irqPending := s.host.irqPending &&& ~~~(v.setWidth 16) } }) ∧
  (∀ (s : State) (n : Nat) (v : Dword), s.mgmtUp = true → n < 16 → bit v 0 = false → bit s.host.msixPending n = true →
    exec (.registerWrite (BitVec.ofNat 16 (0x300C + 16 * n)) 4 v) s = .next { s with
      host := { s.host with msix := Tab.set (msixReset (4 * n + 3)) s.host.msix (4 * n + 3) (BitVec.ofNat 32 v.toNat),
                            msixPending := put s.host.msixPending n 1 0 }
      hostOut := s.hostOut ++ [.msix (BitVec.ofNat 4 n)] }) ∧
  (∀ (s : State) (off : BitVec 16) (n : Nat) (v : Dword), s.mgmtUp = true →
    ¬ (n = 4 ∧ off.toNat % 4 = 0) → ¬ (n = 8 ∧ off.toNat % 8 = 0) → exec (.registerWrite off n v) s = .next s)

/-- Fetching (R405, R406, R408, R409, R412): while the device fetches, from an enabled ring that holds an entry and fewer than 64
accepted commands, with the completion ring enabled and room left in it, the entry is accepted: SQ_HEAD moves on modulo the ring, the
expected SEQ is one past the entry's, and the command waits, or has the record of the first check that it fails; rows behind a CXL
port that is down fault its context (R265). Where one of those conditions fails, nothing is fetched.

The order of the checks of an entry (R413): SEQ, the ring's context, OPCODE, protocol open, version, payload, role,
readiness and an open context, each with its status and before the ones after it, so that a command that fails none of them goes on to
the checks of a fence, of its rows and of its own. PROTOCOL_OPEN skips two of them, and FIRMWARE_UPDATE gives its payload other reasons
(R484): they are left out here. -/
def Obligations.EntryFetching : Prop :=
  (∀ (s : State) (c : CtxId) (e : BitVec 512),
     let t := s.setRing c { s.ring c with
       head := BitVec.ofNat 12 (((s.ring c).head.toNat + 1) % 2 ^ (s.ring c).size.toNat), expect := some (EN.seq e + 1) }
     let cmd : Phase → Cmd := fun p => { ring := c, seq := EN.seq e, nth := freshNth s c (EN.seq e), entry := e, phase := p }
     let check := entryCheck s c ((s.ring c).expect.all fun x => x == EN.seq e) e
     let may := s.fetching = true ∧ (s.ring c).enable = true ∧ (s.ring c).head ≠ (s.ring c).tail ∧ s.host.cqEnable = true ∧
       s.host.cqDisabling = false ∧ s.cmds.length < cqFree s ∧ (s.cmds.filter fun d => decide (d.ring = c)).length < 64
     (may → check = none → exec (.entryFetch c e) s = .next { t with cmds := s.cmds ++ [cmd .waiting] }) ∧
     (may → ∀ x, check = some x → x.status ≠ St.cxlPortDown →
       exec (.entryFetch c e) s = .next { t with cmds := s.cmds ++ [cmd (.done x)] }) ∧
     (may → ∀ x, check = some x → x.status = St.cxlPortDown →
       exec (.entryFetch c e) s = .next (faultCmd { t with cmds := s.cmds ++ [cmd .waiting] } (cmd .waiting) St.cxlPortDown)) ∧
     (¬ may → exec (.entryFetch c e) s = .next s)) ∧
  (∀ (s : State) (c : CtxId) (e : BitVec 512),
     (entryCheck s c false e = some { status := St.seqOutOfOrder }) ∧
     (EN.ctx e ≠ c.val → entryCheck s c true e = some { status := St.contextInvalid }) ∧
     (EN.ctx e = c.val → opcodeKnown (EN.opcode e) = false → entryCheck s c true e = some { status := St.opcodeUnknown }) ∧
     (EN.ctx e = c.val → opcodeKnown (EN.opcode e) = true → EN.opcode e ≠ 1 →
       (s.host.protoOpen = false → entryCheck s c true e = some { status := St.protocolNotOpen }) ∧
       (s.host.protoOpen = true → EN.vmajor e ≠ s.host.major.toNat ∨ EN.vminor e ≠ s.host.minor.toNat →
         entryCheck s c true e = some { status := St.protocolMismatch }) ∧
       (s.host.protoOpen = true → EN.vmajor e = s.host.major.toNat → EN.vminor e = s.host.minor.toNat → EN.opcode e ≠ 0x0905 →
         (EN.plen e ≠ 48 ∨ payloadInRange (EN.opcode e) (EN.payload e) = false →
           entryCheck s c true e = some { status := St.payloadInvalid }) ∧
         (EN.plen e = 48 → payloadInRange (EN.opcode e) (EN.payload e) = true →
           ((installerOps.contains (EN.opcode e) = true ∧ heldRole s ≠ .installer) ∨
             (makerOps.contains (EN.opcode e) = true ∧ heldRole s ≠ .maker) → entryCheck s c true e = some (roleDenied 1))) ∧
         (EN.plen e = 48 → payloadInRange (EN.opcode e) (EN.payload e) = true → roleCheck s (EN.opcode e) = none →
           (jobOps.contains (EN.opcode e) = true → s.host.state = .deadbolt → entryCheck s c true e = some { status := St.deadbolt }) ∧
           (jobOps.contains (EN.opcode e) = true → s.host.state ≠ .ready → s.host.state ≠ .deadbolt →
             entryCheck s c true e = some { status := St.deviceNotReady }) ∧
           (readyCheck s (EN.opcode e) = none → contextOps.contains (EN.opcode e) = true → (s.ctx c).isOpen = false →
           entryCheck s c true e = some { status := St.contextInvalid })))))

/-- The completion writer (R407, R411, R417): the finished command leaves the list of commands; its entry, with the ring's index and
PHASE, is the last thing sent before its vector, whose message goes out unless the vector is masked; CQ_TAIL moves on and PHASE inverts
when it wraps. Stated for a command that bound no update, in a context with no unreported fault, with coalescing off.

Interrupt coalescing (R410): when the delay has passed with records uncounted, the vector fires and none stays uncounted; its message
goes out, or is pending while the vector is masked (log 5). -/
def Obligations.Completions : Prop :=
  (∀ (s : State) (r : CmdRef) (c : Cmd) (x : Record), s.mgmtUp = true → s.cmd? r = some c → c.phase = .done x → c.bound = false →
     (s.ctx c.ring).unreported = none → fld s.host.irqCoalesce 8 16 = 0 →
     ∃ t : State, exec (.completionCommit r) s = .next t ∧
       t.hostOut = s.hostOut ++ [.completion s.host.cqTail (completionEntry c x s.host.cqPhase)] ++
         (if msixMasked s.host c.ring.val then [] else [.msix (BitVec.ofNat 4 c.ring.val)]) ∧
       t.host.cqTail = (if s.host.cqTail.toNat + 1 = 2 ^ s.host.cqSize.toNat then 0 else s.host.cqTail + 1) ∧
       t.host.cqPhase = (if s.host.cqTail.toNat + 1 = 2 ^ s.host.cqSize.toNat then !s.host.cqPhase else s.host.cqPhase) ∧
       t.host.irqPending = s.host.irqPending ||| BitVec.ofNat 16 (2 ^ c.ring.val) ∧
       t.cmds.length + 1 = s.cmds.length ∧ t.ctxs = s.ctxs ∧ t.ms = s.ms ∧ t.cores = s.cores ∧ t.keys = s.keys ∧ t.fab = s.fab) ∧
  (∀ (s : State) (c : CtxId), s.mgmtUp = true → Tab.get 0 s.host.uncounted c.val ≠ 0 →
     let h := { s.host with
       uncounted := Tab.set 0 s.host.uncounted c.val 0, irqPending := s.host.irqPending ||| BitVec.ofNat 16 (2 ^ c.val) }
     (msixMasked s.host c.val = false → exec (.irqCoalesceDelayExpiry c) s = .next { s with
       host := h, hostOut := s.hostOut ++ [.msix (BitVec.ofNat 4 c.val)] }) ∧
     (msixMasked s.host c.val = true → exec (.irqCoalesceDelayExpiry c) s = .next { s with
       host := { h with msixPending := s.host.msixPending ||| BitVec.ofNat 16 (2 ^ c.val) } }))

/-! ### Protocol, contexts and data (03, 09, 14) -/

/-- How a command ends (R417): it gets the record, unless it already has one;
every other command, and every other part of the state, stays. -/
def Obligations.RecordsSettleOnce : Prop :=
  ∀ (s : State) (r : CmdRef) (c : Cmd) (x y : Record), s.cmd? r = some c →
    (c.isDone = false → (s.finish r x).cmd? r = some { c with phase := .done x }) ∧
    (c.phase = .done y → s.finish r x = s) ∧
    (∀ q : CmdRef, q ≠ r → (s.finish r x).cmd? q = s.cmd? q) ∧
    ∃ l, s.finish r x = { s with cmds := l } ∧ l.length = s.cmds.length

/-- NOP, PROTOCOL_OPEN and CONTEXT_OPEN (R415, R421): NOP changes nothing; PROTOCOL_OPEN agrees the host's major and the lower
minor and returns them; CONTEXT_OPEN opens its context with its save area and slice and nothing of an earlier one.

CONTEXT_CLOSE (R426): with no earlier command of its ring and nothing owned, the context closes, its fault is discarded and
its bit is cleared in CTXMASK of every device entry, which else stays; a context that owns a window, a collective or the job
is busy and nothing changes. -/
def Obligations.ContextCommands : Prop :=
  (∀ (s : State) (r : CmdRef) (c : Cmd),
     (Startable s r 0x0002 c → exec (.nop r) s = .next (s.finish r {})) ∧
     (Startable s r 0x0001 c → exec (.protocolOpen r) s = .next
       ({ s with host := { s.host with protoOpen := true, major := BitVec.ofNat 8 (fld c.payload 0 8),
                                       minor := BitVec.ofNat 8 (min (fld c.payload 8 8) (fld s.host.protoMax 8 8)) } }.finish r
         { result := BitVec.ofNat 64 (fld c.payload 0 8 + 256 * min (fld c.payload 8 8) (fld s.host.protoMax 8 8)) })) ∧
     (Startable s r 0x0004 c → exec (.contextOpen r) s = .next
       ((s.setCtx r.ctx { isOpen := true, save := BitVec.ofNat 16 (fld c.payload 0 16),
                          slice := BitVec.ofNat 14 (fld c.payload 16 14) }).finish r {}))) ∧
  (∀ (s : State) (r : CmdRef) (c : Cmd), Startable s r 0x0005 c → s.earlier c = [] →
     (ownsAny s r.ctx = true → exec (.contextClose r) s = .next (s.finish r { status := St.contextBusy })) ∧
     (ownsAny s r.ctx = false → ∃ t : State, exec (.contextClose r) s = .next (t.finish r {}) ∧
       t.ctx r.ctx = {} ∧ (∀ d, d ≠ r.ctx → t.ctx d = s.ctx d) ∧
       (∀ i, t.key i = put (s.key i) (24 + r.ctx.val) 1 0) ∧
       t.cmds = s.cmds ∧ t.ms = s.ms ∧ t.cores = s.cores ∧ t.fab = s.fab ∧ t.host = s.host ∧ t.colls = s.colls ∧ t.job = s.job))

/-- GDDR_LAYOUT (R260): the direct size is set; where it changes, no GDDR7 sector stays poisoned, and every byte and sector of the
other tiers is as before. What GDDR7 bytes then hold is not said.

DATA_PUT and DATA_GET (R93, R421, R422): a transfer that meets no fault writes the host's rows from entry row ROW, or sends the
rows read to host memory, and completes; one that meets a fault completes with its status and DETAIL the first row not moved, and the
rows that DATA_GET read before it have been sent.

KEYRING_WRITE (R85 to R88): a refused write completes with its status and changes no entry; one that concerns no resident
context writes the entry at once and completes; one that does is held for the hinge. EPOCH and EPOCH_VALID survive a write that
leaves VALID set and does not ask to set them. -/
def Obligations.MemoryCommands : Prop :=
  (∀ (s : State) (r : CmdRef) (c : Cmd), Startable s r 0x0102 c →
     let d := BitVec.ofNat 6 (fld c.payload 0 6)
     (d = s.ms.gddrD → exec (.gddrLayout r) s = .next (s.finish r {})) ∧
     (d ≠ s.ms.gddrD → ∃ m : Memory, exec (.gddrLayout r) s = .next
         ({ s with ms := { s.ms with mem := m, gddrD := d, poison := s.ms.poison.filter fun k => decide (gddrBytes ≤ k * 32) } }.finish r {}) ∧
       ∀ a, gddrBytes ≤ a → Mem.byte m a = Mem.byte s.ms.mem a)) ∧
  (∀ (s t : State) (r : CmdRef) (c : Cmd) (e : Flt),
     let k := capture s none (DP.handle c.payload)
     let row := DP.row c.payload
     capWaits s k = false →
     (∀ host, Startable s r 0x0103 c →
       let rows := (List.range (DP.rows c.payload)).map fun i => ((host.getD i 0 : Row), (0 : BitVec 16))
       (accessWrite s (some r.ctx) k none row rows = (none, t) → exec (.dataPut r host) s = .next (t.finish r {})) ∧
       (accessWrite s (some r.ctx) k none row rows = (some e, t) → exec (.dataPut r host) s =
         .next (faultCmd t c e.status e.info (BitVec.ofNat 32 (max row e.info.index))))) ∧
     (Startable s r 0x0104 c → ∀ rows,
       let sent := if rows = [] then t else { t with hostOut := t.hostOut ++ [HostOut.rows (DP.host c.payload) rows] }
       (accessRead s (some r.ctx) k none row (DP.rows c.payload) = (rows, none, t) → exec (.dataGet r) s = .next (sent.finish r {})) ∧
       (accessRead s (some r.ctx) k none row (DP.rows c.payload) = (rows, some e, t) → exec (.dataGet r) s =
         .next (faultCmd sent c e.status e.info (BitVec.ofNat 32 (max row e.info.index)))))) ∧
  (∀ (s : State) (r : CmdRef) (c : Cmd), Startable s r 0x0101 c →
     (keyRefusal s c.payload ≠ 0 → exec (.keyringWrite r) s = .next (s.finish r { status := keyRefusal s c.payload })) ∧
     (keyRefusal s c.payload = 0 → keyResident s c.payload = false →
       exec (.keyringWrite r) s = .next ((s.setKey (KW.index c.payload) (newKey s c.payload)).finish r {})) ∧
     (keyRefusal s c.payload = 0 → keyResident s c.payload = true →
       exec (.keyringWrite r) s = .next { s.setPhase r .running with held := s.held ++ [r] }) ∧
     (DE.valid (KW.entry c.payload) = true → KW.setEpoch c.payload = false →
       DE.epochValid (newKey s c.payload) = DE.epochValid (s.key (KW.index c.payload)) ∧
       DE.epoch (newKey s c.payload) = DE.epoch (s.key (KW.index c.payload))))

/-- The access check (R92): the first of its checks that fails decides: validity, the context mask, the permission, the format; an
entry row outside the entry is out of bounds. A check that fails changes nothing.

Rows through an entry in GDDR7 (R84, R92, R93): with every check passed and no row poisoned, an access reads the rows that
memory holds, and a write puts each of distinct rows into memory, keeps the memory's form, and leaves every byte outside them. -/
def Obligations.EntryRows : Prop :=
  (∀ (s : State) (c : Option CtxId) (k : Cap) (f : Option Nat) (o n : Nat), 0 < n →
     let stop := fun (st : Half) (i : FaultInfo) => accessRead s c k f o n = ([], some ⟨st, i⟩, s)
     (k.valid = false → stop St.keyInvalid { handle := k.handle }) ∧
     (k.valid = true → k.ctxOk c = false → stop St.keyAccessDenied { handle := k.handle }) ∧
     (k.valid = true → k.ctxOk c = true → k.permOk pRD = false → stop St.keyAccessDenied { handle := k.handle }) ∧
     (k.valid = true → k.ctxOk c = true → k.permOk pRD = true → k.fmtOk f = false → stop St.keyFormatMismatch { handle := k.handle }) ∧
     (k.refuse c pRD f = none → k.addr o = none →
       accessRead s c k f o n = ([], some ⟨St.keyOutOfBounds, { handle := k.handle, index := o }⟩, markSeen s c k pRD))) ∧
  (∀ (s : State) (c : Option CtxId) (k : Cap) (f : Option Nat) (o : Nat) (at' : Nat → Nat),
     (∀ n, 0 < n → k.refuse c pRD f = none →
       (∀ j, j < n → k.addr (o + j) = some (at' j) ∧ at' j < gddrBytes ∧ (s.chan (channelOf s (at' j)).1).poisoned = false ∧
         poisonMask s.ms.poison (at' j) = 0) →
       accessRead s c k f o n = ((List.range n).map fun j => Mem.row s.ms.mem (at' j), none, markSeen s c k pRD)) ∧
     (∀ rs : List Row, rs ≠ [] → k.refuse c pWR f = none →
       (∀ j, j < rs.length → k.addr (o + j) = some (at' j) ∧ at' j < gddrBytes) →
       (∀ i j, i < j → j < rs.length → at' i + 512 ≤ at' j ∨ at' j + 512 ≤ at' i) →
       ∃ t : State, accessWrite s c k f o (rs.map fun r => (r, 0)) = (none, t) ∧
         (∀ j, j < rs.length → Mem.row t.ms.mem (at' j) = rs.getD j 0) ∧
         (∀ a, (∀ j, j < rs.length → a < at' j ∨ at' j + 512 ≤ a) → Mem.byte t.ms.mem a = Mem.byte s.ms.mem a) ∧
         (Mem.wf s.ms.mem = true → Mem.wf t.ms.mem = true) ∧ t.cores = s.cores ∧ t.keys = s.keys ∧ t.cmds = s.cmds ∧ t.fab = s.fab))

/-! ### Memory, banks and engines (01, 03, 09) -/

/-- Where entry row j lies (R84). -/
def Obligations.RowPlacement : Prop :=
  ∀ (e : BitVec 256) (j : Nat),
    (DE.tier e = 1 → ∀ k b r, DE.interleave e = k → k ≠ 0 → b % 2 ^ k = 0 → r < 1024 →
      DE.base e = chipBase + b * 0x80000 + r * 512 →
      devRowAddr e j = chipBase + (b + j % 2 ^ k) * 0x80000 + (r + j / 2 ^ k) * 512) ∧
    (DE.interleave e = 0 ∨ DE.tier e ≠ 1 → devRowAddr e j = DE.base e + j * 512)

/-- Rows of the memory mesh (R72, R80, R95, R96): a read answers the row with its poison, after what its bank's or channel's code finds
in it and with the sectors that an error in transit poisons, counts poisoned CXL lines, and changes no byte; a write outside the rows
of a running configuration replaces the whole row, in chip and core memory with its poison, is acknowledged, keeps the memory's form,
and leaves every byte outside the row.

Requests that their target refuses (R27, R31, R105, R233, R265): a row address that is not mapped, one of chip or core memory that
is not aligned, a row behind a CXL port that is down, a read of a gated bank, and a write into a running configuration fault the issuing
context, and nothing is read or written. That an address of the configuration space and an unaligned one of another tier are answered
as unmapped is the model's choice (log 126). -/
def Obligations.MeshRows : Prop :=
  (∀ (s : State) (c : Option CtxId) (a : BitVec 52), Served s a.toNat →
     (∀ (f : Finding) (x : Transit),
       let u := transitCount (rowFinding s a.toNat f) x
       let m : BitVec 16 := if region s a.toNat = .gddr ∧ (u.chan (channelOf s a.toNat).1).poisoned = true then 0xFFFF
         else poisonMask u.ms.poison a.toNat
       exec (.memoryMeshRowRead c ⟨a, f, x⟩) s =
         .next ((countCxlPoison u a.toNat m).answer (.row a (Mem.row s.ms.mem a.toNat) (m ||| transitPoison x)))) ∧
     ∀ (r : Row) (p : BitVec 16) (x : Transit), configRow s a.toNat = false →
       ∃ t : State, exec (.memoryMeshRowWrite c a r ⟨p, x⟩) s = .next t ∧
         Mem.row t.ms.mem a.toNat = r ∧
         (∀ y, y < a.toNat ∨ a.toNat + 512 ≤ y → Mem.byte t.ms.mem y = Mem.byte s.ms.mem y) ∧
         (Mem.wf s.ms.mem = true → Mem.wf t.ms.mem = true) ∧
         (region s a.toNat ≠ .gddr → region s a.toNat ≠ .cxl → poisonMask t.ms.poison a.toNat = p ||| transitPoison x) ∧
         t.ms.out = s.ms.out ++ [.acked a] ∧ t.cores = s.cores ∧ t.ctxs = s.ctxs ∧ t.engines = s.engines ∧ t.ms.banks = s.ms.banks) ∧
  (∀ (s : State) (c : CtxId) (a : BitVec 52) (f : Finding) (x : Transit) (r : Row) (p : BitVec 16),
     let refused := fun (i : Instr) (st : Half) =>
       exec i s = .next ((raiseFault s (some c) st { index := a.toNat / 512 }).answer (.failed a st))
     (a.toNat % 512 ≠ 0 ∨ region s a.toNat = .unmapped ∨ region s a.toNat = .config →
       refused (.memoryMeshRowRead (some c) ⟨a, f, x⟩) St.addressUnmapped ∧ refused (.memoryMeshRowWrite (some c) a r ⟨p, x⟩) St.addressUnmapped) ∧
     (a.toNat % 512 = 0 → region s a.toNat = .cxl → (s.cxlPort (cxlPortOf s a.toNat)).down = true →
       refused (.memoryMeshRowRead (some c) ⟨a, f, x⟩) St.cxlPortDown ∧ refused (.memoryMeshRowWrite (some c) a r ⟨p, x⟩) St.cxlPortDown) ∧
     (a.toNat % 512 = 0 → region s a.toNat = .chip → (s.bank (bankOf a.toNat)).power = .gated →
       refused (.memoryMeshRowRead (some c) ⟨a, f, x⟩) St.bankGatedRead) ∧
     (a.toNat % 512 = 0 → region s a.toNat = .coreMem → configRow s a.toNat = true →
       refused (.memoryMeshRowWrite (some c) a r ⟨p, x⟩) St.configOverwrite))

/-- Gating (R104, R105): a gate request alone in an awake bank's queue gates the bank and leaves every byte outside it; a
write to a gated bank starts its wake, counts in LATE_WAKE and waits; once awake, the bank serves the write that waits. -/
def Obligations.BankGating : Prop :=
  (∀ (s : State) (b : BankId), (s.bank b.val).power = .awake → (s.bank b.val).queue = [.gate] →
    ∃ t : State, exec (.gateRequestEffect b) s = .next t ∧ (t.bank b.val).power = .gated ∧ (t.bank b.val).queue = [] ∧
      (∀ x, x < chipBase + b.val * 0x80000 ∨ chipBase + (b.val + 1) * 0x80000 ≤ x → Mem.byte t.ms.mem x = Mem.byte s.ms.mem x) ∧
      (∀ d, d ≠ b.val → t.bank d = s.bank d) ∧ t.cores = s.cores ∧ t.engines = s.engines ∧ t.ctxs = s.ctxs) ∧
  (∀ (s : State) (c : Option CtxId) (a : BitVec 52) (r : Row) (p : BitVec 16) (x : Transit), a.toNat % 512 = 0 →
    region s a.toNat = .chip → (s.bank (bankOf a.toNat)).power = .gated → exec (.memoryMeshRowWrite c a r ⟨p, x⟩) s =
      .next (s.setBank (bankOf a.toNat) { s.bank (bankOf a.toNat) with
        power := .waking, lateWake := countErr (s.bank (bankOf a.toNat)).lateWake, queue := [.write c a r p x] })) ∧
  (∀ (s : State) (b : BankId) (c : Option CtxId) (a : BitVec 52) (r : Row) (p : BitVec 16) (x : Transit),
    region s a.toNat = .chip → bankOf a.toNat = b.val → (s.bank b.val).power = .waking → (s.bank b.val).queue = [.write c a r p x] →
    ∃ t : State, exec (.bankWakeDone b) s = .next t ∧ (t.bank b.val).power = .awake ∧ (t.bank b.val).queue = [] ∧
      Mem.row t.ms.mem a.toNat = r ∧ t.ms.out = s.ms.out ++ [.acked a] ∧
      ∀ y, y < a.toNat ∨ a.toNat + 512 ≤ y → Mem.byte t.ms.mem y = Mem.byte s.ms.mem y)

/-- FADD32 and WORD_WRITE (R185, R267, R273): a claim of an addend from 1 returns the word and raises it by the addend up to the limit,
or returns 0xFFFF_FFFF and leaves it; a word write replaces its word. No other byte changes. A local issuer's entry must give FADD and
hold the row; one that checks 1 to 4 of the access refuse faults the issuer. Stated for a served row whose channel or sector is not poisoned, at a tier
that has engines, with memory in its form (MemoryStaysCanonical). -/
def Obligations.WordOperations : Prop :=
  ∀ (s : State) (c : Option CtxId) (e : Half) (a : BitVec 52) (d l : Word),
    let k := capture s none e
    (∀ st, c.isSome = true → d ≠ 0 → k.refuse c pFADD none = some st →
      exec (.fadd32 ⟨c, e⟩ a d l) s = .next ((faultCtx s c ⟨st, { handle := e }⟩).answer (.failed a st))) ∧
    (Mem.wf s.ms.mem = true → a.toNat % 4 = 0 → Served s (a.toNat / 512 * 512) →
    region s a.toNat = region s (a.toNat / 512 * 512) → bankOf a.toNat = bankOf (a.toNat / 512 * 512) →
    region s a.toNat = .chip ∨ region s a.toNat = .gddr → poisonMask s.ms.poison (a.toNat / 512 * 512) = 0 →
    (region s a.toNat = .gddr → (s.chan (channelOf s (a.toNat / 512 * 512)).1).poisoned = false) →
    let old := Mem.rowWord (Mem.row s.ms.mem (a.toNat / 512 * 512)) (a.toNat % 512 / 4)
    (d ≠ 0 → (c.isSome = true → k.refuse c pFADD none = none ∧ (entryRowAt k.parent (a.toNat / 512 * 512)).isSome = true) →
      ∃ t : State, exec (.fadd32 ⟨c, e⟩ a d l) s = .next t ∧
      t.ms.out = s.ms.out ++ [.value a (if l.toNat ≤ old.toNat then 0xFFFFFFFF else old)] ∧
      Mem.rowWord (Mem.row t.ms.mem (a.toNat / 512 * 512)) (a.toNat % 512 / 4) =
        (if l.toNat ≤ old.toNat then old else BitVec.ofNat 32 (min (old.toNat + d.toNat) l.toNat)) ∧
      (∀ x, x < a.toNat ∨ a.toNat + 4 ≤ x → Mem.byte t.ms.mem x = Mem.byte s.ms.mem x) ∧ t.cores = s.cores ∧
      t.ctxs = (markSeen s c k pFADD).ctxs) ∧
    (∃ t : State, exec (.wordWrite a d) s = .next t ∧ t.ms.out = s.ms.out ++ [.acked a] ∧
      Mem.rowWord (Mem.row t.ms.mem (a.toNat / 512 * 512)) (a.toNat % 512 / 4) = d ∧
      (∀ x, x < a.toNat ∨ a.toNat + 4 ≤ x → Mem.byte t.ms.mem x = Mem.byte s.ms.mem x) ∧ t.cores = s.cores ∧ t.ctxs = s.ctxs))

/-- ACC_SI24 (R92, R269, R271): from a memory-side issuer, or from a local one whose entry of format 0x10 gives ACC and holds both rows,
a block that its armed slot takes is added into the accumulated block and counted as one contribution, a broken ward where its scale
differs; one whose collective and bucket no slot holds is answered not armed, one over EXPECTED is refused and counted, and neither
changes memory. An issuer whose entry checks 1 to 4 of the access refuse faults. -/
def Obligations.EngineAccumulates : Prop :=
  ∀ (s : State) (c : Option CtxId) (d : Half) (a : BitVec 52) (h : BitVec 128) (b : BitVec 3104) (e : Nat),
    let k := capture s none d
    let u := markSeen s c k pACC
    (∀ st, c.isSome = true → k.refuse c pACC (some 0x10) = some st →
      exec (.accSi24 ⟨c, d⟩ a h b) s = .next ((faultCtx s c ⟨st, { handle := d }⟩).answer (.failed a st))) ∧
    (a.toNat % 512 = 0 →
    (region s a.toNat = .gddr ∧ e = 512 + (channelOf s a.toNat).1) ∨
      (region s a.toNat = .chip ∧ e = bankOf a.toNat ∧ (s.bank e).power = .awake ∧ (s.bank e).queue = []) →
    (c.isSome = true → k.refuse c pACC (some 0x10) = none ∧ k.format = 0x10 ∧
      (entryRowAt k.parent a.toNat).any (fun j => decide (j + 2 ≤ DE.rows k.parent)) = true) →
    ((s.engine e).findSlot (gradHdr h) = none →
      exec (.accSi24 ⟨c, d⟩ a h b) s = .next (u.answer (.accResult a (BitVec.ofNat 8 accNotArmed)))) ∧
    ∀ i, (s.engine e).findSlot (gradHdr h) = some i →
      (matchSlot ((s.engine e).slot i) (gradHdr h) 1 = accOver → exec (.accSi24 ⟨c, d⟩ a h b) s =
        .next ((u.setEngine e { s.engine e with overCount := countErr (s.engine e).overCount }).answer
          (.accResult a (BitVec.ofNat 8 accOver)))) ∧
      (matchSlot ((s.engine e).slot i) (gradHdr h) 1 = accOk → blockPoisoned s a.toNat = false →
        exec (.accSi24 ⟨c, d⟩ a h b) s =
          .next ((countSlot (addBlock u e a.toNat b) e i 1 (blockMismatch s a.toNat b || (si24Word b).testBit 16) ((si24Word b).testBit 17)).answer
            (.accResult a (BitVec.ofNat 8 accOk)))))

/-- Faults of memory in service (R95, R96, R98, R257, R258, R265, R503 to R505): a retraining is counted and changes no data; a transfer
that a retry saves is counted, and the fourth failure poisons the sectors and counts; a CXL port goes down; a read of a chip-memory row
counts a correction for its bank and against its row, an uncorrectable error poisons, and a correction in transit counts for its link; a
scrubber moves on to the next row and counts a correction; a patrol tick moves every channel that is not poisoned on.

ROW_REMAP (R98 to R102): a row that calls for it and whose bank has a spare moves there with contents and poison unchanged, and
one record is written; with no spare left it stays in service and is recorded once. -/
def Obligations.MemoryMaintenance : Prop :=
  ((∀ (s : State) (c : ChanId), ∃ t : State, exec (.gddrRetraining c) s = .next t ∧
     (t.chan c.val) = { s.chan c.val with retrainings := (s.chan c.val).retrainings + 1 } ∧ t.ms.mem = s.ms.mem ∧ t.ms.poison = s.ms.poison) ∧
   (∀ (s : State) (a : BitVec 52) (n : Fin 5) (m : BitVec 16), region s a.toNat = .gddr →
     let c := (channelOf s a.toNat).1
     (0 < n.val → n.val < 4 → exec (.gddrTransferRetry a n m) s =
       .next (s.setChan c { s.chan c with crcRetried := countErr (s.chan c).crcRetried })) ∧
     (n.val = 4 → exec (.gddrTransferRetry a n m) s =
       .next (addPoison (s.setChan c { s.chan c with uncorrected := countErr (s.chan c).uncorrected }) (a.toNat / 512 * 512) m))) ∧
   (∀ (s : State) (p : Fin 2), (s.cxlPort p.val).units ≠ 0 →
     (∀ c : CoreId, ∀ a ∈ (s.core c).moveRows, cxlPortOf s a ≠ p.val) → exec (.cxlPortDown p) s =
     .next (s.setCxl p.val { s.cxlPort p.val with down := true, lanes := 0, code := 0 })) ∧
   (∀ (s : State) (b : BankId) (n : Fin 1024), (s.bank b.val).power = .awake → (s.bank b.val).queue = [] →
     let a : BitVec 52 := BitVec.ofNat 52 (placeAddr (.chip b n))
     (∀ c, ∃ t : State, exec (.memoryMeshRowRead c { addr := a, found := .corrected }) s = .next t ∧
       (t.bank b.val).corrected = countErr (s.bank b.val).corrected ∧ t.ms.mem = s.ms.mem ∧ t.ms.poison = s.ms.poison ∧
       ∃ l, (.chip b n, l ++ [s.time]) ∈ t.ms.errRows) ∧
     (∀ c m, ∃ t : State, exec (.memoryMeshRowRead c { addr := a, found := .uncorrectable m }) s = .next t ∧ t.ms.mem = s.ms.mem ∧
       poisonMask t.ms.poison a.toNat = poisonMask s.ms.poison a.toNat ||| m ∧
       (t.bank b.val).uncorrected = countErr (s.bank b.val).uncorrected) ∧
     (∀ c k, ∃ t : State, exec (.memoryMeshRowRead c { addr := a, transit := { link := k, finding := .corrected } }) s = .next t ∧
       Tab.get 0 t.ms.linkCorrected k = countErr (Tab.get 0 s.ms.linkCorrected k) ∧ t.ms.mem = s.ms.mem ∧ t.ms.poison = s.ms.poison)) ∧
   (∀ (s : State) (c : CoreId) (b : Fin 8), s.mgmtUp = true →
     let i := c.val * 8 + b.val
     let scrub := Tab.set 0 s.bg.coreScrub i ((Tab.get 0 s.bg.coreScrub i + 1) % 384)
     (∃ g : Background, exec (.coreMemoryScrub c b .clean) s = .next { s with bg := g } ∧ g.coreScrub = scrub ∧
       g.chipScrub = s.bg.chipScrub ∧ g.wearSteps = s.bg.wearSteps) ∧
     ∃ t : State, exec (.coreMemoryScrub c b .corrected) s = .next t ∧ t.bg.coreScrub = scrub ∧
       (t.core c).cmCorrected = countErr (s.core c).cmCorrected ∧ t.ms.mem = s.ms.mem ∧ t.ms.poison = s.ms.poison) ∧
   (∀ (s : State) (b : BankId), s.mgmtUp = true → (s.bank b.val).queue = [] → (s.bank b.val).power ≠ .waking →
     let scrub := Tab.set 0 s.bg.chipScrub b.val ((Tab.get 0 s.bg.chipScrub b.val + 1) % 1024)
     (∃ t : State, exec (.chipMemoryScrub b .clean) s = .next t ∧ t.bg.chipScrub = scrub ∧ t.ms.mem = s.ms.mem ∧
       t.ms.poison = s.ms.poison ∧ ∀ d, t.bank d = s.bank d) ∧
     ((s.bank b.val).power = .awake → ∃ t : State, exec (.chipMemoryScrub b .corrected) s = .next t ∧ t.bg.chipScrub = scrub ∧
       (t.bank b.val).corrected = countErr (s.bank b.val).corrected ∧ t.ms.mem = s.ms.mem ∧ t.ms.poison = s.ms.poison)) ∧
   (∀ (s : State), s.mgmtUp = true → ∃ t : State, exec (.patrolScrubTick []) s = .next t ∧ t.ms.mem = s.ms.mem ∧ t.ms.poison = s.ms.poison ∧
     ∀ c : ChanId, (t.chan c.val).patrolRow = (if (s.chan c.val).poisoned then (s.chan c.val).patrolRow
       else BitVec.ofNat 25 (((s.chan c.val).patrolRow.toNat + 1) % 16777216)))) ∧
  (∀ (s : State) (p : SparePlace) (after : Bool), callsRemap s p after = true →
     (sparesLeft s p ≠ 0 → ∃ t : State, exec (.rowRemap p after) s = .next t ∧ t.ms.remaps = s.ms.remaps ++ [(p, false)] ∧
       t.ms.mem = s.ms.mem ∧ t.ms.poison = s.ms.poison ∧ t.bb.total = s.bb.total + 1) ∧
     (sparesLeft s p = 0 → s.ms.kept.contains p = true → exec (.rowRemap p after) s = .next s) ∧
     (sparesLeft s p = 0 → s.ms.kept.contains p = false → ∃ t : State, exec (.rowRemap p after) s = .next t ∧ t.ms.kept = s.ms.kept ++ [p] ∧
       t.ms.remaps = s.ms.remaps ∧ t.ms.mem = s.ms.mem ∧ t.ms.poison = s.ms.poison ∧ t.bb.total = s.bb.total + 1))

/-! ### Windows, remote operations and links (10) -/

/-- A window's life (R304, R305, R308): opening a window fixes its entry, operations, context and generation and returns
the generation; closing an open one raises GEN by 1 and waits, and one that is not open is refused with its GEN; with ACTIVE at 0 the hasp closes it and its close completes with the
new GEN; its status is the low 96 of its 128 bits. No other window changes. -/
def Obligations.WindowLife : Prop :=
  ∀ (s : State) (r : CmdRef) (c : Cmd),
    let i := WP.window c.payload
    let w := s.window i
    let g := if WP.genSet c.payload then WP.gen c.payload else w.gen
    (Startable s r 0x0303 c → ∃ t : State, exec (.windowOpen r) s = .next (t.finish r { result := BitVec.ofNat 64 g.toNat }) ∧
      t.window i = { w with state := .opened, ops := WP.ops c.payload, ctx := BitVec.ofNat 8 r.ctx.val, gen := g, handle := WP.handle c.payload, service := g } ∧
      (∀ j, j ≠ i → t.window j = s.window j) ∧ t.fab.routes = s.fab.routes ∧ t.fab.links = s.fab.links ∧ t.cmds = s.cmds ∧ t.ms = s.ms ∧ t.keys = s.keys) ∧
    (Startable s r 0x0304 c → w.state = .opened → ∃ t : State, exec (.windowClose r) s = .next (t.setPhase r .running) ∧
      t.window i = { w with state := .closing, gen := w.gen + 1 } ∧
      (∀ j, j ≠ i → t.window j = s.window j) ∧ t.cmds = s.cmds ∧ t.ms = s.ms ∧ t.keys = s.keys) ∧
    (Startable s r 0x0304 c → w.state ≠ .opened →
      exec (.windowClose r) s = .next (s.finish r { status := St.windowInvalid, result := BitVec.ofNat 64 w.gen.toNat })) ∧
    (Startable s r 0x0305 c → exec (.windowStatus r) s = .next (s.finish r
      { result := BitVec.ofNat 64 (fld (windowBits w) 0 64), detail := BitVec.ofNat 32 (fld (windowBits w) 64 32) })) ∧
    (∀ v : BitVec 12, (s.window v.toNat).state = .closing → (s.window v.toNat).active = 0 →
      ∃ l, exec (.haspComplete v) s = .next { s.setWindow v.toNat { s.window v.toNat with state := .closed, service := (s.window v.toNat).gen } with cmds := l } ∧
        l = s.cmds.map fun d => if d.opcode = 0x0304 ∧ d.phase = .running ∧ WP.window d.payload = v.toNat then
          { d with phase := .done { result := BitVec.ofNat 64 (s.window v.toNat).gen.toNat } } else d)

/-- DEVICE_ID_SET and ROUTE_WRITE (R299, R300): the ID and ID_BASE are those of the payload; the named entries of the
destination table are rewritten and every other one stays.

The remote commands (R298, R424): with fewer than 16,384 requests outstanding, one request of the command's type goes out under a
TAG that no outstanding request has, and the command waits for it; REMOTE_WRITE carries the rows that it read. -/
def Obligations.RoutesAndRemotes : Prop :=
  (∀ (s : State) (r : CmdRef) (c : Cmd),
     let p := c.payload
     (Startable s r 0x0301 c → ∃ t : State, exec (.deviceIdSet r) s = .next (t.finish r {}) ∧ t.fab.devId = some (BitVec.ofNat 20 (fld p 0 20)) ∧
       t.fab.idBase = BitVec.ofNat 4 (fld p 20 4) ∧ t.fab.routes = s.fab.routes ∧ t.fab.windows = s.fab.windows ∧ t.cmds = s.cmds ∧ t.ms = s.ms) ∧
     (Startable s r 0x0302 c → ∃ t : Tab Half, exec (.routeWrite r) s = .next ({ s with fab := { s.fab with routes := t } }.finish r {}) ∧
       ∀ i, Tab.get 0 t i = if fld p 0 16 ≤ i ∧ i < fld p 0 16 + fld p 16 5 ∧ i < 65536
         then BitVec.ofNat 16 (fld p (128 + 16 * (i - fld p 0 16)) 12) else Tab.get 0 s.fab.routes i)) ∧
  (∀ (s u : State) (r : CmdRef) (c : Cmd), s.fab.reqs.length < 16384 → u.fab = s.fab → u.cmds = s.cmds →
     let p := c.payload
     let sends := fun (i : Instr) (q : Packet) => ∃ (t : State) (tag : Nat), exec i s = .next t ∧ (∀ x ∈ s.fab.reqs, x.tag ≠ tag) ∧
       t.fab.reqs = s.fab.reqs ++ [{ tag := tag, issuer := .cmd r, packet := { q with src := s.fab.devId.getD 0, tag := BitVec.ofNat 24 tag } }] ∧
       t.cmd? r = some { c with phase := .running, tags := [tag] }
     (Startable s r 0x0307 c → c.resp = none → sends (.remoteRead r) (remotePacket ptRead p [])) ∧
     (Startable s r 0x0308 c → sends (.remoteFetchAdd r) (remotePacket ptFetchAdd p [])) ∧
     (∀ rows, Startable s r 0x0306 c → capWaits s (capture s none (RP.handle p)) = false →
       accessRead s (some r.ctx) (capture s none (RP.handle p)) none (RP.row p) (RP.nrows p) = (rows, none, u) →
       sends (.remoteWrite r) (remotePacket ptWrite p rows)))

/-- The checks of a request with a window (R307), each before the ones after it: form, service, an open window of its
generation, the operation, the range.

Requests served (R296, R307): an accepted WRITE puts its rows into the window's entry and no other byte changes; an accepted
READ is answered with the entry's rows and their poison; a refused WRITE, READ, ACCUMULATE or FETCH_ADD is answered with its STATUS and
does nothing else, but for the window's count of requests that found it closed; one that arrives before the device has an ID is dropped
and counted. Rows in GDDR7. -/
def Obligations.RequestsServed : Prop :=
  (∀ (s : State) (p : Packet),
     let w := s.window p.window.toNat
     let good := packetFormOk p = true ∧ s.serving = true
     let live := good ∧ w.state = .opened ∧ p.wgen = w.gen
     (packetFormOk p = false → requestStatus s p = 10) ∧
     (packetFormOk p = true → s.serving = false → requestStatus s p = 7) ∧
     (good → w.state ≠ .opened ∨ p.wgen ≠ w.gen → requestStatus s p = 1) ∧
     (live → bit w.ops (packetOp p) = false → requestStatus s p = 2) ∧
     (live → bit w.ops (packetOp p) = true → packetRangeOk (s.devEntry w.handle) p = false → requestStatus s p = 3) ∧
     (live → bit w.ops (packetOp p) = true → packetRangeOk (s.devEntry w.handle) p = true → requestStatus s p = 0)) ∧
  (∀ (s : State) (via : Option LinkId) (p : Packet),
     let u := arrived s via p
     let i := p.window.toNat
     let e := u.devEntry (u.window i).handle
     let o := PX.offset p / 512
     (∀ (x : Instr) (t : BitVec 4),
       (x = .write via p ∧ t = ptWrite) ∨ (x = .read via p ∧ t = ptRead) ∨ (x = .accumulate via p ∧ t = ptAccumulate) ∨
         (x = .fetchAdd via p ∧ t = ptFetchAdd) →
       (p.ptype = t → packetNext s via p = true → u.fab.devId = none → exec x s = .next (countDrop u via)) ∧
       (Arrives s via p t → requestStatus u p ≠ 0 → requestStatus u p ≠ 1 → exec x s = .next (answerPacket u p (requestStatus u p) 0)) ∧
       (Arrives s via p t → requestStatus u p = 1 → exec x s = .next (answerPacket (countClosed u i) p 1 0))) ∧
     (Arrives s via p ptWrite → requestStatus u p = 0 → DE.tier e = 2 → DE.base e + (o + p.rows.length) * 512 ≤ gddrBytes →
       ∃ t : State, exec (.write via p) s = .next t ∧
         (∀ j, j < p.rows.length → Mem.row t.ms.mem (devRowAddr e (o + j)) = p.rows.getD j 0) ∧
         (∀ a, a < devRowAddr e o ∨ devRowAddr e o + 512 * p.rows.length ≤ a → Mem.byte t.ms.mem a = Mem.byte s.ms.mem a) ∧
         t.cores = s.cores ∧ t.ctxs = s.ctxs ∧ t.cmds = s.cmds) ∧
     (Arrives s via p ptRead → requestStatus u p = 0 → DE.tier e = 2 → DE.base e + (o + p.nrows.toNat) * 512 ≤ gddrBytes →
       (∀ j, j < p.nrows.toNat → (u.chan (channelOf u (devRowAddr e (o + j))).1).poisoned = false) →
       let xs := (List.range p.nrows.toNat).map fun j => (Mem.row u.ms.mem (devRowAddr e (o + j)), poisonMask u.ms.poison (devRowAddr e (o + j)))
       exec (.read via p) s = .next (retire (setActive u i (· + 1)) p 0 0 0 (xs.map (·.1)) (poisonBits xs))))

/-- FETCH_ADD and ACCUMULATE (R185, R307, R327): an accepted FETCH_ADD raises its word as a claim does and is answered with the claim's
value, or leaves a poisoned word and is answered with STATUS 9; an accepted ACCUMULATE of an open collective in its epoch, whose armed
slot takes its blocks as one unit and none of whose sums is poisoned, adds each block, counts them together and is answered OK.
Stated for a window in GDDR7.

Packets for another device and malformed ones (R299, R301, R302, R307, R313): a packet goes on by its PRIMARY link if usable, else
by an allowed usable ALTERNATE; without such a link or route a request is answered NO_ROUTE and a response dropped and counted; one
toward a device out of service is answered so; before the device has an ID every packet is dropped; a reserved PTYPE or NCODE is
answered MALFORMED. -/
def Obligations.PacketsServed : Prop :=
  (∀ (s : State) (via : Option LinkId) (p : Packet),
     let u := arrived s via p
     let i := p.window.toNat
     let v := setActive u i (· + 1)
     let e := u.devEntry (u.window i).handle
     let a := devRowAddr e (PX.offset p / 512)
     requestStatus u p = 0 → DE.tier e = 2 → a < gddrBytes → (u.chan (channelOf u a).1).poisoned = false →
     (Arrives s via p ptFetchAdd →
       let w := PX.offset p % 512 / 4
       let n := claim (Mem.rowWord (Mem.row u.ms.mem a) w).toNat (PX.addend p) (PX.limit p)
       (bit (poisonMask u.ms.poison a) (w / 8) = false → exec (.fetchAdd via p) s = .next (retire
         (rawPut v a (Mem.setWord (Mem.row u.ms.mem a) w (BitVec.ofNat 32 n.1)) (poisonMask u.ms.poison a)) p 0 0 (BitVec.ofNat 32 n.2))) ∧
       (bit (poisonMask u.ms.poison a) (w / 8) = true → exec (.fetchAdd via p) s = .next (retire v p 9 0))) ∧
     (∀ (c : Collective) (k : Nat), Arrives s via p ptAccumulate →
       let h := gradHdr p.ext2
       let g := 512 + (channelOf u a).1
       let bs := packetBlocks p e
       u.coll h.coll = some c → c.epoch.toNat = h.epoch → p.blocks ≠ [] → (u.engine g).findSlot h = some k →
       matchSlot ((u.engine g).slot k) h p.blocks.length = accOk → (∀ b ∈ bs, blockPoisoned u b.1 = false) →
       exec (.accumulate via p) s = .next (retire
         (countSlot (bs.foldl (fun t b => addBlock t g b.1 b.2) v) g k p.blocks.length
           (bs.any fun b => blockMismatch v b.1 b.2 || (si24Word b.2).testBit 16) (bs.any fun b => (si24Word b.2).testBit 17)) p 0 0))) ∧
  (∀ (s : State) (via : Option LinkId) (p : Packet), packetNext s via p = true →
     let u := dropPacket s via p (packetFlits p none).length
     (∀ e : Half, u.route p.dst = some e →
       let first := linkOfNat (fld e 1 5)
       let other := linkOfNat (fld e 6 5)
       ((u.link first).usable = true → u.packetLink p.dst = some first) ∧
       ((u.link first).usable = false → bit e 11 = true → (u.link other).usable = true → u.packetLink p.dst = some other) ∧
       ((u.link first).usable = false → bit e 11 = false ∨ (u.link other).usable = false → u.packetLink p.dst = none)) ∧
     (u.route p.dst = none → u.packetLink p.dst = none) ∧
     (s.ownId p.dst = false → u.fab.devId = none → exec (.packetForward via p) s = .next (countDrop (packetGone u via p) via)) ∧
     (∀ own : BitVec 20, u.fab.devId = some own → p.dst ≠ own → s.ownId p.dst = false → u.outOfService p.dst = false →
       (∀ l, u.packetLink p.dst = some l → exec (.packetForward via p) s = .next (pushFlits u l (packetFlits p via))) ∧
       (u.packetLink p.dst = none → p.ptype ≠ ptResp →
         exec (.packetForward via p) s = .next (dispatchResp (packetGone u via p) none (response own p 6 0))) ∧
       (u.packetLink p.dst = none → p.ptype = ptResp →
         exec (.packetForward via p) s = .next (countDrop (packetGone u via p) via))) ∧
     (∀ own : BitVec 20, u.fab.devId = some own → p.dst ≠ own → s.ownId p.dst = false → u.outOfService p.dst = true →
       (p.ptype ≠ ptResp → exec (.packetForward via p) s = .next (dispatchResp (packetGone u via p) none (response own p 7 0))) ∧
       (p.ptype = ptResp → exec (.packetForward via p) s = .next (countDrop (packetGone u via p) via))) ∧
     (malformed p = true → (arrived s via p).ownId p.dst = true →
       exec (.malformedPacket via p) s = .next (answerPacket (arrived s via p) p 10 0)))

/-- Responses and timeouts (R298, R424, R512): a response whose request has ended is counted; one of STATUS 0 to a remote command
completes it, a READ's rows written through its entry first, once no group or exchange fills that; another STATUS completes it REMOTE_REFUSED; a request that times out
completes its command REMOTE_TIMEOUT. In each case the request leaves the table and what waited for its TAG goes on. -/
def Obligations.ResponsesSettle : Prop :=
  ∀ (s : State) (via : Option LinkId) (p : Packet) (q : Req) (r : CmdRef) (c : Cmd),
    let u := arrived s via p
    (Arrives s via p ptResp →
      ((∀ x ∈ u.fab.reqs, x.tag ≠ p.tag.toNat) →
        exec (.readResp via p) s = .next { u with fab := { u.fab with lateResponses := u.fab.lateResponses + 1 } }) ∧
      (u.fab.reqs.find? (fun x => x.tag == p.tag.toNat && !x.retry) = some q → q.issuer = .cmd r → u.cmd? r = some c → c.phase = .running →
        c.tags.contains q.tag = true →
        (c.opcode = 0x0306 → p.status = 0 → exec (.readResp via p) s = .next (tagEnded ((dropReq u q.tag).finish r {}) q.tag)) ∧
        (c.opcode = 0x0308 → p.status = 0 → exec (.readResp via p) s =
          .next (tagEnded ((dropReq u q.tag).finish r { result := BitVec.ofNat 64 (fld p.ext1 0 32) }) q.tag)) ∧
        (c.opcode = 0x0307 → p.status = 0 →
          let d := (dropReq u q.tag).updCmd r fun x => { x with tags := [], resp := some p }
          let k := capture d none (RP.handle c.payload)
          (capWaits d k = true → exec (.readResp via p) s = .next (tagEnded d q.tag)) ∧
          ∀ t, capWaits d k = false →
            accessWrite (d.updCmd r fun x => { x with resp := none }) (some r.ctx) k none (RP.row c.payload) (respRows p) = (none, t) →
            exec (.readResp via p) s = .next (tagEnded (t.finish r {}) q.tag)) ∧
        (c.opcode = 0x0306 ∨ c.opcode = 0x0307 ∨ c.opcode = 0x0308 → p.status ≠ 0 → exec (.readResp via p) s =
          .next (tagEnded ((dropReq u q.tag).finish r { status := St.remoteRefused, detail := word 32 [(0, 8, p.status.toNat), (8, 8, fld p.ext1 32 8)] }) q.tag)))) ∧
    (∀ tag : BitVec 24, s.fab.reqs.find? (fun x => x.tag == tag.toNat && !x.retry) = some q → q.issuer = .cmd r → s.cmd? r = some c →
      c.phase = .running → c.tags.contains q.tag = true → c.opcode ≠ 0x0503 → c.opcode ≠ 0x0504 →
      exec (.remoteTimeout tag) s = .next (tagEnded ((dropReq s tag.toNat).finish r { status := St.remoteTimeout }) tag.toNat))

/-- A new request's TAG (R298): while fewer than 16,384 requests are outstanding, the TAG given is none of theirs. -/
def Obligations.TagsAreFresh : Prop :=
  ∀ (used : List Nat) (t : Nat), used.length < 16384 → used.contains (freeTag used 16384 t) = false ∧ freeTag used 16384 t < 2 ^ 24

/-- Flits received (R285 to R287): a damaged flit, or one whose CRC does not check, is counted and owes a NAK; the next flit of the
sequence joins the receive buffer of its lane and owes an ACK; a flit out of sequence is discarded and owes a NAK; each carries its
acknowledgement and credits if undamaged, and the link then sends what it can. A discard owes one NAK until a replay arrives.

Acknowledgement (R287): every flit that stays in the replay buffer after an ACK is later than the ACK, in the order in which it
was, and no flit is added. -/
def Obligations.FlitExchange : Prop :=
  ((∀ (s : State) (l : LinkId) (b : BitVec 2048), (s.link l).exchanging = true →
     let x := s.link l
     let y := applyHeader x b
     (∀ clean, clean = false ∨ crcGood b = false → exec (.flitReceive l b clean) s =
       .next ((s.setLink l (discardFlit { x with crcErrors := countErr x.crcErrors } none)).pump l)) ∧
     (crcGood b = true → fld b 0 2 = 0 → exec (.flitReceive l b true) s = .next ((s.setLink l y).pump l)) ∧
     (crcGood b = true → fld b 0 2 ≠ 0 → fld b 8 12 = y.rxSeq.toNat → exec (.flitReceive l b true) s = .next ((s.setLink l { y with
       rxSeq := y.rxSeq + 1
       rxAny := true
       naked := false
       ackOwed := true
       rx := Tab.set [] y.rx (flitLane b) (Tab.get [] y.rx (flitLane b) ++ [b]) }).pump l)) ∧
     (crcGood b = true → fld b 0 2 ≠ 0 → fld b 8 12 ≠ y.rxSeq.toNat →
       exec (.flitReceive l b true) s = .next ((s.setLink l (discardFlit y (some (BitVec.ofNat 12 (fld b 8 12))))).pump l))) ∧
   (∀ (x : Link) (q : Option (BitVec 12)), x.naked = false → (discardFlit x q).nakOwed = true ∧ (discardFlit x q).naked = true ∧
     (discardFlit x q).rx = x.rx ∧ (discardFlit x q).rxSeq = x.rxSeq) ∧
   (∀ x : Link, x.naked = true → discardFlit x none = x)) ∧
  (∀ (x : Link) (ack : Nat), (ackFlits x ack).replay.Sublist x.replay ∧
     (∀ f ∈ (ackFlits x ack).replay, serLater 12 (fld f.bits 8 12) ack = true) ∧
     (∀ f ∈ x.replay, serLater 12 (fld f.bits 8 12) ack = true → f ∈ (ackFlits x ack).replay) ∧
     (ackFlits x ack).rx = x.rx ∧ (ackFlits x ack).tx = x.tx ∧ (ackFlits x ack).credits = x.credits)

/-- Links come up (R284, R288, R311 to R313): a present down link trains when the link domain runs; at the
width that its failing lanes leave, both halves, a clean half, or only its own half of a split port, it takes full credits and sends
HELLO, and with no clean half it is down; HELLO is answered with HELLO_ACK; a HELLO_ACK of major 1 brings the link up, of another major into
mismatch; a PEER_STATE of ready clears the peer's mark. Control messages taken from an empty receive buffer.

Links retrain and go down (R288, R312): loss of lock or 1 ms without progress of ACK retrains an up link; a retrain not over within
100 ms, or the loss of the peer, takes a usable link down: one record, one down event, its replay buffer and queue emptied and its
other counters kept. Stated for a link with nothing left to send. -/
def Obligations.LinkStates : Prop :=
  (∀ (s : State) (l : LinkId) (f : Byte) (m : Dword),
     let x := s.link l
     let w := reachedWidth s l f
     let low : Prop := fld f 0 4 = 0
     let high : Prop := fld f 4 4 = 0
     (bit s.fab.cfg.split (l.val / 2) = false →
       (low → high → w = 3) ∧ (low → ¬ high → w = 1) ∧ (¬ low → high → w = 2) ∧ (¬ low → ¬ high → w = 0)) ∧
     (bit s.fab.cfg.split (l.val / 2) = true → (l.val % 2 = 0 → (low → w = 1) ∧ (¬ low → w = 0)) ∧
       (l.val % 2 = 1 → (high → w = 2) ∧ (¬ high → w = 0))) ∧
     (s.linkUp = true → linkPresent s l = true → x.state = .down ∨ x.state = .mismatch →
       exec (.linkTrainAttempt l) s = .next (s.setLink l { x with state := .training, width := 0 })) ∧
     (w = 0 → x.state = .training → x.width = 0 → exec (.linkTrained l f) s = .next (s.setLink l { freshLink x with state := .down })) ∧
     (w ≠ 0 → x.state = .training → x.width = 0 → exec (.linkTrained l f) s =
       .next (sendControl (s.setLink l { freshLink x with state := .training, width := w, credits := fullCredits }) l 1)) ∧
     (Tab.get [] x.rx 3 = [] → x.exchanging = true →
       (fld m 0 8 = 1 → exec (.hello l m) s = .next (sendControl (s.setLink l (agree (notePeer x m) m)) l 2)) ∧
       (fld m 0 8 = 2 → MG.major m ≠ 1 → exec (.helloAck l m) s = .next (s.setLink l { freshLink x with state := .mismatch })) ∧
       (fld m 0 8 = 2 → MG.major m = 1 → x.up = false → exec (.helloAck l m) s =
         .next (sendControl (s.setLink l { agree (notePeer x m) m with state := .up }) l 3)) ∧
       (fld m 0 8 = 3 → ∃ t : State, exec (.peerState l m) s = .next t ∧ t.link l = notePeer x m ∧
         t.fab.marks = (if MG.state m = 0 then s.fab.marks.filter fun d => d != (MG.device m).toNat else s.fab.marks)) ∧
       (fld m 0 8 = 4 → x.up = true → exec (.retrain l m) s = .next (s.setLink l { x with state := .retraining })))) ∧
  (∀ (s : State) (l : LinkId),
     let x := s.link l
     (x.up = true → exec (.phyLockLoss l) s = .next (s.setLink l { x with state := .retraining })) ∧
     (x.up = true → x.replay ≠ [] → exec (.ackTimeoutRetrain l) s = .next (s.setLink l { x with state := .retraining })) ∧
     (x.replay = [] → exec (.ackTimeoutRetrain l) s = .next s) ∧
     (x.tx = [] → ∀ i : Instr, (i = .linkLoss l ∧ x.usable = true) ∨ (i = .retrainTimeout l ∧ x.state = .retraining) →
       ∃ t : State, exec i s = .next t ∧ t.link l = { freshLink x with downEvents := countErr x.downEvents, rx := x.rx } ∧
         (∀ k, k ≠ l → t.link k = s.link k) ∧ t.bb.total = s.bb.total + 1 ∧ t.ms = s.ms ∧ t.ctxs = s.ctxs ∧ t.fab.reqs = s.fab.reqs))

/-- A packet and its flits (R285, R291 to R293): the flits of a packet whose payload is what its type and NROWS say, read back in
their order, are that packet, every field and every row and block of it, with the window whose request it answers. -/
def Obligations.PacketFlitsRoundTrip : Prop :=
  ∀ (p : Packet) (via : Option LinkId) (w : Option Nat), PacketEncodable p →
    queuedPackets (packetFlits p via w) [] false = [(via, p, w)]

/-! ### The vector engine (05) -/

/-- What a vector instruction that takes effect leaves besides its own effect on its core (R139, R229): one more instruction
counted, the program index moved on by one, and every other core and part of the state as it was.

What the checks of every vector instruction come to (R73, R139, R144, R145, R229): OPCODE names the instruction; a core that may not
issue stands still; an instruction that fails a check of R145 faults the context with VECTOR_INSTRUCTION_INVALID, and the record holds
its word; one that reads an operand buffer with a double-bit error faults with OPERAND_PARITY; neither writes anything. A single-bit
error is counted and the instruction is as without it; one that reads no operand buffer does not see either. -/
def Obligations.VectorIssue : Prop :=
  (∀ (s : State) (c : CoreId) (k : Core),
     (vectorDone s c k).core c = { k with vinstr := k.vinstr + 1, pc := k.pc + 1, stall := none, heldBy := [] } ∧
     (∀ d, d ≠ c → (vectorDone s c k).core d = s.core d) ∧ { vectorDone s c k with cores := s.cores } = s) ∧
  (∀ p ∈ vectorRows, ∀ (s : State) (c : CoreId) (w : BitVec 64) (e : OperandCheck),
     let x := fun (e : OperandCheck) => p.2 c ⟨w, e⟩
     (fld w 0 8 = p.1 → decodeVector c w e = some (x e)) ∧
     (canIssue s c = false → exec (x e) s = .next s) ∧
     (canIssue s c = true → fetchFault s c false = none → fld w 0 8 = p.1 → vecOk (vdecode w) = false →
       exec (x e) s = .next (raiseFault s s.grid.ctx St.vectorInstructionInvalid { core := some c, word := w.setWidth 128 })) ∧
     (VectorReady s c w → fld w 0 8 = p.1 → readsBuffer (vdecode w) = true →
       exec (x .double) s = .next (raiseFault s s.grid.ctx St.operandParity { core := some c, word := w.setWidth 128 }) ∧
       exec (x .corrected) s = exec (x .clean)
         (s.setCore c { s.core c with obCorrected := countErr (s.core c).obCorrected })) ∧
     (VectorReady s c w → fld w 0 8 = p.1 → readsBuffer (vdecode w) = false → exec (x e) s = exec (x .clean) s))

/-- Integer instructions (R144, R147): each element of each active lane of the destination is the operation on the elements of the
two sources, in two's complement at the element's width; no carry crosses an element, no other lane or register changes,
and none of these raises a flag.

Saturating add and subtract (R45, R144): the exact result clamped to the element's range; a lane in which some element clamps
raises integer saturation, and no other flag is raised. -/
def Obligations.IntegerLanes : Prop :=
  (∀ (s t u : State) (c : CoreId) (w : BitVec 64) (a b : List Nat), VectorReady s c w →
     let i := vdecode w
     let m := fmtWidth i.fmt
     source1 s c i = (.ok a, t) → source2 t c i = (.ok b, u) → a.length = 128 → b.length = 128 →
     let gives := fun (x : Instr) (op : Nat → Nat → Nat) =>
       exec x s = .next (vectorDone u c (putDest (u.core c) i (laneResults (u.core c) i a b fun p q => elements m p q op)))
     (fld w 0 8 = 0x01 → gives (.viadd c ⟨w, .clean⟩) fun p q => (p + q) % 2 ^ m) ∧
     (fld w 0 8 = 0x02 → gives (.visub c ⟨w, .clean⟩) fun p q => (p + 2 ^ m - q) % 2 ^ m) ∧
     (fld w 0 8 = 0x03 → gives (.vimul c ⟨w, .clean⟩) fun p q => (p * q) % 2 ^ m) ∧
     (fld w 0 8 = 0x06 → gives (.vimin c ⟨w, .clean⟩) fun p q => if signed m p ≤ signed m q then p else q) ∧
     (fld w 0 8 = 0x07 → gives (.vimax c ⟨w, .clean⟩) fun p q => if signed m p ≤ signed m q then q else p) ∧
     (fld w 0 8 = 0x08 → gives (.vand c ⟨w, .clean⟩) fun p q => p &&& q) ∧
     (fld w 0 8 = 0x09 → gives (.vor c ⟨w, .clean⟩) fun p q => p ||| q) ∧
     (fld w 0 8 = 0x0A → gives (.vxor c ⟨w, .clean⟩) fun p q => p ^^^ q) ∧
     (fld w 0 8 = 0x0B → gives (.vshl c ⟨w, .clean⟩) fun p q => (p * 2 ^ (q % m)) % 2 ^ m) ∧
     (fld w 0 8 = 0x0C → gives (.vshra c ⟨w, .clean⟩) fun p q => wrap m (signed m p / (2 ^ (q % m) : Nat))) ∧
     (fld w 0 8 = 0x0D → gives (.vshrl c ⟨w, .clean⟩) fun p q => p / 2 ^ (q % m))) ∧
  (∀ (s t u : State) (c : CoreId) (w : BitVec 64) (a b : List Nat), VectorReady s c w →
     let i := vdecode w
     let m := fmtWidth i.fmt
     source1 s c i = (.ok a, t) → source2 t c i = (.ok b, u) → a.length = 128 → b.length = 128 →
     let clamp := fun (x : Int) => max (-(2 ^ (m - 1) : Int)) (min x (2 ^ (m - 1) - 1))
     let gives := fun (x : Instr) (op : Int → Int → Int) =>
       exec x s = .next (vectorDone u c (raiseLanes
         (putDest (u.core c) i (laneResults (u.core c) i a b fun p q => elements m p q fun y z => wrap m (clamp (op (signed m y) (signed m z)))))
         (laneFlagsOf (u.core c) i a b fun p q => anyElement m p q fun y z => if clamp (op (signed m y) (signed m z)) = op (signed m y) (signed m z) then 0 else Fl.sat)))
     (fld w 0 8 = 0x04 → gives (.viadds c ⟨w, .clean⟩) fun x y => x + y) ∧
     (fld w 0 8 = 0x05 → gives (.visubs c ⟨w, .clean⟩) fun x y => x - y))

/-- Floating-point instructions in FP32 (R51, R59, R146): each active lane of the destination is the one operation on the lane words
of the sources, rounded to nearest-even, and raises the flags of its own result; VFMA adds the old destination.

One-source instructions in FP32 (R144, R148): VABS clears the sign bit, VNEG inverts it, VMOV moves the word, and none raises a flag;
each special function gives its value and flags in each active lane. -/
def Obligations.FloatLanes : Prop :=
  (∀ (s t u : State) (c : CoreId) (w : BitVec 64) (a b : List Nat), VectorReady s c w →
     let i := vdecode w
     i.fmt = 0 → source1 s c i = (.ok a, t) → source2 t c i = (.ok b, u) → a.length = 128 → b.length = 128 →
     let d := destLanes (u.core c) i
     let gives := fun (x : Instr) (op : Nat → Nat → Nat → Nat × Nat) =>
       exec x s = .next (vectorDone u c (raiseLanes
         (putDest (u.core c) i ((List.range 128).map fun l => if (activeLanes (u.core c) i).getD l false then some (op (a.getD l 0) (b.getD l 0) (d.getD l 0)).1 else none))
         ((List.range 128).map fun l => if (activeLanes (u.core c) i).getD l false then (op (a.getD l 0) (b.getD l 0) (d.getD l 0)).2 else 0)))
     (fld w 0 8 = 0x20 → gives (.vadd c ⟨w, .clean⟩) fun x y _ => fpAdd .fp32 .rne i.sat x y) ∧
     (fld w 0 8 = 0x21 → gives (.vsub c ⟨w, .clean⟩) fun x y _ => fpSub .fp32 .rne i.sat x y) ∧
     (fld w 0 8 = 0x22 → gives (.vmul c ⟨w, .clean⟩) fun x y _ => fpMul .fp32 .rne i.sat x y) ∧
     (fld w 0 8 = 0x23 → gives (.vfma c ⟨w, .clean⟩) fun x y z => fpFma .fp32 .rne i.sat x y z) ∧
     (fld w 0 8 = 0x24 → gives (.vmin c ⟨w, .clean⟩) fun x y _ => fpMin .fp32 x y) ∧
     (fld w 0 8 = 0x25 → gives (.vmax c ⟨w, .clean⟩) fun x y _ => fpMax .fp32 x y)) ∧
  (∀ (s t : State) (c : CoreId) (w : BitVec 64) (a : List Nat), VectorReady s c w →
     let i := vdecode w
     source1 s c i = (.ok a, t) → a.length = 128 → i.fmt = 0 →
     let active := activeLanes (t.core c) i
     let moves := fun (x : Instr) (op : Nat → Nat) =>
       exec x s = .next (vectorDone t c (putDest (t.core c) i ((List.range 128).map fun l => if active.getD l false then some (op (a.getD l 0)) else none)))
     let gives := fun (x : Instr) (op : Bool → Word → Nat × Nat) =>
       exec x s = .next (vectorDone t c (raiseLanes
         (putDest (t.core c) i ((List.range 128).map fun l => if active.getD l false then some (op i.sat (BitVec.ofNat 32 (a.getD l 0))).1 else none))
         ((List.range 128).map fun l => if active.getD l false then (op i.sat (BitVec.ofNat 32 (a.getD l 0))).2 else 0)))
     (fld w 0 8 = 0x26 → moves (.vabs c ⟨w, .clean⟩) fun x => x % 2 ^ 31) ∧
     (fld w 0 8 = 0x27 → moves (.vneg c ⟨w, .clean⟩) fun x => if x < 2 ^ 31 then x + 2 ^ 31 else x - 2 ^ 31) ∧
     (fld w 0 8 = 0x60 → moves (.vmov c ⟨w, .clean⟩) fun x => x) ∧
     (fld w 0 8 = 0x40 → gives (.vexp2 c ⟨w, .clean⟩) spExp2) ∧
     (fld w 0 8 = 0x41 → gives (.vlog2 c ⟨w, .clean⟩) spLog2) ∧
     (fld w 0 8 = 0x42 → gives (.vrcp c ⟨w, .clean⟩) spRcp) ∧
     (fld w 0 8 = 0x43 → gives (.vrsqrt c ⟨w, .clean⟩) spRsqrt) ∧
     (fld w 0 8 = 0x44 → gives (.vtanh c ⟨w, .clean⟩) spTanh))

/-- Comparisons and masks (R138, R144, R146): each active lane's bit of the destination mask register is the comparison of the lane
words, or the bit operation, and every inactive lane's bit and every other mask register stays. Comparisons in FP32 and INT32; a
NaN is unordered and −0 equals +0.

Comparison of FP32 words (R146): with a NaN only unordered holds; otherwise the relations are those of the signed magnitudes, so
that zeros of either sign are equal. -/
def Obligations.Comparisons : Prop :=
  (∀ (s : State) (c : CoreId) (w : BitVec 64), VectorReady s c w →
     let i := vdecode w
     let writes := fun (x : Instr) (u : State) (bits : Nat → Bool) => ∃ k : Core, exec x s = .next (vectorDone u c k) ∧
       k = { u.core c with masks := k.masks } ∧ (∀ r, r ≠ i.dst % 8 → k.maskReg r = (u.core c).maskReg r) ∧
       ∀ l, l < 128 → bit (k.maskReg (i.dst % 8)) l =
         (if (activeLanes (u.core c) i).getD l false then bits l else bit ((u.core c).maskReg (i.dst % 8)) l)
     let m := fun (r l : Nat) => bit ((s.core c).maskReg (r % 8)) l
     (fld w 0 8 = 0x38 → writes (.vmset c ⟨w, .clean⟩) s fun l => if i.src1.testBit 8 then decide (i.src1 % 256 ≤ l) else decide (l < i.src1 % 256)) ∧
     (fld w 0 8 = 0x39 → writes (.vmand c ⟨w, .clean⟩) s fun l => m i.src1 l && m i.src2 l) ∧
     (fld w 0 8 = 0x3A → writes (.vmor c ⟨w, .clean⟩) s fun l => m i.src1 l || m i.src2 l) ∧
     (fld w 0 8 = 0x3B → writes (.vmxor c ⟨w, .clean⟩) s fun l => m i.src1 l != m i.src2 l) ∧
     (fld w 0 8 = 0x3C → writes (.vmnot c ⟨w, .clean⟩) s fun l => !m i.src1 l) ∧
     ∀ (t u : State) (a b : List Nat), source1 s c i = (.ok a, t) → source2 t c i = (.ok b, u) → a.length = 128 → b.length = 128 →
       let x := fun l => a.getD l 0
       let y := fun l => b.getD l 0
       (i.fmt = 2 →
         (fld w 0 8 = 0x30 → writes (.vcmpeq c ⟨w, .clean⟩) u fun l => decide (signed 32 (x l) = signed 32 (y l))) ∧
         (fld w 0 8 = 0x31 → writes (.vcmplt c ⟨w, .clean⟩) u fun l => decide (signed 32 (x l) < signed 32 (y l))) ∧
         (fld w 0 8 = 0x32 → writes (.vcmple c ⟨w, .clean⟩) u fun l => decide (signed 32 (x l) ≤ signed 32 (y l))) ∧
         (fld w 0 8 = 0x33 → writes (.vcmpun c ⟨w, .clean⟩) u fun _ => false)) ∧
       (i.fmt = 0 →
         (fld w 0 8 = 0x30 → writes (.vcmpeq c ⟨w, .clean⟩) u fun l => fpCmp .eq .fp32 (x l) (y l)) ∧
         (fld w 0 8 = 0x31 → writes (.vcmplt c ⟨w, .clean⟩) u fun l => fpCmp .lt .fp32 (x l) (y l)) ∧
         (fld w 0 8 = 0x32 → writes (.vcmple c ⟨w, .clean⟩) u fun l => fpCmp .le .fp32 (x l) (y l)) ∧
         (fld w 0 8 = 0x33 → writes (.vcmpun c ⟨w, .clean⟩) u fun l => fpCmp .un .fp32 (x l) (y l)))) ∧
  (∀ a b : Nat, a < 2 ^ 32 → b < 2 ^ 32 →
     let nan := fun (x : Nat) => 0x7F800000 < x % 2 ^ 31
     let val := fun (x : Nat) => if x < 2 ^ 31 then (x : Int) else -((x - 2 ^ 31 : Nat) : Int)
     (nan a ∨ nan b → fpCmp .un .fp32 a b = true ∧ fpCmp .eq .fp32 a b = false ∧ fpCmp .lt .fp32 a b = false ∧ fpCmp .le .fp32 a b = false) ∧
     (¬ nan a → ¬ nan b → fpCmp .un .fp32 a b = false ∧ (fpCmp .eq .fp32 a b = true ↔ val a = val b) ∧
       (fpCmp .lt .fp32 a b = true ↔ val a < val b) ∧ (fpCmp .le .fp32 a b = true ↔ val a ≤ val b)))

/-- Across the lanes (R144, R150): with some lane active, VRSUM and VRMAX write into every active lane the fixed tree over the lanes,
an inactive lane standing for the identity, and raise its flags in the lowest active lane; with none active they change
nothing; VROT moves lane l + n modulo 128 into lane l.

VSMX (R151): with no lane active the rescale factor is 1 and nothing else changes; otherwise lane 0 of the state register becomes
the larger of the old maximum and the lanes' maximum; where that is −∞ every weight is 0 and the sum stays. -/
def Obligations.AcrossLanes : Prop :=
  (∀ (s t : State) (c : CoreId) (w : BitVec 64) (a : List Nat), VectorReady s c w →
     let i := vdecode w
     source1 s c i = (.ok a, t) → a.length = 128 →
     let k := t.core c
     let active := activeLanes k i
     let reduces := fun (x : Instr) (op : Nat → Nat → Nat × Nat) (ident : Nat) =>
       (∀ l0, firstActive active = some l0 → exec x s = .next (vectorDone t c (raiseLane
         (putDest k i (active.map fun y => if y then some (reduceTree op (withIdentity active a ident)).1 else none)) l0
         (reduceTree op (withIdentity active a ident)).2))) ∧
       (firstActive active = none → exec x s = .next (vectorDone t c k))
     (fld w 0 8 = 0x50 → (i.fmt = 0 → reduces (.vrsum c ⟨w, .clean⟩) (fpAdd .fp32 .rne i.sat) 0x80000000) ∧
       (i.fmt = 2 → reduces (.vrsum c ⟨w, .clean⟩) (fun p q => (wrap 32 (signed 32 p + signed 32 q), 0)) 0)) ∧
     (fld w 0 8 = 0x51 → (i.fmt = 0 → reduces (.vrmax c ⟨w, .clean⟩) (fpMax .fp32) 0xFF800000) ∧
       (i.fmt = 2 → reduces (.vrmax c ⟨w, .clean⟩) (fun p q => (wrap 32 (max (signed 32 p) (signed 32 q)), 0)) 0x80000000)) ∧
     (fld w 0 8 = 0x53 → exec (.vrot c ⟨w, .clean⟩) s = .next (vectorDone t c
       (putDest k i ((List.range 128).map fun l => if active.getD l false then some (a.getD ((l + i.src2) % 128) 0) else none))))) ∧
  (∀ (s t : State) (c : CoreId) (w : BitVec 64) (x : List Nat), VectorReady s c w → fld w 0 8 = 0x52 →
     let i := vdecode w
     source1 s c i = (.ok x, t) → x.length = 128 →
     let k := t.core c
     let r := i.src2 % 64
     let active := activeLanes k i
     let m := (fpMax .fp32 (k.lane r 0) (reduceTree (fpMax .fp32) (withIdentity active x 0xFF800000)).1).1
     (firstActive active = none → exec (.vsmx c ⟨w, .clean⟩) s = .next (vectorDone t c (k.setLane r 2 0x3F800000))) ∧
     (∀ l0, firstActive active = some l0 → ∃ n : Core, exec (.vsmx c ⟨w, .clean⟩) s = .next (vectorDone t c n) ∧ n.lane r 0 = m % 2 ^ 32 ∧
       (m = 0xFF800000 → n.lane r 1 = k.lane r 1 ∧ n.lane r 2 = 0x3F800000 ∧
         (i.dreg ≠ r → ∀ l, l < 128 → active.getD l false = true → n.lane i.dreg l = 0))))

/-- Conversions (R152 to R155): a widening VCVT writes lane i from element i of its part; a narrowing one writes
the element of each active lane and leaves every other bit of the register; VQSI writes one block and VDQSI the lanes of one, each
with its flags. Stated for nearest-even rounding and formats without shared scales. That an immediate scale of VQSI is the raw field is the
model's choice (log 24).

VNOP, VLD, VST, VFLAGRD, VFLAGCLR and VRND (R144, R156, R160, R161): VNOP changes nothing; VLD reads an entry row into its register
and VST writes its register into an entry row, through the access check; VFLAGRD writes each active lane's or column's flag word;
VFLAGCLR clears the named bits there; VRND writes one output of each active lane's seeded generator and steps it. Entries
in formats without scales. -/
def Obligations.ConversionsAndRows : Prop :=
  (∀ (s t u : State) (c : CoreId) (w : BitVec 64) (a b : List Nat), VectorReady s c w →
     let i := vdecode w
     source1 s c i = (.ok a, t) → a.length = 128 → i.stoch = false →
     let k := t.core c
     let active := activeLanes k i
     let cc := cvCode i
     (fld w 0 8 = 0x61 → cvWiden i = true → isMx cc = false →
       let v := fun l => widenElem i.fmt cc .rne i.sat (fld (k.vreg (i.src1 % 64)) (partBit cc (cvPart i) l) (codeWidth cc))
       exec (.vcvt c ⟨w, .clean⟩) s = .next (vectorDone t c (raiseLanes
         (putDest k i ((List.range 128).map fun l => if active.getD l false then some (v l).1 else none))
         ((List.range 128).map fun l => if active.getD l false then (v l).2 else 0)))) ∧
     (fld w 0 8 = 0x61 → cvWiden i = false → isMx cc = false →
       let v := fun l => narrowElem i.fmt cc .rne i.sat (a.getD l 0)
       exec (.vcvt c ⟨w, .clean⟩) s = .next (vectorDone t c (raiseLanes
         (k.setVreg i.dreg (putElems (k.vreg i.dreg) cc (cvPart i) ((List.range 128).map fun l => if active.getD l false then some (v l).1 else none)))
         ((List.range 128).map fun l => if active.getD l false then (v l).2 else 0)))) ∧
     (fld w 0 8 = 0x62 → i.k2 = 2 → source2 t c i = (.ok b, u) →
       let q := si24Quantize (b.headD 0 % 256) ((List.range 128).map fun l =>
         if (activeLanes (u.core c) i).getD l false then some (fdecode .fp32 (a.getD l 0), Rnd.rne) else none)
       exec (.vqsi c ⟨w, .clean⟩) s = .next (vectorDone u c (raiseLanes ((u.core c).setVreg i.dreg (BitVec.ofNat 4096 q.1)) q.2))) ∧
     (fld w 0 8 = 0x62 → i.k2 = 3 →
       let q := si24Quantize (i.src2 % 256) ((List.range 128).map fun l => if active.getD l false then some (fdecode .fp32 (a.getD l 0), Rnd.rne) else none)
       exec (.vqsi c ⟨w, .clean⟩) s = .next (vectorDone t c (raiseLanes (k.setVreg i.dreg (BitVec.ofNat 4096 q.1)) q.2))) ∧
     (fld w 0 8 = 0x63 →
       let h := s.core c
       let v := fun l => (dequantize (i.src2 % 2 == 1) (h.vreg (i.src1 % 64)) (h.vreg (i.src1 % 64 + 1)) i.sat).getD l (0, 0)
       exec (.vdqsi c ⟨w, .clean⟩) s = .next (vectorDone s c (raiseLanes
         (putDest h i ((List.range 128).map fun l => if (activeLanes h i).getD l false then some (v l).1 else none))
         ((List.range 128).map fun l => if (activeLanes h i).getD l false then (v l).2 else 0))))) ∧
  (∀ (s t : State) (c : CoreId) (w : BitVec 64), VectorReady s c w →
     let i := vdecode w
     let k := s.core c
     let cap := capture s (some c) (BitVec.ofNat 16 i.src1)
     let active := activeLanes k i
     (fld w 0 8 = 0x00 → exec (.vnop c ⟨w, .clean⟩) s = .next (vectorDone s c k)) ∧
     (∀ r, fld w 0 8 = 0x70 → cap.valid = true → ownEntry c cap = true → blocksPerRow cap.format = 0 →
       accessRead s s.grid.ctx cap none (rowOperand k i) 1 = ([r], none, t) →
       exec (.vld c ⟨w, .clean⟩) s = .next (vectorDone t c ((t.core c).setVreg i.dreg r))) ∧
     (fld w 0 8 = 0x71 → cap.valid = true → ownEntry c cap = true → blocksPerRow cap.format = 0 →
       accessWrite s s.grid.ctx cap none (rowOperand k i) [(k.vreg i.dreg, 0)] = (none, t) →
       exec (.vst c ⟨w, .clean⟩) s = .next (vectorDone t c (t.core c))) ∧
     (fld w 0 8 = 0x79 → exec (.vflagrd c ⟨w, .clean⟩) s = .next (vectorDone s c (putDest k i ((List.range 128).map fun l =>
       if active.getD l false then some (Tab.get 0 (if i.src1.testBit 0 then k.colFlags else k.laneFlags) l).toNat else none)))) ∧
     (fld w 0 8 = 0x7A → ∃ n : Core, exec (.vflagclr c ⟨w, .clean⟩) s = .next (vectorDone s c n) ∧
       n = { k with laneFlags := n.laneFlags, colFlags := n.colFlags } ∧
       ∀ l, l < 128 →
         let cleared := fun (f : Byte) => if active.getD l false then f &&& ~~~(BitVec.ofNat 8 (i.src1 % 128)) else f
         Tab.get 0 n.laneFlags l = (if i.src1.testBit 8 then Tab.get 0 k.laneFlags l else cleared (Tab.get 0 k.laneFlags l)) ∧
         Tab.get 0 n.colFlags l = (if i.src1.testBit 8 then cleared (Tab.get 0 k.colFlags l) else Tab.get 0 k.colFlags l)) ∧
     (fld w 0 8 = 0x78 → k.replayMode = true → ∃ n : Core, exec (.vrnd c ⟨w, .clean⟩) s = .next (vectorDone s c n) ∧
       ∀ l, l < 128 →
         (active.getD l false = true → n.lane i.dreg l = ((Tab.get {} k.gens l).step.2).toNat ∧ Tab.get {} n.gens l = (Tab.get {} k.gens l).step.1) ∧
         (active.getD l false = false → n.lane i.dreg l = k.lane i.dreg l ∧ Tab.get {} n.gens l = Tab.get {} k.gens l)))

/-! ### Sequencer words and the matrix array (05, 06, 08) -/

/-- Sequencer words (R163 to R169, R184, R230): a reserved OP faults. KSET rewrites under its mask fields of a valid core
entry and no other bit, and faults where the entry is not valid or the format reserved; SEQJ ends the program, or counts and jumps;
RMOV's row copy done, the move is outstanding until it completes, and a ninth waits; WCLAIM puts what its claim returned in its lane,
and faults at decode where INC, LIMIT or the counter's tier is not permitted. -/
def Obligations.SequencerWords : Prop :=
  ∀ (s u : State) (c : CoreId) (w : BitVec 128),
    let k := s.core c
    (∀ p ∈ sequencerRows, decodeSequencer c w = some (p.2 c w) ↔ fld w 0 4 = p.1) ∧
    (∀ p ∈ sequencerRows, canIssue s c = true → fetchFault s c true = none → fld w 0 4 = 0 ∨ fld w 0 4 = 3 →
      exec (p.2 c w) s = .next (faultCore s c w ⟨St.seqOperationInvalid, {}⟩)) ∧
    (SequencerReady s c 5 w →
      let i := fld w 4 6
      let e : BitVec 128 := Tab.get 0 k.keys i
      CE.valid e = true → (bit w 10 = true → fld w 16 5 < 0x12) → ∃ n : BitVec 128,
        exec (.kset c w) s = .next (sequencerDone s c { k with keys := Tab.set 0 k.keys i n }) ∧
        fld n 2 5 = (if bit w 10 then fld w 16 5 else fld e 2 5) ∧
        fld n 7 7 = (if bit w 11 then fld w 21 7 else fld e 7 7) ∧
        fld n 32 32 = (if bit w 12 then (if bit w 15 then (fld e 32 32 + fld w 32 32) % 2 ^ 32 else fld w 32 32) else fld e 32 32) ∧
        fld n 64 32 = (if bit w 13 then fld w 64 32 else fld e 64 32) ∧
        fld n 96 16 = (if bit w 14 then fld w 96 16 else fld e 96 16) ∧
        fld n 0 2 = fld e 0 2 ∧ fld n 14 18 = fld e 14 18 ∧ fld n 112 16 = fld e 112 16) ∧
    (SequencerReady s c 5 w → bit w 10 = true → 0x12 ≤ fld w 16 5 →
      exec (.kset c w) s = .next (faultCore s c w ⟨St.seqOperationInvalid, {}⟩)) ∧
    (SequencerReady s c 5 w → CE.valid (Tab.get 0 k.keys (fld w 4 6)) = false → (bit w 10 = true → fld w 16 5 < 0x12) →
      exec (.kset c w) s = .next (faultCore s c w ⟨St.keyInvalid, { handle := BitVec.ofNat 16 (fld w 4 6) }⟩)) ∧
    (SequencerReady s c 0xF w →
      (bit w 4 = true → exec (.seqj c w) s = .next (sequencerDone s c { k with ended := true })) ∧
      (bit w 4 = false →
        let v := Tab.get 0 k.loops (fld w 5 2) + 1
        ∃ n : Core, exec (.seqj c w) s = .next (s.setCore c n) ∧
          n = { k with vregs := n.vregs, loops := n.loops, pc := n.pc, stall := none, heldBy := [] } ∧
          n.pc = (if v.toNat < fld w 32 32 then BitVec.ofNat 16 (fld w 16 16) else k.pc + 2) ∧
          Tab.get 0 n.loops (fld w 5 2) = (if v.toNat < fld w 32 32 then v else 0) ∧
          (∀ i, i ≠ fld w 5 2 → Tab.get 0 n.loops i = Tab.get 0 k.loops i) ∧
          n.lane (fld w 64 6) (fld w 70 7) = v.toNat ∧
          ∀ r l, l < 128 → ¬ (r = fld w 64 6 ∧ l = fld w 70 7) → n.lane r l = k.lane r l)) ∧
    (SequencerReady s c 4 w →
      let b := capture s (some c) (BitVec.ofNat 16 (fld w 24 16))
      (k.moves < 8 → copyRows s (some c) (capture s (some c) (BitVec.ofNat 16 (fld w 8 16))) b (fld w 40 32) (fld w 72 32) (fld w 104 20) =
          (none, u) →
        exec (.rmov c w) s = .next (sequencerDone u c { u.core c with
          moves := (u.core c).moves + 1, moveRows := (u.core c).moveRows ++ cxlRows u b (fld w 72 32) (fld w 104 20),
          waiting := if bit w 4 then 1 else (u.core c).waiting })) ∧
      (8 ≤ k.moves → exec (.rmov c w) s = .next (stallOn s c 4 w))) ∧
    (0 < k.moves → exec (.rmovComplete c) s = .next (s.setCore c
      { k with moves := k.moves - 1, moveRows := if k.moves = 1 then [] else k.moveRows,
               waiting := if k.waiting = 1 ∧ k.moves = 1 then 0 else k.waiting })) ∧
    (∀ a v, SequencerReady s c 7 w →
      let cap := capture s (some c) (BitVec.ofNat 16 (fld w 32 16))
      let i := fld w 48 32
      fld w 80 16 ≠ 0 → fld w 96 32 ≠ 0xFFFFFFFF → cap.isLocal = false → cap.tier = 1 → cap.refuse s.grid.ctx pFADD none = none →
      cap.addr (i / 128) = some a →
      claimRow (markSeen s s.grid.ctx cap pFADD) a (i % 128) (fld w 80 16) (fld w 96 32) = (some v, u) →
      exec (.wclaim c w) s = .next (sequencerDone u c ((u.core c).setLane (fld w 4 6) (fld w 10 7) v))) ∧
    (SequencerReady s c 7 w →
      let cap := capture s (some c) (BitVec.ofNat 16 (fld w 32 16))
      fld w 80 16 = 0 ∨ fld w 96 32 = 0xFFFFFFFF ∨ (cap.valid = true ∧ (cap.isLocal = true ∨ cap.tier ≠ 1)) →
      exec (.wclaim c w) s = .next (faultCore s c w ⟨St.seqOperationInvalid, {}⟩))

/-- The array's queue (R114 to R116, R118, R119, R121, R123, R126): an operation that passes its checks joins the queue, waits while
the queue holds four (an MMUL of no vectors does nothing; log 121), and one that does not pass faults; the load at the head fills its
set once nothing in flight names it; the vector at the head enters flight with its segment and the valid set that it meets, or faults
where a parity error is found. The two are stated with no tile run in progress, which would issue more. -/
def Obligations.ArrayQueues : Prop :=
  ∀ (s u : State) (c : CoreId) (w : BitVec 128) (o : ArrayOp) (rest : List ArrayOp),
    let k := s.core c
    let op := mkArrayOp s c w
    (SequencerReady s c 1 w →
      (arrayOk k c op = true → k.arrayQ.length < 4 → exec (.sload c w) s = .next (sequencerDone s c
        { k with arrayQ := k.arrayQ ++ [op], lastLoad := AW.set w, tile := k.tile.map fun t => { t with held := none } })) ∧
      (arrayOk k c op = true → 4 ≤ k.arrayQ.length → exec (.sload c w) s = .next (stallOn s c 1 w)) ∧
      (arrayOk k c op = false → exec (.sload c w) s = .next (faultCore s c w ⟨St.arrayOperandInvalid, {}⟩))) ∧
    (SequencerReady s c 2 w →
      (arrayOk k c op = true → AW.count w ≠ 0 → k.arrayQ.length < 4 →
        exec (.mmul c w) s = .next (sequencerDone s c { k with arrayQ := k.arrayQ ++ [op] })) ∧
      (arrayOk k c op = true → AW.count w ≠ 0 → 4 ≤ k.arrayQ.length → exec (.mmul c w) s = .next (stallOn s c 2 w)) ∧
      (arrayOk k c op = true → AW.count w = 0 → exec (.mmul c w) s = .next (sequencerDone s c k)) ∧
      (arrayOk k c op = false → exec (.mmul c w) s = .next (faultCore s c w ⟨St.arrayOperandInvalid, {}⟩))) ∧
    (sectionLive s = true → k.tile = none → k.arrayQ = o :: rest →
      (∀ gs, AW.op o.word = 1 → (∀ f ∈ k.flight, f.set ≠ AW.set o.word) →
        readSegs o (AW.len o.word) 0 (if AW.len o.word = 0 then 0 else AW.count o.word)
          (s.setCore c { (k.setStat (AW.set o.word) {}) with arrayQ := rest }) = (.ok gs, u) → (u.core c).tile = none →
        exec (.sloadSetValid c) s = .next (u.setCore c ((u.core c).setStat (AW.set o.word) (loadSet o gs)))) ∧
      (AW.op o.word = 1 → (∃ f ∈ k.flight, f.set = AW.set o.word) → exec (.sloadSetValid c) s = .next s) ∧
      (AW.op o.word = 2 → (k.statSet (AW.set o.word)).valid = false → ∀ parity, exec (.vectorIssue c parity) s = .next s) ∧
      (AW.op o.word = 2 → (k.statSet (AW.set o.word)).valid = true →
        (exec (.vectorIssue c true) s = .next (pumpTile (faultCore s c o.word ⟨St.operandParity, {}⟩) c)) ∧
        ∀ el sc seen, readSeg s o (o.first + o.issued * o.stride) (AW.len o.word) = (.ok (el, sc, seen), u) → (u.core c).tile = none →
          let st := k.statSet (AW.set o.word)
          exec (.vectorIssue c false) s = .next (u.setCore c { u.core c with
            arrayQ := (if o.issued + 1 = AW.count o.word then rest else { o with issued := o.issued + 1, seen := seen } :: rest)
            flight := (if (AW.len o.word = 0 ∧ (AW.accMode o.word = 1 ∨ AW.accMode o.word = 3)) ∨ st.nv = 0 then (u.core c).flight
              else (u.core c).flight ++ [{
                elems := packElems el, scales := packScales sc, set := AW.set o.word, accMode := AW.accMode o.word,
                entry := AW.accBase o.word + o.issued, len := AW.len o.word, fmt := BitVec.ofNat 5 (AW.fmt o.word), stat := st,
                cols := List.range st.nv }])
            vectors := (u.core c).vectors + 1 })))

/-- A column's commit (R73, R120, R131, R135): the word of the vector's entry, and in the compensated modes that of its error entry
256 further, is what the mode's formula makes of the partial sum, each step rounded to FP32 to nearest-even; every other accumulator
word, and all else of the core but its flags and the vectors in flight, stays. Where the mode adds to what the entry held, a
double-bit error of the entry faults and a single-bit error is counted. -/
def Obligations.AccumulatorUpdates : Prop :=
  ∀ (s : State) (c : CoreId) (j : Fin 128) (check : OperandCheck) (v : Flight) (rest : List Flight),
    let k := s.core c
    sectionLive s = true → k.tile = none → k.flight = v :: rest → v.cols.contains j.val = true →
    (check = .double → v.accMode % 2 = 1 →
      exec (.accumulatorCommit c ⟨j, check⟩) s = .next (pumpTile (faultCore s c 0 ⟨St.operandParity, { index := j.val }⟩) c)) ∧
    ((check = .double → v.accMode % 2 = 0) →
    let p := (columnSum v v.stat j.val).1
    let old := fun (e l : Nat) => fld (k.accEntry e) (32 * l) 32
    let a := fdecode .fp32 (old v.entry j.val)
    let e := fdecode .fp32 (old (v.entry + 256) j.val)
    let rnd := fun (x : FVal) => (toF32 (x, 0)).1
    let val := fun (x : Nat) => fdecode .fp32 x
    let minus := fun (x y : FVal) => (fsum x y.flip).1
    let sum := (fsum a p).1
    ∃ n : Core, exec (.accumulatorCommit c ⟨j, check⟩) s = .next (s.setCore c n) ∧
      let new := fun (x l : Nat) => fld (n.accEntry x) (32 * l) 32
      (v.accMode = 0 → new v.entry j.val = rnd p % 2 ^ 32) ∧
      (v.accMode = 1 → new v.entry j.val = rnd sum % 2 ^ 32) ∧
      (v.accMode = 2 → new v.entry j.val = rnd p % 2 ^ 32 ∧ new (v.entry + 256) j.val = rnd (minus p (val (rnd p))) % 2 ^ 32) ∧
      (v.accMode = 3 → new v.entry j.val = rnd sum % 2 ^ 32 ∧
        new (v.entry + 256) j.val = rnd (fsum e (val (rnd (minus sum (val (rnd sum)))))).1 % 2 ^ 32) ∧
      (∀ x l, l < 128 → ¬ (x = v.entry ∧ l = j.val) → ¬ (2 ≤ v.accMode ∧ x = v.entry + 256 ∧ l = j.val) → new x l = old x l) ∧
      n = { k with acc := n.acc, colFlags := n.colFlags, summary := n.summary, flight := n.flight, obCorrected := n.obCorrected } ∧
      n.obCorrected = (if check = .corrected ∧ v.accMode % 2 = 1 then countErr k.obCorrected else k.obCorrected) ∧
      n.flight = (if v.cols.filter (fun x => x != j.val) = [] then rest else { v with cols := v.cols.filter fun x => x != j.val } :: rest))

/-- Channel words (R200, R204 to R210). Each names a channel of its direction that the program owns, and faults where it does not.
CTOK sends its token where the channel holds a credit and none of its tokens waits; CTAKE takes the control or done
token that it asks for and puts its value in a lane, waits where the channel holds none, and any other token at the head is a
mismatch; CSEND puts two tokens a row at the tail of its channel; CRECV joins the receives, which take what their channels hold
(a register from two halves at the head of its channel at once), and is outstanding where its channel holds nothing; a CSEND or CRECV
with a count of 0 does nothing, and a fifth waits.

The stash (R245, R246, R249): where the rows lie in a core's own memory or chip memory, the buffer beyond them, and a stash-out's
mode is one that the rows' format has, a STASH that puts its records in the buffer, or takes its rows from it, is outstanding until it
completes (a stash-in of no rows at once), and a fifth waits; elsewhere it faults. The header of a raw record gives its 512 bytes, and
they decode to the row. -/
def Obligations.ChannelsAndStash : Prop :=
  (∀ (s u : State) (c : CoreId) (w : BitVec 128),
     let k := s.core c
     let ch := CW.chan w
     let cap := capture s (some c) (CW.handle w)
     let invalid := faultCore s c w ⟨St.seqOperationInvalid, {}⟩
     (SequencerReady s c 0xA w →
       (chanOk k ch true = false → exec (.ctok c w) s = .next invalid) ∧
       (chanOk k ch true = true → Tab.get [] k.txq ch = [] → tileOwns k ch = false → chCredit s c ch = true →
         let t := chSend s c ch (if fld w 5 2 = 3 then doneToken c else
           controlToken (fld w 5 2) (if bit w 7 then k.lane (fld w 32 6) (fld w 38 7) % 2 ^ 16 else fld w 16 16))
         exec (.ctok c w) s = .next (sequencerDone t c (t.core c)))) ∧
     (SequencerReady s c 0xB w →
       (chanOk k ch false = false → exec (.ctake c w) s = .next invalid) ∧
       (chanOk k ch false = true → (∀ o ∈ k.recvs, CW.chan o.word ≠ ch) →
         (chHead s c ch = none → exec (.ctake c w) s = .next (stallOn s c 0xB w)) ∧
         ∀ x : Token, chHead s c ch = some x →
           let t := chPop s c ch
           let wanted : Bool := if fld w 5 2 = 3 then x.isDone else x.isControl && x.ckind == fld w 5 2
           (wanted = true → exec (.ctake c w) s = .next (sequencerDone t c ((t.core c).setLane (fld w 32 6) (fld w 38 7)
             (if x.isDone then fld x.payload 0 16 else fld x.payload 0 32)))) ∧
           (wanted = false → exec (.ctake c w) s = .next (faultCore s c w ⟨St.tokenMismatch, { index := ch }⟩)))) ∧
     (SequencerReady s c 8 w →
       (chanOk k ch true = false → exec (.csend c w) s = .next invalid) ∧
       (chanOk k ch true = true → (CW.kind w = true → CW.count w = 1) → (CW.kind w = false → cap.valid = true → ownEntry c cap = true) →
         (4 ≤ k.sends.length → exec (.csend c w) s = .next (stallOn s c 8 w)) ∧
         (k.sends.length < 4 → tileOwns k ch = false →
           (CW.count w = 0 → exec (.csend c w) s = .next (sequencerDone s c k)) ∧
           ∀ rows : List Row, CW.count w ≠ 0 → rows ≠ [] →
             (CW.kind w = true → rows = [k.vreg (CW.row w % 64)] ∧ u = s) →
             (CW.kind w = false → accessRead s s.grid.ctx cap none (CW.row w) (CW.count w) = (rows, none, u)) →
             let ts := (rows.zipIdx).flatMap fun r => rowTokens (CW.tag w + r.2) r.1
             let t := queueTokens (u.setCore c { u.core c with
               sends := (u.core c).sends ++ [(ch, foreignTokens (u.core c) ch + ts.length, CW.wait w)] }) c ch ts
             exec (.csend c w) s = .next (sequencerDone t c
               { t.core c with waiting := if (t.core c).sends.any (fun x => x.2.2) then 4 else (t.core c).waiting })))) ∧
     (SequencerReady s c 9 w →
       (chanOk k ch false = false → exec (.crecv c w) s = .next invalid) ∧
       (chanOk k ch false = true → (CW.kind w = true → CW.count w = 1) → (CW.kind w = false → cap.valid = true → ownEntry c cap = true) →
         (4 ≤ k.recvs.length → exec (.crecv c w) s = .next (stallOn s c 9 w)) ∧
         (k.recvs.length < 4 → CW.count w = 0 → exec (.crecv c w) s = .next (sequencerDone s c k)) ∧
         (k.recvs.length < 4 → CW.count w ≠ 0 →
           let q := s.setCore c { k with recvs := k.recvs ++ [{ word := w, cap := cap }] }
           let t := runRecvs q c
           (exec (.crecv c w) s = .next (sequencerDone t c
             { t.core c with waiting := if (t.core c).recvs.any (fun o => CW.wait o.word) then 5 else (t.core c).waiting })) ∧
           (k.recvs = [] → chHead q c ch = none → exec (.crecv c w) s = .next (sequencerDone q c
             { q.core c with waiting := if CW.wait w then 5 else 0 })) ∧
           ∀ a b : Token, k.recvs = [] → CW.kind w = true → CW.eot w = false → chHead q c ch = some a →
             chHead (chPop q c ch) c ch = some b → a.isData = true → a.half = false → b.isData = true → b.half = true →
             let v := chPop (chPop q c ch) c ch
             exec (.crecv c w) s = .next (sequencerDone v c
               { (v.core c).setVreg (CW.row w % 64) (BitVec.ofNat 4096 (a.payload.toNat ||| (b.payload.toNat <<< 2048))) with recvs := [] }))))) ∧
  ((∀ (s u : State) (c : CoreId) (w : BitVec 128),
     let k := s.core c
     let a := capture s (some c) (SH.rowsHandle w)
     let b := capture s (some c) (SH.bufHandle w)
     let permitted := (a.valid = true → a.tier ≤ 1) ∧ (b.valid = true → b.isLocal = false ∧ 2 ≤ b.tier) ∧
       (SH.dirIn w = false → SH.mode w ≤ 5 ∧ (2 ≤ SH.mode w → a.valid = true → 1 ≤ a.format ∧ a.format ≤ 3))
     let after := fun t : State => sequencerDone t c { t.core c with
       stashes := (t.core c).stashes + 1, waiting := if SH.wait w then 2 else (t.core c).waiting }
     (SequencerReady s c 0xE w → permitted → k.stashes < 4 →
       (SH.dirIn w = true → SH.count w = 0 → exec (.stash c w) s = .next (after s)) ∧
       (SH.dirIn w = true → stashIn s c w a b = (none, u) → exec (.stash c w) s = .next (after u)) ∧
       (SH.dirIn w = false → stashOut s c w a b = (none, u) → exec (.stash c w) s = .next (after u))) ∧
     (SequencerReady s c 0xE w → permitted → 4 ≤ k.stashes → exec (.stash c w) s = .next (stallOn s c 0xE w)) ∧
     (SequencerReady s c 0xE w → ¬ permitted → exec (.stash c w) s = .next (faultCore s c w ⟨St.seqOperationInvalid, {}⟩)) ∧
     (0 < k.stashes → exec (.stashComplete c) s = .next (s.setCore c
       { k with stashes := k.stashes - 1, waiting := if k.waiting = 2 ∧ k.stashes = 1 then 0 else k.waiting }))) ∧
   ∀ (m f : Nat) (r : Row),
     fld (BitVec.ofNat 32 (ofBytes ((rawRecord r).take 4))) 0 11 = 1024 + 512 ∧ decodeRecord m f true ((rawRecord r).drop 4 |>.take 512) = some r)

/-- Tile runs (R174 to R179): a TILE that passes its checks begins its run, one that does not faults, and one waits while another's run
is in progress; an epilogue writes what it is told of its tile into lanes of v63 (lanes 6 and 7 as log 54 says) and runs its
instructions; a shipment copies the buffer's rows home or sends them as tokens; a run with nothing left ends, its done token sent.

Deferred work (R240 to R244): WQUEUE queues a descriptor and its shape, and waits where 16 are queued; WFENCE waits while the queue is
not empty; a starved core, or one whose program waits for deferred work, starts the head entry, which faults where a check fails, or
resumes the parked run; at the end of an L1 tile a run that must yield is parked, both stationary sets become invalid, and the receives
take what their channels hold. -/
def Obligations.TileWork : Prop :=
  (∀ (s u : State) (c : CoreId) (w : BitVec 128) (t : TileRun),
     let k := s.core c
     let d := t.desc
     (SequencerReady s c 6 w → k.tile ≠ none → exec (.tile c w) s = .next (stallOn s c 6 w)) ∧
     (SequencerReady s c 6 w → k.tile = none →
       (startTile s c w (shapeLanes k w) false = (.ok t, u) → t.waits u = false →
         let v := pumpTile (u.setCore c { u.core c with tile := some t, waiting := if bit w 4 then 3 else (u.core c).waiting }) c
         exec (.tile c w) s = .next (sequencerDone v c (v.core c))) ∧
       ∀ f, startTile s c w (shapeLanes k w) false = (.error f, u) → exec (.tile c w) s = .next (faultCore u c w f)) ∧
     (sectionLive s = true → k.tile = some t →
       (∀ x slot rest, t.epilogues = (x, slot) :: rest →
         (((List.range x.t0.vm).flatMap fun i => if TD.comp d then [TD.accBase d + slot * TD.ext d 0 0 + i, TD.accBase d + slot * TD.ext d 0 0 + i + 256]
             else [TD.accBase d + slot * TD.ext d 0 0 + i]) ++ epiEntries s c d).any (accBusy k) = false →
         (TD.outkind d = 2 ∨ t.ships.length < TD.bufs d 1) →
         let n := t.shipped + t.ships.length
         (let v := (epilogueLanes s c t x slot (n % TD.bufs d 1)).core c
          v.lane 63 0 = x.t0.g % 2 ^ 32 ∧ v.lane 63 1 = x.t0.m % 2 ^ 32 ∧ v.lane 63 2 = x.t0.n % 2 ^ 32 ∧
          v.lane 63 3 = min x.t0.vm (t.m x.t0.g - x.t0.m) % 2 ^ 32 ∧ v.lane 63 4 = x.t0.vn % 2 ^ 32 ∧
          v.lane 63 5 = (TD.accBase d + slot * TD.ext d 0 0) % 2 ^ 32 ∧ ∀ r l, l < 128 → r ≠ 63 ∨ 8 ≤ l → v.lane r l = k.lane r l) ∧
         (runEpilogue c t.deferred (TD.epiLen d) (TD.epiAddr d) (epilogueLanes s c t x slot (n % TD.bufs d 1)) = (none, u) →
         (x.endL1 = false → exec (.tileEpilogue c) s = .next (pumpTile (putTile u c { t with epilogues := rest }) c)) ∧
         (x.endL1 = true → TD.outkind d = 2 → exec (.tileEpilogue c) s =
           .next (pumpTile (putTile u c { t with epilogues := rest, shipped := t.shipped + 1 }) c)) ∧
         (x.endL1 = true → TD.outkind d ≠ 2 → exec (.tileEpilogue c) s = .next (pumpTile (putTile u c { t with
           epilogues := rest, ships := t.ships ++ [({ x.t1 with g := x.t0.g, vg := 1, vm := min x.t1.vm (t.m x.t0.g - x.t1.m) }, n)] }) c)))) ∧
       (∀ b n rest, t.ships = (b, n) :: rest →
         let e := t.eC b.g
         let src := fun i => n % TD.bufs d 1 * outRows d e + i * (TD.ext d 1 1 / e)
         let rows := ceilDiv b.vn e
         (TD.outkind d = 0 → copySegs t 2 (homeAt b.g 2) src (fun i => (t.first b.g 2 + (b.m + i) * TD.stride d 2 + b.n) / e)
             rows b.vm 0 s = (none, u) →
           exec (.tileShip c) s = .next (pumpTile (putTile u c { t with ships := rest, shipped := t.shipped + 1 }) c)) ∧
         (TD.outkind d ≠ 0 → shipTokens c (t.cap 2) (TD.outChannel d)
             ((List.range b.vm).flatMap fun i => (List.range rows).map fun j => src i + j) s = (none, u) →
           exec (.tileShip c) s = .next (pumpTile (putTile u c { t with ships := rest, shipped := t.shipped + 1 }) c))) ∧
       (t.work = [] → t.claimsDone = true → t.epilogues = [] → t.ships = [] → (TD.outkind d = 1 → Tab.get [] k.txq (TD.outChannel d) = []) →
         let v := s.setCore c { k with tile := none, waiting := if k.waiting = 3 then 0 else k.waiting }
         (t.deferred = false → TD.doneEn d = false → exec (.tileComplete c) s = .next v) ∧
         (t.deferred = false → TD.doneEn d = true → exec (.tileComplete c) s = .next (queueTokens v c (TD.doneChannel d) [doneToken c])) ∧
         (t.deferred = true → exec (.tileComplete c) s = .next (runRecvs (s.setCore c { k with
           tile := none
           set0 := {}
           set1 := {}
           deferred := k.deferred.drop 1
           fencing := k.fencing && !(k.deferred.drop 1).isEmpty
           stall := if k.stall = some 0xC00 then none else k.stall }) c))))) ∧
  (∀ (s u : State) (c : CoreId) (w : BitVec 128) (t : TileRun),
     let k := s.core c
     (SequencerReady s c 0xC w → k.deferred.length < 16 →
       exec (.wqueue c w) s = .next (sequencerDone s c { k with deferred := k.deferred ++ [(w, shapeLanes k w)] })) ∧
     (SequencerReady s c 0xC w → 16 ≤ k.deferred.length → exec (.wqueue c w) s = .next (stallOn s c 0xC w)) ∧
     (SequencerReady s c 0xD w → exec (.wfence c w) s = .next (sequencerDone s c { k with fencing := !k.deferred.isEmpty })) ∧
     (sectionLive s = true → k.active = true → k.tile = none → starved s c = true ∨ mustRun k = true →
       (k.parked = some t → exec (.deferredWorkStart c) s =
         .next (pumpTile (s.setCore c { k with tile := some { t with atEnd := false }, parked := none }) c)) ∧
       (∀ shape rest, k.parked = none → k.deferred = (w, shape) :: rest →
         (startTile s c w shape true = (.ok t, u) → t.waits s = false →
           exec (.deferredWorkStart c) s = .next (pumpTile (u.setCore c { u.core c with tile := some t }) c)) ∧
         ∀ f, startTile s c w shape true = (.error f, u) → exec (.deferredWorkStart c) s = .next (faultCore u c w f))) ∧
     (sectionLive s = true → k.tile = some t → t.atBoundary = true → t.epilogues = [] → t.ships = [] → wouldYield s c = true →
       exec (.deferredWorkSuspend c) s = 
         .next (runRecvs (s.setCore c { k with set0 := {}, set1 := {}, tile := none, parked := some { t with held := none } }) c)))

/-! ### The stream mesh (07) -/

/-- Tokens, credits and rows (R197, R200, R216, R218, R219, R382): a send on a mesh channel takes one credit and puts the
token on the neighbour's wire; a receive takes the head and, where the channel is not elastic, returns a credit; the two
tokens of a row rejoin into it, and a data token comes back from the row that spills it.

Arrival, refill, credits and routes (R192, R195, R216, R218 to R220): the first token of an inbound wire joins its channel's
queue, or a parity error faults; on an elastic channel it joins slots 0 to 11 while these have room and nothing is spilled, goes to the
tail of the spill otherwise, and overflows where both are full; the spill head moves into a queue of fewer than 12, and a row that
cannot be read faults; a credit that comes back joins the sender's, which sends one token that waits; a route passes the token that it
holds on to its outbound wire. -/
def Obligations.MeshTraffic : Prop :=
  ((∀ (s : State) (c : CoreId) (ch : Nat) (t : Token),
     let k := s.core c
     let e := k.chan ch
     CH.endpoint e ≠ 1 →
     (chCredit s c ch = true ↔ 0 < Tab.get 0 k.credits ch) ∧
     (chHead s c ch = (Tab.get [] k.rxq ch).head?) ∧
     (∀ d, neighbour c (CH.port e) = some d →
       let x := chSend s c ch t
       let i := pv (opposite (CH.port e)) (CH.vc e)
       Tab.get 0 (x.core c).credits ch = Tab.get 0 k.credits ch - 1 ∧
       Tab.get [] (x.core d).wire i = Tab.get [] (s.core d).wire i ++ [t] ∧
       (∀ b, b ≠ c → b ≠ d → x.core b = s.core b) ∧ x.ms = s.ms ∧ x.streams = s.streams) ∧
     (CH.elastic e = true → chPop s c ch = s.setCore c { k with rxq := Tab.set [] k.rxq ch ((Tab.get [] k.rxq ch).drop 1) }) ∧
     (CH.elastic e = false → chPop s c ch = creditBack (s.setCore c { k with rxq := Tab.set [] k.rxq ch ((Tab.get [] k.rxq ch).drop 1) })
       c (CH.port e) (CH.vc e))) ∧
   (∀ (tag : Nat) (r : Row), ∃ a b : Token, rowTokens tag r = [a, b] ∧ a.isData = true ∧ b.isData = true ∧ a.half = false ∧ b.half = true ∧
     fld a.tag 0 15 = tag % 2 ^ 15 ∧ fld b.tag 0 15 = tag % 2 ^ 15 ∧
     BitVec.ofNat 4096 (a.payload.toNat ||| (b.payload.toNat <<< 2048)) = r) ∧
   (∀ (tag : Half) (p : BitVec 2048), rowToken (tokenRow (dataToken tag p)) = dataToken tag p)) ∧
  (∀ (s u : State) (c : CoreId), sectionLive s = true →
     let k := s.core c
     (∀ (port : Fin 4) (vc : Fin 8) (t : Token) (rest : List Token) (ch : Nat), Tab.get [] k.wire (pv port.val vc.val) = t :: rest →
       recvEntry k port.val vc.val = some ch →
       let e := k.chan ch
       let taken := { k with wire := Tab.set [] k.wire (pv port.val vc.val) rest }
       let q := Tab.get [] k.rxq ch
       let sp := Tab.get [] k.spill ch
       let n := CH.spillRows e
       (exec (.tokenArrival c port vc true) s = .next (faultCore (s.setCore c taken) c 0 ⟨St.operandParity, { index := ch }⟩)) ∧
       (CH.elastic e = false → exec (.tokenArrival c port vc false) s = .next (runRecvs (s.setCore c
         { taken with rxq := Tab.set [] k.rxq ch (q ++ [t]) }) c)) ∧
       (CH.elastic e = true →
         (sp = [] → q.length < 12 → exec (.tokenArrival c port vc false) s = .next (runRecvs (creditBack (s.setCore c
           { taken with rxq := Tab.set [] k.rxq ch (q ++ [t]) }) c (CH.port e) (CH.vc e)) c)) ∧
         (sp ≠ [] ∨ 12 ≤ q.length → sp.length < n → (k.spillCap ch).refuse s.grid.ctx pSPILL none = none →
           writeAt (markSeen (s.setCore c taken) s.grid.ctx (k.spillCap ch) pSPILL) (k.spillCap ch)
             ((Tab.get 0 k.spillHead ch + sp.length) % max 1 n) (tokenRow t) 0 = (.ok (), u) →
           exec (.tokenArrival c port vc false) s = .next (runRecvs (creditBack (u.setCore c
             { u.core c with spill := Tab.set [] (u.core c).spill ch (sp ++ [t]) }) c (CH.port e) (CH.vc e)) c)) ∧
         (12 ≤ q.length → sp.length = n → exec (.tokenArrival c port vc false) s =
           .next (runRecvs (faultCore (s.setCore c taken) c 0 ⟨St.channelOverflow, { index := ch, aux := n }⟩) c)))) ∧
     (∀ (ch : Fin 64) (t : Token) (rest : List Token), Tab.get [] k.spill ch.val = t :: rest → (Tab.get [] k.rxq ch.val).length < 12 →
       let cap := k.spillCap ch.val
       let h := Tab.get 0 k.spillHead ch.val
       cap.refuse s.grid.ctx pSPILL none = none →
       (∀ r, consumeAt (markSeen s s.grid.ctx cap pSPILL) cap h = (.ok r, u) →
         exec (.spillRefill c ch) s = .next (runRecvs (u.setCore c { u.core c with
           rxq := Tab.set [] (u.core c).rxq ch.val (Tab.get [] k.rxq ch.val ++ [rowToken r])
           spill := Tab.set [] (u.core c).spill ch.val rest
           spillHead := Tab.set 0 (u.core c).spillHead ch.val ((h + 1) % max 1 (CH.spillRows (k.chan ch.val))) }) c)) ∧
       ∀ f, consumeAt (markSeen s s.grid.ctx cap pSPILL) cap h = (.error f, u) →
         exec (.spillRefill c ch) s = .next (runRecvs (faultCore u c 0 f) c)) ∧
     (∀ ch : Fin 64, Tab.get 0 k.creditsBack ch.val ≠ 0 →
       let back := s.setCore c { k with creditsBack := Tab.set 0 k.creditsBack ch.val (Tab.get 0 k.creditsBack ch.val - 1),
                                        credits := Tab.set 0 k.credits ch.val (Tab.get 0 k.credits ch.val + 1) }
       (Tab.get [] k.txq ch.val = [] → exec (.creditReturn c ch) s = .next back) ∧
       (Tab.get [] k.txq ch.val ≠ [] → exec (.creditReturn c ch) s = .next (pumpChannel c ch.val 1 back))) ∧
     (∀ (r : Fin 4) (t : Token) (d : CoreId),
       let e := Tab.get 0 k.routes r.val
       RT.valid e = true → Tab.get [] k.routeReg r.val = [t] → neighbour c (RT.outPort e) = some d →
       let i := pv (opposite (RT.outPort e)) (RT.outVc e)
       ∃ x : State, exec (.routeForward c r) s = .next x ∧ Tab.get [] (x.core c).routeReg r.val = [] ∧
         Tab.get [] (x.core d).wire i = Tab.get [] (s.core d).wire i ++ [t] ∧ (∀ b, b ≠ c → b ≠ d → x.core b = s.core b) ∧
         x.ms = s.ms ∧ x.streams = s.streams))

/-- Steering units (R213 to R215): the index of SELECT, ROUTE and REPEAT comes from the control token; SELECT and ROUTE move the data
token to or from the indexed end, with both tokens consumed; REPEAT sends one copy and consumes after the last; MERGE passes the
token of the input whose turn it is, and a control token there but an end-of-tensor token faults; a wrong control kind, an index
outside the fan, or a head that is no data token where one is needed faults; a complete set of done tokens, or of end-of-tensor
tokens but in MERGE, passes as one on every output; MERGE sends the end-of-tensor token that it owes first.

STREAM_DEADLOCK (R222, R224): with a core that holds a token or a blocked channel, or a link stream that does, the detector writes
its summary and one record for each such core in ascending order, and faults the context; where a fault of the context stands, it
writes the records alone; with nothing held it does nothing. -/
def Obligations.GridUnits : Prop :=
  (∀ (s : State) (c : CoreId) (t : Token) (i : Nat),
     let d := fun u => (s.core c).unit u
     let x := fun u => (s.core c).unitSt u
     let fan := fun u => if u = 0 then SD.nin (d u) else if u = 1 then SD.nout (d u) else 65536
     (∀ u, chHead s c (SD.ctrl (d u)) = some t → t.isControl = true → t.isEot = false →
       let n := if SD.pred (d u) then t.value % 2 else t.value
       ((t.ckind = 0 ↔ SD.pred (d u) = true) → n < fan u → ctrlStep s c u = .index n) ∧
       (¬ (t.ckind = 0 ↔ SD.pred (d u) = true) ∨ fan u ≤ n → ctrlStep s c u = .fault (SD.ctrl (d u)))) ∧
     (∀ ch, unitLive s c 0 = true → ctrlStep s c 0 = .fault ch → exec (.selectFire c) s = .next (steerFault s c 0 ch)) ∧
     (∀ ch, unitLive s c 1 = true → ctrlStep s c 1 = .fault ch → exec (.routeFire c) s = .next (steerFault s c 1 ch)) ∧
     (∀ ch, unitLive s c 3 = true → ctrlStep s c 3 = .fault ch → exec (.repeatFire c) s = .next (steerFault s c 3 ch)) ∧
     (unitLive s c 0 = true → ctrlStep s c 0 = .index i → chHead s c (SD.inp (d 0) i) = some t →
       (t.isData = true → chCredit s c (SD.out (d 0) 0) = true →
         exec (.selectFire c) s = .next (chSend (chPop (chPop s c (SD.inp (d 0) i)) c (SD.ctrl (d 0))) c (SD.out (d 0) 0) t)) ∧
       (t.isData = false → exec (.selectFire c) s = .next (steerFault s c 0 (SD.inp (d 0) i)))) ∧
     (unitLive s c 1 = true → ctrlStep s c 1 = .index i → chHead s c (SD.inp (d 1) 0) = some t →
       (t.isData = true → chCredit s c (SD.out (d 1) i) = true →
         exec (.routeFire c) s = .next (chSend (chPop (chPop s c (SD.inp (d 1) 0)) c (SD.ctrl (d 1))) c (SD.out (d 1) i) t)) ∧
       (t.isData = false → exec (.routeFire c) s = .next (steerFault s c 1 (SD.inp (d 1) 0)))) ∧
     (unitLive s c 3 = true → ctrlStep s c 3 = .index i → chHead s c (SD.inp (d 3) 0) = some t →
       let both := fun (v : State) => chPop (chPop v c (SD.inp (d 3) 0)) c (SD.ctrl (d 3))
       let sent := chSend s c (SD.out (d 3) 0) t
       (t.isData = false → exec (.repeatFire c) s = .next (steerFault s c 3 (SD.inp (d 3) 0))) ∧
       (t.isData = true → i = 0 → exec (.repeatFire c) s = .next (both s)) ∧
       (t.isData = true → i ≠ 0 → chCredit s c (SD.out (d 3) 0) = true →
         (i ≤ (x 3).copies + 1 → exec (.repeatFire c) s = .next (both (setUnit sent c 3 { x 3 with copies := 0 }))) ∧
         ((x 3).copies + 1 < i → exec (.repeatFire c) s = .next (setUnit sent c 3 { x 3 with copies := (x 3).copies + 1 })))) ∧
     (unitLive s c 2 = true → (x 2).ended.length ≠ SD.nin (d 2) → chHead s c (SD.inp (d 2) (x 2).turn) = some t →
       let sent := chSend (chPop s c (SD.inp (d 2) (x 2).turn)) c (SD.out (d 2) 0) t
       (t.isControl = true → t.isEot = false → exec (.mergeFire c) s = .next (steerFault s c 2 (SD.inp (d 2) (x 2).turn))) ∧
       (t.isData = true → chCredit s c (SD.out (d 2) 0) = true →
         ((x 2).taken + 1 < SD.weight (d 2) (x 2).turn → exec (.mergeFire c) s = .next (setUnit sent c 2 { x 2 with taken := (x 2).taken + 1 })) ∧
         (SD.weight (d 2) (x 2).turn ≤ (x 2).taken + 1 → exec (.mergeFire c) s =
           .next (setUnit sent c 2 { x 2 with taken := 0, turn := nextInput (SD.nin (d 2)) (x 2).ended (x 2).turn })))) ∧
     (∀ u : Fin 4, unitLive s c u.val = true → (∀ ch ∈ SD.outs (d u.val), chCredit s c ch = true) →
       let ins := unitInputs (d u.val) u.val
       let through := fun q => exec (.steerEndPass c u) s = .next (sendAll c (SD.outs (d u.val)) q (popAll c ins s))
       (u.val = 2 → (x 2).ended.length = SD.nin (d 2) → exec (.steerEndPass c u) s = .next (chSend
         (setUnit s c 2 { x 2 with ended := [], turn := 0, taken := 0 }) c (SD.out (d 2) 0) (controlToken 2 0))) ∧
       ((u.val = 2 → (x 2).ended.length ≠ SD.nin (d 2)) → (∀ ch ∈ ins, (chHead s c ch).any Token.isDone = true) → through (doneToken c)) ∧
       (u.val ≠ 2 → (∀ ch ∈ ins, (chHead s c ch).any Token.isEot = true) → through (controlToken 2 0)))) ∧
  (∀ s : State,
     let cs := allCores.filter (coreOccupied s)
     let held := cs ≠ [] ∨ streamsOccupied s = true
     let payload := fun r : Nat × BitVec 512 => r.2.toNat / 2 ^ 128
     let room := s.bb.recs.length + cs.length + 2 ≤ 4096
     let summary := fun m : Nat => m / 2 ^ 9 % 2 = 1 ∧ m / 2 ^ 48 % 2 ^ 5 = s.deadlockW % 2 ^ 5 ∧ m / 2 ^ 53 % 2 ^ 9 = cs.length ∧
       (m / 2 ^ 62 % 2 = 1 ↔ streamsOccupied s = true)
     (sectionLive s = true → ¬ held → exec .streamDeadlock s = .next s) ∧
     (sectionLive s = true → held → ∃ t : State, exec .streamDeadlock s = .next t ∧
       t.bb.seq = s.bb.seq + BitVec.ofNat 48 (cs.length + 2) ∧ t.bb.total = s.bb.total + cs.length + 2 ∧
       (room → ∃ m f : Nat, summary m ∧
         (t.bb.recs.drop s.bb.recs.length).map payload = m :: cs.map (fun c => (coreSnapshot s c).toNat) ++ [f]) ∧
       (∀ c, s.grid.ctx = some c → (t.ctx c).fault.any (fun f => f.status == St.streamDeadlock) = true) ∧
       t.cores = s.cores ∧ t.streams = s.streams ∧ t.ms = s.ms) ∧
     (∀ c, s.grid.phase = .running → s.grid.ctx = some c → (s.ctx c).fault ≠ none → held → ∃ t : State, exec .streamDeadlock s = .next t ∧
       t.bb.seq = s.bb.seq + BitVec.ofNat 48 (cs.length + 1) ∧
       (room → ∃ m : Nat, summary m ∧ (t.bb.recs.drop s.bb.recs.length).map payload = m :: cs.map (fun c => (coreSnapshot s c).toNat)) ∧
       t.ctxs = s.ctxs ∧ t.cores = s.cores ∧ t.streams = s.streams ∧ t.ms = s.ms))

/-! ### Runs, sections and updates (08, 09, 12, 15) -/

/-- RUN (R226, R342, R358, R414): an earlier RUN of the ring, a run of the context, a reset or a replay under way, or unsettled buckets
of a replay run, hold it back; else the run is made from the payload and the command goes on, and on an idle grid its first section
loads. A replay run with nothing to replay ends so; a bound run whose header fails ends with the header's number and status, and one
whose header lies behind a port that is down faults.

The hinge (R226, R235 to R237, R250): a section that is done with no token left advances its run by one section, ended at NEXT
0xFFFF or when COUNT is used up; held keyring writes are made; the run goes on, or after its slice, or at its end, the next ready
context takes the grid: in ascending order the first whose run goes on, or whose accepted RUN then begins. A token left in a channel
faults.

SECTION_START (R106, R203, R234, R237): once no bank of the hinge's requests is waited for, the section runs: its cores are active
and no other, every send entry at a port holds 16 credits and no other entry any, spill rows hold free values, and a section that
preloads loads the next section's images where its header is well formed. -/
def Obligations.RunsAndSections : Prop :=
  (∀ (s u : State) (r : CmdRef) (c : Cmd), Startable s r 0x0201 c →
     let p := c.payload
     let free := (∀ d ∈ s.earlier c, d.opcode ≠ 0x0201) ∧ (s.ctx r.ctx).run = none ∧ s.rst.eng = .idle ∧ s.rst.dev = false ∧
       s.rst.suspects = [] ∧ s.rst.replaying = none
     (¬ free ∨ (RUN.replay p = true ∧ (replayState s p).1 = false) → exec (.run r) s = .next (s.defer r)) ∧
     (free → RUN.replay p = true → replayState s p = (true, false) → exec (.run r) s = .next (s.finish r { status := St.nothingToReplay })) ∧
     (free → RUN.replay p = false ∨ replayState s p = (true, true) →
       (∀ b, RUN.ub p = true → bindingDown s p = some b → exec (.run r) s = .next
         (faultCmd s c St.cxlPortDown { handle := RUN.ubHandle p, index := RUN.ubRow p + b / 64 } (BitVec.ofNat 32 b))) ∧
       ((RUN.ub p = true → bindingDown s p = none) →
         (∀ b st, RUN.ub p = true → bindHeaders s r.ctx p = (some (b, st), u) →
           exec (.run r) s = .next (u.finish r { status := st, detail := BitVec.ofNat 32 b })) ∧
         ((RUN.ub p = true → bindHeaders s r.ctx p = (none, u)) → (RUN.ub p = false → u = s) →
           let run : RunSt := { seq := r.seq, nth := r.nth, payload := p, cur := RUN.first p,
                                left := if RUN.count p = 0 then none else some (RUN.count p) }
           let t := (u.updCmd r fun d => { d with phase := .running, began := true, bound := RUN.ub p }).setCtx r.ctx
             { u.ctx r.ctx with run := some run, fault := none, accFlags := 0 }
           (s.grid.phase ≠ .idle → exec (.run r) s = .next t) ∧
           (s.grid.phase = .idle → exec (.run r) s = .next (loadSection t r.ctx)))))) ∧
  ((∀ (s v : State) (c : CtxId) (r : RunSt), s.grid.ctx = some c → (s.ctx c).run = some r → sectionLive s = true → hingeReady s c = true →
     (∀ i ch, firstLeft s = some (i, ch) → exec .hingeBegin s = .next (coreFault s i St.hingeTokensLeft { index := ch })) ∧
     (firstLeft s = none →
       let held := applyHeld (collectFlags s)
       let n := advanceRun held r
       let t := settleRun (held.setRun c n) c
       n.ordinal = r.ordinal + 1 ∧ n.cur = BitVec.ofNat 16 (HD.next held.grid.hdr) ∧ n.left = r.left.map (· - 1) ∧
       (n.ended = true ↔ HD.next held.grid.hdr = 0xFFFF ∨ r.left.map (· - 1) = some 0) ∧
       (runGoes t c = true →
         ((t.time - t.grid.since).toNat < sliceTime (t.ctx c) → exec .hingeBegin s = .next (loadSection t c)) ∧
         (sliceTime (t.ctx c) ≤ (t.time - t.grid.since).toNat →
           let others := (ctxsAfter c).filter fun d => d != c
           (∀ d, readyFrom others t = (some d, v) → exec .hingeBegin s = .next (loadSection v d)) ∧
           (readyFrom others t = (none, v) → exec .hingeBegin s = .next (loadSection v c)))) ∧
       (runGoes t c = false →
         (∀ d, readyFrom (ctxsAfter c) t = (some d, v) → exec .hingeBegin s = .next (loadSection v d)) ∧
         (readyFrom (ctxsAfter c) t = (none, v) → exec .hingeBegin s = .next (idleGrid v))))) ∧
   ∀ (t : State) (d : CtxId) (l : List CtxId),
     (runGoes t d = true → readyFrom (d :: l) t = (some d, t)) ∧
     (runGoes t d = false → waitingRun t d = none → readyFrom (d :: l) t = readyFrom l t) ∧
     ∀ q, runGoes t d = false → waitingRun t d = some q →
       (runGoes (beginRun t q) d = true → readyFrom (d :: l) t = (some d, beginRun t q)) ∧
       (runGoes (beginRun t q) d = false → readyFrom (d :: l) t = readyFrom l (beginRun t q))) ∧
  (∀ (s u : State) (c : CtxId) (r : RunSt), s.grid.ctx = some c → s.grid.phase = .starting → (s.ctx c).run = some r → (s.ctx c).fault = none →
     r.stop = none → s.grid.waiting = [] →
     let hdr := s.grid.hdr
     let marked := ({ s with grid := { s.grid with phase := .running, mark := s.time } }).setRun c { r with begun := r.ordinal + 1 }
     let active := allCores.foldl (fun t i => t.setCore i { t.core i with
       active := HD.inMask hdr i
       credits := (t.core i).chans.foldl (fun x e => if portEntry e.2 && CH.send e.2 then Tab.set 0 x e.1 16 else x) [] }) marked
     let t := (maskCores hdr).foldl freeSpill active
     (HD.preload hdr = false ∨ HD.next hdr = 0xFFFF → exec .sectionStart s = .next t) ∧
     (∀ rows, HD.preload hdr = true → HD.next hdr ≠ 0xFFFF →
       accessRead t (some c) (capture t none (RUN.list r.payload)) (some 0) (HD.next hdr) 1 = (rows, none, u) → headerOk (rows.headD 0) = true →
       exec .sectionStart s = .next (preloadImages c (HD.next hdr) (rows.headD 0) (maskCores (rows.headD 0)).zipIdx u)) ∧
     ∀ i : CoreId, (active.core i).active = HD.inMask hdr i)

/-- Watchdogs of the grid (R430, R433, R434, R444): a section that runs too long faults its context, and in a sealed replay
triggers an engine reset; a core that holds an issued word in no wait that another watchdog bounds, and a drain that lasts 1 ms, trigger
one of their own cause; a core that is not so watched, and any of the two while a reset is under way, nothing.

Context stops (R429, R431): a stop makes every core inactive and drops what it holds waiting, abandons the context's requests
and begins the drain, and memory stays; when nothing of the context is left in a bank the run ends with the stop's status, or
its fault's, the grid is cleared, the next ready context takes it, and commands that waited for the end go on. -/
def Obligations.GridStops : Prop :=
  (∀ s : State,
     let triggers := fun (i : Instr) (trig : Nat) (core : Option CoreId) (no : Bool) => exec i s = .next { s with rst := { s.rst with
       eng := .triggered
       trigger := trig
       trigCore := core
       trigSeq := 0
       noReplay := no
       recovery := s.rst.replaying.isSome
       replaying := s.rst.replaying.map fun q => if q.outcome = 0 then { q with outcome := 3 } else q } }
     (sectionLive s = true → s.grid.replay = false → exec .sectionTimeout s = .next (raiseFault s s.grid.ctx St.sectionTimeout)) ∧
     (s.rst.eng = .idle → s.rst.dev = false →
       (sectionLive s = true → s.grid.replay = true → triggers .sectionTimeout 0 none true) ∧
       (∀ c, progressWatched s c = true → triggers (.coreProgressTimeout c) 0 (some c) false) ∧
       (s.grid.phase = .draining → triggers .drainBoundExpiry 1 none false)) ∧
     (∀ c, progressWatched s c = false → exec (.coreProgressTimeout c) s = .next s) ∧
     (s.rst.eng ≠ .idle → (∀ c, exec (.coreProgressTimeout c) s = .next s) ∧ exec .drainBoundExpiry s = .next s)) ∧
  (∀ (s : State) (c : CtxId), s.grid.ctx = some c →
     ((s.ctx c).fault.isSome = true ∨ (s.ctx c).run.any (·.stop.isSome) = true → s.grid.phase = .running ∨ s.grid.phase = .starting →
       ∃ t : State, exec (.contextStop c) s = .next t ∧ t.grid = { s.grid with phase := .draining, waiting := [] } ∧
         (∀ i : CoreId, t.core i = { s.core i with
           active := false
           arrayQ := []
           flight := []
           sends := []
           recvs := []
           tile := none
           parked := none
           deferred := []
           fencing := false
           waiting := 0
           stall := none
           heldBy := []
           moves := 0
           moveRows := []
           stashes := 0 }) ∧
         (∀ q ∈ t.fab.reqs, q.issuer ≠ .notice c ∧ (∀ a b, q.issuer ≠ .gatherHdr c a b) ∧ (∀ a b d, q.issuer ≠ .gatherRow c a b d) ∧
           ∀ e, q.issuer ≠ .exch c e) ∧ t.fab.reqs.map (·.tag) = s.fab.reqs.map (·.tag) ∧
         t.ms = s.ms ∧ t.ctxs = s.ctxs ∧ t.keys = s.keys ∧ t.cmds = s.cmds) ∧
     (∀ r : RunSt, s.grid.phase = .draining → bankPending s c = false → (s.ctx c).run = some r →
       let u := clearGrid (joinFlags s)
       let ends := fun (st : Half) (ref : Dword) (detail : Word) =>
         let t := finishRun u c st ref detail
         let t := t.setCtx c { t.ctx c with switchedOut := false }
         exec (.contextStopDrained c) s =
           .next (fenceOn (releaseReads (chooseNext (applyHeld { t with grid := { t.grid with ctx := none } }) c)))
       (∀ st, r.stop = some st → ends st 0 0) ∧
       (∀ f, r.stop = none → (s.ctx c).fault = some f → ends f.status f.ref f.detail)))

/-- Updates (R351 to R354, R356): a header that fails its check refuses the program with that status, a skewed one counting its
skew, and the slot's notice goes out; one that passes is marked UPDATING while the granules run, and at the end it holds the program's
step and counts and the notice goes out. -/
def Obligations.UpdatePrograms : Prop :=
  (∀ (h : Row) (t : Nat) (g : Option Nat), t < 2 ^ 32 →
    let fine := SH'.hver h = 1 ∧ SH'.inconsistent h = false ∧ (∀ x, g = some x → x = SH'.granules h)
    (¬ fine → stepCheck h t g = St.shardInconsistent) ∧
    (fine → SH'.updating h = true → stepCheck h t g = St.shardBusy) ∧
    (fine → SH'.updating h = false → (SH'.step h + 1) % 2 ^ 32 ≠ t → stepCheck h t g = St.stepSkew) ∧
    (fine → SH'.updating h = false → (SH'.step h + 1) % 2 ^ 32 = t → stepCheck h t g = 0) ∧
    (∀ w k, SH'.step (headerDone h t w k) = t ∧ SH'.updating (headerDone h t w k) = false ∧
      SH'.inconsistent (headerDone h t w k) = SH'.inconsistent h ∧ fld (headerDone h t w k) 128 32 = w % 2 ^ 32 ∧
      fld (headerDone h t w k) 160 32 = k % 2 ^ 32) ∧
    (SH'.updating (headerUpdating h) = true ∧ SH'.step (headerUpdating h) = SH'.step h) ∧
    (fld h 16 16 < 0xFFFF → fld (skewHeader h t) 16 16 = fld h 16 16 + 1) ∧ fld (skewHeader h t) 64 32 = t) ∧
  (∀ (s u : State) (e : Fin 8) (i : Nat) (q : List Nat) (a : Nat) (h : Row),
    let n := updEngine e
    let g := s.engine n
    let v := g.slot i
    let t := s.setEngine n { g with updateQ := q }
    let d := fwRow t (SL.update v) (SL.updateRow v)
    g.updating = none → g.updateQ = i :: q → rowDown t (devRowAddr (t.devEntry (SL.update v)) (SL.updateRow v)) = false → slotHeader t v = some a → rawRead t a = .ok (h, 0) →
    let st := stepCheck h (UD.step d) (some (UD.granules d))
    (st ≠ 0 → st ≠ St.stepSkew → exec (.update e) s = .next (slotNotice (onSlotBucket t v fun b => { b with refused := st }) v)) ∧
    (st = St.stepSkew → exec (.update e) s =
      .next (slotNotice (onSlotBucket (fwWrite t a (skewHeader h (UD.step d))) v fun b => { b with refused := st }) v)) ∧
    (∀ fl wr sk, st = 0 →
      let w := fwWrite t a (headerUpdating h)
      granules d (if UD.rmode d then some (drawKey w.jobSeed (BitVec.ofNat 32 (UD.step d)) (386 + e.val)) else none) (UD.granules d) 0
        (0, 0, 0, none, w) = (fl, wr, sk, none, u) →
      let x := putUflags u v fl
      exec (.update e) s = .next (x.setEngine n { x.engine n with updating := some (v, d, wr, sk) }))) ∧
  (∀ (s : State) (e : Fin 8) (v : BitVec 256) (d : Row) (wr sk a : Nat), (s.engine (updEngine e)).updating = some (v, d, wr, sk) →
    let t := s.setEngine (updEngine e) { s.engine (updEngine e) with updating := none }
    slotHeader t v = some a →
    exec (.updateProgramComplete e) s =
      .next (slotNotice (ctxModify t (Fin.ofNat 8 (SL.ctx v)) a fun h => headerDone h (UD.step d) wr sk) v))

/-! ### Gradient reduction (11) -/

/-- Collective commands (R316, R317, R322, R334, R345): an open adds its collective and writes its records to zero, and fills a
calibrating one's scales; a close takes it away and completes when its requests have ended; an arm waits while a bucket's previous
notices are out, and then acts on each bucket of its range; a wait ends with the bucket's verdict, or goes on until it has one; a layout
switch waits for its effect, which replaces the list once no bucket is armed and every notice is acknowledged. -/
def Obligations.CollectiveCommands : Prop :=
  ∀ (s : State) (r : CmdRef) (c : Cmd),
    let p := c.payload
    (Startable s r 0x0401 c →
      let d := namedRow s p
      let x : Collective := { desc := d, ctx := r.ctx, epoch := CD.epoch d, count := CD.buckets d,
                              buckets := captureList s (CD.list d) 0 (CD.buckets d) }
      let t := zeroRecords { s with colls := s.colls.filter (fun y => y.1 != CD.id d) ++ [(CD.id d, x)] } x
      (CD.cal d = false → exec (.collectiveOpen r) s = .next (t.finish r {})) ∧
      (CD.cal d = true → exec (.collectiveOpen r) s = .next ((fillAllScales t x).finish r {}))) ∧
    (∀ x, Startable s r 0x0402 c → s.coll (fld p 0 16) = some x →
      let t := closeCollective s (fld p 0 16)
      let w := t.updCmd r fun c => { c with phase := .running, tags := senderTags t fun i _ => i == fld p 0 16 }
      t.coll (fld p 0 16) = none ∧ exec (.collectiveClose r) s = .next (settleTags w r) ∧
      ∀ d, w.cmd? r = some d →
        (d.tags ≠ [] → settleTags w r = w) ∧
        (d.tags = [] → d.queue = [] → d.opcode = 0x0402 → d.phase = .running → settleTags w r = w.finish r { status := d.bad })) ∧
    (∀ x, Startable s r 0x0403 c → s.coll (BA.coll p) = some x →
      let ks := ((List.range (BA.count p)).map (BA.first p + ·)).filter fun k => decide (k < x.count)
      let out := fun k => (x.bucket k).noticeTags ≠ [] ∨ (x.bucket k).noticeQ ≠ [] ∨ (x.bucket k).distributing = true
      ((∃ k ∈ ks, out k) → exec (.bucketArm r) s = .next (s.defer r)) ∧
      ((∀ k ∈ ks, ¬ out k) → exec (.bucketArm r) s = .next ((ks.foldl (fun t k =>
        armOwner (armMember t (BA.coll p) k (BA.step p) (BA.cal p)) r.ctx (BA.coll p) k (BA.step p) (BA.cal p)) s).finish r {}))) ∧
    (∀ x, Startable s r 0x0404 c → s.coll (BW.coll p) = some x →
      let b := bucketRecord s x (BW.bucket p)
      let fl := BitVec.ofNat 8 (RC.uflags b)
      (RC.step b = BW.step p →
        (RC.verdict b = 0 → exec (.bucketWait r) s = .next (s.setPhase r .running)) ∧
        (RC.verdict b = 1 → exec (.bucketWait r) s = .next (s.finish r { status := (x.bucket (BW.bucket p)).refused, flags := fl })) ∧
        (RC.verdict b = 2 → exec (.bucketWait r) s = .next (s.finish r { status := St.wardExhausted, flags := fl })) ∧
        (RC.verdict b = 3 → exec (.bucketWait r) s = .next (s.finish r { status := St.gradientNonfinite, flags := fl }))) ∧
      (serLater 32 (RC.step b) (BW.step p) = true → exec (.bucketWait r) s = .next (s.finish r { status := St.bucketInvalid }))) ∧
    (∀ x, Startable s r 0x0405 c → s.coll (LS.coll p) = some x →
      (x.switch = none → exec (.layoutSwitch r) s = .next ((s.setColl (LS.coll p) { x with switch := some r }).setPhase r .running)) ∧
      (x.switch ≠ none → exec (.layoutSwitch r) s = .next (s.defer r))) ∧
    (∀ (id : BitVec 16) x, s.coll id.toNat = some x → x.switch = some r → s.cmd? r = some c →
      let quiet := (∀ k, k < x.count → RC.armed (bucketRecord s x k) = false) ∧ ∀ b ∈ x.buckets, b.2.noticeTags = [] ∧ b.2.noticeQ = []
      (quiet →
        let t := releaseSlots s (slotOf id.toNat)
        let y := { x with epoch := LS.epoch p, count := LS.count p, switch := none,
                          buckets := keepDistributions x.buckets (captureList t (LS.list p) (LS.row p) (LS.count p)) }
        let v := t.setColl id.toNat y
        (LS.cal p = false → exec (.layoutSwitchEffect id) s = .next (v.finish r {})) ∧
        (LS.cal p = true → exec (.layoutSwitchEffect id) s = .next ((zeroRecords (fillAllScales v y) y).finish r {}))) ∧
      (¬ quiet → exec (.layoutSwitchEffect id) s = .next s))

/-- The bucket sender (R324 to R329, R346, R435): a ready word that has reached PARTS starts the bucket's sending, a lower one does
nothing, and a bucket that is being sent goes on; a refused packet goes out again; one refused for its epoch for a millisecond, or a
wait that has expired (a refusal other than for the epoch, the owner's completion, the member's verdict, or a BUCKET_WAIT), faults the
collective's context.

Verdicts (R330, R332, R338, R341, R343): the owner's complete bucket is clean where no contribution was lost, non-finite where one
was, and else rescaled up to three times and then exhausted; a clean one's scales are sent to every other member before its notice
goes out; a notice that applies settles the member's record, or makes it rescale, and any is answered. -/
def Obligations.BucketTraffic : Prop :=
  (∀ (s : State) (id : BitVec 16) (k : Word) (x : Collective),
     let i := id.toNat
     let n := k.toNat
     let b := x.bucket n
     let timeout : State → Host.Outcome State Fault Refusal := fun t => .next (raiseFault t (some x.ctx) St.collectiveWaitTimeout)
     (s.coll i = some x → n < x.count →
       (b.sending.isSome = true → exec (.readyWordPoll id k) s = .next (sendBucket s i n)) ∧
       (b.sending = none → b.awaiting = true →
         let claims := readWord s (CD.ready x.desc) n - b.ignored
         (claims < BK.parts b.entry → exec (.readyWordPoll id k) s = .next s) ∧
         (BK.parts b.entry ≤ claims → exec (.readyWordPoll id k) s =
           .next (sendBucket (onBucket (updRecord s x n fun r => put r 37 1 0) i n fun y =>
             { y with awaiting := false, sending := some (BK.blocks b.entry), tags := [] }) i n)))) ∧
     (∀ (tag : BitVec 24) (q : Req), s.fab.reqs.find? (fun q => q.tag == tag.toNat && q.retry) = some q →
       let t := { s with fab := { s.fab with reqs := updFirst (fun (y : Req) => y.tag == tag.toNat) (fun y => { y with retry := false }) s.fab.reqs } }
       exec (.accumulateRetry tag) s = .next (dispatchPacket t none q.packet)) ∧
     (∀ (tag : BitVec 24) (q : Req) (c : CtxId), s.fab.reqs.find? (fun q => q.tag == tag.toNat && q.retry && q.refusal == accEpoch) = some q →
       q.issuer = .bucket c i n →
       let t := { s with fab := { s.fab with reqs := s.fab.reqs.filter fun y => y.tag != tag.toNat } }
       exec (.epochAhead tag) s = .next (raiseFault (onBucket t i n fun y => { y with tags := y.tags.filter fun z => z != tag.toNat })
         (some c) St.epochAhead (remoteFault q 4 accEpoch))) ∧
     (s.coll i = some x → n < x.count →
       let u := abandonBucket s i n
       ((∃ q ∈ s.fab.reqs, q.retry = true ∧ q.issuer = .bucket x.ctx i n ∧ q.refusal ≠ accEpoch) →
         exec (.collectiveWaitTimeout id k .senderRetry) s = timeout (onBucket (dropRetries u fun a j => a == i && j == n) i n fun y =>
           { y with sending := none, tags := [] })) ∧
       (b.armedOwner = true → (∃ v ∈ bucketSlots s i n, SL.count v.2.2 ≠ 0) →
         exec (.collectiveWaitTimeout id k .ownerCompletion) s =
           timeout (onBucket (releaseSlots u (slotOfBucket i n)) i n fun y => { y with armedOwner := false })) ∧
       (RC.armed (bucketRecord s x n) = true → b.awaiting = false → b.sending = none → b.tags = [] →
         exec (.collectiveWaitTimeout id k .memberVerdict) s = timeout u) ∧
       ∀ d, waitingCmd s i n = some d →
         (x.ctx = d.ring → exec (.collectiveWaitTimeout id k .bucketWait) s = .next (faultCmd u d St.collectiveWaitTimeout)) ∧
         (x.ctx ≠ d.ring → exec (.collectiveWaitTimeout id k .bucketWait) s = .next
           ((raiseFault u (some x.ctx) St.collectiveWaitTimeout).finish d.ref { status := St.collectiveWaitTimeout, faultRef := u.nextRef })))) ∧
  ((∀ (s : State) (id : BitVec 16) (k : Word) (x : Collective), s.coll id.toNat = some x → k.toNat < x.count →
     let i := id.toNat
     let b := x.bucket k.toNat
     (b.armedOwner = true →
       let n := readWord s (CD.notice x.desc) k.toNat
       let slots := bucketSlots s i k.toNat
       let r := bucketRecord s x k.toNat
       let gen := generation (RC.step r) (RC.rescales r) (RC.cal r)
       let settled := onBucket s i k.toNat fun y => { y with armedOwner := false }
       let nf := slots.any fun y => SL.nf y.2.2
       (n % 65536 ≠ slots.length → exec (.noticeWordPoll id k) s = .next s) ∧
       (n % 65536 = slots.length →
         (n < 65536 → exec (.noticeWordPoll id k) s = .next (distribute (settleRecord settled i k.toNat 1) i k.toNat)) ∧
         (65536 ≤ n → nf = true → exec (.noticeWordPoll id k) s = .next (sendNotices (settleRecord settled i k.toNat 3) i k.toNat 0x13 gen)) ∧
         (65536 ≤ n → nf = false → RC.rescales r < 3 → exec (.noticeWordPoll id k) s =
           .next (memberRescale (sendNotices (rearm s i k.toNat) i k.toNat 0x11 ((gen + 1) % 65536)) i k.toNat)) ∧
         (65536 ≤ n → nf = false → RC.rescales r = 3 → exec (.noticeWordPoll id k) s =
           .next (sendNotices (settleRecord settled i k.toNat 2) i k.toNat 0x12 gen)))) ∧
     (b.distributing = true → b.scaleQ = [] → b.scaleTags = [] →
       exec (.scaleDistributionDone id k) s = .next (pumpOwner (onBucket s i k.toNat fun y =>
         { y with distributing := false, noticeQ := y.noticeQ ++ y.cleanQ, cleanQ := [] }) i k.toNat))) ∧
   (∀ (s : State) (via : Option LinkId) (p : Packet), Arrives s via p ptNotice → p.nrows = 0 →
     let u := arrived s via p
     u.serving = true →
     let i := NT.coll p
     let k := NT.bucket p
     let verdict := fun (x : Instr) (v : Nat) =>
       (noticeApplies u p = true → exec x s = .next (answerPacket (settleRecord u i k v) p 0 0)) ∧
       (noticeApplies u p = false → exec x s = .next (answerPacket u p 0 0))
     (NT.code p = 0x10 → verdict (.verdictClean via p) 1) ∧
     (NT.code p = 0x12 → verdict (.verdictWardExhausted via p) 2) ∧
     (NT.code p = 0x13 → verdict (.verdictNonfinite via p) 3) ∧
     (NT.code p = 0x11 → noticeApplies u p = true → exec (.rescale via p) s = .next (answerPacket (memberRescale u i k) p 0 0)) ∧
     (NT.code p = 0x11 → noticeApplies u p = false → exec (.rescale via p) s = .next (answerPacket u p 0 0))))

/-! ### Gathers, exchanges, jobs and streams (12, 13, 15) -/

/-- Gathers (R361 to R366): the next group of the list starts when its section has begun and fewer than 4 are incomplete: its entries
are read as rows of the list, a malformed one faults, a re-gather needs a valid epoch, a forward one clears its buffer's EPOCH_VALID, and
each piece's header is asked for; a header that must be repeated is read again where a TAG is free; a forward wait that expires before a
header was good faults; a forward group whose pieces are complete records its epoch.

Exchanges (R388 to R397): the next entry of the list waits for its ready word and its tables, clears the word, and starts if it
passes its checks; a round whose counts are held is granted; granted or ready payload goes out; once every row to receive has committed,
a destination writes its count row, and a dispatch with its grants sets RECORDED; an entry that has done all of this and whose packets
are acknowledged completes; an EXCHANGE writes its rows as a WRITE does, and a peer's ready notice of the open job is held once. -/
def Obligations.GathersAndExchanges : Prop :=
  (∀ (s u : State) (c : CtxId) (r : RunSt) (n : Nat), (s.ctx c).run = some r →
     (listLive s c r = true →
       let p := r.payload
       let e := r.gatherNext
       let x := fwEntry64 s (RUN.glHandle p) (RUN.glRow p) e
       let i := hIndex (GLE.dst x)
       let es := (groupEntries s (RUN.glHandle p) (RUN.glRow p) (RUN.glCount p - e) e).getD []
       let first := RUN.glRow p + e / 8
       let m := RUN.glRow p + (e + max 1 es.length - 1) / 8 - first + 1
       let stop := fun (st : Half) => raiseFault u (some c) st { handle := GLE.dst x, index := e } (BitVec.ofNat 32 e)
       (RUN.glCount p ≤ e ∨ r.begun ≤ GLE.start x ∨ 4 ≤ r.gathers.countP (fun g => !g.complete) → exec (.gatherGroupStart c) s = .next s) ∧
       ∀ rows, e < RUN.glCount p → GLE.start x < r.begun → r.gathers.countP (fun g => !g.complete) < 4 →
         accessRead s (some c) (capture s none (RUN.glHandle p)) none first m = (rows, none, u) →
         (groupOk u c es = false → exec (.gatherGroupStart c) s = .next (stop St.gatherListInvalid)) ∧
         (groupOk u c es = true → GLE.mode x = true → DE.epochValid (u.key i) = false →
           exec (.gatherGroupStart c) s = .next (stop St.shardEpochChanged)) ∧
         (groupOk u c es = true → GLE.mode x = false ∨ DE.epochValid (u.key i) = true →
           let g : GatherGroup := { first := e, dst := GLE.dst x, regather := GLE.mode x, pieces := es.map fun y => { entry := y } }
           let q := ((u.ctx c).run).getD r
           let t := u.setRun c { q with gatherNext := e + es.length, gathers := q.gathers ++ [g] }
           let t := if GLE.mode x then t else t.setKey i (put (t.key i) 144 1 0)
           exec (.gatherGroupStart c) s = .next ((List.range es.length).foldl (fun t k => askHeader t c r.gathers.length k) t))) ∧
     (∀ g k gr x, findPiece s c n = some (g, k) → getPiece s c g k = some (gr, x) →
       (x.backoff.isSome = true → x.asking = false → x.complete = false →
         let ask := issueReq s (.gatherHdr c g k) (readPacket (GLE.owner x.entry) (GLE.hdrWindow x.entry) (GLE.hdrWgen x.entry) (GLE.hdrOffset x.entry) 1)
         (∀ tag, ask = some (tag, u) →
           exec (.gatherHeaderRetry c n) s = .next (onPiece u c g k fun y => { y with asking := true, tags := [tag] })) ∧
         (ask = none → exec (.gatherHeaderRetry c n) s = .next s)) ∧
       (gr.regather = false → x.headerOk = false → exec (.gatherTimeout c n) s =
         .next (raiseFault s (some c) St.gatherTimeout { handle := gr.dst, index := n } (BitVec.ofNat 32 n))) ∧
       (x.headerOk = true → exec (.gatherTimeout c n) s = .next s)) ∧
     (∀ x y, r.gathers[n]? = some x → x.complete = false → (∀ z ∈ x.pieces, z.complete = true) → listLive s c r = true → x.pieces.getLast? = some y →
       let i := hIndex x.dst
       let t := if x.regather then s else s.setKey i (put (put (s.key i) 160 32 (GLE.expect y.entry)) 144 1 1)
       exec (.gatherGroupComplete c n) s = .next (entryReleased (onGroup t c n fun z => { z with complete := true }) c) ∧
       (x.regather = false → DE.epoch (t.key i) = GLE.expect y.entry ∧ DE.epochValid (t.key i) = true))) ∧
  ((∀ (s q u v : State) (c : CtxId) (r : RunSt), (s.ctx c).run = some r → listLive s c r = true →
     let i := r.exchNext
     let x := fwEntry64 s (RUN.xlHandle r.payload) (RUN.xlRow r.payload) i
     (RUN.xlCount r.payload ≤ i ∨ r.begun ≤ XE.start x ∨ 4 ≤ exchsInProgress s → exec (.exchangeEntryStart c) s = .next s) ∧
     (i < RUN.xlCount r.payload → XE.start x < r.begun → exchsInProgress s < 4 →
       readTable s c (RUN.xlHandle r.payload) (RUN.xlRow r.payload + i / 8) 1 = (none, q) →
       let parts := (fwWord q (XE.ready x) (XE.readyWord x)).toNat
       let t := entryWord q (XE.ready x) (XE.readyWord x) 0
       let held := tablesWait q (fwRow q (XE.desc x) (XE.descRow x))
       (∀ f, exchFormFault q c x = some f → exec (.exchangeEntryStart c) s = .next (faultEntry q c i f)) ∧
       (exchFormFault q c x = none →
         (parts < XE.parts x ∨ held = true → exec (.exchangeEntryStart c) s = .next q) ∧
         (XE.parts x ≤ parts → held = false →
           (∀ f, readDesc t c x = (.error f, u) → exec (.exchangeEntryStart c) s = .next (faultEntry u c i f)) ∧
           ∀ d, readDesc t c x = (.ok d, u) →
             let e : ExchEntry := { index := i, entry := x, desc := d, dseq := BitVec.ofNat 16 (fld (exchStateRow u x) 0 16) }
             (∀ f, exchCheck u c e = (some f, v) → exec (.exchangeEntryStart c) s = .next (faultEntry v c i f)) ∧
             (exchCheck u c e = (none, v) →
               (XE.kind x = 0 → exec (.exchangeEntryStart c) s = .next (startDispatch v c i x d)) ∧
               (XE.kind x ≠ 0 → exec (.exchangeEntryStart c) s = .next (startReturn v c i x d)))))) ∧
     (∀ (n : Nat) (y : ExchEntry), getExch s c n = some y → y.complete = false →
       let ms := exchMembers s y.desc
       let poison := (List.range ms.length).findSome? fun m => windowPoison s (XD.countWindow y.desc) (4 * m + 2 * (y.dseq.toNat % 2) + y.granted)
       (XE.kind y.entry = 0 → y.granted < rounds y.desc → countsHeld s y y.granted ms = true →
         let total := totalTokens s y.desc y.dseq ms.length
         let t := { s with arrivals := s.arrivals.filter fun a =>
           !(a.kind == 0 && a.place == XD.countWindow y.desc && a.dseq == y.dseq && a.sub == y.granted) }
         (∀ f, poison = some f → exec (.exchangeGrant c n) s = .next (faultEntry s c n f)) ∧
         (poison = none → y.granted = 0 → 1048576 < total → exec (.exchangeGrant c n) s = .next (faultExch t c y.entry n St.exchangeOverLimit)) ∧
         (poison = none → y.granted = 0 → total ≤ 1048576 → exec (.exchangeGrant c n) s =
           .next (sendGrants (setExchState t c y.entry fun r => put r 32 32 total) c y 0)) ∧
         (poison = none → y.granted ≠ 0 → exec (.exchangeGrant c n) s = .next (sendGrants t c y y.granted))) ∧
       (XE.kind y.entry = 0 → exec (.exchangePayloadSend c n) s = .next (dispatchSend s c y)) ∧
       (XE.kind y.entry ≠ 0 → sourceWaits s y = false → exec (.exchangePayloadSend c n) s = .next (returnSend s c y)) ∧
       (XE.kind y.entry ≠ 0 → sourceWaits s y = true → exec (.exchangePayloadSend c n) s = .next s) ∧
       (y.settled = false → y.expect = some y.received →
         (countsHere s y = false → settleRows s c y = entryReleased (onExch s c y.index fun z => { z with settled := true }) c) ∧
         (countsHere s y = true → accessWrite s (some c) (capture s none (XD.cnt y.desc)) none 0 [(countOutput s y, 0)] = (none, u) →
           settleRows s c y = entryReleased (onExch u c y.index fun z => { z with settled := true }) c)) ∧
       (XE.kind y.entry = 0 → y.settled = true → y.recorded = false → grantsHeld s y (rounds y.desc - 1) ms.length = true →
         recordDispatch s c y = setExchState (onExch s c y.index fun z => { z with recorded := true }) c y.entry fun r => put r 16 1 1) ∧
       (y.settled = true → (XE.kind y.entry = 0 → y.recorded = true) → y.payloadSent = true → y.queue = [] → y.tags = [] →
         exec (.exchangeEntryComplete c n) s = .next (entryReleased (onExch s c n fun z => { z with complete := true }) c)))) ∧
   (∀ (s : State) (via : Option LinkId) (p : Packet),
     let u := arrived s via p
     (∀ t, Arrives s via p ptExchange → requestStatus u p = 0 →
       windowWrite (u.devEntry (u.window p.window.toNat).handle) (PX.offset p / 512) p.rows (setActive u p.window.toNat (· + 1)) = (0, t) →
       exec (.exchange via p) s = .next (retire (noteExchange t p) p 0 0)) ∧
     (Arrives s via p ptNotice → fld p.ext1 0 8 = 0x21 → p.nrows = 0 → u.serving = true →
       let a : Arrival := { kind := 1, place := XN.group p, dseq := BitVec.ofNat 16 (XN.seq p), sub := XN.xkind p, src := p.src }
       let held := (∃ j, u.job = some j ∧ j.id.toNat = XN.job p) ∧ a ∉ u.arrivals
       (held → exec (.exchangeReady via p) s = .next (answerPacket { u with arrivals := u.arrivals ++ [a] } p 0 0)) ∧
       (¬ held → exec (.exchangeReady via p) s = .next (answerPacket u p 0 0)))))

/-- Jobs (R369 to R371, R456): an open makes the job and its groups from the table, each with its keyholder. A fence, which a close makes
of an unfenced job, stops every run; once all of these have ended it closes every collective and forgets streams, groups and arrivals,
and the fence and the close wait for every request outstanding; then the close discards the job.

Barriers and broadcasts (R373 to R377, R436): a member's arrival goes to the keyholder and its command waits; the keyholder counts
each member once per barrier, and releases it with the last; a release gives the group its step and next sequence and completes the
member's command; a wait that expires faults; a broadcast writes its rows to its own window and sends them to every other member. -/
def Obligations.JobCommands : Prop :=
  ((∀ (s : State) (r : CmdRef) (c : Cmd),
     let p := c.payload
     (Startable s r 0x0501 c →
       let d := namedRow s p
       let j : Job := { id := BitVec.ofNat 16 (fld d 0 16), seed := BitVec.ofNat 64 (fld d 64 64), ctx := r.ctx,
                        groups := ((List.range (groupCount d)).map (groupEntry s p)).map fun e =>
                          { entry := e, holder := memberAt s (GP.memberHandle e) (GP.keyholder e), step := GP.step0 e } }
       exec (.jobOpen r) s = .next ({ s with job := some j }.finish r {})) ∧
     (∀ j, s.job = some j →
       let t := if j.fenced then s else fenceJob s
       (Startable s r 0x0704 c → j.id.toNat = fld p 0 16 → exec (.jobFence r) s = .next (fenceOn (awaitAll t r))) ∧
       (Startable s r 0x0502 c → exec (.jobClose r) s = .next (fenceOn (awaitAll t r)))) ∧
     (Startable s r 0x0704 c → (∀ j, s.job = some j → j.id.toNat ≠ fld p 0 16) → exec (.jobFence r) s = .next (s.finish r { status := St.jobInvalid })) ∧
     (let tags := (s.fab.reqs.filter fun q => !q.retry).map (·.tag)
      let w := s.updCmd r fun c => { c with phase := .running, tags := tags }
      s.cmd? r = some c → c.queue = [] →
       (tags ≠ [] ∨ fenceWaits s c = true → awaitAll s r = w) ∧
       (tags = [] → fenceWaits s c = false → c.opcode ≠ 0x0502 → awaitAll s r = w.finish r { status := c.bad }) ∧
       (tags = [] → fenceWaits s c = false → c.opcode = 0x0502 →
         awaitAll s r = { w with job := none, arrivals := [] }.finish r { status := c.bad }))) ∧
   (∀ (s : State) (j : Job), s.job = some j →
     (fenceJob s).job = some { j with fenced := true, fencing := true } ∧
     (∀ c q, ((fenceJob s).ctx c).run = some q → q.stop.isSome = true ∨ ((fenceJob s).ctx c).fault.isSome = true) ∧
     (j.fencing = true → runsLeft s = true → fenceOn s = s) ∧
     (j.fencing = true → runsLeft s = false →
       let t := fenceRest s
       t.job = some { j with fencing := false, groups := [] } ∧ t.colls = [] ∧ t.streams = [] ∧ t.arrivals = [] ∧
       fenceOn s = (t.cmds.filter fun d => d.phase == .running && (d.opcode == 0x0502 || d.opcode == 0x0704)).foldl (fun v d => awaitAll v d.ref) t))) ∧
  ((∀ (s u v : State) (r : CmdRef) (c : Cmd) (j : Job) (g : Group) (rows : List Row),
     let p := c.payload
     s.job = some j →
     (Startable s r 0x0503 c → s.group (BE.group p) = some g →
       let held := s.onGroupNo (BE.group p) fun g => { g with entered := some r }
       let k := g.holder
       (g.entered ≠ none → exec (.barrierEnter r) s = .next (s.defer r)) ∧
       (g.entered = none → s.ownId k = true → exec (.barrierEnter r) s =
         .next (takeArrival (held.setPhase r .running) (BE.group p) k g.bseq (BE.step p) (BE.advance p))) ∧
       (g.entered = none → s.ownId k = false → s.fab.reqs.length < 16384 →
         exec (.barrierEnter r) s = .next (issueCmd held r [arrivalPacket k j.id.toNat g p]))) ∧
     (Startable s r 0x0504 c → s.group (GB.group p) = some g →
       let w := s.window (GP.bcastWindow g.entry)
       let waits := capWaits s (capture s none (GB.src p)) = true ∨ capWaits s (capture s none w.handle) = true
       (waits → exec (.groupBroadcast r) s = .next (s.defer r)) ∧
       (¬ waits →
         accessRead s (some r.ctx) (capture s none (GB.src p)) none (GB.srcRow p) (GB.rows p) = (rows, none, u) →
         accessWrite u (some r.ctx) (capture s none w.handle) none (GB.offset p / 512) (rows.map fun x => (x, 0)) = (none, v) →
         let ps := ((groupMembers v g).filter fun m => !v.ownId m).map fun m =>
           ({ ptype := ptWrite, dst := m, src := 0, window := BitVec.ofNat 12 (GP.bcastWindow g.entry), nrows := BitVec.ofNat 4 rows.length,
              wgen := GP.bcastWgen g.entry, ext1 := word 128 [(0, 48, GB.offset p)], rows := rows } : Packet)
         exec (.groupBroadcast r) s = .next (settleTags (pumpCmd (v.updCmd r fun c => { c with phase := .running, queue := ps }) r) r))) ∧
     (∀ n : Fin 16, s.group n.val = some g → g.entered = some r → s.cmd? r = some c → c.phase = .running → c.tags = [] →
       exec (.groupWaitTimeout n) s = .next (faultCmd (clearEntered s r) c St.groupWaitTimeout))) ∧
   (∀ (s : State) (via : Option LinkId) (p : Packet) (j : Job),
     let u := arrived s via p
     u.serving = true → p.nrows = 0 → u.job = some j →
     (Arrives s via p ptBarrier →
       (j.id.toNat = BH.job p →
         exec (.barrier via p) s = .next (answerPacket (takeArrival u (BH.group p) p.src (BH.bseq p) (BH.step p) (BH.advance p)) p 0 0)) ∧
       (j.id.toNat ≠ BH.job p → exec (.barrier via p) s = .next (answerPacket u p 0 0))) ∧
     (Arrives s via p ptNotice → fld p.ext1 0 8 = 0x20 →
       (j.id.toNat = XN.job p → exec (.barrierRelease via p) s =
         .next (answerPacket (applyRelease u (XN.group p) (bit p.ext1 8) (BitVec.ofNat 32 (fld p.ext1 96 32))) p 0 0)) ∧
       (j.id.toNat ≠ XN.job p → exec (.barrierRelease via p) s = .next (answerPacket u p 0 0)))) ∧
   (∀ (s : State) (n i : Nat) (g : Group) (src : BitVec 20) (q step : Word) (adv skew : Bool), s.group n = some g →
     (rankOf (groupMembers s g) src = some i →
       let b : Barrier := { arrived := insertSorted i g.barrier.arrived, advance := some (g.barrier.advance.getD adv),
                            skew := g.barrier.skew || step != g.step || g.barrier.advance.any fun a => a != adv }
       let t := s.onGroupNo n fun g => { g with barrier := b }
       (q ≠ g.bseq ∨ g.barrier.arrived.contains i = true ∨ s.ownId g.holder = false → takeArrival s n src q step adv = s) ∧
       (q = g.bseq → g.barrier.arrived.contains i = false → s.ownId g.holder = true →
         takeArrival s n src q step adv = if b.arrived.length = GP.members g.entry then releaseBarrier t n else t)) ∧
     (applyRelease s n skew step).group n = some { g with step := step, bseq := g.bseq + 1, barrier := {}, entered := none } ∧
     (∀ r c, g.entered = some r → s.cmd? r = some c → c.isDone = false → (applyRelease s n skew step).cmd? r = some
       { c with phase := .done { status := if skew then St.stepSkew else St.complete, result := BitVec.ofNat 64 step.toNat } })))

/-- Link streams (R297, R379, R381, R382, R384): STREAM_BIND gives the stream its entry and a send end its credits, with nothing
buffered. The next stream flit of its link is dropped and counted where the device has no ID, its stream no valid entry, or it carries
records that do not suit the entry; for this device its whole records are delivered, and for another it goes on by its PRIMARY link.
Owed credits go back. -/
def Obligations.StreamsBindAndMove : Prop :=
  ∀ (s : State) (r : CmdRef) (c : Cmd),
    (Startable s r 0x0505 c →
      let e := SB.entry c.payload
      exec (.streamBind r) s = .next ((s.setStream (SB.stream c.payload) { entry := e, credits := if SE.send e then SE.credits e else 0 }).finish r {})) ∧
    (∀ (l : LinkId) (n : BitVec 16) (b : BitVec 1920), streamNext s l n b = true →
      let u := consumeRx s l 0 1 1
      let dst : BitVec 20 := BitVec.ofNat 20 (fld b 0 20)
      (s.fab.devId = none → exec (.streamFlit l n b) s = .next (countLinkDrop u l)) ∧
      (s.ownId dst = true →
        let x := u.stream n.toNat
        let bs := x.partialBytes ++ (toBytes b 240).drop 4
        let suits := fun rs => SE.valid x.entry = true ∧ n.toNat < 1024 ∧ recordsSuit x rs = true
        (SE.valid x.entry = false ∨ 1024 ≤ n.toNat ∨ readRecords (bs.length + 1) bs = none →
          exec (.streamFlit l n b) s = .next (countLinkDrop u l)) ∧
        (∀ rs rest, readRecords (bs.length + 1) bs = some (rs, rest) →
          (¬ suits rs → exec (.streamFlit l n b) s = .next (countLinkDrop u l)) ∧
          (suits rs → exec (.streamFlit l n b) s = .next (wakeStream (rs.foldl (fun t y => deliver t n.toNat y)
            (u.setStream n.toNat { x with partialBytes := rest })) n.toNat)))) ∧
      (s.fab.devId.isSome = true → s.ownId dst = false → s.outOfService dst = false →
        (∀ k, s.streamLink dst = some k → exec (.streamFlit l n b) s = .next (pushFlits (consumeRx s l 0 1 0) k
          [{ lane := 0, via := some l, bits := flitBits 2 0 false false false n.toNat (toBytes b 240) }])) ∧
        (s.streamLink dst = none → exec (.streamFlit l n b) s = .next (countLinkDrop u l)))) ∧
    (∀ n : Fin 1024, SE.valid (s.stream n.val).entry = true → (s.stream n.val).owed ≠ 0 → exec (.streamCreditSend n) s =
      .next (streamRecords (s.setStream n.val { s.stream n.val with owed := 0 }) n.val (creditRecord (s.stream n.val).owed)))

/-! ### Aborts, resets and deadbolt (15) -/

/-- ABORT (R418, R419): the target is the earliest accepted command of its context and SEQ that is not committed. With none, or with
itself as target, the abort has nothing to abort. A target that has not started has the ABORTED record at once, and so has a RUN past
its last hinge, which keeps its flags; a run that holds the grid is stopped with ABORTED; and the abort, in progress, waits for the
target's commit. A second abort of a target waits.

Reset triggers (R428, R437, R438, R444, R450): in service ENGINE_RESET triggers an engine reset, or joins the one in progress, and
waits for its end; in deadbolt it is refused, and where a device reset has failed it has nothing to do (the model's choice, log
132); an uncorrectable error and an expired replay watchdog trigger one of their own cause, and a trigger during a replay finds its
suspect guilty; DEVICE_RESET asks for a device reset, or waits while one is asked for; the failure of a domain asks for one. -/
def Obligations.AbortsAndTriggers : Prop :=
  (∀ (s : State) (r : CmdRef) (c d : Cmd), Startable s r 0x0003 c →
     (abortTarget s c.payload = s.cmds.find? fun x => decide (x.ring.val = fld c.payload 0 3) && decide (x.seq.toNat = fld c.payload 32 32)) ∧
     (abortTarget s c.payload = none → exec (.abort r) s = .next (s.finish r { status := St.nothingToAbort })) ∧
     (abortTarget s c.payload = some d →
       (d.ref = r → exec (.abort r) s = .next (s.finish r { status := St.nothingToAbort })) ∧
       (d.ref ≠ r → abortPending s d.ref = true → exec (.abort r) s = .next (s.defer r)) ∧
       (d.ref ≠ r → abortPending s d.ref = false →
         let t := s.updCmd r fun c => { c with phase := .running, target := some d.ref }
         (d.phase = .waiting → exec (.abort r) s = .next (t.setPhase d.ref (.done { status := St.aborted }))) ∧
         (∀ x, d.phase = .done x → exec (.abort r) s = .next (t.setPhase d.ref (.done { status := St.aborted, flags := x.flags }))) ∧
         (∀ q, d.phase = .running → d.opcode = 0x0201 → heldForReplay s d.ref = false → s.grid.ctx = some d.ring →
           (s.ctx d.ring).run = some q → q.ended = false →
           exec (.abort r) s = .next (t.setCtx d.ring { s.ctx d.ring with run := some { q with stop := some St.aborted } }))))) ∧
  (∀ (s : State) (r : CmdRef) (c : Cmd),
     let triggered := fun (trig : Nat) (seq : Word) (no : Bool) => { s.rst with
       eng := .triggered
       trigger := trig
       trigCore := none
       trigSeq := seq
       noReplay := no
       recovery := s.rst.replaying.isSome
       replaying := s.rst.replaying.map fun q => if q.outcome = 0 then { q with outcome := 3 } else q }
     (Startable s r 0x0701 c →
       (s.rst.deadbolt = true → exec (.engineReset r) s = .next (s.finish r { status := St.deadbolt })) ∧
       (s.rst.deadbolt = false → s.inService = false → exec (.engineReset r) s = .next (s.finish r {})) ∧
       (s.rst.deadbolt = false → s.inService = true →
         (s.rst.eng = .idle → s.rst.dev = false → exec (.engineReset r) s =
           .next ({ s with rst := { triggered 2 r.seq (bit c.payload 0) with cmds := s.rst.cmds ++ [r] } }.setPhase r .running)) ∧
         (s.rst.eng ≠ .idle → exec (.engineReset r) s = .next ({ s with rst := { s.rst with cmds := s.rst.cmds ++ [r] } }.setPhase r .running)))) ∧
     (s.rst.eng = .idle → s.rst.dev = false →
       (s.inService = true → exec .sequencerUncorrectableError s = .next { s with rst := triggered 3 0 false }) ∧
       (∀ q, s.grid.replay = true → s.rst.replaying = some q → q.outcome = 0 →
         exec .replayWatchdogExpiry s = .next { s with rst := triggered 0 0 true })) ∧
     (Startable s r 0x0702 c →
       (s.rst.devWanted.isSome = true → exec (.deviceReset r) s = .next (s.defer r)) ∧
       (s.rst.devWanted = none → exec (.deviceReset r) s =
         .next ({ s with rst := { s.rst with devWanted := some 3, devCmd := some r } }.setPhase r .running))) ∧
     (∀ m : Bool, s.inService = true → s.rst.devWanted = none →
       exec (.linkDomainFailure m) s = .next { s with rst := { s.rst with devWanted := some (if m then 2 else 1) } }))

/-- The course of an engine reset (R438 to R441, R444, R447): its start is entered in the history, holds the grid and ends every run,
but one that recovers from a replay is not counted; the closed edge leaves every core with its two instruction counts alone and its
memory zero, and every other byte as it was; its end settles the suspects (those of a reset without replay, or into deadbolt, at
once, and the commands that asked for it complete); one that takes too long asks for a device reset.

Suspects (R442 to R446): the first suspect that no row was both read and written by is replayed sealed from its first section, on
an idle grid; a replay that has ended is settled; and a settled run's status is ABORTED, CORE_PROGRESS_TIMEOUT of a guilty or
killed one, its own first fault's, or CONTEXT_RESET, the first of these that applies. -/
def Obligations.EngineResets : Prop :=
  (∀ s : State,
     (s.rst.eng = .triggered → s.rst.dev = false → s.rst.recovery = false → ∃ t : State, exec .engineResetStart s = .next t ∧
       t.rst.eng = .started ∧ t.rst.ref = s.nextRef ∧ t.rst.history = s.rst.history ++ [s.time] ∧
       t.rst.enterDeadbolt = limitReached { s.rst with history := s.rst.history ++ [s.time] } s.time ∧
       t.grid = { phase := .held } ∧ t.host.state = .engineReset ∧ t.tel.engineResets = countReset s.tel.engineResets ∧
       (∀ i : CoreId, (t.core i).active = false) ∧ ∀ c : CtxId, (t.ctx c).run = none) ∧
     (s.rst.eng = .triggered → s.rst.dev = false → s.rst.recovery = true → ∃ t : State, exec .engineResetStart s = .next t ∧
       t.rst.eng = .started ∧ t.rst.history = s.rst.history ∧ t.rst.enterDeadbolt = s.rst.enterDeadbolt ∧ t.grid = { phase := .held } ∧
       t.host.state = .engineReset ∧ ∀ i : CoreId, (t.core i).active = false) ∧
     (s.rst.eng = .started → ∃ t : State, exec .engineResetEdgeClosed s = .next t ∧ t.rst = { s.rst with eng := .edgeClosed } ∧
       (∀ i : CoreId, t.core i = { vectors := (s.core i).vectors, vinstr := (s.core i).vinstr }) ∧
       (∀ a, Mem.byte t.ms.mem a = if coreBase ≤ a ∧ a < coreBase + 384 * 0x200000 then 0 else Mem.byte s.ms.mem a) ∧
       t.keys = s.keys ∧ t.fab = s.fab ∧ t.cmds = s.cmds ∧ t.ctxs = s.ctxs) ∧
     (s.rst.eng = .edgeClosed →
       let free := { s with grid := {}, rst := { s.rst with eng := .idle, recovery := false } }
       (∀ q, s.rst.replaying = some q →
         let t := changeState free .ready
         exec .engineResetDone s = .next (settleNext (settleSuspect (t.setRst { t.rst with replaying := none }) q q.outcome))) ∧
       (s.rst.replaying = none → s.rst.enterDeadbolt = false →
         let t := changeState free (if s.rst.deadbolt then .deadbolt else .ready)
         (s.rst.noReplay = true → exec .engineResetDone s = .next (resetEnded (s.rst.suspects.foldl (fun t q => settleSuspect t q 0) t))) ∧
         (s.rst.noReplay = false → exec .engineResetDone s = .next (settleNext t))) ∧
       (s.rst.replaying = none → s.rst.enterDeadbolt = true → exec .engineResetDone s =
         .next (resetEnded (enterDeadbolt (s.rst.suspects.foldl (fun t q => settleSuspect t q 0) free) fun c =>
           (s.rst.suspects.map fun q => q.run.ref q.ctx).contains c.ref)))) ∧
     (s.rst.eng = .started ∨ s.rst.eng = .edgeClosed → s.rst.devWanted = none →
       exec .engineResetTimeout s = .next { s with rst := { s.rst with devWanted := some 0 } })) ∧
  ((∀ (s : State) (q : Suspect) (l : List Suspect), s.rst.eng = .idle → s.grid.phase = .idle →
     (s.rst.dev = false → s.rst.replaying = none → s.rst.suspects = q :: l → q.aborted = false → replayable q.run = true →
       let t := s.setRst { s.rst with suspects := l, replaying := some q }
       let t := t.setCtx q.ctx { t.ctx q.ctx with run := some (replayRun q.run), fault := none, accFlags := 0, switchedOut := false }
       exec .suspectReplayStart s = .next (loadSection { t with grid := { t.grid with replay := true } } q.ctx)) ∧
     (s.rst.replaying = some q → q.outcome ≠ 0 → exec .suspectReplayEnd s =
       .next (settleNext (settleSuspect (s.setRst { s.rst with replaying := none }) q q.outcome)))) ∧
   (∀ (s : State) (q : Suspect) (n : Nat) (c : Cmd),
     let x := suspectRecord s q n
     (x.flags = q.flags) ∧
     (q.aborted = true → x.status = St.aborted) ∧
     (q.aborted = false → n = 3 ∨ n = 4 → x.status = St.coreProgressTimeout ∧ x.faultRef = s.rst.ref) ∧
     (q.aborted = false → n ≠ 3 → n ≠ 4 → ∀ f, q.firstFault = some f → x.status = f.status ∧ x.detail = f.detail ∧ x.faultRef = f.ref) ∧
     (q.aborted = false → n ≠ 3 → n ≠ 4 → q.firstFault = none → x.status = St.contextReset ∧ x.detail = 0 ∧ x.faultRef = 0) ∧
     (q.aborted = false → s.cmd? (q.run.ref q.ctx) = some c → c.isDone = false →
       (settleSuspect s q n).cmd? (q.run.ref q.ctx) = some { c with phase := .done x })))

/-- Device resets (R450, R451, R534): the start ends every command that waits, closes every context, collective, stream, window and
keyring entry, raises each window's generation, takes the routes from their defaults, and, where no command's binding is to be
marked, leaves the CXL tier's bytes alone; what training finds decides whether it reaches ready, and a failed training is latched; one
that takes too long is not ready and asserts FAULT#.

PEER_NOTICE (R453 to R455): one record, and the peer is marked out of service, or its mark is cleared, by the event. -/
def Obligations.DeviceResets : Prop :=
  (∀ (s : State) (n : Nat) (k : Fin 5) (x : Training),
     (s.rst.devWanted = some n → s.rst.dev = false → ∃ t : State, exec .deviceResetStart s = .next t ∧
       t.rst.dev = true ∧ t.rst.devWanted = none ∧ t.host.state = .deviceReset ∧ t.tel.deviceResets = countReset s.tel.deviceResets ∧
       t.ctxs = [] ∧ t.colls = [] ∧ t.job = none ∧ t.streams = [] ∧ t.engines = [] ∧ t.keys = [] ∧ t.grid = { phase := .held } ∧
       (∀ i : CoreId, t.core i = { vectors := (s.core i).vectors, vinstr := (s.core i).vinstr }) ∧
       ((∀ c ∈ s.cmds, c.bound = false) → ∀ a, cxlBase ≤ a → a < chipBase → Mem.byte t.ms.mem a = Mem.byte s.ms.mem a) ∧
       (t.fab.devId = s.fab.devId ∧ t.fab.routes = s.fab.routeDefaults ∧ t.fab.reqs = []) ∧
       (∀ w, w < 4096 → t.window w = { gen := Tab.get 0 s.fab.genCopy w + 1, service := Tab.get 0 s.fab.genCopy w + 1 }) ∧
       (∀ c : Cmd, s.cmds = [c] → c.phase = .waiting → s.rst.devCmd = none →
         t.cmds = [{ c with phase := .done { status := St.contextReset }, bound := false }])) ∧
     (s.rst.dev = true → s.host.state = .deviceReset →
       (s.rst.failed = true → exec (.deviceResetDone x) s = .next s) ∧
       (s.rst.failed = false → x.rate = none → (trainingFailed s x.failing).rst.failed = true ∧
         exec (.deviceResetDone x) s = .next (trainingFailed s x.failing)) ∧
       (s.rst.failed = false → x.rate = some k → s.fab.cfg.ceiling.toNat < k.val → exec (.deviceResetDone x) s = .next s) ∧
       (s.rst.failed = false → x.rate = some k → k.val ≤ s.fab.cfg.ceiling.toNat → s.rst.enterDeadbolt = false →
         let t := applyTraining s k x
         exec (.deviceResetDone x) s = .next (releaseDevCmd (changeState { t with grid := {}, rst := { t.rst with dev := false } }
           (if s.rst.deadbolt then .deadbolt else .ready)) St.complete)) ∧
       (exec .deviceResetTimeout s = .next (releaseDevCmd (changeState { s with mod := { s.mod with fault := true }, rst := { s.rst with failed := true } } .notReady) St.deviceNotReady)))) ∧
  (∀ (s : State) (r : CmdRef) (c : Cmd), Startable s r 0x0703 c →
     let p := c.payload
     ∃ t : State, exec (.peerNotice r) s = .next (t.finish r {}) ∧ t.bb.total = s.bb.total + 1 ∧ t.bb.seq = s.bb.seq + 1 ∧ t.cmds = s.cmds ∧
       t.fab = { s.fab with marks := t.fab.marks } ∧
       (1 ≤ PN.event p ∧ PN.event p ≤ 3 → ∀ d, d ∈ t.fab.marks ↔ d = PN.peer p ∨ d ∈ s.fab.marks) ∧
       (PN.event p = 4 → ∀ d, d ∈ t.fab.marks ↔ d ≠ PN.peer p ∧ d ∈ s.fab.marks) ∧
       (PN.event p = 0 ∨ 4 < PN.event p → t.fab.marks = s.fab.marks) ∧ t.ms = s.ms ∧ t.ctxs = s.ctxs ∧ t.cores = s.cores)

/-! ### Clocks, power and heat (16) -/

/-- Islands (R459, R469 to R472): a frequency step moves at most 5 MHz toward the target and not during a droop or its wait; a step
of a droop takes 50 MHz off, to no less than 400; a droop ends when both causes have cleared, and after the wait the ramp goes on to
the lowest target that came meanwhile. A supply droop concerns its island, and a limit event every island of a die that draws more
than its limit. No other island changes.

The cap loop (R464 to R467, R469): F_new is the multiple of 5 MHz next below F_T times the power left for the cores over theirs, and a
free value where they draw none (log 27); a period's step raises F_T by at most 50 MHz and never above 1,350, and a duty below 8/8
goes with 400 MHz; the settings of the last completed POWER_SET and the die limit that follows from them take effect for the next
period; the core islands get their new targets. A calibration changes its die's gain by at most a tenth.

Heat and ageing (R462, R463, R473): above 105 degrees a core's limit falls by 50 MHz to no less than 400, below 103 it rises by 5
to the ceiling, between it stays; an ageing measurement never raises a ceiling, and one below 1,100 MHz queues the core's site for a
remap once. -/
def Obligations.PowerAndHeat : Prop :=
  ((∀ (s : State) (i : IslandId),
     let x := s.island i
     let f := islandFreq s i
     let g := islandTarget s i
     (x.drooping = false → x.recovering = false →
       (f < g → exec (.frequencyStep i) s = .next (s.setIsland i { x with freq := some (min g (f + 5)) })) ∧
       (g < f → exec (.frequencyStep i) s = .next (s.setIsland i { x with freq := some (max g (f - 5)) })) ∧
       (f = g → exec (.frequencyStep i) s = .next s)) ∧
     (x.recovering = true → exec (.frequencyStep i) s = .next s) ∧
     (x.drooping = true → exec (.frequencyStep i) s = .next s ∧
       (400 < f → exec (.droopStepDown i) s = .next (s.setIsland i { x with freq := some (max 400 (f - 50)) })) ∧
       (f ≤ 400 → exec (.droopStepDown i) s = .next s) ∧
       (x.limit = false → exec (.droopClear i false) s = .next (s.setIsland i { x with supply := false, recovering := true })) ∧
       (x.supply = false → exec (.droopClear i true) s = .next (s.setIsland i { x with limit := false, recovering := true })) ∧
       (x.supply = true → exec (.droopClear i true) s = .next (s.setIsland i { x with limit := false, recovering := false })) ∧
       (x.limit = true → exec (.droopClear i false) s = .next (s.setIsland i { x with supply := false, recovering := false }))) ∧
     (exec (.droop i .supply) s = .next (s.setIsland i { x with supply := true, recovering := false })) ∧
     (x.recovering = true → exec (.droopRecoveryWaitEnd i) s =
       .next (s.setIsland i { x with recovering := false, held := none, target := x.held.or x.target })) ∧
     (∀ (y : Island) (j : IslandId), (s.setIsland i y).island j = if j = i then y else s.island j)) ∧
   (∀ (s : State) (i : IslandId) (draw : Nat),
     (∀ l, s.power.dieLimit = some l → l < draw → ∃ t : State, exec (.droop i (.limit draw)) s = .next t ∧
       t = s.setPower { s.power with islands := t.power.islands } ∧
       ∀ j : IslandId, t.island j = if islandDie j = islandDie i then { s.island j with limit := true, recovering := false } else s.island j) ∧
     ((∀ l, s.power.dieLimit = some l → draw ≤ l) → exec (.droop i (.limit draw)) s = .next s))) ∧
  ((∀ (s : State) (m : Nat) (w e : Counts), let q : Period := ⟨m, w ++ e⟩
     ∃ t : State, exec (.capLoopPeriod m w e) s = .next t ∧ t.power.cap = s.power.capReady ∧
     t.power.estimated = s.power.estimatedReady ∧ t.power.dieLimit = some ((1020 * s.power.capReady - externalPower s q) / 2)) ∧
   (∀ (s : State) (m : Nat) (w e : Counts),
     let q : Period := ⟨m, w ++ e⟩
     let after := fun (t : State) (new : Int) => retarget (t.setPower { t.power with
       ft := (loopStep s.power new).1
       duty := (loopStep s.power new).2
       cap := s.power.capReady
       estimated := s.power.estimatedReady
       dieLimit := some ((1020 * s.power.capReady - externalPower s q) / 2) })
     exec (.capLoopPeriod m w e) s = .next (match loopFrequency s.power (loopPower s q) (corePower s q) (estimate s q) with
       | some new => after s new
       | none => after (s.fresh 11).2 ((s.fresh 11).1.toNat / 5 * 5 : Nat))) ∧
   (∀ (p : Power) (power core est : Nat), power * core ≠ 0 → ∃ new : Int, loopFrequency p power core est = some new ∧ 5 ∣ new ∧
     let need : Int := p.cap * (if p.estimated then 990 else 980) * est - power * ((est : Int) - core)
     new * (power * core) ≤ p.ft * need ∧ p.ft * need < (new + 5) * (power * core)) ∧
   (∀ (p : Power) (new : Int), p.duty ≤ 8 →
     let n := loopStep p new
     400 ≤ n.1 ∧ n.1 ≤ 1350 ∧ (400 ≤ p.ft → n.1 ≤ p.ft + 50) ∧ 1 ≤ n.2 ∧ n.2 ≤ 8 ∧ (n.2 < 8 → n.1 = 400)) ∧
   (∀ (s : State) (d : Fin 2) (m e : Nat), e ≠ 0 →
     let old := if d = 0 then s.power.gainW else s.power.gainE
     ∃ g : Nat, exec (.gainCalibration d m e) s = .next (s.setPower (if d = 0 then { s.power with gainW := g } else { s.power with gainE := g })) ∧
       old * 9 / 10 ≤ g ∧ g ≤ old * 11 / 10 ∧ (old * 9 / 10 ≤ old * m / e → old * m / e ≤ old * 11 / 10 → g = old * m / e))) ∧
  ((∀ (s : State) (cores : List Int) (w e : Int), cores.length = 384 → ∃ p : Power,
     exec (.thermalRead cores w e) s = .next (retarget (s.setPower p)) ∧ p.dieTempW = w ∧ p.dieTempE = e ∧ p.ceilings = s.power.ceilings ∧
     ∀ c : CoreId,
       let hot := max (cores.getD c.val 0) (if c.val < 192 then w else e)
       let l := thermalLimit (s.setPower p) c
       (16 * 105 < hot → l = min (max 400 (thermalLimit s c - 50)) (ceiling s c)) ∧
       (hot < 16 * 103 → l = min (ceiling s c) (thermalLimit s c + 5)) ∧
       (16 * 103 ≤ hot → hot ≤ 16 * 105 → l = thermalLimit s c)) ∧
   (∀ (s : State) (c : CoreId) (m : Nat),
     let new := (m - 50) / 5 * 5
     let site := siteOf s c
     (ceiling s c ≤ new → exec (.ageingMeasurement c m) s = .next s) ∧
     (new < ceiling s c → ∃ t : State, exec (.ageingMeasurement c m) s = .next t ∧ ceiling t c = new ∧
       (new < 1100 → site ∈ t.power.remapQ ∨ site ∈ s.power.remapPending) ∧
       (1100 ≤ new ∨ site ∈ s.power.remapQ ∨ site ∈ s.power.remapPending → t.power.remapQ = s.power.remapQ) ∧
       t.ms = s.ms ∧ t.cores = s.cores ∧ t.cmds = s.cmds)))

/-! ### Trust (17) -/

/-- Audited commands begin (R496, R497, R499): an installer or maker command that may start queues its BEGIN record, with the
digest of its payload and data, and waits for it.

Audited commands act once their BEGIN is durable, and then queue their END (R300, R447, R449, R463, R464, R478, R482 to R484, R488,
R494, R495): each changes the one setting that it names, and extends the measurement that covers what it changed. STAGE and ACTIVATE
write the flash in a second step: until then the slot is unverified, and the copy of the active-slot record not valid. A firmware
action or fuse field that may not be taken, and DEBUG_UNLOCK under DEBUG_DISABLE, fail their check when they are accepted. -/
def Obligations.AuditedCommands : Prop :=
  (∀ (s : State) (r : CmdRef) (c : Cmd) (host : List Byte), s.cmd? r = some c → c.phase = .waiting → s.mayStart c = true →
     let begins := fun (i : Instr) (h : List Byte) => exec i s = .next ((queueAudit s
       (auditRecord s AK.begin' c.opcode 0 0 s.sec.credId (Config.sha3 (toBytes c.payload 48 ++ h))) (some r)).updCmd r fun c =>
         { c with phase := .begun, data := h })
     (c.opcode = 0x0901 → begins (.powerSet r) []) ∧
     (c.opcode = 0x0902 → begins (.resetLimitsSet r) []) ∧
     (c.opcode = 0x0903 → begins (.linkConfigSet r) []) ∧
     (c.opcode = 0x0904 → begins (.routeDefaultsWrite r) []) ∧
     (c.opcode = 0x0905 → FW.action c.payload = 0 → host.length = FW.length c.payload → begins (.firmwareStage r host) host) ∧
     (c.opcode = 0x0905 → FW.action c.payload = 1 → begins (.firmwareActivate r) []) ∧
     (c.opcode = 0x0905 → FW.action c.payload = 2 → begins (.firmwareCommit r) []) ∧
     (c.opcode = 0x0906 → begins (.deadboltClear r) []) ∧
     (c.opcode = 0x0907 → begins (.remapCommit r) []) ∧
     (c.opcode = 0x0A01 → host.length = FP.length c.payload → begins (.fuseProgram r host) host) ∧
     (c.opcode = 0x0A02 → begins (.debugUnlock r) [])) ∧
  ((∀ (s : State) (r : CmdRef) (c : Cmd), s.cmd? r = some c → c.phase = .cleared →
     let p := c.payload
     let acts := fun (i : Instr) (t : State) => exec i s = .next (endAudit t c {})
     (c.opcode = 0x0901 → acts (.powerSet r)
       (resettle s (s.setPower { s.power with capNext := 1200 + 25 * fld p 0 6, estimatedNext := bit p 8 }))) ∧
     (c.opcode = 0x0902 → acts (.resetLimitsSet r) (resettle s (s.setRst { s.rst with limit := fld p 0 4, windowMin := fld p 16 11 }))) ∧
     (c.opcode = 0x0903 → acts (.linkConfigSet r) (resettle s { s with fab := { s.fab with cfgNext := linkCfg p } })) ∧
     (c.opcode = 0x0904 → acts (.routeDefaultsWrite r)
       (resettle s { s with fab := { s.fab with routeDefaults := writeRoutes s.fab.routeDefaults p } })) ∧
     (∀ b, c.opcode = 0x0905 → FW.action p = 0 → exec (.firmwareStage r b) s =
       .next ((setSlot s (idleSlot s) { image := c.data, staged := false }).setPhase r .running)) ∧
     (c.opcode = 0x0905 → FW.action p = 1 → exec (.firmwareActivate r) s = .next ((openActive s).setPhase r .running)) ∧
     (c.opcode = 0x0905 → FW.action p = 2 →
       let t := setFuse s FU.rollback 0 (raiseTo s.sec.runningSvn (fuse s FU.rollback 0))
       let x := getSlot t (idleSlot t)
       let u := if slotSvn x < s.sec.runningSvn then setSlot t (idleSlot t) { x with invalid := true } else t
       acts (.firmwareCommit r) (extend u 6 (Config.fuseDigest (securityFuses u) s.sec.debugOpen))) ∧
     (c.opcode = 0x0906 →
       (s.rst.devWanted = none → exec (.deadboltClear r) s = .next ({ s with rst := { s.rst with
         deadbolt := false, enterDeadbolt := false, history := [], devWanted := some 4, devCmd := some r } }.setPhase r .running)) ∧
       (s.rst.devWanted.isSome = true → exec (.deadboltClear r) s = .next s)) ∧
     (c.opcode = 0x0907 → acts (.remapCommit r) (commitRemaps s)) ∧
     (∀ b, c.opcode = 0x0A01 →
       let t := setFuse s (FP.field p) (FP.index p) (ofBytes c.data)
       acts (.fuseProgram r b) (extend t 6 (Config.fuseDigest (securityFuses t) s.sec.debugOpen))) ∧
     (c.opcode = 0x0A02 →
       let t := extend s 6 (Config.fuseDigest (securityFuses s) true)
       acts (.debugUnlock r) (t.setSec { t.sec with debugOpen := true }))) ∧
   (∀ (s : State) (r : CmdRef) (c : Cmd), s.cmd? r = some c → c.phase = .running → c.opcode = 0x0905 →
     (∀ b, FW.action c.payload = 0 → exec (.firmwareStage r b) s =
       .next (endAudit (setSlot s (idleSlot s) { image := c.data, staged := (verified s c.data).isSome }) c
         (if (verified s c.data).isSome then {} else { status := St.payloadInvalid, detail := 2 }))) ∧
     (FW.action c.payload = 1 → exec (.firmwareActivate r) s = .next (endAudit (writeActive s (idleSlot s)) c {}))) ∧
   (∀ s t : State, resettle s t =
     if installerSettings t = installerSettings s then t else extend t 5 (Config.installerDigest (installerSettings t))) ∧
   (∀ (s : State) (x : CtxId) (p : BitVec 384),
     let refused := fun (d : Word) => some ({ status := St.payloadInvalid, detail := d } : Record)
     let y := getSlot s (idleSlot s)
     (firmwareBusy s = true → ownCheck s x 0x0905 p = refused 4) ∧
     (firmwareBusy s = false →
       (FW.action p = 1 → y.staged = false ∨ y.invalid = true → ownCheck s x 0x0905 p = refused 3) ∧
       (FW.action p = 2 → s.sec.runningSvn ≤ rollbackCount s → ownCheck s x 0x0905 p = refused 5)) ∧
     (fuseTaken s p = true → ownCheck s x 0x0A01 p = refused 0) ∧
     (fuse s FU.debugDisable 0 ≠ 0 → ownCheck s x 0x0A02 p = some { status := St.roleDenied, detail := 7 })))

/-- Fuses (R477, R478): programming a field never clears a bit of it, sets every bit that is 1 in the value within the field's width,
and touches no other field.

Durable records (R493, R497 to R500): the record written has the next SEQ and the digest of the record before it, takes the slot of
its SEQ, its digest becomes measurement index 7, and nothing else of the log changes. A BEGIN lets its command act and an END
completes it; a grant takes effect then, and at the record of its end the role ends, which that record names. A record that cannot be
made durable leaves log and role alone, is reported in the black box, and refuses its command with DETAIL 6. -/
def Obligations.AuditLogAndFuses : Prop :=
  (∀ (s : State) (f i v : Nat), i < 256 →
     (∀ n, (fuse s f i).testBit n = true → (fuse (setFuse s f i v) f i).testBit n = true) ∧
     (∀ n, (fuse (setFuse s f i v) f i).testBit n = true ↔ (fuse s f i).testBit n = true ∨ (fuseMask f v).testBit n = true) ∧
     (∀ g j, j < 256 → (g ≠ f ∨ j ≠ i) → fuse (setFuse s f i v) g j = fuse s g j)) ∧
  (∀ (s : State) (x : BitVec 2048) (ref : Option CmdRef) (rest : List (BitVec 2048 × Option CmdRef)), s.sec.auditQ = (x, ref) :: rest →
     let n := s.sec.auditNext.toNat
     (∃ t : State, exec (.auditRecordDurable true) s = .next t ∧ t.sec.auditQ = rest ∧ t.sec.auditNext = s.sec.auditNext + 1 ∧
       (∀ i, i ≠ n % 16384 → Tab.get 0 t.sec.auditLog i = Tab.get 0 s.sec.auditLog i) ∧
       (let y := Tab.get 0 t.sec.auditLog (n % 16384)
        fld y 0 64 = n ∧ (0 < n → fld y 832 512 = (Config.sha3 (toBytes (Tab.get 0 s.sec.auditLog ((n - 1) % 16384)) 256)).toNat) ∧
        (n = 0 → fld y 832 512 = 0) ∧ t.meas 7 = Config.sha3 (toBytes y 256) ∧
        (auditKind x ≠ AK.dropped → fld y 64 768 = fld x 64 768) ∧
        (auditKind x = AK.dropped → fld y 136 2 = roleCode s.sec.role ∧ fld y 256 64 = s.sec.credId.toNat ∧
          t.sec.role = .operator ∧ t.sec.credId = 0)) ∧
       (auditKind x ≠ AK.granted → auditKind x ≠ AK.dropped → t.sec.role = s.sec.role) ∧ t.ms = s.ms ∧ t.fab = s.fab ∧
       ∀ (r : CmdRef) (c : Cmd), ref = some r → s.cmd? r = some c →
         (c.phase = .begun → t.cmd? r = some { c with phase := .cleared }) ∧
         (∀ z, c.phase = .ending z → auditKind x ≠ AK.begin' → t.cmd? r = some { c with phase := .done z }) ∧
         (∀ z, c.phase = .ending z → auditKind x = AK.granted → t.sec.role = roleOf (credRole c.data) ∧ t.sec.grantTime = s.time)) ∧
     (∃ t : State, exec (.auditRecordDurable false) s = .next t ∧ t.sec = { s.sec with auditQ := rest } ∧ t.bb.total = s.bb.total + 1 ∧
       ∀ (r : CmdRef) (c : Cmd), ref = some r → s.cmd? r = some c →
         c.phase = .begun ∨ ((∃ z, c.phase = .ending z) ∧ auditKind x ≠ AK.begin') →
         t.cmd? r = some { c with phase := .done { status := St.roleDenied, detail := 6 } }))

/-- Roles (R489 to R493): a challenge sends its record and stands alone; a response that answers it in time with a good credential and
signatures queues the record of its grant, and any other is refused by its first failing reason, the third refusal within 60 s locking
challenges out; either way the challenge is used up; a drop, and a lapse 30 minutes after the grant, queue the record at which the
role ends.

Attestation (R485 to R487, R495): SPDM_MESSAGE sends the response, no longer than the host allows, and gives its length. While debug
is open CHALLENGE and GET_MEASUREMENTS are answered with ERROR Unspecified; a request of another version, for another certificate
slot or not supported is answered with an error too; the response to the two that are signed takes the measurements of the moment, the
certificate chain and the identity key. The codes, and the bytes of a response, are not the manual's (log 12). -/
def Obligations.RolesAndAttestation : Prop :=
  (∀ (s : State) (r : CmdRef) (c : Cmd),
     (Startable s r 0x0801 c → ∃ t : State, exec (.roleChallenge r) s = .next (t.finish r {}) ∧
       t.sec.challenges = s.sec.challenges + 1 ∧ t.cmds = s.cmds ∧ t.sec.role = s.sec.role ∧
       ∃ x, t.sec.challenge = some (x, BitVec.ofNat 2 (fld c.payload 0 2), s.time) ∧ fld x 256 64 = fuse s FU.serial 0 % 2 ^ 64 ∧
         fld x 320 2 = fld c.payload 0 2 ∧ fld x 512 64 = (s.sec.challenges + 1).toNat ∧
         t.hostOut = s.hostOut ++ [HostOut.bytes (BitVec.ofNat 64 (fld c.payload 128 64)) (toBytes x 128)]) ∧
     (∀ b : List Byte, Startable s r 0x0802 c → b.length = 11910 →
       let why := responseReason s (fld c.payload 0 2) b
       ∃ t : State, exec (.roleResponse r b) s = .next t ∧ t.sec.challenge = none ∧ t.sec.role = s.sec.role ∧
         t.sec.auditQ.length = s.sec.auditQ.length + 1 ∧
         (if why = 0 then t.cmd? r = some { c with phase := .ending {}, data := b }
          else t.cmd? r = some { c with phase := .ending { status := St.roleDenied, detail := BitVec.ofNat 32 why } } ∧
           (2 ≤ (s.sec.refusals.filter (within60 s)).length → t.sec.lockout = some s.time))) ∧
     (∀ (l : Dword) (x : CtxId) (p : BitVec 384), s.sec.lockout = some l → within60 s l = true →
       ownCheck s x 0x0801 p = some { status := St.roleDenied, detail := 5 }) ∧
     (∀ (role : Nat) (b : List Byte),
       (s.sec.challenge = none → responseReason s role b = 2) ∧
       (∀ x k t, s.sec.challenge = some (x, k, t) →
         responseReason s role b = if k.toNat ≠ role ∨ within60 s t = false then 2 else if credentialOk s role b = false then 3
           else if signaturesOk x b = false then 4 else 0)) ∧
     (Startable s r 0x0803 c → ∃ x : BitVec 2048, auditKind x = AK.dropped ∧ exec (.roleDrop r) s =
       .next ((s.setSec { s.sec with auditQ := s.sec.auditQ ++ [(x, some r)] }).setPhase r (.ending {}))) ∧
     (s.sec.role ≠ .operator → 1800000000 ≤ (s.time - s.sec.grantTime).toNat → roleRecordWaits s = false →
       ∃ x : BitVec 2048, auditKind x = AK.dropped ∧ exec .roleLapse s = .next (s.setSec { s.sec with auditQ := s.sec.auditQ ++ [(x, none)] })) ∧
     (s.sec.role = .operator ∨ (s.time - s.sec.grantTime).toNat < 1800000000 → exec .roleLapse s = .next s)) ∧
  ((∀ (s : State) (r : CmdRef) (c : Cmd) (q : List Byte), Startable s r 0x0804 c → q.length = fld c.payload 0 32 →
     let a := (spdmAnswer s q).take (fld c.payload 32 32)
     exec (.spdmMessage r q) s =
       .next ({ s with hostOut := s.hostOut ++ [HostOut.bytes (BitVec.ofNat 64 (fld c.payload 192 64)) a] }.finish r { result := BitVec.ofNat 64 a.length })) ∧
   (∀ (s : State) (q : List Byte),
     let signed := SP.code q = SP.challenge ∨ SP.code q = SP.getMeasurements
     let error := fun (n : Byte) (d : Byte) => ([0x13, 0x7F, n, d] : List Byte)
     (signed → s.sec.debugOpen = true → spdmAnswer s q = error 0x05 0) ∧
     (signed → s.sec.debugOpen = false → SP.version q = 0x13 → (SP.code q = SP.challenge → SP.slot q = 0) → spdmAnswer s q =
       Config.spdmSigned q [s.meas 1, s.meas 2, s.meas 3, s.meas 4, s.meas 5, s.meas 6, s.meas 7] Config.certChain
         ((s.sec.idKey.map (·.2)).getD [])) ∧
     (¬signed → SP.code q ≠ SP.getVersion → SP.version q ≠ 0x13 → spdmAnswer s q = error 0x41 0) ∧
     (SP.code q = SP.getCertificate → SP.version q = 0x13 → SP.slot q ≠ 0 → spdmAnswer s q = error 0x01 0) ∧
     (SP.code q = SP.challenge → s.sec.debugOpen = false → SP.version q = 0x13 → SP.slot q ≠ 0 → spdmAnswer s q = error 0x01 0) ∧
     (SP.version q = 0x13 → ¬signed → SP.code q ∉ [SP.getVersion, SP.getCapabilities, SP.negotiateAlgorithms, SP.getDigests, SP.getCertificate] →
       spdmAnswer s q = error 0x07 (BitVec.ofNat 8 (SP.code q))) ∧
     (SP.code q = SP.getVersion ∨ (SP.version q = 0x13 ∧ SP.code q ∈ [SP.getCapabilities, SP.negotiateAlgorithms, SP.getDigests]) →
       spdmAnswer s q = Config.spdmPlain q Config.certChain [0x13, 0x5A52, 0x0001])))

/-! ### Telemetry, the black box, the sideband and the module (16, 18, 19) -/

/-- Reads of records (R501, R513, R518): with an entry that takes the rows, a read writes its records there, 8 or 2 of them a row, and
gives their number; TELEMETRY_READ those from FIRST to the first index not listed, BLACKBOX_READ those that end at FIRST, and with
bit 112 the audit records from FIRST. While the entry waits for a gather or an exchange, the read waits.

The sideband (R519): while the firmware runs each message is answered, with at most 4 records where it reads records, and nothing
else changes; otherwise nothing happens. The bodies of MCTP and SPDM answers are not the manual's (log 12). -/
def Obligations.RecordReads : Prop :=
  (∀ (s t : State) (r : CmdRef) (c : Cmd),
     let p := c.payload
     let k := capture s none (RD.handle p)
     let reads := fun (i : Instr) (n : Nat) (bytes : List Byte) =>
       accessWrite s (some c.ring) k none (RD.row p) ((rowsOf (bytes.length + 1) bytes).map fun x => (x, 0)) = (none, t) →
       exec i s = .next (t.finish r { result := BitVec.ofNat 64 n })
     (capWaits s k = true →
       (Startable s r 0x0601 c → exec (.telemetryRead r) s = .next (s.defer r)) ∧
       (Startable s r 0x0602 c → exec (if RD.audit p then .auditRead r else .blackboxRead r) s = .next (s.defer r))) ∧
     (capWaits s k = false →
     (Startable s r 0x0601 c →
       let l := telRead s (RD.count p) (RD.first p)
       reads (.telemetryRead r) l.length (l.flatMap fun x => toBytes x 64)) ∧
     (Startable s r 0x0602 c → RD.audit p = false →
       let l := bbRead s (RD.first p) (RD.count p)
       reads (.blackboxRead r) l.length (l.flatMap fun x => toBytes x 64)) ∧
     (Startable s r 0x0602 c → RD.audit p = true →
       let l := auditFrom s (RD.first p) (RD.count p)
       reads (.auditRead r) l.length (l.flatMap fun x => toBytes x 256)))) ∧
  (∀ (s : State) (q : List Byte) (first : Word) (n : BitVec 16),
     let answers := fun (i : Instr) (a : List Byte) =>
       (s.mgmtUp = true → s.mod.booted = true → exec i s = .next { s with hostOut := s.hostOut ++ [HostOut.sideband a] }) ∧
       (s.mgmtUp = false ∨ s.mod.booted = false → exec i s = .next s)
     answers (.mctpControl q) (Config.mctpControl q) ∧
     answers (.mctpSpdm q) (spdmAnswer s q) ∧
     answers (.sbTelemetryRead first n) ((telRead s (min 4 n.toNat) first.toNat).flatMap fun x => toBytes x 64) ∧
     answers (.sbBlackboxRead first n) ((bbRead s first.toNat (min 4 n.toNat)).flatMap fun x => toBytes x 64) ∧
     answers (.sbAuditRead first n) ((auditFrom s first.toNat (min 4 n.toNat)).flatMap fun x => toBytes x 256) ∧
     answers (.sbUnsupportedMessage q) (Config.mctpError q))

/-- Sampling and background work (R506, R511, R516): a sample renews each record as the state stands, with the energy added; a freeze
copy that ends puts its span first among the slots and the next freeze that waits begins, once no audit record waits; a wear-levelling
step counts, once no other flash work waits.

The black box (R514, R516): a record appended has the next SEQ, the boot number, the local time, its kind and its context, and is
the newest of the ring, unless the oldest of a full ring is still to be copied, when the new one is lost and counted; a freeze takes
the newest record and pulses ALERT#. -/
def Obligations.BackgroundAndBlackBox : Prop :=
  ((∀ (s : State) (p1 p100 : Word) (e : Dword), s.mgmtUp = true → s.mod.booted = true → ∃ t : State,
     exec (.telemetrySample p1 p100 e) s = .next t ∧ t.tel.energy = s.tel.energy + e ∧
     (let m := Tab.get 0 t.tel.records 0
      fld m 0 16 = 0 ∧ fld m 16 48 = s.time.toNat % 2 ^ 48 ∧ fld m 64 32 = p1.toNat ∧ fld m 96 32 = p100.toNat ∧
      fld m 128 16 = s.power.cap % 2 ^ 16 ∧ fld m 160 64 = (s.tel.energy + e).toNat) ∧
     (∀ b : BankId,
       let x := Tab.get 0 t.tel.records (400 + b.val)
       fld x 0 16 = 400 + b.val ∧ bit x 64 = ((s.bank b.val).power != .awake) ∧ fld x 65 17 = (s.bank b.val).lateWake.toNat ∧
       fld x 82 17 = (s.bank b.val).corrected.toNat) ∧
     (∀ c : CoreId,
       let x := Tab.get 0 t.tel.records (16 + c.val)
       fld x 0 16 = 16 + c.val ∧ fld x 128 64 = (s.core c).vectors.toNat ∧ fld x 192 64 = (s.core c).vinstr.toNat) ∧
     t.ms = s.ms ∧ t.cores = s.cores ∧ t.bb = s.bb ∧ t.fab = s.fab ∧ t.cmds = s.cmds) ∧
   (∀ (s : State) (k : Nat), s.sec.auditQ = [] → s.bb.copying = some k →
     let slots := (spanOf s.bb k :: s.bb.slots).take 8
     (s.bb.waiting = [] → exec .freezeCopyDone s = .next { s with bb := { s.bb with copying := none, slots := slots } }) ∧
     (∀ w l, s.bb.waiting = w :: l → exec .freezeCopyDone s =
       .next { s with bb := { s.bb with copying := some w, waiting := l, slots := slots.take 7 } })) ∧
   (∀ s : State, (s.sec.auditQ ≠ [] ∨ s.bb.copying = none → exec .freezeCopyDone s = .next s) ∧
     (s.mgmtUp = true → s.sec.auditQ = [] → s.bb.copying = none → exec .wearLevelling s = .next { s with bg := { s.bg with wearSteps := s.bg.wearSteps + 1 } }) ∧
     (s.mgmtUp = false ∨ s.sec.auditQ ≠ [] ∨ s.bb.copying.isSome = true → exec .wearLevelling s = .next s))) ∧
  (∀ (s : State) (kind : Nat) (c : Option CtxId) (p : BitVec 384), kind < 256 →
     let t := bbAppend s kind c p
     t.bb.seq = s.bb.seq + 1 ∧ t.bb.total = s.bb.total + 1 ∧ t = { s with bb := t.bb } ∧
     (s.bb.recs.length < 4096 → ∃ x : BitVec 512, t.bb.recs = s.bb.recs ++ [(s.bb.total, x)] ∧ fld x 0 48 = s.bb.seq.toNat ∧
       fld x 48 16 = s.bb.boot.toNat ∧ fld x 64 48 = s.time.toNat % 2 ^ 48 ∧ fld x 112 8 = kind ∧ bit x 123 = c.isSome ∧
       (∀ d, c = some d → fld x 120 3 = d.val) ∧ fld x 128 384 = p.toNat) ∧
     (∀ y l, s.bb.recs = y :: l → 4096 ≤ s.bb.recs.length →
       (bbProtected s.bb y.1 = true → t.bb.recs = s.bb.recs ∧ t.bb.lost = countErr s.bb.lost) ∧
       (bbProtected s.bb y.1 = false → ∃ x, t.bb.recs = l ++ [(s.bb.total, x)] ∧ t.bb.lost = s.bb.lost)) ∧
     (bbFreeze s).mod.alert = true ∧ (s.bb.copying = none → (bbFreeze s).bb.copying = some (s.bb.total - 1)))

/-- PERST# (R21, R300, R448, R517, R523, R524, R533): asserted with the rails up it resets all four domains, keeping what is in flash, fuses and
the expander, and the black box whose boot number rises; deasserted it samples the straps and changes nothing else; without power the pin alone changes.

Boot (R256, R300, R309, R421, R461, R464, R481, R482, R485, R515, R517): the identity key is derived from the seed; a verified image
runs: its stages are measured, stage 1 of a slot that was tried first among them, the boot is recorded and queued for the audit log, and
every window is closed; where both slots fail, the device is not ready and asserts FAULT#. Training then makes it ready, or stops it for
good at a channel that fails, and one that takes too long is not ready. -/
def Obligations.PerstAndBoot : Prop :=
  (∀ (s : State) (sel : Bool) (addr : BitVec 2),
     (s.mod.perst = false → s.mod.powered = true → ∃ t : State, exec .perstAssert s = .next t ∧
       t.mod = { s.mod with perst := true, booted := false, coldBoot := false, fault := false, alert := false } ∧
       t.host = State.reset.host ∧ t.cmds = [] ∧ t.ctxs = [] ∧ t.cores = [] ∧ t.keys = [] ∧ t.engines = [] ∧ t.job = none ∧ t.colls = [] ∧
       t.streams = [] ∧ t.grid = {} ∧ t.fab.devId = none ∧ t.fab.routeDefaults = s.fab.routeDefaults ∧ t.fab.cfg = s.fab.cfgNext ∧
       (∀ a, Mem.byte t.ms.mem a = if cxlBase ≤ a ∧ a < chipBase then Mem.byte s.ms.mem a else 0) ∧
       t.sec.fuses = s.sec.fuses ∧ t.sec.slotA = s.sec.slotA ∧ t.sec.slotB = s.sec.slotB ∧ t.sec.auditLog = s.sec.auditLog ∧
       t.sec.role = .operator ∧ t.sec.debugOpen = false ∧ t.rst = { limit := s.rst.limit, windowMin := s.rst.windowMin, deadbolt := s.rst.deadbolt } ∧
       t.power.cap = s.power.capNext ∧ t.bb.recs = s.bb.recs ∧ t.bb.boot = s.bb.boot + 1 ∧ t.bb.seq = 0 ∧ t.bb.slots = s.bb.slots) ∧
     (s.mod.perst = false → s.mod.powered = false → exec .perstAssert s = .next { s with mod := { s.mod with perst := true, fault := false } }) ∧
     (s.mod.perst = true → exec .perstAssert s = .next s) ∧
     (s.mod.perst = false → exec (.perstDeassert sel addr) s = .next s) ∧
     (s.mod.perst = true → exec (.perstDeassert sel addr) s = .next { s with mod := { s.mod with perst := false, sbSel := sel, sbAddr := addr } })) ∧
  (∀ (s : State) (k : Fin 5) (x : Training),
     (s.mgmtUp = true → s.mod.booted = false → s.host.state = .booting →
       (bootSlot s = none → exec .boot s = .next (setDevState { deriveKey s with mod := { s.mod with fault := true } } .notReady)) ∧
       (∀ b n l, bootSlot s = some (b, n, l) → ∃ t : State, exec .boot s = .next t ∧ t.mod.booted = true ∧ t.mod.alert = true ∧ t.sec.running = some b ∧
         t.sec.runningSvn = n ∧ t.sec.idKey = some (Config.mlDsaKeygen (BitVec.ofNat 256 (fuse s FU.identity 0))) ∧
         t.meas 2 = extended (match if b = activeSlot s.sec then none else firstStage s (getSlot s !b) with
           | some d => extended 0 d
           | none => 0) (l.getD 0 0) ∧
         t.meas 3 = extended 0 (l.getD 1 0) ∧ t.sec.auditQ.length = s.sec.auditQ.length + 1 ∧ t.fab.routes = s.fab.routeDefaults ∧ t.fab.cfg = s.fab.cfgNext ∧
         t.power.cap = s.power.capNext ∧ t.power.ft = 1100 ∧ t.power.duty = 8 ∧ t.bb.seq = s.bb.seq + 1 ∧
         (∀ w, (t.window w).state = .closed) ∧ t.ms = s.ms ∧ t.cores = s.cores ∧ t.host.state = .booting)) ∧
     (awaitsReady s = true →
       (s.rst.failed = true → exec (.powerUpReady x) s = .next s) ∧
       (s.rst.failed = false → x.rate = none → (trainingFailed s x.failing).rst.failed = true ∧
         exec (.powerUpReady x) s = .next (trainingFailed s x.failing)) ∧
       (s.rst.failed = false → x.rate = some k → s.fab.cfg.ceiling.toNat < k.val → exec (.powerUpReady x) s = .next s) ∧
       (s.rst.failed = false → x.rate = some k → k.val ≤ s.fab.cfg.ceiling.toNat →
         exec (.powerUpReady x) s = .next (changeState (applyTraining s k x) (if s.rst.deadbolt then .deadbolt else .ready))) ∧
       exec .powerUpTimeout s = .next (changeState { s with
         mod := { s.mod with fault := true }, rst := { s.rst with dev := true, failed := true } } .notReady)))

/-- The module's power (R474, R521, R524 to R526, R529 to R532): power-up raises the rails unless a latch holds them off; a fall of
MOD_EN, a loss of input, an over-voltage, a thermal trip at 120 degrees and the loss of the standby supply take them off and leave
what is in flash, fuses and the expander; the last two latches stand until their own clearing. -/
def Obligations.ModulePower : Prop :=
  ∀ (s : State) (core : Option CoreId) (temp : Int) (f : ModuleFault),
    let off := fun (t : State) => t.mod.powered = false ∧ t.mod.pwrGood = false ∧ t.mod.booted = false ∧ t.cmds = [] ∧ t.ctxs = [] ∧ t.cores = [] ∧
      t.bb.recs = [] ∧ t.bb.boot = s.bb.boot ∧ t.sec.fuses = s.sec.fuses ∧ t.sec.slotA = s.sec.slotA ∧ t.sec.role = .operator ∧
      t.rst.deadbolt = s.rst.deadbolt ∧ (∀ a, Mem.byte t.ms.mem a = if cxlBase ≤ a ∧ a < chipBase then Mem.byte s.ms.mem a else 0)
    (s.mod.powered = false → s.mod.thermtrip = false → s.mod.faultOv = false → ∃ t : State, exec .powerUp s = .next t ∧
      t.mod = { s.mod with standby := true, modEn := true, powered := true, pwrGood := true, booted := false, coldBoot := true } ∧
      t.bb.boot = s.bb.boot + 1 ∧ t.sec.fuses = s.sec.fuses) ∧
    (s.mod.powered = false → s.mod.thermtrip = true ∨ s.mod.faultOv = true →
      exec .powerUp s = .next { s with mod := { s.mod with standby := true, modEn := true } }) ∧
    (s.mod.powered = true → s.sec.auditQ = [] →
      (∃ t : State, exec .modEnFall s = .next t ∧ off t ∧ t.mod.modEn = false ∧ t.mod.fault = false ∧ t.mod.faultOv = false) ∧
      (∃ t : State, exec .lossOfInput s = .next t ∧ off t ∧ t.mod.fault = false ∧ t.mod.faultOv = s.mod.faultOv) ∧
      (∃ t : State, exec .overVoltage s = .next t ∧ off t ∧ t.mod.faultOv = true) ∧
      (∃ t : State, exec .standbySupplyLoss s = .next t ∧ off t ∧ t.mod.standby = false ∧ t.mod.thermtrip = false ∧ t.mod.faultOv = false)) ∧
    (s.mod.powered = true →
      (16 * 120 ≤ temp → ∃ t : State, exec (.thermtrip core temp) s = .next t ∧ off t ∧ t.mod.thermtrip = true) ∧
      (temp < 16 * 120 → exec (.thermtrip core temp) s = .next s)) ∧
    (s.mod.standby = true → exec (.moduleFailure f) s = .next { s with mod := { s.mod with fault := true } }) ∧
    (exec .alertPulseEnd s = .next { s with mod := { s.mod with alert := false } })

/-! ### Reset and the invariant -/

/-- After reset (R21, R404 to R409, R447, R464, R479, R489): no command waits or is accepted, no context is open, no ring is
enabled, no entry of the keyring is valid, every window is closed, no bank is gated, no role but the operator's is held, the reset limits are
3 within 30 minutes, and the memory system stands in its form. What no rule gives a reset value (log 3, log 4) is not stated. -/
def Obligations.ResetIsCanonical : Prop :=
  let s := State.reset
  s.ms.canonical = true ∧ s.pending = [] ∧ s.cmds = [] ∧ (∀ c : CtxId, (s.ctx c).isOpen = false ∧ (s.ring c).enable = false ∧ (s.ctx c).run = none) ∧
  (∀ i, DE.valid (s.key i) = false) ∧ (∀ w, (s.window w).state = .closed) ∧ (∀ b, (s.bank b).power = .awake) ∧ s.host.cqEnable = false ∧
  s.host.state = .booting ∧ s.host.protoOpen = false ∧ s.sec.role = .operator ∧ s.sec.debugOpen = false ∧ s.rst.limit = 3 ∧ s.rst.windowMin = 30 ∧
  s.rst.deadbolt = false ∧ s.job = none ∧ s.colls = [] ∧ s.power.cap = 2400 ∧ s.power.estimated = false

/-- Every step keeps the memory in its one form: addresses strictly rising, none that reads as zero listed. -/
def Obligations.MemoryStaysCanonical : Prop :=
  ∀ s t : State, Mem.wf s.ms.mem = true → step s = .next t → Mem.wf t.ms.mem = true
end

