-- ==== Sys2Proof/Laws/Fields.lean ====
section
/-!
SUPPORT. Fields of words: what a field reads as after another is written, and what a word made of fields holds.
-/
namespace Sys2Proof.Machine

theorem testBit_toNat_ge {n : Nat} (v : BitVec n) {i : Nat} (h : n ≤ i) : v.toNat.testBit i = false :=
  Nat.testBit_lt_two_pow (Nat.lt_of_lt_of_le v.isLt (Nat.pow_le_pow_right (by omega) h))

/-- Bits of a word with a field replaced. -/
theorem testBit_put {n : Nat} (v : BitVec n) (lo w x i : Nat) : (put v lo w x).toNat.testBit i =
    (decide (i < n) && if lo ≤ i ∧ i < lo + w then x.testBit (i - lo) else v.toNat.testBit i) := by
  simp only [put, BitVec.toNat_ofNat, Nat.testBit_mod_two_pow, Nat.testBit_or, Nat.testBit_and, Nat.testBit_xor, Nat.testBit_shiftLeft,
    Nat.testBit_two_pow_sub_one]
  by_cases hn : i < n
  · by_cases h1 : lo ≤ i
    · by_cases h2 : i < lo + w
      · simp [hn, h1, h2, show i - lo < w by omega]
      · simp [hn, h1, h2, show ¬ i - lo < w by omega]
    · simp [hn, h1]
  · simp [hn]

theorem testBit_fld {n : Nat} (v : BitVec n) (lo w i : Nat) : (fld v lo w).testBit i = (decide (i < w) && v.toNat.testBit (lo + i)) := by
  simp only [fld, Nat.testBit_mod_two_pow, Nat.testBit_shiftRight]

/-- The field that was written. -/
theorem fld_put_same {n : Nat} (v : BitVec n) (lo w x : Nat) (hn : lo + w ≤ n) : fld (put v lo w x) lo w = x % 2 ^ w := by
  apply Nat.eq_of_testBit_eq
  intro i
  rw [testBit_fld, testBit_put, Nat.testBit_mod_two_pow]
  by_cases hi : i < w
  · simp [hi, show lo + i < n by omega]
  · simp [hi]

/-- A field apart from the one that was written. -/
theorem fld_put_apart {n : Nat} (v : BitVec n) (lo w lo' w' x : Nat) (h : lo' + w' ≤ lo ∨ lo + w ≤ lo') :
    fld (put v lo w x) lo' w' = fld v lo' w' := by
  apply Nat.eq_of_testBit_eq
  intro i
  rw [testBit_fld, testBit_put, testBit_fld]
  by_cases hi : i < w'
  · rw [if_neg (by omega)]
    by_cases hn : lo' + i < n
    · simp [hi, hn]
    · simp [hn, testBit_toNat_ge v (Nat.le_of_not_lt hn)]
  · simp [hi]

/-- A bit outside the field that was written. -/
theorem bit_put_apart {n : Nat} (v : BitVec n) (lo w i x : Nat) (h : i < lo ∨ lo + w ≤ i) : bit (put v lo w x) i = bit v i := by
  unfold bit
  rw [testBit_put, if_neg (by omega)]
  by_cases hn : i < n
  · simp [hn]
  · simp [hn, testBit_toNat_ge v (Nat.le_of_not_lt hn)]

/-- A bit that was written. -/
theorem bit_put_same {n : Nat} (v : BitVec n) (i x : Nat) (h : i < n) : bit (put v i 1 x) i = x.testBit 0 := by
  unfold bit
  rw [testBit_put, if_pos (by omega)]
  simp [h]

/-- A field written with what it holds. -/
theorem put_fld {n : Nat} (v : BitVec n) (lo w : Nat) : put v lo w (fld v lo w) = v := by
  apply BitVec.eq_of_toNat_eq
  apply Nat.eq_of_testBit_eq
  intro i
  rw [testBit_put, testBit_fld]
  by_cases hn : i < n
  · by_cases h : lo ≤ i ∧ i < lo + w
    · simp [hn, h, show i - lo < w by omega, show lo + (i - lo) = i by omega]
    · rw [if_neg h]; simp [hn]
  · simp [hn, testBit_toNat_ge v (Nat.le_of_not_lt hn)]

/-- The bits of a word made of fields. -/
theorem testBit_word (n : Nat) (fs : List (Nat × Nat × Nat)) (i : Nat) : (word n fs).toNat.testBit i =
    (decide (i < n) && fs.any fun f => decide (f.1 ≤ i) && decide (i - f.1 < f.2.1) && f.2.2.testBit (i - f.1)) := by
  have key : ∀ (l : List (Nat × Nat × Nat)) (a : Nat), (l.foldl (fun a f => a ||| ((f.2.2 % 2 ^ f.2.1) <<< f.1)) a).testBit i =
      (a.testBit i || l.any fun f => decide (f.1 ≤ i) && decide (i - f.1 < f.2.1) && f.2.2.testBit (i - f.1)) := by
    intro l
    induction l with
    | nil => intro a; simp
    | cons f t ih =>
      intro a
      rw [List.foldl_cons, ih, List.any_cons, Nat.testBit_or, Nat.testBit_shiftLeft, Nat.testBit_mod_two_pow, Bool.or_assoc]
      congr 1
      by_cases h1 : f.1 ≤ i <;> simp [h1]
  unfold word
  rw [BitVec.toNat_ofNat, Nat.testBit_mod_two_pow, key]
  simp

/-- No field of the list meets the w bits at lo. -/
def apart (lo w : Nat) (fs : List (Nat × Nat × Nat)) : Bool := fs.all fun f => decide (f.1 + f.2.1 ≤ lo) || decide (lo + w ≤ f.1)

/-- A field of a word made of fields that do not meet it. -/
theorem fld_word (n : Nat) (fs : List (Nat × Nat × Nat)) {lo w v : Nat} (k : Nat) (hk : fs[k]? = some (lo, w, v))
    (ha : apart lo w (fs.eraseIdx k) = true) (hn : lo + w ≤ n) : fld (word n fs) lo w = v % 2 ^ w := by
  apply Nat.eq_of_testBit_eq
  intro i
  rw [testBit_fld, testBit_word, Nat.testBit_mod_two_pow]
  by_cases hi : i < w
  · simp only [hi, decide_true, Bool.true_and, show lo + i < n by omega]
    have hany : ∀ (l : List (Nat × Nat × Nat)), apart lo w l = true →
        (l.any fun f => decide (f.1 ≤ lo + i) && decide (lo + i - f.1 < f.2.1) && f.2.2.testBit (lo + i - f.1)) = false := by
      intro l hl
      rw [List.any_eq_false]
      intro f hf
      have := List.all_eq_true.1 hl f hf
      simp only [Bool.or_eq_true, decide_eq_true_eq] at this
      by_cases h1 : f.1 ≤ lo + i
      · simp [h1, show ¬ lo + i - f.1 < f.2.1 by omega]
      · simp [h1]
    induction fs generalizing k with
    | nil => simp at hk
    | cons f t ih =>
      cases k with
      | zero =>
        simp only [List.getElem?_cons_zero, Option.some.injEq] at hk
        subst hk
        simp only [List.eraseIdx_cons_zero] at ha
        simp [List.any_cons, hany t ha, hi]
      | succ k =>
        simp only [List.getElem?_cons_succ] at hk
        simp only [List.eraseIdx_cons_succ, apart, List.all_cons, Bool.and_eq_true] at ha
        rw [List.any_cons, ih k hk ha.2]
        have := hany [f] (by simp [apart, ha.1])
        simp only [List.any_cons, List.any_nil, Bool.or_false] at this
        simp [this]
  · simp [hi]

/-- A field that no field of the word meets reads zero. -/
theorem fld_word_none (n : Nat) (fs : List (Nat × Nat × Nat)) (lo w : Nat) (ha : apart lo w fs = true) : fld (word n fs) lo w = 0 := by
  apply Nat.eq_of_testBit_eq
  intro i
  rw [testBit_fld, testBit_word, Nat.zero_testBit]
  by_cases hi : i < w
  · have : (fs.any fun f => decide (f.1 ≤ lo + i) && decide (lo + i - f.1 < f.2.1) && f.2.2.testBit (lo + i - f.1)) = false := by
      rw [List.any_eq_false]
      intro f hf
      have := List.all_eq_true.1 ha f hf
      simp only [Bool.or_eq_true, decide_eq_true_eq] at this
      by_cases h1 : f.1 ≤ lo + i
      · simp [h1, show ¬ lo + i - f.1 < f.2.1 by omega]
      · simp [h1]
    simp [this]
  · simp [hi]

/-- A bit is a field of one bit. -/
theorem bit_eq_fld {n : Nat} (v : BitVec n) (i : Nat) : bit v i = decide (fld v i 1 = 1) := by
  unfold bit fld
  rw [Nat.testBit_eq_decide_div_mod_eq, Nat.shiftRight_eq_div_pow, Nat.pow_one]

end Sys2Proof.Machine
end

