-- ==== Sys2Proof/Laws/Tab.lean ====
section
/-!
SUPPORT. Sparse tables: reading after writing, writing twice, and the one form that every operation keeps.
The reading laws hold of every list, well formed or not.
-/
namespace Sys2Proof.Tab
variable {α : Type}

@[simp] theorem get_nil (d : α) (i : Nat) : get d [] i = d := rfl

theorem get_erase (d : α) (t : Tab α) (i j : Nat) : get d (erase t i) j = if j = i then d else get d t j := by
  induction t with
  | nil => simp [erase]
  | cons p t ih =>
    obtain ⟨k, v⟩ := p
    simp only [erase] at ih ⊢
    by_cases hk : k = i
    · subst hk
      simp only [List.filter_cons, bne_self_eq_false, Bool.false_eq_true, if_false, ih, get]
      split <;> rfl
    · simp only [List.filter_cons, bne_iff_ne, ne_eq, hk, not_false_eq_true, if_true, get, ih]
      split
      · rename_i h; subst h; simp [hk]
      · rfl

theorem get_place (d : α) (t : Tab α) (i : Nat) (x : α) (j : Nat) (h : get d t i = d ∨ j ≠ i) (ht : ∀ p ∈ t, p.1 ≠ i) :
    get d (place t i x) j = if j = i then x else get d t j := by
  induction t with
  | nil => simp [place, get]
  | cons p t ih =>
    obtain ⟨k, v⟩ := p
    have hk : k ≠ i := ht (k, v) (by simp)
    simp only [place]
    split
    · simp only [get]
    · have ih' := ih (by
        rcases h with h | h
        · left; simpa [get, Ne.symm hk] using h
        · right; exact h) (fun p hp => ht p (by simp [hp]))
      simp only [get, ih']
      split
      · rename_i hj; subst hj; simp [hk]
      · rfl

theorem mem_erase {t : Tab α} {i : Nat} {p : Nat × α} : p ∈ erase t i ↔ p ∈ t ∧ p.1 ≠ i := by
  simp [erase, List.mem_filter]

theorem get_set [DecidableEq α] (d : α) (t : Tab α) (i : Nat) (x : α) (j : Nat) :
    get d (set d t i x) j = if j = i then x else get d t j := by
  unfold set
  split
  · rename_i h; subst h; exact get_erase x t i j
  · rw [get_place d (erase t i) i x j (Or.inl (by simp [get_erase])) (fun p hp => (mem_erase.1 hp).2)]
    split
    · rfl
    · rename_i h; simp [get_erase, h]

@[simp] theorem get_set_same [DecidableEq α] (d : α) (t : Tab α) (i : Nat) (x : α) : get d (set d t i x) i = x := by
  simp [get_set]

theorem get_set_ne [DecidableEq α] (d : α) (t : Tab α) {i j : Nat} (x : α) (h : j ≠ i) :
    get d (set d t i x) j = get d t j := by
  simp [get_set, h]

theorem erase_place (t : Tab α) (i : Nat) (x : α) : erase (place t i x) i = erase t i := by
  induction t with
  | nil => simp [place, erase]
  | cons p t ih =>
    obtain ⟨k, v⟩ := p
    simp only [place]
    split
    · simp [erase]
    · simp only [erase, List.filter_cons] at ih ⊢
      split <;> simp [ih]

theorem erase_erase (t : Tab α) (i : Nat) : erase (erase t i) i = erase t i := by
  simp [erase, List.filter_filter]

@[simp] theorem set_set [DecidableEq α] (d : α) (t : Tab α) (i : Nat) (x y : α) : set d (set d t i x) i y = set d t i y := by
  have h : erase (set d t i x) i = erase t i := by
    unfold set
    split
    · exact erase_erase t i
    · rw [erase_place, erase_erase]
  simp only [set] at h ⊢
  rw [h]

/-! ### The one form -/

theorem wfFrom_mono [DecidableEq α] {d : α} {t : Tab α} {a b : Nat} (h : a ≤ b) (ht : wfFrom d b t = true) : wfFrom d a t = true := by
  cases t with
  | nil => rfl
  | cons p t =>
    obtain ⟨k, v⟩ := p
    simp only [wfFrom, Bool.and_eq_true, decide_eq_true_eq] at ht ⊢
    exact ⟨⟨by omega, ht.1.2⟩, ht.2⟩

theorem wfFrom_filter [DecidableEq α] {d : α} (f : Nat × α → Bool) {t : Tab α} {a : Nat} (ht : wfFrom d a t = true) :
    wfFrom d a (t.filter f) = true := by
  induction t generalizing a with
  | nil => rfl
  | cons p t ih =>
    obtain ⟨k, v⟩ := p
    simp only [wfFrom, Bool.and_eq_true, decide_eq_true_eq] at ht
    simp only [List.filter_cons]
    split
    · simp only [wfFrom, Bool.and_eq_true, decide_eq_true_eq]
      exact ⟨ht.1, ih ht.2⟩
    · exact wfFrom_mono (by omega) (ih ht.2)

theorem wfFrom_place [DecidableEq α] {d : α} {t : Tab α} {a i : Nat} {x : α} (hx : x ≠ d) (hi : a ≤ i)
    (hn : ∀ p ∈ t, p.1 ≠ i) (ht : wfFrom d a t = true) : wfFrom d a (place t i x) = true := by
  induction t generalizing a with
  | nil => simp [place, wfFrom, hi, hx]
  | cons p t ih =>
    obtain ⟨k, v⟩ := p
    have hk : k ≠ i := hn (k, v) (by simp)
    simp only [wfFrom, Bool.and_eq_true, decide_eq_true_eq] at ht
    simp only [place]
    split
    · simp only [wfFrom, Bool.and_eq_true, decide_eq_true_eq]
      exact ⟨⟨hi, hx⟩, ⟨by omega, ht.1.2⟩, ht.2⟩
    · simp only [wfFrom, Bool.and_eq_true, decide_eq_true_eq]
      exact ⟨ht.1, ih (by omega) (fun p hp => hn p (by simp [hp])) ht.2⟩

/-- Setting a key keeps the form. -/
theorem wf_set [DecidableEq α] {d : α} {t : Tab α} (i : Nat) (x : α) (ht : wf d t = true) : wf d (set d t i x) = true := by
  unfold set
  split
  · exact wfFrom_filter _ ht
  · rename_i hx
    exact wfFrom_place hx (Nat.zero_le _) (fun p hp => (mem_erase.1 hp).2) (wfFrom_filter _ ht)

theorem wf_filter [DecidableEq α] {d : α} {t : Tab α} (f : Nat × α → Bool) (ht : wf d t = true) : wf d (t.filter f) = true :=
  wfFrom_filter f ht

/-- A table filled key by key. -/
theorem wf_foldl_set [DecidableEq α] {d : α} {β : Type} (l : List β) (k : β → Nat) (f : Tab α → β → α) (t : Tab α)
    (ht : wf d t = true) : wf d (l.foldl (fun t b => set d t (k b) (f t b)) t) = true := by
  induction l generalizing t with
  | nil => exact ht
  | cons b l ih => exact ih _ (wf_set _ _ ht)

theorem get_eq_default_of_wfFrom [DecidableEq α] {d : α} {t : Tab α} {a i : Nat} (h : i < a) (ht : wfFrom d a t = true) :
    get d t i = d := by
  induction t generalizing a with
  | nil => rfl
  | cons p t ih =>
    obtain ⟨k, v⟩ := p
    simp only [wfFrom, Bool.and_eq_true, decide_eq_true_eq] at ht
    have : i ≠ k := by omega
    simp only [get, this, if_false]
    exact ih (a := k + 1) (by omega) ht.2

/-- Two tables in the one form that read alike are one table. -/
theorem ext_of_wf [DecidableEq α] {d : α} {t u : Tab α} {a b : Nat} (ht : wfFrom d a t = true) (hu : wfFrom d b u = true)
    (h : ∀ i, get d t i = get d u i) : t = u := by
  induction t generalizing u a b with
  | nil =>
    cases u with
    | nil => rfl
    | cons q u =>
      obtain ⟨k, v⟩ := q
      simp only [wfFrom, Bool.and_eq_true, decide_eq_true_eq] at hu
      have := h k
      simp [get] at this
      exact absurd this.symm hu.1.2
  | cons p t ih =>
    obtain ⟨k, v⟩ := p
    simp only [wfFrom, Bool.and_eq_true, decide_eq_true_eq] at ht
    cases u with
    | nil =>
      have := h k
      simp [get] at this
      exact absurd this ht.1.2
    | cons q u =>
      obtain ⟨l, w⟩ := q
      simp only [wfFrom, Bool.and_eq_true, decide_eq_true_eq] at hu
      have hkl : k = l := by
        rcases Nat.lt_trichotomy k l with hlt | heq | hgt
        · have := h k
          have hne : k ≠ l := by omega
          simp only [get, if_true, hne, if_false] at this
          rw [get_eq_default_of_wfFrom (a := l + 1) (by omega) hu.2] at this
          exact absurd this ht.1.2
        · exact heq
        · have := h l
          have hne : l ≠ k := by omega
          simp only [get, if_true, hne, if_false] at this
          rw [get_eq_default_of_wfFrom (a := k + 1) (by omega) ht.2] at this
          exact absurd this.symm hu.1.2
      subst hkl
      have hv : v = w := by
        have := h k
        simpa [get] using this
      subst hv
      have : t = u := ih ht.2 hu.2 (fun i => by
        by_cases hi : i = k
        · subst hi
          rw [get_eq_default_of_wfFrom (a := i + 1) (by omega) ht.2, get_eq_default_of_wfFrom (a := i + 1) (by omega) hu.2]
        · have := h i
          simpa [get, hi] using this)
      rw [this]

end Sys2Proof.Tab
end

