-- ==== Sys2Proof/Laws/Memory.lean ====
section
/-!
SUPPORT. Memory: every operation keeps the one form, a row written reads back, and every other byte stays.
-/
namespace Sys2Proof.Machine.Mem

theorem wf_nil : wf [] = true := rfl

theorem wf_clear {m : Memory} (a n : Nat) (h : wf m = true) : wf (clear m a n) = true := Tab.wf_filter _ h

theorem wf_filter {m : Memory} (f : Host.Cell → Bool) (h : wf m = true) : wf (m.filter f) = true := Tab.wf_filter f h

/-- Two lists in the form, the second past the first, joined. -/
theorem wfFrom_append {t u : Memory} {a b : Nat} (ht : Tab.wfFrom (0 : Byte) a t = true) (hu : Tab.wfFrom (0 : Byte) b u = true)
    (hab : a ≤ b) (hb : ∀ p ∈ t, p.1 < b) : Tab.wfFrom (0 : Byte) a (t ++ u) = true := by
  induction t generalizing a with
  | nil => exact Tab.wfFrom_mono hab hu
  | cons p t ih =>
    obtain ⟨k, v⟩ := p
    simp only [Tab.wfFrom, Bool.and_eq_true, decide_eq_true_eq] at ht
    have hk : k < b := hb (k, v) (by simp)
    simp only [List.cons_append, Tab.wfFrom, Bool.and_eq_true, decide_eq_true_eq]
    exact ⟨ht.1, ih ht.2 (by omega) (fun p hp => hb p (by simp [hp]))⟩

/-- A filter that keeps only keys at or past a bound starts the form there. -/
theorem wfFrom_filter_ge {m : Memory} {a b : Nat} (h : Tab.wfFrom (0 : Byte) a m = true) :
    Tab.wfFrom (0 : Byte) b (m.filter fun c => decide (b ≤ c.1)) = true := by
  induction m generalizing a with
  | nil => rfl
  | cons p t ih =>
    obtain ⟨k, v⟩ := p
    simp only [Tab.wfFrom, Bool.and_eq_true, decide_eq_true_eq] at h
    simp only [List.filter_cons]
    split
    · rename_i hk
      simp only [decide_eq_true_eq] at hk
      simp only [Tab.wfFrom, Bool.and_eq_true, decide_eq_true_eq]
      exact ⟨⟨hk, h.1.2⟩, Tab.wfFrom_filter _ h.2⟩
    · exact ih h.2

/-- The listed cells of rising offsets are in the form. -/
theorem wfFrom_cells_range (a : Nat) (g : Nat → Byte) (n k : Nat) :
    Tab.wfFrom (0 : Byte) (a + k) ((List.range' k n).filterMap fun i => if g i = 0 then none else some (a + i, g i)) = true := by
  induction n generalizing k with
  | zero => rfl
  | succ n ih =>
    simp only [List.range'_succ, List.filterMap_cons]
    by_cases h : g k = 0
    · simp only [h, if_true]
      exact Tab.wfFrom_mono (by omega) (ih (k + 1))
    · simp only [h, if_false, Tab.wfFrom, Bool.and_eq_true, decide_eq_true_eq]
      exact ⟨⟨Nat.le_refl _, h⟩, Tab.wfFrom_mono (by omega) (ih (k + 1))⟩

/-- The byte of a row that `cells` lists at an offset. -/
def rowByte (r : Row) (i : Nat) : Byte := BitVec.ofNat 8 (r.toNat >>> (8 * i))

theorem cells_eq (a : Nat) (r : Row) :
    cells a r = (List.range' 0 512).filterMap fun i => if rowByte r i = 0 then none else some (a + i, rowByte r i) := by
  rw [← List.range_eq_range']; rfl

theorem wfFrom_cells (a : Nat) (r : Row) : Tab.wfFrom (0 : Byte) a (cells a r) = true := by
  rw [cells_eq]; exact wfFrom_cells_range a (rowByte r) 512 0

theorem lt_of_mem_cells {a : Nat} {r : Row} {p : Host.Cell} (h : p ∈ cells a r) : a ≤ p.1 ∧ p.1 < a + 512 := by
  rw [cells_eq] at h
  simp only [List.mem_filterMap, List.mem_range'_1] at h
  obtain ⟨i, hi, hp⟩ := h
  split at hp
  · cases hp
  · cases hp; simp; omega

/-- Writing a row keeps the form. -/
theorem wf_setRow {m : Memory} (a : Nat) (r : Row) (h : wf m = true) : wf (setRow m a r) = true := by
  unfold wf Tab.wf setRow at *
  rw [List.append_assoc]
  refine wfFrom_append (b := a) (Tab.wfFrom_filter _ h) ?_ (Nat.zero_le _) ?_
  · exact wfFrom_append (b := a + 512) (wfFrom_cells a r) (wfFrom_filter_ge h) (by omega) (fun p hp => (lt_of_mem_cells hp).2)
  · intro p hp
    simpa using (List.mem_filter.1 hp).2

/-! ### Reading after writing -/

theorem get_append (t u : Memory) (i : Nat) :
    Tab.get (0 : Byte) (t ++ u) i = if i ∈ t.map (·.1) then Tab.get 0 t i else Tab.get 0 u i := by
  induction t with
  | nil => simp
  | cons p t ih =>
    obtain ⟨k, v⟩ := p
    simp only [List.cons_append, Tab.get, List.map_cons, List.mem_cons, ih]
    by_cases h : i = k
    · simp [h]
    · simp [h]

theorem get_filter (m : Memory) (f : Nat → Bool) (i : Nat) :
    Tab.get (0 : Byte) (m.filter fun c => f c.1) i = if f i then Tab.get 0 m i else 0 := by
  induction m with
  | nil => simp
  | cons p t ih =>
    obtain ⟨k, v⟩ := p
    simp only [List.filter_cons]
    by_cases hk : f k
    · simp only [hk, if_true, Tab.get, ih]
      by_cases h : i = k
      · subst h; simp [hk]
      · simp [h]
    · simp only [hk, Bool.false_eq_true, if_false, ih, Tab.get]
      by_cases h : i = k
      · subst h; simp [hk]
      · simp [h]

theorem get_cells_range (a : Nat) (g : Nat → Byte) (n k j : Nat) (hj : k ≤ j) (hn : j < k + n) :
    Tab.get (0 : Byte) ((List.range' k n).filterMap fun i => if g i = 0 then none else some (a + i, g i)) (a + j) = g j := by
  induction n generalizing k with
  | zero => omega
  | succ n ih =>
    simp only [List.range'_succ, List.filterMap_cons]
    by_cases hjk : j = k
    · subst hjk
      by_cases h : g j = 0
      · simp only [h, if_true]
        exact Tab.get_eq_default_of_wfFrom (a := a + (j + 1)) (by omega) (wfFrom_cells_range a g n (j + 1))
      · simp only [h, if_false, Tab.get, if_true]
    · have ih' := ih (k + 1) (by omega) (by omega)
      by_cases h : g k = 0
      · simp only [h, if_true]; exact ih'
      · have hne : ¬ a + j = a + k := by omega
        simp only [h, if_false, Tab.get, hne]; exact ih'

/-- A byte of the row written. -/
theorem byte_cells (a : Nat) (r : Row) (j : Nat) (hj : j < 512) : Tab.get (0 : Byte) (cells a r) (a + j) = rowByte r j := by
  rw [cells_eq]; exact get_cells_range a (rowByte r) 512 0 j (Nat.zero_le _) (by omega)

/-- What a byte reads as after a row is written (R71, R72): the row's byte inside the row, and as before outside it. -/
theorem byte_setRow (m : Memory) (a : Nat) (r : Row) (x : Nat) :
    byte (setRow m a r) x = if a ≤ x ∧ x < a + 512 then rowByte r (x - a) else byte m x := by
  unfold byte setRow
  rw [List.append_assoc, get_append, get_append, get_filter m (fun k => decide (k < a)),
    get_filter m (fun k => decide (a + 512 ≤ k))]
  have hlow : x ∈ (m.filter fun c => decide (c.1 < a)).map (·.1) → x < a := by
    intro h
    obtain ⟨p, hp, rfl⟩ := List.mem_map.1 h
    simpa using (List.mem_filter.1 hp).2
  by_cases hx : a ≤ x ∧ x < a + 512
  · have h1 : ¬ x ∈ (m.filter fun c => decide (c.1 < a)).map (·.1) := fun h => by have := hlow h; omega
    rw [if_neg h1, if_pos hx]
    have hb := byte_cells a r (x - a) (by omega)
    rw [show a + (x - a) = x by omega] at hb
    by_cases h2 : x ∈ (cells a r).map (·.1)
    · rw [if_pos h2, hb]
    · rw [if_neg h2]
      have hz : Tab.get (0 : Byte) (cells a r) x = 0 := by
        have : ∀ t : Memory, x ∉ t.map (·.1) → Tab.get (0 : Byte) t x = 0 := by
          intro t
          induction t with
          | nil => simp
          | cons p t ih =>
            obtain ⟨k, v⟩ := p
            intro h
            simp only [List.map_cons, List.mem_cons, not_or] at h
            simp only [Tab.get, h.1, if_false]; exact ih h.2
        exact this _ h2
      rw [hz] at hb
      simp [← hb, show ¬ a + 512 ≤ x by omega]
  · rw [if_neg hx]
    have h2 : ¬ x ∈ (cells a r).map (·.1) := by
      intro h
      obtain ⟨p, hp, rfl⟩ := List.mem_map.1 h
      exact hx (lt_of_mem_cells hp)
    rw [if_neg h2]
    by_cases hlt : x < a
    · simp only [hlt, decide_true, if_true, show ¬ a + 512 ≤ x by omega, decide_false, Bool.false_eq_true, if_false]
      split
      · rfl
      · rename_i h
        have : ∀ t : Memory, x ∉ (t.filter fun c => decide (c.1 < a)).map (·.1) → Tab.get (0 : Byte) t x = 0 := by
          intro t
          induction t with
          | nil => simp
          | cons p t ih =>
            obtain ⟨k, v⟩ := p
            intro h
            simp only [List.filter_cons] at h
            by_cases hk : k < a
            · simp only [hk, decide_true, if_true, List.map_cons, List.mem_cons, not_or] at h
              simp only [Tab.get, h.1, if_false]; exact ih h.2
            · simp only [hk, decide_false, Bool.false_eq_true, if_false] at h
              have : x ≠ k := by omega
              simp only [Tab.get, this, if_false]; exact ih h
        exact (this m h).symm
    · have h1 : ¬ x ∈ (m.filter fun c => decide (c.1 < a)).map (·.1) := fun h => hlt (hlow h)
      rw [if_neg h1]
      simp [show a + 512 ≤ x by omega]

/-- A byte of a range cleared reads zero, any other as before. -/
theorem byte_clear (m : Memory) (a n x : Nat) : byte (clear m a n) x = if a ≤ x ∧ x < a + n then 0 else byte m x := by
  unfold byte clear
  rw [get_filter m (fun k => !(decide (a ≤ k) && decide (k < a + n)))]
  by_cases h1 : a ≤ x <;> by_cases h2 : x < a + n <;> simp [h1, h2]

/-! ### Rows -/

/-- The fold of `row` over a list of cells. -/
def gather (a : Nat) (m : Memory) (acc : Nat) : Nat :=
  m.foldl (fun acc c => if a ≤ c.1 ∧ c.1 < a + 512 then acc ||| (c.2.toNat <<< (8 * (c.1 - a))) else acc) acc

theorem row_eq (m : Memory) (a : Nat) : row m a = BitVec.ofNat 4096 (gather a m 0) := rfl

theorem gather_append (a : Nat) (t u : Memory) (acc : Nat) : gather a (t ++ u) acc = gather a u (gather a t acc) := by
  simp [gather, List.foldl_append]

/-- Cells outside the row take no part. -/
theorem gather_out {a : Nat} {m : Memory} (acc : Nat) (h : ∀ p ∈ m, ¬ (a ≤ p.1 ∧ p.1 < a + 512)) : gather a m acc = acc := by
  induction m generalizing acc with
  | nil => rfl
  | cons p t ih =>
    have := ih acc (fun p hp => h p (by simp [hp]))
    simp only [gather, List.foldl_cons] at this ⊢
    rw [if_neg (h p (by simp))]; exact this

/-- Leaving out cells that are not in the row. -/
theorem gather_filter {a : Nat} {m : Memory} {f : Host.Cell → Bool} (acc : Nat)
    (h : ∀ p ∈ m, a ≤ p.1 ∧ p.1 < a + 512 → f p = true) : gather a (m.filter f) acc = gather a m acc := by
  induction m generalizing acc with
  | nil => rfl
  | cons p t ih =>
    have ih' := fun acc => ih acc (fun p hp => h p (by simp [hp]))
    simp only [List.filter_cons]
    by_cases hf : f p = true
    · simp only [hf, if_true]
      simp only [gather, List.foldl_cons] at ih' ⊢
      exact ih' _
    · have hp : ¬ (a ≤ p.1 ∧ p.1 < a + 512) := fun hin => hf (h p (by simp) hin)
      simp only [hf, Bool.false_eq_true, if_false]
      rw [ih']
      simp only [gather, List.foldl_cons, if_neg hp]

/-- The bytes of a number from offset k on, ORed together. -/
theorem gather_cells (a : Nat) (v : Nat) (n k acc : Nat) (hn : k + n ≤ 512) (hv : v < 2 ^ (8 * (k + n))) :
    gather a ((List.range' k n).filterMap fun i =>
      if BitVec.ofNat 8 (v >>> (8 * i)) = (0 : Byte) then none else some (a + i, BitVec.ofNat 8 (v >>> (8 * i)))) acc =
      acc ||| (v >>> (8 * k)) <<< (8 * k) := by
  induction n generalizing k acc with
  | zero =>
    have : v >>> (8 * k) = 0 := by
      rw [Nat.shiftRight_eq_div_pow]; exact Nat.div_eq_of_lt (by simpa using hv)
    simp [gather, this]
  | succ n ih =>
    have ih' := fun acc => ih (k + 1) acc (by omega) (by rwa [show k + 1 + n = k + (n + 1) by omega])
    have hsplit : (v >>> (8 * k)) <<< (8 * k) =
        (v >>> (8 * k) % 256) <<< (8 * k) ||| (v >>> (8 * (k + 1))) <<< (8 * (k + 1)) := by
      apply Nat.eq_of_testBit_eq
      intro i
      simp only [Nat.testBit_or, Nat.testBit_shiftLeft, Nat.testBit_shiftRight, show (256 : Nat) = 2 ^ 8 from rfl, Nat.testBit_mod_two_pow]
      by_cases h1 : 8 * k ≤ i
      · by_cases h2 : 8 * (k + 1) ≤ i
        · have h3 : ¬ i - 8 * k < 8 := by omega
          have e1 : 8 * k + (i - 8 * k) = i := by omega
          have e2 : 8 * (k + 1) + (i - 8 * (k + 1)) = i := by omega
          simp [h1, h2, h3, e1, e2]
        · have h3 : i - 8 * k < 8 := by omega
          simp [h1, h2, h3]
      · have h2 : ¬ 8 * (k + 1) ≤ i := by omega
        simp [h1, h2]
    simp only [List.range'_succ, List.filterMap_cons]
    by_cases h : BitVec.ofNat 8 (v >>> (8 * k)) = (0 : Byte)
    · simp only [h, if_true]
      have hz : v >>> (8 * k) % 256 = 0 := by
        have := congrArg BitVec.toNat h; simpa using this
      rw [ih', hsplit, hz]; simp
    · simp only [h, if_false]
      rw [show gather a ((a + k, BitVec.ofNat 8 (v >>> (8 * k))) :: (List.range' (k + 1) n).filterMap fun i =>
          if BitVec.ofNat 8 (v >>> (8 * i)) = (0 : Byte) then none else some (a + i, BitVec.ofNat 8 (v >>> (8 * i)))) acc =
        gather a ((List.range' (k + 1) n).filterMap fun i =>
          if BitVec.ofNat 8 (v >>> (8 * i)) = (0 : Byte) then none else some (a + i, BitVec.ofNat 8 (v >>> (8 * i))))
          (acc ||| (v >>> (8 * k) % 256) <<< (8 * k)) by
        simp only [gather, List.foldl_cons]
        rw [if_pos ⟨by omega, by omega⟩, show a + k - a = k by omega, BitVec.toNat_ofNat]]
      rw [ih', hsplit, Nat.or_assoc]

/-- A row written reads back. -/
@[simp] theorem row_setRow_same (m : Memory) (a : Nat) (r : Row) : row (setRow m a r) a = r := by
  rw [row_eq, setRow, gather_append, gather_append]
  rw [gather_out (m := m.filter fun c => decide (c.1 < a)) 0 (by
    intro p hp; have := (List.mem_filter.1 hp).2; simp at this; omega)]
  rw [gather_out (m := m.filter fun c => decide (a + 512 ≤ c.1)) _ (by
    intro p hp; have := (List.mem_filter.1 hp).2; simp at this; omega)]
  have := gather_cells a r.toNat 512 0 0 (by omega) (by have := r.isLt; simpa using this)
  rw [← List.range_eq_range'] at this
  rw [show cells a r = (List.range 512).filterMap (fun i =>
      if BitVec.ofNat 8 (r.toNat >>> (8 * i)) = (0 : Byte) then none else some (a + i, BitVec.ofNat 8 (r.toNat >>> (8 * i)))) from rfl, this]
  simp

/-- A write leaves every row apart from its own as it was. -/
theorem row_setRow_ne (m : Memory) {a b : Nat} (r : Row) (h : b + 512 ≤ a ∨ a + 512 ≤ b) : row (setRow m a r) b = row m b := by
  rw [row_eq, row_eq, setRow, gather_append, gather_append]
  rw [gather_out (m := cells a r) _ (by intro p hp; have := lt_of_mem_cells hp; omega)]
  rcases h with h | h
  · rw [gather_out (m := m.filter fun c => decide (a + 512 ≤ c.1)) _ (by
      intro p hp; have := (List.mem_filter.1 hp).2; simp at this; omega)]
    rw [gather_filter 0 (by intro p _ hp; simp; omega)]
  · rw [gather_out (m := m.filter fun c => decide (c.1 < a)) 0 (by
      intro p hp; have := (List.mem_filter.1 hp).2; simp at this; omega)]
    rw [gather_filter 0 (by intro p _ hp; simp; omega)]

theorem testBit_gather (a : Nat) (m : Memory) (acc j : Nat) : (gather a m acc).testBit j =
    (acc.testBit j || m.any fun c => decide (a ≤ c.1) && decide (c.1 < a + 512) && decide (8 * (c.1 - a) ≤ j) &&
      c.2.toNat.testBit (j - 8 * (c.1 - a))) := by
  induction m generalizing acc with
  | nil => simp [gather]
  | cons c t ih =>
    simp only [gather, List.foldl_cons] at ih ⊢
    rw [ih, List.any_cons]
    by_cases h1 : a ≤ c.1
    · by_cases h2 : c.1 < a + 512
      · simp [h1, h2, Nat.testBit_or, Nat.testBit_shiftLeft, Bool.or_assoc]
      · simp [h2]
    · simp [h1]

/-- A byte of a row is the byte at its address, of a memory in its form. -/
theorem rowByte_row {m : Memory} (hm : wf m = true) (a i : Nat) (hi : i < 512) : rowByte (row m a) i = byte m (a + i) := by
  have hc : ∀ (t : Memory) (n : Nat), Tab.wfFrom 0 n t = true → ∀ k, k < 8 →
      (t.any fun c => decide (a ≤ c.1) && decide (c.1 < a + 512) && decide (8 * (c.1 - a) ≤ 8 * i + k) &&
        c.2.toNat.testBit (8 * i + k - 8 * (c.1 - a))) = (Tab.get 0 t (a + i)).toNat.testBit k := by
    intro t
    induction t with
    | nil => intro n _ k _; simp
    | cons c t ih =>
      obtain ⟨x, v⟩ := c
      intro n ht k hk
      have ht' : Tab.wfFrom 0 (x + 1) t = true := by
        simp only [Tab.wfFrom, Bool.and_eq_true] at ht; exact ht.2
      have ih' := ih (x + 1) ht' k hk
      rw [List.any_cons, ih']
      by_cases hx : a + i = x
      · subst hx
        simp only [Tab.get, if_true]
        have hz : Tab.get (0 : Byte) t (a + i) = 0 := Tab.get_eq_default_of_wfFrom (a := a + i + 1) (by omega) ht'
        rw [hz]
        simp [hi, show a + i - a = i by omega, show 8 * i + k - 8 * i = k by omega]
      · simp only [Tab.get, if_neg hx]
        have hfar : (decide (a ≤ x) && decide (x < a + 512) && decide (8 * (x - a) ≤ 8 * i + k) &&
            v.toNat.testBit (8 * i + k - 8 * (x - a))) = false := by
          by_cases h1 : a ≤ x
          · by_cases h2 : 8 * (x - a) ≤ 8 * i + k
            · have h3 : 8 ≤ 8 * i + k - 8 * (x - a) := by omega
              have : v.toNat.testBit (8 * i + k - 8 * (x - a)) = false :=
                Nat.testBit_lt_two_pow (Nat.lt_of_lt_of_le v.isLt (Nat.pow_le_pow_right (by omega) h3))
              simp [this]
            · simp [h2]
          · simp [h1]
        rw [hfar, Bool.false_or]
  apply BitVec.eq_of_toNat_eq
  apply Nat.eq_of_testBit_eq
  intro k
  by_cases hk : k < 8
  · simp only [rowByte, BitVec.toNat_ofNat, Nat.testBit_mod_two_pow, Nat.testBit_shiftRight, hk, decide_true, Bool.true_and, row_eq,
      show 8 * i + k < 4096 by omega, testBit_gather]
    rw [Nat.zero_testBit, Bool.false_or]
    exact hc m 0 hm k hk
  · have e : ∀ b : Byte, b.toNat.testBit k = false := fun b =>
      Nat.testBit_lt_two_pow (Nat.lt_of_lt_of_le b.isLt (Nat.pow_le_pow_right (by omega) (Nat.le_of_not_lt hk)))
    rw [e, e]

/-- A word of a row that was written into it. -/
@[simp] theorem rowWord_setWord_same (r : Row) (w : Nat) (x : Word) (hw : w < 128) : rowWord (setWord r w x) w = x := by
  apply BitVec.eq_of_toNat_eq
  have := fld_put_same (n := 4096) r (32 * w) 32 x.toNat (by omega)
  rw [show rowWord (setWord r w x) w = BitVec.ofNat 32 ((put r (32 * w) 32 x.toNat).toNat >>> (32 * w)) from rfl, BitVec.toNat_ofNat]
  rw [Nat.mod_eq_of_lt x.isLt] at this
  exact this

/-- A byte outside the word that was written. -/
theorem rowByte_setWord_ne (r : Row) (w i : Nat) (x : Word) (h : i < 4 * w ∨ 4 * w + 4 ≤ i) : rowByte (setWord r w x) i = rowByte r i := by
  have := fld_put_apart (n := 4096) r (32 * w) 32 (8 * i) 8 x.toNat (by omega)
  apply BitVec.eq_of_toNat_eq
  simpa [rowByte, fld, setWord] using this

end Sys2Proof.Machine.Mem
end

