-- ==== Sys2Proof/Laws/State.lean ====
section
/-!
SUPPORT. The state's setters: what each changes, and that it changes nothing else.
-/
namespace Sys2Proof.Machine
variable (s : State)

/-! ### setCore changes cores alone -/

@[simp] theorem State.setCore_pending (c : CoreId) (x : Core) : (s.setCore c x).pending = s.pending := rfl
@[simp] theorem State.setCore_free (c : CoreId) (x : Core) : (s.setCore c x).free = s.free := rfl
@[simp] theorem State.setCore_time (c : CoreId) (x : Core) : (s.setCore c x).time = s.time := rfl
@[simp] theorem State.setCore_mod (c : CoreId) (x : Core) : (s.setCore c x).mod = s.mod := rfl
@[simp] theorem State.setCore_host (c : CoreId) (x : Core) : (s.setCore c x).host = s.host := rfl
@[simp] theorem State.setCore_cmds (c : CoreId) (x : Core) : (s.setCore c x).cmds = s.cmds := rfl
@[simp] theorem State.setCore_hostOut (c : CoreId) (x : Core) : (s.setCore c x).hostOut = s.hostOut := rfl
@[simp] theorem State.setCore_ctxs (c : CoreId) (x : Core) : (s.setCore c x).ctxs = s.ctxs := rfl
@[simp] theorem State.setCore_grid (c : CoreId) (x : Core) : (s.setCore c x).grid = s.grid := rfl
@[simp] theorem State.setCore_ms (c : CoreId) (x : Core) : (s.setCore c x).ms = s.ms := rfl
@[simp] theorem State.setCore_keys (c : CoreId) (x : Core) : (s.setCore c x).keys = s.keys := rfl
@[simp] theorem State.setCore_held (c : CoreId) (x : Core) : (s.setCore c x).held = s.held := rfl
@[simp] theorem State.setCore_engines (c : CoreId) (x : Core) : (s.setCore c x).engines = s.engines := rfl
@[simp] theorem State.setCore_fab (c : CoreId) (x : Core) : (s.setCore c x).fab = s.fab := rfl
@[simp] theorem State.setCore_colls (c : CoreId) (x : Core) : (s.setCore c x).colls = s.colls := rfl
@[simp] theorem State.setCore_job (c : CoreId) (x : Core) : (s.setCore c x).job = s.job := rfl
@[simp] theorem State.setCore_arrivals (c : CoreId) (x : Core) : (s.setCore c x).arrivals = s.arrivals := rfl
@[simp] theorem State.setCore_streams (c : CoreId) (x : Core) : (s.setCore c x).streams = s.streams := rfl
@[simp] theorem State.setCore_power (c : CoreId) (x : Core) : (s.setCore c x).power = s.power := rfl
@[simp] theorem State.setCore_sec (c : CoreId) (x : Core) : (s.setCore c x).sec = s.sec := rfl
@[simp] theorem State.setCore_bb (c : CoreId) (x : Core) : (s.setCore c x).bb = s.bb := rfl
@[simp] theorem State.setCore_tel (c : CoreId) (x : Core) : (s.setCore c x).tel = s.tel := rfl
@[simp] theorem State.setCore_bg (c : CoreId) (x : Core) : (s.setCore c x).bg = s.bg := rfl
@[simp] theorem State.setCore_rst (c : CoreId) (x : Core) : (s.setCore c x).rst = s.rst := rfl

/-! ### setCtx changes ctxs alone -/

@[simp] theorem State.setCtx_pending (c : CtxId) (x : Context) : (s.setCtx c x).pending = s.pending := rfl
@[simp] theorem State.setCtx_free (c : CtxId) (x : Context) : (s.setCtx c x).free = s.free := rfl
@[simp] theorem State.setCtx_time (c : CtxId) (x : Context) : (s.setCtx c x).time = s.time := rfl
@[simp] theorem State.setCtx_mod (c : CtxId) (x : Context) : (s.setCtx c x).mod = s.mod := rfl
@[simp] theorem State.setCtx_host (c : CtxId) (x : Context) : (s.setCtx c x).host = s.host := rfl
@[simp] theorem State.setCtx_cmds (c : CtxId) (x : Context) : (s.setCtx c x).cmds = s.cmds := rfl
@[simp] theorem State.setCtx_hostOut (c : CtxId) (x : Context) : (s.setCtx c x).hostOut = s.hostOut := rfl
@[simp] theorem State.setCtx_grid (c : CtxId) (x : Context) : (s.setCtx c x).grid = s.grid := rfl
@[simp] theorem State.setCtx_cores (c : CtxId) (x : Context) : (s.setCtx c x).cores = s.cores := rfl
@[simp] theorem State.setCtx_ms (c : CtxId) (x : Context) : (s.setCtx c x).ms = s.ms := rfl
@[simp] theorem State.setCtx_keys (c : CtxId) (x : Context) : (s.setCtx c x).keys = s.keys := rfl
@[simp] theorem State.setCtx_held (c : CtxId) (x : Context) : (s.setCtx c x).held = s.held := rfl
@[simp] theorem State.setCtx_engines (c : CtxId) (x : Context) : (s.setCtx c x).engines = s.engines := rfl
@[simp] theorem State.setCtx_fab (c : CtxId) (x : Context) : (s.setCtx c x).fab = s.fab := rfl
@[simp] theorem State.setCtx_colls (c : CtxId) (x : Context) : (s.setCtx c x).colls = s.colls := rfl
@[simp] theorem State.setCtx_job (c : CtxId) (x : Context) : (s.setCtx c x).job = s.job := rfl
@[simp] theorem State.setCtx_arrivals (c : CtxId) (x : Context) : (s.setCtx c x).arrivals = s.arrivals := rfl
@[simp] theorem State.setCtx_streams (c : CtxId) (x : Context) : (s.setCtx c x).streams = s.streams := rfl
@[simp] theorem State.setCtx_power (c : CtxId) (x : Context) : (s.setCtx c x).power = s.power := rfl
@[simp] theorem State.setCtx_sec (c : CtxId) (x : Context) : (s.setCtx c x).sec = s.sec := rfl
@[simp] theorem State.setCtx_bb (c : CtxId) (x : Context) : (s.setCtx c x).bb = s.bb := rfl
@[simp] theorem State.setCtx_tel (c : CtxId) (x : Context) : (s.setCtx c x).tel = s.tel := rfl
@[simp] theorem State.setCtx_bg (c : CtxId) (x : Context) : (s.setCtx c x).bg = s.bg := rfl
@[simp] theorem State.setCtx_rst (c : CtxId) (x : Context) : (s.setCtx c x).rst = s.rst := rfl

/-! ### setKey changes keys alone -/

@[simp] theorem State.setKey_pending (i : Nat) (x : BitVec 256) : (s.setKey i x).pending = s.pending := rfl
@[simp] theorem State.setKey_free (i : Nat) (x : BitVec 256) : (s.setKey i x).free = s.free := rfl
@[simp] theorem State.setKey_time (i : Nat) (x : BitVec 256) : (s.setKey i x).time = s.time := rfl
@[simp] theorem State.setKey_mod (i : Nat) (x : BitVec 256) : (s.setKey i x).mod = s.mod := rfl
@[simp] theorem State.setKey_host (i : Nat) (x : BitVec 256) : (s.setKey i x).host = s.host := rfl
@[simp] theorem State.setKey_cmds (i : Nat) (x : BitVec 256) : (s.setKey i x).cmds = s.cmds := rfl
@[simp] theorem State.setKey_hostOut (i : Nat) (x : BitVec 256) : (s.setKey i x).hostOut = s.hostOut := rfl
@[simp] theorem State.setKey_ctxs (i : Nat) (x : BitVec 256) : (s.setKey i x).ctxs = s.ctxs := rfl
@[simp] theorem State.setKey_grid (i : Nat) (x : BitVec 256) : (s.setKey i x).grid = s.grid := rfl
@[simp] theorem State.setKey_cores (i : Nat) (x : BitVec 256) : (s.setKey i x).cores = s.cores := rfl
@[simp] theorem State.setKey_ms (i : Nat) (x : BitVec 256) : (s.setKey i x).ms = s.ms := rfl
@[simp] theorem State.setKey_held (i : Nat) (x : BitVec 256) : (s.setKey i x).held = s.held := rfl
@[simp] theorem State.setKey_engines (i : Nat) (x : BitVec 256) : (s.setKey i x).engines = s.engines := rfl
@[simp] theorem State.setKey_fab (i : Nat) (x : BitVec 256) : (s.setKey i x).fab = s.fab := rfl
@[simp] theorem State.setKey_colls (i : Nat) (x : BitVec 256) : (s.setKey i x).colls = s.colls := rfl
@[simp] theorem State.setKey_job (i : Nat) (x : BitVec 256) : (s.setKey i x).job = s.job := rfl
@[simp] theorem State.setKey_arrivals (i : Nat) (x : BitVec 256) : (s.setKey i x).arrivals = s.arrivals := rfl
@[simp] theorem State.setKey_streams (i : Nat) (x : BitVec 256) : (s.setKey i x).streams = s.streams := rfl
@[simp] theorem State.setKey_power (i : Nat) (x : BitVec 256) : (s.setKey i x).power = s.power := rfl
@[simp] theorem State.setKey_sec (i : Nat) (x : BitVec 256) : (s.setKey i x).sec = s.sec := rfl
@[simp] theorem State.setKey_bb (i : Nat) (x : BitVec 256) : (s.setKey i x).bb = s.bb := rfl
@[simp] theorem State.setKey_tel (i : Nat) (x : BitVec 256) : (s.setKey i x).tel = s.tel := rfl
@[simp] theorem State.setKey_bg (i : Nat) (x : BitVec 256) : (s.setKey i x).bg = s.bg := rfl
@[simp] theorem State.setKey_rst (i : Nat) (x : BitVec 256) : (s.setKey i x).rst = s.rst := rfl

/-! ### setEngine changes engines alone -/

@[simp] theorem State.setEngine_pending (e : Nat) (x : Engine) : (s.setEngine e x).pending = s.pending := rfl
@[simp] theorem State.setEngine_free (e : Nat) (x : Engine) : (s.setEngine e x).free = s.free := rfl
@[simp] theorem State.setEngine_time (e : Nat) (x : Engine) : (s.setEngine e x).time = s.time := rfl
@[simp] theorem State.setEngine_mod (e : Nat) (x : Engine) : (s.setEngine e x).mod = s.mod := rfl
@[simp] theorem State.setEngine_host (e : Nat) (x : Engine) : (s.setEngine e x).host = s.host := rfl
@[simp] theorem State.setEngine_cmds (e : Nat) (x : Engine) : (s.setEngine e x).cmds = s.cmds := rfl
@[simp] theorem State.setEngine_hostOut (e : Nat) (x : Engine) : (s.setEngine e x).hostOut = s.hostOut := rfl
@[simp] theorem State.setEngine_ctxs (e : Nat) (x : Engine) : (s.setEngine e x).ctxs = s.ctxs := rfl
@[simp] theorem State.setEngine_grid (e : Nat) (x : Engine) : (s.setEngine e x).grid = s.grid := rfl
@[simp] theorem State.setEngine_cores (e : Nat) (x : Engine) : (s.setEngine e x).cores = s.cores := rfl
@[simp] theorem State.setEngine_ms (e : Nat) (x : Engine) : (s.setEngine e x).ms = s.ms := rfl
@[simp] theorem State.setEngine_keys (e : Nat) (x : Engine) : (s.setEngine e x).keys = s.keys := rfl
@[simp] theorem State.setEngine_held (e : Nat) (x : Engine) : (s.setEngine e x).held = s.held := rfl
@[simp] theorem State.setEngine_fab (e : Nat) (x : Engine) : (s.setEngine e x).fab = s.fab := rfl
@[simp] theorem State.setEngine_colls (e : Nat) (x : Engine) : (s.setEngine e x).colls = s.colls := rfl
@[simp] theorem State.setEngine_job (e : Nat) (x : Engine) : (s.setEngine e x).job = s.job := rfl
@[simp] theorem State.setEngine_arrivals (e : Nat) (x : Engine) : (s.setEngine e x).arrivals = s.arrivals := rfl
@[simp] theorem State.setEngine_streams (e : Nat) (x : Engine) : (s.setEngine e x).streams = s.streams := rfl
@[simp] theorem State.setEngine_power (e : Nat) (x : Engine) : (s.setEngine e x).power = s.power := rfl
@[simp] theorem State.setEngine_sec (e : Nat) (x : Engine) : (s.setEngine e x).sec = s.sec := rfl
@[simp] theorem State.setEngine_bb (e : Nat) (x : Engine) : (s.setEngine e x).bb = s.bb := rfl
@[simp] theorem State.setEngine_tel (e : Nat) (x : Engine) : (s.setEngine e x).tel = s.tel := rfl
@[simp] theorem State.setEngine_bg (e : Nat) (x : Engine) : (s.setEngine e x).bg = s.bg := rfl
@[simp] theorem State.setEngine_rst (e : Nat) (x : Engine) : (s.setEngine e x).rst = s.rst := rfl

/-! ### setStream changes streams alone -/

@[simp] theorem State.setStream_pending (n : Nat) (x : Stream) : (s.setStream n x).pending = s.pending := rfl
@[simp] theorem State.setStream_free (n : Nat) (x : Stream) : (s.setStream n x).free = s.free := rfl
@[simp] theorem State.setStream_time (n : Nat) (x : Stream) : (s.setStream n x).time = s.time := rfl
@[simp] theorem State.setStream_mod (n : Nat) (x : Stream) : (s.setStream n x).mod = s.mod := rfl
@[simp] theorem State.setStream_host (n : Nat) (x : Stream) : (s.setStream n x).host = s.host := rfl
@[simp] theorem State.setStream_cmds (n : Nat) (x : Stream) : (s.setStream n x).cmds = s.cmds := rfl
@[simp] theorem State.setStream_hostOut (n : Nat) (x : Stream) : (s.setStream n x).hostOut = s.hostOut := rfl
@[simp] theorem State.setStream_ctxs (n : Nat) (x : Stream) : (s.setStream n x).ctxs = s.ctxs := rfl
@[simp] theorem State.setStream_grid (n : Nat) (x : Stream) : (s.setStream n x).grid = s.grid := rfl
@[simp] theorem State.setStream_cores (n : Nat) (x : Stream) : (s.setStream n x).cores = s.cores := rfl
@[simp] theorem State.setStream_ms (n : Nat) (x : Stream) : (s.setStream n x).ms = s.ms := rfl
@[simp] theorem State.setStream_keys (n : Nat) (x : Stream) : (s.setStream n x).keys = s.keys := rfl
@[simp] theorem State.setStream_held (n : Nat) (x : Stream) : (s.setStream n x).held = s.held := rfl
@[simp] theorem State.setStream_engines (n : Nat) (x : Stream) : (s.setStream n x).engines = s.engines := rfl
@[simp] theorem State.setStream_fab (n : Nat) (x : Stream) : (s.setStream n x).fab = s.fab := rfl
@[simp] theorem State.setStream_colls (n : Nat) (x : Stream) : (s.setStream n x).colls = s.colls := rfl
@[simp] theorem State.setStream_job (n : Nat) (x : Stream) : (s.setStream n x).job = s.job := rfl
@[simp] theorem State.setStream_arrivals (n : Nat) (x : Stream) : (s.setStream n x).arrivals = s.arrivals := rfl
@[simp] theorem State.setStream_power (n : Nat) (x : Stream) : (s.setStream n x).power = s.power := rfl
@[simp] theorem State.setStream_sec (n : Nat) (x : Stream) : (s.setStream n x).sec = s.sec := rfl
@[simp] theorem State.setStream_bb (n : Nat) (x : Stream) : (s.setStream n x).bb = s.bb := rfl
@[simp] theorem State.setStream_tel (n : Nat) (x : Stream) : (s.setStream n x).tel = s.tel := rfl
@[simp] theorem State.setStream_bg (n : Nat) (x : Stream) : (s.setStream n x).bg = s.bg := rfl
@[simp] theorem State.setStream_rst (n : Nat) (x : Stream) : (s.setStream n x).rst = s.rst := rfl

/-! ### setColl changes colls alone -/

@[simp] theorem State.setColl_pending (i : Nat) (x : Collective) : (s.setColl i x).pending = s.pending := rfl
@[simp] theorem State.setColl_free (i : Nat) (x : Collective) : (s.setColl i x).free = s.free := rfl
@[simp] theorem State.setColl_time (i : Nat) (x : Collective) : (s.setColl i x).time = s.time := rfl
@[simp] theorem State.setColl_mod (i : Nat) (x : Collective) : (s.setColl i x).mod = s.mod := rfl
@[simp] theorem State.setColl_host (i : Nat) (x : Collective) : (s.setColl i x).host = s.host := rfl
@[simp] theorem State.setColl_cmds (i : Nat) (x : Collective) : (s.setColl i x).cmds = s.cmds := rfl
@[simp] theorem State.setColl_hostOut (i : Nat) (x : Collective) : (s.setColl i x).hostOut = s.hostOut := rfl
@[simp] theorem State.setColl_ctxs (i : Nat) (x : Collective) : (s.setColl i x).ctxs = s.ctxs := rfl
@[simp] theorem State.setColl_grid (i : Nat) (x : Collective) : (s.setColl i x).grid = s.grid := rfl
@[simp] theorem State.setColl_cores (i : Nat) (x : Collective) : (s.setColl i x).cores = s.cores := rfl
@[simp] theorem State.setColl_ms (i : Nat) (x : Collective) : (s.setColl i x).ms = s.ms := rfl
@[simp] theorem State.setColl_keys (i : Nat) (x : Collective) : (s.setColl i x).keys = s.keys := rfl
@[simp] theorem State.setColl_held (i : Nat) (x : Collective) : (s.setColl i x).held = s.held := rfl
@[simp] theorem State.setColl_engines (i : Nat) (x : Collective) : (s.setColl i x).engines = s.engines := rfl
@[simp] theorem State.setColl_fab (i : Nat) (x : Collective) : (s.setColl i x).fab = s.fab := rfl
@[simp] theorem State.setColl_job (i : Nat) (x : Collective) : (s.setColl i x).job = s.job := rfl
@[simp] theorem State.setColl_arrivals (i : Nat) (x : Collective) : (s.setColl i x).arrivals = s.arrivals := rfl
@[simp] theorem State.setColl_streams (i : Nat) (x : Collective) : (s.setColl i x).streams = s.streams := rfl
@[simp] theorem State.setColl_power (i : Nat) (x : Collective) : (s.setColl i x).power = s.power := rfl
@[simp] theorem State.setColl_sec (i : Nat) (x : Collective) : (s.setColl i x).sec = s.sec := rfl
@[simp] theorem State.setColl_bb (i : Nat) (x : Collective) : (s.setColl i x).bb = s.bb := rfl
@[simp] theorem State.setColl_tel (i : Nat) (x : Collective) : (s.setColl i x).tel = s.tel := rfl
@[simp] theorem State.setColl_bg (i : Nat) (x : Collective) : (s.setColl i x).bg = s.bg := rfl
@[simp] theorem State.setColl_rst (i : Nat) (x : Collective) : (s.setColl i x).rst = s.rst := rfl

/-! ### setRing changes host alone -/

@[simp] theorem State.setRing_pending (c : CtxId) (x : Ring) : (s.setRing c x).pending = s.pending := rfl
@[simp] theorem State.setRing_free (c : CtxId) (x : Ring) : (s.setRing c x).free = s.free := rfl
@[simp] theorem State.setRing_time (c : CtxId) (x : Ring) : (s.setRing c x).time = s.time := rfl
@[simp] theorem State.setRing_mod (c : CtxId) (x : Ring) : (s.setRing c x).mod = s.mod := rfl
@[simp] theorem State.setRing_cmds (c : CtxId) (x : Ring) : (s.setRing c x).cmds = s.cmds := rfl
@[simp] theorem State.setRing_hostOut (c : CtxId) (x : Ring) : (s.setRing c x).hostOut = s.hostOut := rfl
@[simp] theorem State.setRing_ctxs (c : CtxId) (x : Ring) : (s.setRing c x).ctxs = s.ctxs := rfl
@[simp] theorem State.setRing_grid (c : CtxId) (x : Ring) : (s.setRing c x).grid = s.grid := rfl
@[simp] theorem State.setRing_cores (c : CtxId) (x : Ring) : (s.setRing c x).cores = s.cores := rfl
@[simp] theorem State.setRing_ms (c : CtxId) (x : Ring) : (s.setRing c x).ms = s.ms := rfl
@[simp] theorem State.setRing_keys (c : CtxId) (x : Ring) : (s.setRing c x).keys = s.keys := rfl
@[simp] theorem State.setRing_held (c : CtxId) (x : Ring) : (s.setRing c x).held = s.held := rfl
@[simp] theorem State.setRing_engines (c : CtxId) (x : Ring) : (s.setRing c x).engines = s.engines := rfl
@[simp] theorem State.setRing_fab (c : CtxId) (x : Ring) : (s.setRing c x).fab = s.fab := rfl
@[simp] theorem State.setRing_colls (c : CtxId) (x : Ring) : (s.setRing c x).colls = s.colls := rfl
@[simp] theorem State.setRing_job (c : CtxId) (x : Ring) : (s.setRing c x).job = s.job := rfl
@[simp] theorem State.setRing_arrivals (c : CtxId) (x : Ring) : (s.setRing c x).arrivals = s.arrivals := rfl
@[simp] theorem State.setRing_streams (c : CtxId) (x : Ring) : (s.setRing c x).streams = s.streams := rfl
@[simp] theorem State.setRing_power (c : CtxId) (x : Ring) : (s.setRing c x).power = s.power := rfl
@[simp] theorem State.setRing_sec (c : CtxId) (x : Ring) : (s.setRing c x).sec = s.sec := rfl
@[simp] theorem State.setRing_bb (c : CtxId) (x : Ring) : (s.setRing c x).bb = s.bb := rfl
@[simp] theorem State.setRing_tel (c : CtxId) (x : Ring) : (s.setRing c x).tel = s.tel := rfl
@[simp] theorem State.setRing_bg (c : CtxId) (x : Ring) : (s.setRing c x).bg = s.bg := rfl
@[simp] theorem State.setRing_rst (c : CtxId) (x : Ring) : (s.setRing c x).rst = s.rst := rfl

/-! ### setHost changes host alone -/

@[simp] theorem State.setHost_pending (x : HostIf) : (s.setHost x).pending = s.pending := rfl
@[simp] theorem State.setHost_free (x : HostIf) : (s.setHost x).free = s.free := rfl
@[simp] theorem State.setHost_time (x : HostIf) : (s.setHost x).time = s.time := rfl
@[simp] theorem State.setHost_mod (x : HostIf) : (s.setHost x).mod = s.mod := rfl
@[simp] theorem State.setHost_cmds (x : HostIf) : (s.setHost x).cmds = s.cmds := rfl
@[simp] theorem State.setHost_hostOut (x : HostIf) : (s.setHost x).hostOut = s.hostOut := rfl
@[simp] theorem State.setHost_ctxs (x : HostIf) : (s.setHost x).ctxs = s.ctxs := rfl
@[simp] theorem State.setHost_grid (x : HostIf) : (s.setHost x).grid = s.grid := rfl
@[simp] theorem State.setHost_cores (x : HostIf) : (s.setHost x).cores = s.cores := rfl
@[simp] theorem State.setHost_ms (x : HostIf) : (s.setHost x).ms = s.ms := rfl
@[simp] theorem State.setHost_keys (x : HostIf) : (s.setHost x).keys = s.keys := rfl
@[simp] theorem State.setHost_held (x : HostIf) : (s.setHost x).held = s.held := rfl
@[simp] theorem State.setHost_engines (x : HostIf) : (s.setHost x).engines = s.engines := rfl
@[simp] theorem State.setHost_fab (x : HostIf) : (s.setHost x).fab = s.fab := rfl
@[simp] theorem State.setHost_colls (x : HostIf) : (s.setHost x).colls = s.colls := rfl
@[simp] theorem State.setHost_job (x : HostIf) : (s.setHost x).job = s.job := rfl
@[simp] theorem State.setHost_arrivals (x : HostIf) : (s.setHost x).arrivals = s.arrivals := rfl
@[simp] theorem State.setHost_streams (x : HostIf) : (s.setHost x).streams = s.streams := rfl
@[simp] theorem State.setHost_power (x : HostIf) : (s.setHost x).power = s.power := rfl
@[simp] theorem State.setHost_sec (x : HostIf) : (s.setHost x).sec = s.sec := rfl
@[simp] theorem State.setHost_bb (x : HostIf) : (s.setHost x).bb = s.bb := rfl
@[simp] theorem State.setHost_tel (x : HostIf) : (s.setHost x).tel = s.tel := rfl
@[simp] theorem State.setHost_bg (x : HostIf) : (s.setHost x).bg = s.bg := rfl
@[simp] theorem State.setHost_rst (x : HostIf) : (s.setHost x).rst = s.rst := rfl

/-! ### setWindow changes fab alone -/

@[simp] theorem State.setWindow_pending (w : Nat) (x : Window) : (s.setWindow w x).pending = s.pending := rfl
@[simp] theorem State.setWindow_free (w : Nat) (x : Window) : (s.setWindow w x).free = s.free := rfl
@[simp] theorem State.setWindow_time (w : Nat) (x : Window) : (s.setWindow w x).time = s.time := rfl
@[simp] theorem State.setWindow_mod (w : Nat) (x : Window) : (s.setWindow w x).mod = s.mod := rfl
@[simp] theorem State.setWindow_host (w : Nat) (x : Window) : (s.setWindow w x).host = s.host := rfl
@[simp] theorem State.setWindow_cmds (w : Nat) (x : Window) : (s.setWindow w x).cmds = s.cmds := rfl
@[simp] theorem State.setWindow_hostOut (w : Nat) (x : Window) : (s.setWindow w x).hostOut = s.hostOut := rfl
@[simp] theorem State.setWindow_ctxs (w : Nat) (x : Window) : (s.setWindow w x).ctxs = s.ctxs := rfl
@[simp] theorem State.setWindow_grid (w : Nat) (x : Window) : (s.setWindow w x).grid = s.grid := rfl
@[simp] theorem State.setWindow_cores (w : Nat) (x : Window) : (s.setWindow w x).cores = s.cores := rfl
@[simp] theorem State.setWindow_ms (w : Nat) (x : Window) : (s.setWindow w x).ms = s.ms := rfl
@[simp] theorem State.setWindow_keys (w : Nat) (x : Window) : (s.setWindow w x).keys = s.keys := rfl
@[simp] theorem State.setWindow_held (w : Nat) (x : Window) : (s.setWindow w x).held = s.held := rfl
@[simp] theorem State.setWindow_engines (w : Nat) (x : Window) : (s.setWindow w x).engines = s.engines := rfl
@[simp] theorem State.setWindow_colls (w : Nat) (x : Window) : (s.setWindow w x).colls = s.colls := rfl
@[simp] theorem State.setWindow_job (w : Nat) (x : Window) : (s.setWindow w x).job = s.job := rfl
@[simp] theorem State.setWindow_arrivals (w : Nat) (x : Window) : (s.setWindow w x).arrivals = s.arrivals := rfl
@[simp] theorem State.setWindow_streams (w : Nat) (x : Window) : (s.setWindow w x).streams = s.streams := rfl
@[simp] theorem State.setWindow_power (w : Nat) (x : Window) : (s.setWindow w x).power = s.power := rfl
@[simp] theorem State.setWindow_sec (w : Nat) (x : Window) : (s.setWindow w x).sec = s.sec := rfl
@[simp] theorem State.setWindow_bb (w : Nat) (x : Window) : (s.setWindow w x).bb = s.bb := rfl
@[simp] theorem State.setWindow_tel (w : Nat) (x : Window) : (s.setWindow w x).tel = s.tel := rfl
@[simp] theorem State.setWindow_bg (w : Nat) (x : Window) : (s.setWindow w x).bg = s.bg := rfl
@[simp] theorem State.setWindow_rst (w : Nat) (x : Window) : (s.setWindow w x).rst = s.rst := rfl

/-! ### setLink changes fab alone -/

@[simp] theorem State.setLink_pending (l : LinkId) (x : Link) : (s.setLink l x).pending = s.pending := rfl
@[simp] theorem State.setLink_free (l : LinkId) (x : Link) : (s.setLink l x).free = s.free := rfl
@[simp] theorem State.setLink_time (l : LinkId) (x : Link) : (s.setLink l x).time = s.time := rfl
@[simp] theorem State.setLink_mod (l : LinkId) (x : Link) : (s.setLink l x).mod = s.mod := rfl
@[simp] theorem State.setLink_host (l : LinkId) (x : Link) : (s.setLink l x).host = s.host := rfl
@[simp] theorem State.setLink_cmds (l : LinkId) (x : Link) : (s.setLink l x).cmds = s.cmds := rfl
@[simp] theorem State.setLink_hostOut (l : LinkId) (x : Link) : (s.setLink l x).hostOut = s.hostOut := rfl
@[simp] theorem State.setLink_ctxs (l : LinkId) (x : Link) : (s.setLink l x).ctxs = s.ctxs := rfl
@[simp] theorem State.setLink_grid (l : LinkId) (x : Link) : (s.setLink l x).grid = s.grid := rfl
@[simp] theorem State.setLink_cores (l : LinkId) (x : Link) : (s.setLink l x).cores = s.cores := rfl
@[simp] theorem State.setLink_ms (l : LinkId) (x : Link) : (s.setLink l x).ms = s.ms := rfl
@[simp] theorem State.setLink_keys (l : LinkId) (x : Link) : (s.setLink l x).keys = s.keys := rfl
@[simp] theorem State.setLink_held (l : LinkId) (x : Link) : (s.setLink l x).held = s.held := rfl
@[simp] theorem State.setLink_engines (l : LinkId) (x : Link) : (s.setLink l x).engines = s.engines := rfl
@[simp] theorem State.setLink_colls (l : LinkId) (x : Link) : (s.setLink l x).colls = s.colls := rfl
@[simp] theorem State.setLink_job (l : LinkId) (x : Link) : (s.setLink l x).job = s.job := rfl
@[simp] theorem State.setLink_arrivals (l : LinkId) (x : Link) : (s.setLink l x).arrivals = s.arrivals := rfl
@[simp] theorem State.setLink_streams (l : LinkId) (x : Link) : (s.setLink l x).streams = s.streams := rfl
@[simp] theorem State.setLink_power (l : LinkId) (x : Link) : (s.setLink l x).power = s.power := rfl
@[simp] theorem State.setLink_sec (l : LinkId) (x : Link) : (s.setLink l x).sec = s.sec := rfl
@[simp] theorem State.setLink_bb (l : LinkId) (x : Link) : (s.setLink l x).bb = s.bb := rfl
@[simp] theorem State.setLink_tel (l : LinkId) (x : Link) : (s.setLink l x).tel = s.tel := rfl
@[simp] theorem State.setLink_bg (l : LinkId) (x : Link) : (s.setLink l x).bg = s.bg := rfl
@[simp] theorem State.setLink_rst (l : LinkId) (x : Link) : (s.setLink l x).rst = s.rst := rfl

/-! ### setBank changes ms alone -/

@[simp] theorem State.setBank_pending (b : Nat) (x : Bank) : (s.setBank b x).pending = s.pending := rfl
@[simp] theorem State.setBank_free (b : Nat) (x : Bank) : (s.setBank b x).free = s.free := rfl
@[simp] theorem State.setBank_time (b : Nat) (x : Bank) : (s.setBank b x).time = s.time := rfl
@[simp] theorem State.setBank_mod (b : Nat) (x : Bank) : (s.setBank b x).mod = s.mod := rfl
@[simp] theorem State.setBank_host (b : Nat) (x : Bank) : (s.setBank b x).host = s.host := rfl
@[simp] theorem State.setBank_cmds (b : Nat) (x : Bank) : (s.setBank b x).cmds = s.cmds := rfl
@[simp] theorem State.setBank_hostOut (b : Nat) (x : Bank) : (s.setBank b x).hostOut = s.hostOut := rfl
@[simp] theorem State.setBank_ctxs (b : Nat) (x : Bank) : (s.setBank b x).ctxs = s.ctxs := rfl
@[simp] theorem State.setBank_grid (b : Nat) (x : Bank) : (s.setBank b x).grid = s.grid := rfl
@[simp] theorem State.setBank_cores (b : Nat) (x : Bank) : (s.setBank b x).cores = s.cores := rfl
@[simp] theorem State.setBank_keys (b : Nat) (x : Bank) : (s.setBank b x).keys = s.keys := rfl
@[simp] theorem State.setBank_held (b : Nat) (x : Bank) : (s.setBank b x).held = s.held := rfl
@[simp] theorem State.setBank_engines (b : Nat) (x : Bank) : (s.setBank b x).engines = s.engines := rfl
@[simp] theorem State.setBank_fab (b : Nat) (x : Bank) : (s.setBank b x).fab = s.fab := rfl
@[simp] theorem State.setBank_colls (b : Nat) (x : Bank) : (s.setBank b x).colls = s.colls := rfl
@[simp] theorem State.setBank_job (b : Nat) (x : Bank) : (s.setBank b x).job = s.job := rfl
@[simp] theorem State.setBank_arrivals (b : Nat) (x : Bank) : (s.setBank b x).arrivals = s.arrivals := rfl
@[simp] theorem State.setBank_streams (b : Nat) (x : Bank) : (s.setBank b x).streams = s.streams := rfl
@[simp] theorem State.setBank_power (b : Nat) (x : Bank) : (s.setBank b x).power = s.power := rfl
@[simp] theorem State.setBank_sec (b : Nat) (x : Bank) : (s.setBank b x).sec = s.sec := rfl
@[simp] theorem State.setBank_bb (b : Nat) (x : Bank) : (s.setBank b x).bb = s.bb := rfl
@[simp] theorem State.setBank_tel (b : Nat) (x : Bank) : (s.setBank b x).tel = s.tel := rfl
@[simp] theorem State.setBank_bg (b : Nat) (x : Bank) : (s.setBank b x).bg = s.bg := rfl
@[simp] theorem State.setBank_rst (b : Nat) (x : Bank) : (s.setBank b x).rst = s.rst := rfl

/-! ### setChan changes ms alone -/

@[simp] theorem State.setChan_pending (c : Nat) (x : Channel) : (s.setChan c x).pending = s.pending := rfl
@[simp] theorem State.setChan_free (c : Nat) (x : Channel) : (s.setChan c x).free = s.free := rfl
@[simp] theorem State.setChan_time (c : Nat) (x : Channel) : (s.setChan c x).time = s.time := rfl
@[simp] theorem State.setChan_mod (c : Nat) (x : Channel) : (s.setChan c x).mod = s.mod := rfl
@[simp] theorem State.setChan_host (c : Nat) (x : Channel) : (s.setChan c x).host = s.host := rfl
@[simp] theorem State.setChan_cmds (c : Nat) (x : Channel) : (s.setChan c x).cmds = s.cmds := rfl
@[simp] theorem State.setChan_hostOut (c : Nat) (x : Channel) : (s.setChan c x).hostOut = s.hostOut := rfl
@[simp] theorem State.setChan_ctxs (c : Nat) (x : Channel) : (s.setChan c x).ctxs = s.ctxs := rfl
@[simp] theorem State.setChan_grid (c : Nat) (x : Channel) : (s.setChan c x).grid = s.grid := rfl
@[simp] theorem State.setChan_cores (c : Nat) (x : Channel) : (s.setChan c x).cores = s.cores := rfl
@[simp] theorem State.setChan_keys (c : Nat) (x : Channel) : (s.setChan c x).keys = s.keys := rfl
@[simp] theorem State.setChan_held (c : Nat) (x : Channel) : (s.setChan c x).held = s.held := rfl
@[simp] theorem State.setChan_engines (c : Nat) (x : Channel) : (s.setChan c x).engines = s.engines := rfl
@[simp] theorem State.setChan_fab (c : Nat) (x : Channel) : (s.setChan c x).fab = s.fab := rfl
@[simp] theorem State.setChan_colls (c : Nat) (x : Channel) : (s.setChan c x).colls = s.colls := rfl
@[simp] theorem State.setChan_job (c : Nat) (x : Channel) : (s.setChan c x).job = s.job := rfl
@[simp] theorem State.setChan_arrivals (c : Nat) (x : Channel) : (s.setChan c x).arrivals = s.arrivals := rfl
@[simp] theorem State.setChan_streams (c : Nat) (x : Channel) : (s.setChan c x).streams = s.streams := rfl
@[simp] theorem State.setChan_power (c : Nat) (x : Channel) : (s.setChan c x).power = s.power := rfl
@[simp] theorem State.setChan_sec (c : Nat) (x : Channel) : (s.setChan c x).sec = s.sec := rfl
@[simp] theorem State.setChan_bb (c : Nat) (x : Channel) : (s.setChan c x).bb = s.bb := rfl
@[simp] theorem State.setChan_tel (c : Nat) (x : Channel) : (s.setChan c x).tel = s.tel := rfl
@[simp] theorem State.setChan_bg (c : Nat) (x : Channel) : (s.setChan c x).bg = s.bg := rfl
@[simp] theorem State.setChan_rst (c : Nat) (x : Channel) : (s.setChan c x).rst = s.rst := rfl

/-! ### setCxl changes ms alone -/

@[simp] theorem State.setCxl_pending (p : Nat) (x : CxlPort) : (s.setCxl p x).pending = s.pending := rfl
@[simp] theorem State.setCxl_free (p : Nat) (x : CxlPort) : (s.setCxl p x).free = s.free := rfl
@[simp] theorem State.setCxl_time (p : Nat) (x : CxlPort) : (s.setCxl p x).time = s.time := rfl
@[simp] theorem State.setCxl_mod (p : Nat) (x : CxlPort) : (s.setCxl p x).mod = s.mod := rfl
@[simp] theorem State.setCxl_host (p : Nat) (x : CxlPort) : (s.setCxl p x).host = s.host := rfl
@[simp] theorem State.setCxl_cmds (p : Nat) (x : CxlPort) : (s.setCxl p x).cmds = s.cmds := rfl
@[simp] theorem State.setCxl_hostOut (p : Nat) (x : CxlPort) : (s.setCxl p x).hostOut = s.hostOut := rfl
@[simp] theorem State.setCxl_ctxs (p : Nat) (x : CxlPort) : (s.setCxl p x).ctxs = s.ctxs := rfl
@[simp] theorem State.setCxl_grid (p : Nat) (x : CxlPort) : (s.setCxl p x).grid = s.grid := rfl
@[simp] theorem State.setCxl_cores (p : Nat) (x : CxlPort) : (s.setCxl p x).cores = s.cores := rfl
@[simp] theorem State.setCxl_keys (p : Nat) (x : CxlPort) : (s.setCxl p x).keys = s.keys := rfl
@[simp] theorem State.setCxl_held (p : Nat) (x : CxlPort) : (s.setCxl p x).held = s.held := rfl
@[simp] theorem State.setCxl_engines (p : Nat) (x : CxlPort) : (s.setCxl p x).engines = s.engines := rfl
@[simp] theorem State.setCxl_fab (p : Nat) (x : CxlPort) : (s.setCxl p x).fab = s.fab := rfl
@[simp] theorem State.setCxl_colls (p : Nat) (x : CxlPort) : (s.setCxl p x).colls = s.colls := rfl
@[simp] theorem State.setCxl_job (p : Nat) (x : CxlPort) : (s.setCxl p x).job = s.job := rfl
@[simp] theorem State.setCxl_arrivals (p : Nat) (x : CxlPort) : (s.setCxl p x).arrivals = s.arrivals := rfl
@[simp] theorem State.setCxl_streams (p : Nat) (x : CxlPort) : (s.setCxl p x).streams = s.streams := rfl
@[simp] theorem State.setCxl_power (p : Nat) (x : CxlPort) : (s.setCxl p x).power = s.power := rfl
@[simp] theorem State.setCxl_sec (p : Nat) (x : CxlPort) : (s.setCxl p x).sec = s.sec := rfl
@[simp] theorem State.setCxl_bb (p : Nat) (x : CxlPort) : (s.setCxl p x).bb = s.bb := rfl
@[simp] theorem State.setCxl_tel (p : Nat) (x : CxlPort) : (s.setCxl p x).tel = s.tel := rfl
@[simp] theorem State.setCxl_bg (p : Nat) (x : CxlPort) : (s.setCxl p x).bg = s.bg := rfl
@[simp] theorem State.setCxl_rst (p : Nat) (x : CxlPort) : (s.setCxl p x).rst = s.rst := rfl

/-! ### setSec changes sec alone -/

@[simp] theorem State.setSec_pending (x : Security) : (s.setSec x).pending = s.pending := rfl
@[simp] theorem State.setSec_free (x : Security) : (s.setSec x).free = s.free := rfl
@[simp] theorem State.setSec_time (x : Security) : (s.setSec x).time = s.time := rfl
@[simp] theorem State.setSec_mod (x : Security) : (s.setSec x).mod = s.mod := rfl
@[simp] theorem State.setSec_host (x : Security) : (s.setSec x).host = s.host := rfl
@[simp] theorem State.setSec_cmds (x : Security) : (s.setSec x).cmds = s.cmds := rfl
@[simp] theorem State.setSec_hostOut (x : Security) : (s.setSec x).hostOut = s.hostOut := rfl
@[simp] theorem State.setSec_ctxs (x : Security) : (s.setSec x).ctxs = s.ctxs := rfl
@[simp] theorem State.setSec_grid (x : Security) : (s.setSec x).grid = s.grid := rfl
@[simp] theorem State.setSec_cores (x : Security) : (s.setSec x).cores = s.cores := rfl
@[simp] theorem State.setSec_ms (x : Security) : (s.setSec x).ms = s.ms := rfl
@[simp] theorem State.setSec_keys (x : Security) : (s.setSec x).keys = s.keys := rfl
@[simp] theorem State.setSec_held (x : Security) : (s.setSec x).held = s.held := rfl
@[simp] theorem State.setSec_engines (x : Security) : (s.setSec x).engines = s.engines := rfl
@[simp] theorem State.setSec_fab (x : Security) : (s.setSec x).fab = s.fab := rfl
@[simp] theorem State.setSec_colls (x : Security) : (s.setSec x).colls = s.colls := rfl
@[simp] theorem State.setSec_job (x : Security) : (s.setSec x).job = s.job := rfl
@[simp] theorem State.setSec_arrivals (x : Security) : (s.setSec x).arrivals = s.arrivals := rfl
@[simp] theorem State.setSec_streams (x : Security) : (s.setSec x).streams = s.streams := rfl
@[simp] theorem State.setSec_power (x : Security) : (s.setSec x).power = s.power := rfl
@[simp] theorem State.setSec_bb (x : Security) : (s.setSec x).bb = s.bb := rfl
@[simp] theorem State.setSec_tel (x : Security) : (s.setSec x).tel = s.tel := rfl
@[simp] theorem State.setSec_bg (x : Security) : (s.setSec x).bg = s.bg := rfl
@[simp] theorem State.setSec_rst (x : Security) : (s.setSec x).rst = s.rst := rfl

/-! ### setMod changes mod alone -/

@[simp] theorem State.setMod_pending (x : Module) : (s.setMod x).pending = s.pending := rfl
@[simp] theorem State.setMod_free (x : Module) : (s.setMod x).free = s.free := rfl
@[simp] theorem State.setMod_time (x : Module) : (s.setMod x).time = s.time := rfl
@[simp] theorem State.setMod_host (x : Module) : (s.setMod x).host = s.host := rfl
@[simp] theorem State.setMod_cmds (x : Module) : (s.setMod x).cmds = s.cmds := rfl
@[simp] theorem State.setMod_hostOut (x : Module) : (s.setMod x).hostOut = s.hostOut := rfl
@[simp] theorem State.setMod_ctxs (x : Module) : (s.setMod x).ctxs = s.ctxs := rfl
@[simp] theorem State.setMod_grid (x : Module) : (s.setMod x).grid = s.grid := rfl
@[simp] theorem State.setMod_cores (x : Module) : (s.setMod x).cores = s.cores := rfl
@[simp] theorem State.setMod_ms (x : Module) : (s.setMod x).ms = s.ms := rfl
@[simp] theorem State.setMod_keys (x : Module) : (s.setMod x).keys = s.keys := rfl
@[simp] theorem State.setMod_held (x : Module) : (s.setMod x).held = s.held := rfl
@[simp] theorem State.setMod_engines (x : Module) : (s.setMod x).engines = s.engines := rfl
@[simp] theorem State.setMod_fab (x : Module) : (s.setMod x).fab = s.fab := rfl
@[simp] theorem State.setMod_colls (x : Module) : (s.setMod x).colls = s.colls := rfl
@[simp] theorem State.setMod_job (x : Module) : (s.setMod x).job = s.job := rfl
@[simp] theorem State.setMod_arrivals (x : Module) : (s.setMod x).arrivals = s.arrivals := rfl
@[simp] theorem State.setMod_streams (x : Module) : (s.setMod x).streams = s.streams := rfl
@[simp] theorem State.setMod_power (x : Module) : (s.setMod x).power = s.power := rfl
@[simp] theorem State.setMod_sec (x : Module) : (s.setMod x).sec = s.sec := rfl
@[simp] theorem State.setMod_bb (x : Module) : (s.setMod x).bb = s.bb := rfl
@[simp] theorem State.setMod_tel (x : Module) : (s.setMod x).tel = s.tel := rfl
@[simp] theorem State.setMod_bg (x : Module) : (s.setMod x).bg = s.bg := rfl
@[simp] theorem State.setMod_rst (x : Module) : (s.setMod x).rst = s.rst := rfl

/-! ### setPower changes power alone -/

@[simp] theorem State.setPower_pending (x : Power) : (s.setPower x).pending = s.pending := rfl
@[simp] theorem State.setPower_free (x : Power) : (s.setPower x).free = s.free := rfl
@[simp] theorem State.setPower_time (x : Power) : (s.setPower x).time = s.time := rfl
@[simp] theorem State.setPower_mod (x : Power) : (s.setPower x).mod = s.mod := rfl
@[simp] theorem State.setPower_host (x : Power) : (s.setPower x).host = s.host := rfl
@[simp] theorem State.setPower_cmds (x : Power) : (s.setPower x).cmds = s.cmds := rfl
@[simp] theorem State.setPower_hostOut (x : Power) : (s.setPower x).hostOut = s.hostOut := rfl
@[simp] theorem State.setPower_ctxs (x : Power) : (s.setPower x).ctxs = s.ctxs := rfl
@[simp] theorem State.setPower_grid (x : Power) : (s.setPower x).grid = s.grid := rfl
@[simp] theorem State.setPower_cores (x : Power) : (s.setPower x).cores = s.cores := rfl
@[simp] theorem State.setPower_ms (x : Power) : (s.setPower x).ms = s.ms := rfl
@[simp] theorem State.setPower_keys (x : Power) : (s.setPower x).keys = s.keys := rfl
@[simp] theorem State.setPower_held (x : Power) : (s.setPower x).held = s.held := rfl
@[simp] theorem State.setPower_engines (x : Power) : (s.setPower x).engines = s.engines := rfl
@[simp] theorem State.setPower_fab (x : Power) : (s.setPower x).fab = s.fab := rfl
@[simp] theorem State.setPower_colls (x : Power) : (s.setPower x).colls = s.colls := rfl
@[simp] theorem State.setPower_job (x : Power) : (s.setPower x).job = s.job := rfl
@[simp] theorem State.setPower_arrivals (x : Power) : (s.setPower x).arrivals = s.arrivals := rfl
@[simp] theorem State.setPower_streams (x : Power) : (s.setPower x).streams = s.streams := rfl
@[simp] theorem State.setPower_sec (x : Power) : (s.setPower x).sec = s.sec := rfl
@[simp] theorem State.setPower_bb (x : Power) : (s.setPower x).bb = s.bb := rfl
@[simp] theorem State.setPower_tel (x : Power) : (s.setPower x).tel = s.tel := rfl
@[simp] theorem State.setPower_bg (x : Power) : (s.setPower x).bg = s.bg := rfl
@[simp] theorem State.setPower_rst (x : Power) : (s.setPower x).rst = s.rst := rfl

/-! ### setRst changes rst alone -/

@[simp] theorem State.setRst_pending (x : ResetCtl) : (s.setRst x).pending = s.pending := rfl
@[simp] theorem State.setRst_free (x : ResetCtl) : (s.setRst x).free = s.free := rfl
@[simp] theorem State.setRst_time (x : ResetCtl) : (s.setRst x).time = s.time := rfl
@[simp] theorem State.setRst_mod (x : ResetCtl) : (s.setRst x).mod = s.mod := rfl
@[simp] theorem State.setRst_host (x : ResetCtl) : (s.setRst x).host = s.host := rfl
@[simp] theorem State.setRst_cmds (x : ResetCtl) : (s.setRst x).cmds = s.cmds := rfl
@[simp] theorem State.setRst_hostOut (x : ResetCtl) : (s.setRst x).hostOut = s.hostOut := rfl
@[simp] theorem State.setRst_ctxs (x : ResetCtl) : (s.setRst x).ctxs = s.ctxs := rfl
@[simp] theorem State.setRst_grid (x : ResetCtl) : (s.setRst x).grid = s.grid := rfl
@[simp] theorem State.setRst_cores (x : ResetCtl) : (s.setRst x).cores = s.cores := rfl
@[simp] theorem State.setRst_ms (x : ResetCtl) : (s.setRst x).ms = s.ms := rfl
@[simp] theorem State.setRst_keys (x : ResetCtl) : (s.setRst x).keys = s.keys := rfl
@[simp] theorem State.setRst_held (x : ResetCtl) : (s.setRst x).held = s.held := rfl
@[simp] theorem State.setRst_engines (x : ResetCtl) : (s.setRst x).engines = s.engines := rfl
@[simp] theorem State.setRst_fab (x : ResetCtl) : (s.setRst x).fab = s.fab := rfl
@[simp] theorem State.setRst_colls (x : ResetCtl) : (s.setRst x).colls = s.colls := rfl
@[simp] theorem State.setRst_job (x : ResetCtl) : (s.setRst x).job = s.job := rfl
@[simp] theorem State.setRst_arrivals (x : ResetCtl) : (s.setRst x).arrivals = s.arrivals := rfl
@[simp] theorem State.setRst_streams (x : ResetCtl) : (s.setRst x).streams = s.streams := rfl
@[simp] theorem State.setRst_power (x : ResetCtl) : (s.setRst x).power = s.power := rfl
@[simp] theorem State.setRst_sec (x : ResetCtl) : (s.setRst x).sec = s.sec := rfl
@[simp] theorem State.setRst_bb (x : ResetCtl) : (s.setRst x).bb = s.bb := rfl
@[simp] theorem State.setRst_tel (x : ResetCtl) : (s.setRst x).tel = s.tel := rfl
@[simp] theorem State.setRst_bg (x : ResetCtl) : (s.setRst x).bg = s.bg := rfl

/-! ### setIsland changes power alone -/

@[simp] theorem State.setIsland_pending (i : IslandId) (x : Island) : (s.setIsland i x).pending = s.pending := rfl
@[simp] theorem State.setIsland_free (i : IslandId) (x : Island) : (s.setIsland i x).free = s.free := rfl
@[simp] theorem State.setIsland_time (i : IslandId) (x : Island) : (s.setIsland i x).time = s.time := rfl
@[simp] theorem State.setIsland_mod (i : IslandId) (x : Island) : (s.setIsland i x).mod = s.mod := rfl
@[simp] theorem State.setIsland_host (i : IslandId) (x : Island) : (s.setIsland i x).host = s.host := rfl
@[simp] theorem State.setIsland_cmds (i : IslandId) (x : Island) : (s.setIsland i x).cmds = s.cmds := rfl
@[simp] theorem State.setIsland_hostOut (i : IslandId) (x : Island) : (s.setIsland i x).hostOut = s.hostOut := rfl
@[simp] theorem State.setIsland_ctxs (i : IslandId) (x : Island) : (s.setIsland i x).ctxs = s.ctxs := rfl
@[simp] theorem State.setIsland_grid (i : IslandId) (x : Island) : (s.setIsland i x).grid = s.grid := rfl
@[simp] theorem State.setIsland_cores (i : IslandId) (x : Island) : (s.setIsland i x).cores = s.cores := rfl
@[simp] theorem State.setIsland_ms (i : IslandId) (x : Island) : (s.setIsland i x).ms = s.ms := rfl
@[simp] theorem State.setIsland_keys (i : IslandId) (x : Island) : (s.setIsland i x).keys = s.keys := rfl
@[simp] theorem State.setIsland_held (i : IslandId) (x : Island) : (s.setIsland i x).held = s.held := rfl
@[simp] theorem State.setIsland_engines (i : IslandId) (x : Island) : (s.setIsland i x).engines = s.engines := rfl
@[simp] theorem State.setIsland_fab (i : IslandId) (x : Island) : (s.setIsland i x).fab = s.fab := rfl
@[simp] theorem State.setIsland_colls (i : IslandId) (x : Island) : (s.setIsland i x).colls = s.colls := rfl
@[simp] theorem State.setIsland_job (i : IslandId) (x : Island) : (s.setIsland i x).job = s.job := rfl
@[simp] theorem State.setIsland_arrivals (i : IslandId) (x : Island) : (s.setIsland i x).arrivals = s.arrivals := rfl
@[simp] theorem State.setIsland_streams (i : IslandId) (x : Island) : (s.setIsland i x).streams = s.streams := rfl
@[simp] theorem State.setIsland_sec (i : IslandId) (x : Island) : (s.setIsland i x).sec = s.sec := rfl
@[simp] theorem State.setIsland_bb (i : IslandId) (x : Island) : (s.setIsland i x).bb = s.bb := rfl
@[simp] theorem State.setIsland_tel (i : IslandId) (x : Island) : (s.setIsland i x).tel = s.tel := rfl
@[simp] theorem State.setIsland_bg (i : IslandId) (x : Island) : (s.setIsland i x).bg = s.bg := rfl
@[simp] theorem State.setIsland_rst (i : IslandId) (x : Island) : (s.setIsland i x).rst = s.rst := rfl

/-! ### updCmd changes cmds alone -/

@[simp] theorem State.updCmd_pending (r : CmdRef) (f : Cmd → Cmd) : (s.updCmd r f).pending = s.pending := rfl
@[simp] theorem State.updCmd_free (r : CmdRef) (f : Cmd → Cmd) : (s.updCmd r f).free = s.free := rfl
@[simp] theorem State.updCmd_time (r : CmdRef) (f : Cmd → Cmd) : (s.updCmd r f).time = s.time := rfl
@[simp] theorem State.updCmd_mod (r : CmdRef) (f : Cmd → Cmd) : (s.updCmd r f).mod = s.mod := rfl
@[simp] theorem State.updCmd_host (r : CmdRef) (f : Cmd → Cmd) : (s.updCmd r f).host = s.host := rfl
@[simp] theorem State.updCmd_hostOut (r : CmdRef) (f : Cmd → Cmd) : (s.updCmd r f).hostOut = s.hostOut := rfl
@[simp] theorem State.updCmd_ctxs (r : CmdRef) (f : Cmd → Cmd) : (s.updCmd r f).ctxs = s.ctxs := rfl
@[simp] theorem State.updCmd_grid (r : CmdRef) (f : Cmd → Cmd) : (s.updCmd r f).grid = s.grid := rfl
@[simp] theorem State.updCmd_cores (r : CmdRef) (f : Cmd → Cmd) : (s.updCmd r f).cores = s.cores := rfl
@[simp] theorem State.updCmd_ms (r : CmdRef) (f : Cmd → Cmd) : (s.updCmd r f).ms = s.ms := rfl
@[simp] theorem State.updCmd_keys (r : CmdRef) (f : Cmd → Cmd) : (s.updCmd r f).keys = s.keys := rfl
@[simp] theorem State.updCmd_held (r : CmdRef) (f : Cmd → Cmd) : (s.updCmd r f).held = s.held := rfl
@[simp] theorem State.updCmd_engines (r : CmdRef) (f : Cmd → Cmd) : (s.updCmd r f).engines = s.engines := rfl
@[simp] theorem State.updCmd_fab (r : CmdRef) (f : Cmd → Cmd) : (s.updCmd r f).fab = s.fab := rfl
@[simp] theorem State.updCmd_colls (r : CmdRef) (f : Cmd → Cmd) : (s.updCmd r f).colls = s.colls := rfl
@[simp] theorem State.updCmd_job (r : CmdRef) (f : Cmd → Cmd) : (s.updCmd r f).job = s.job := rfl
@[simp] theorem State.updCmd_arrivals (r : CmdRef) (f : Cmd → Cmd) : (s.updCmd r f).arrivals = s.arrivals := rfl
@[simp] theorem State.updCmd_streams (r : CmdRef) (f : Cmd → Cmd) : (s.updCmd r f).streams = s.streams := rfl
@[simp] theorem State.updCmd_power (r : CmdRef) (f : Cmd → Cmd) : (s.updCmd r f).power = s.power := rfl
@[simp] theorem State.updCmd_sec (r : CmdRef) (f : Cmd → Cmd) : (s.updCmd r f).sec = s.sec := rfl
@[simp] theorem State.updCmd_bb (r : CmdRef) (f : Cmd → Cmd) : (s.updCmd r f).bb = s.bb := rfl
@[simp] theorem State.updCmd_tel (r : CmdRef) (f : Cmd → Cmd) : (s.updCmd r f).tel = s.tel := rfl
@[simp] theorem State.updCmd_bg (r : CmdRef) (f : Cmd → Cmd) : (s.updCmd r f).bg = s.bg := rfl
@[simp] theorem State.updCmd_rst (r : CmdRef) (f : Cmd → Cmd) : (s.updCmd r f).rst = s.rst := rfl

/-! ### setPhase changes cmds alone -/

@[simp] theorem State.setPhase_pending (r : CmdRef) (p : Phase) : (s.setPhase r p).pending = s.pending := rfl
@[simp] theorem State.setPhase_free (r : CmdRef) (p : Phase) : (s.setPhase r p).free = s.free := rfl
@[simp] theorem State.setPhase_time (r : CmdRef) (p : Phase) : (s.setPhase r p).time = s.time := rfl
@[simp] theorem State.setPhase_mod (r : CmdRef) (p : Phase) : (s.setPhase r p).mod = s.mod := rfl
@[simp] theorem State.setPhase_host (r : CmdRef) (p : Phase) : (s.setPhase r p).host = s.host := rfl
@[simp] theorem State.setPhase_hostOut (r : CmdRef) (p : Phase) : (s.setPhase r p).hostOut = s.hostOut := rfl
@[simp] theorem State.setPhase_ctxs (r : CmdRef) (p : Phase) : (s.setPhase r p).ctxs = s.ctxs := rfl
@[simp] theorem State.setPhase_grid (r : CmdRef) (p : Phase) : (s.setPhase r p).grid = s.grid := rfl
@[simp] theorem State.setPhase_cores (r : CmdRef) (p : Phase) : (s.setPhase r p).cores = s.cores := rfl
@[simp] theorem State.setPhase_ms (r : CmdRef) (p : Phase) : (s.setPhase r p).ms = s.ms := rfl
@[simp] theorem State.setPhase_keys (r : CmdRef) (p : Phase) : (s.setPhase r p).keys = s.keys := rfl
@[simp] theorem State.setPhase_held (r : CmdRef) (p : Phase) : (s.setPhase r p).held = s.held := rfl
@[simp] theorem State.setPhase_engines (r : CmdRef) (p : Phase) : (s.setPhase r p).engines = s.engines := rfl
@[simp] theorem State.setPhase_fab (r : CmdRef) (p : Phase) : (s.setPhase r p).fab = s.fab := rfl
@[simp] theorem State.setPhase_colls (r : CmdRef) (p : Phase) : (s.setPhase r p).colls = s.colls := rfl
@[simp] theorem State.setPhase_job (r : CmdRef) (p : Phase) : (s.setPhase r p).job = s.job := rfl
@[simp] theorem State.setPhase_arrivals (r : CmdRef) (p : Phase) : (s.setPhase r p).arrivals = s.arrivals := rfl
@[simp] theorem State.setPhase_streams (r : CmdRef) (p : Phase) : (s.setPhase r p).streams = s.streams := rfl
@[simp] theorem State.setPhase_power (r : CmdRef) (p : Phase) : (s.setPhase r p).power = s.power := rfl
@[simp] theorem State.setPhase_sec (r : CmdRef) (p : Phase) : (s.setPhase r p).sec = s.sec := rfl
@[simp] theorem State.setPhase_bb (r : CmdRef) (p : Phase) : (s.setPhase r p).bb = s.bb := rfl
@[simp] theorem State.setPhase_tel (r : CmdRef) (p : Phase) : (s.setPhase r p).tel = s.tel := rfl
@[simp] theorem State.setPhase_bg (r : CmdRef) (p : Phase) : (s.setPhase r p).bg = s.bg := rfl
@[simp] theorem State.setPhase_rst (r : CmdRef) (p : Phase) : (s.setPhase r p).rst = s.rst := rfl

/-! ### finish changes cmds alone -/

@[simp] theorem State.finish_pending (r : CmdRef) (x : Record) : (s.finish r x).pending = s.pending := rfl
@[simp] theorem State.finish_free (r : CmdRef) (x : Record) : (s.finish r x).free = s.free := rfl
@[simp] theorem State.finish_time (r : CmdRef) (x : Record) : (s.finish r x).time = s.time := rfl
@[simp] theorem State.finish_mod (r : CmdRef) (x : Record) : (s.finish r x).mod = s.mod := rfl
@[simp] theorem State.finish_host (r : CmdRef) (x : Record) : (s.finish r x).host = s.host := rfl
@[simp] theorem State.finish_hostOut (r : CmdRef) (x : Record) : (s.finish r x).hostOut = s.hostOut := rfl
@[simp] theorem State.finish_ctxs (r : CmdRef) (x : Record) : (s.finish r x).ctxs = s.ctxs := rfl
@[simp] theorem State.finish_grid (r : CmdRef) (x : Record) : (s.finish r x).grid = s.grid := rfl
@[simp] theorem State.finish_cores (r : CmdRef) (x : Record) : (s.finish r x).cores = s.cores := rfl
@[simp] theorem State.finish_ms (r : CmdRef) (x : Record) : (s.finish r x).ms = s.ms := rfl
@[simp] theorem State.finish_keys (r : CmdRef) (x : Record) : (s.finish r x).keys = s.keys := rfl
@[simp] theorem State.finish_held (r : CmdRef) (x : Record) : (s.finish r x).held = s.held := rfl
@[simp] theorem State.finish_engines (r : CmdRef) (x : Record) : (s.finish r x).engines = s.engines := rfl
@[simp] theorem State.finish_fab (r : CmdRef) (x : Record) : (s.finish r x).fab = s.fab := rfl
@[simp] theorem State.finish_colls (r : CmdRef) (x : Record) : (s.finish r x).colls = s.colls := rfl
@[simp] theorem State.finish_job (r : CmdRef) (x : Record) : (s.finish r x).job = s.job := rfl
@[simp] theorem State.finish_arrivals (r : CmdRef) (x : Record) : (s.finish r x).arrivals = s.arrivals := rfl
@[simp] theorem State.finish_streams (r : CmdRef) (x : Record) : (s.finish r x).streams = s.streams := rfl
@[simp] theorem State.finish_power (r : CmdRef) (x : Record) : (s.finish r x).power = s.power := rfl
@[simp] theorem State.finish_sec (r : CmdRef) (x : Record) : (s.finish r x).sec = s.sec := rfl
@[simp] theorem State.finish_bb (r : CmdRef) (x : Record) : (s.finish r x).bb = s.bb := rfl
@[simp] theorem State.finish_tel (r : CmdRef) (x : Record) : (s.finish r x).tel = s.tel := rfl
@[simp] theorem State.finish_bg (r : CmdRef) (x : Record) : (s.finish r x).bg = s.bg := rfl
@[simp] theorem State.finish_rst (r : CmdRef) (x : Record) : (s.finish r x).rst = s.rst := rfl

/-! ### finishSt changes cmds alone -/

@[simp] theorem State.finishSt_pending (r : CmdRef) (st : Half) : (s.finishSt r st).pending = s.pending := rfl
@[simp] theorem State.finishSt_free (r : CmdRef) (st : Half) : (s.finishSt r st).free = s.free := rfl
@[simp] theorem State.finishSt_time (r : CmdRef) (st : Half) : (s.finishSt r st).time = s.time := rfl
@[simp] theorem State.finishSt_mod (r : CmdRef) (st : Half) : (s.finishSt r st).mod = s.mod := rfl
@[simp] theorem State.finishSt_host (r : CmdRef) (st : Half) : (s.finishSt r st).host = s.host := rfl
@[simp] theorem State.finishSt_hostOut (r : CmdRef) (st : Half) : (s.finishSt r st).hostOut = s.hostOut := rfl
@[simp] theorem State.finishSt_ctxs (r : CmdRef) (st : Half) : (s.finishSt r st).ctxs = s.ctxs := rfl
@[simp] theorem State.finishSt_grid (r : CmdRef) (st : Half) : (s.finishSt r st).grid = s.grid := rfl
@[simp] theorem State.finishSt_cores (r : CmdRef) (st : Half) : (s.finishSt r st).cores = s.cores := rfl
@[simp] theorem State.finishSt_ms (r : CmdRef) (st : Half) : (s.finishSt r st).ms = s.ms := rfl
@[simp] theorem State.finishSt_keys (r : CmdRef) (st : Half) : (s.finishSt r st).keys = s.keys := rfl
@[simp] theorem State.finishSt_held (r : CmdRef) (st : Half) : (s.finishSt r st).held = s.held := rfl
@[simp] theorem State.finishSt_engines (r : CmdRef) (st : Half) : (s.finishSt r st).engines = s.engines := rfl
@[simp] theorem State.finishSt_fab (r : CmdRef) (st : Half) : (s.finishSt r st).fab = s.fab := rfl
@[simp] theorem State.finishSt_colls (r : CmdRef) (st : Half) : (s.finishSt r st).colls = s.colls := rfl
@[simp] theorem State.finishSt_job (r : CmdRef) (st : Half) : (s.finishSt r st).job = s.job := rfl
@[simp] theorem State.finishSt_arrivals (r : CmdRef) (st : Half) : (s.finishSt r st).arrivals = s.arrivals := rfl
@[simp] theorem State.finishSt_streams (r : CmdRef) (st : Half) : (s.finishSt r st).streams = s.streams := rfl
@[simp] theorem State.finishSt_power (r : CmdRef) (st : Half) : (s.finishSt r st).power = s.power := rfl
@[simp] theorem State.finishSt_sec (r : CmdRef) (st : Half) : (s.finishSt r st).sec = s.sec := rfl
@[simp] theorem State.finishSt_bb (r : CmdRef) (st : Half) : (s.finishSt r st).bb = s.bb := rfl
@[simp] theorem State.finishSt_tel (r : CmdRef) (st : Half) : (s.finishSt r st).tel = s.tel := rfl
@[simp] theorem State.finishSt_bg (r : CmdRef) (st : Half) : (s.finishSt r st).bg = s.bg := rfl
@[simp] theorem State.finishSt_rst (r : CmdRef) (st : Half) : (s.finishSt r st).rst = s.rst := rfl

/-! ### Reading after a setter -/

@[simp] theorem State.core_setCore_same (i : CoreId) (x : Core) : (s.setCore i x).core i = x := by simp [State.core, State.setCore]
theorem State.core_setCore_ne (i j : CoreId) (x : Core) (h : j ≠ i) : (s.setCore i x).core j = s.core j := by
  simp [State.core, State.setCore, Tab.get_set, Fin.val_inj, h]
@[simp] theorem State.setCore_setCore (i : CoreId) (x y : Core) : (s.setCore i x).setCore i y = s.setCore i y := by simp [State.setCore]
@[simp] theorem State.ctx_setCtx_same (i : CtxId) (x : Context) : (s.setCtx i x).ctx i = x := by simp [State.ctx, State.setCtx]
theorem State.ctx_setCtx_ne (i j : CtxId) (x : Context) (h : j ≠ i) : (s.setCtx i x).ctx j = s.ctx j := by
  simp [State.ctx, State.setCtx, Tab.get_set, Fin.val_inj, h]
@[simp] theorem State.setCtx_setCtx (i : CtxId) (x y : Context) : (s.setCtx i x).setCtx i y = s.setCtx i y := by simp [State.setCtx]
@[simp] theorem State.key_setKey_same (i : Nat) (x : BitVec 256) : (s.setKey i x).key i = x := by simp [State.key, State.setKey]
theorem State.key_setKey_ne (i j : Nat) (x : BitVec 256) (h : j ≠ i) : (s.setKey i x).key j = s.key j := by
  simp [State.key, State.setKey, Tab.get_set, h]
@[simp] theorem State.setKey_setKey (i : Nat) (x y : BitVec 256) : (s.setKey i x).setKey i y = s.setKey i y := by simp [State.setKey]
@[simp] theorem State.engine_setEngine_same (i : Nat) (x : Engine) : (s.setEngine i x).engine i = x := by simp [State.engine, State.setEngine]
theorem State.engine_setEngine_ne (i j : Nat) (x : Engine) (h : j ≠ i) : (s.setEngine i x).engine j = s.engine j := by
  simp [State.engine, State.setEngine, Tab.get_set, h]
@[simp] theorem State.setEngine_setEngine (i : Nat) (x y : Engine) : (s.setEngine i x).setEngine i y = s.setEngine i y := by simp [State.setEngine]
@[simp] theorem State.stream_setStream_same (i : Nat) (x : Stream) : (s.setStream i x).stream i = x := by simp [State.stream, State.setStream]
theorem State.stream_setStream_ne (i j : Nat) (x : Stream) (h : j ≠ i) : (s.setStream i x).stream j = s.stream j := by
  simp [State.stream, State.setStream, Tab.get_set, h]
@[simp] theorem State.setStream_setStream (i : Nat) (x y : Stream) : (s.setStream i x).setStream i y = s.setStream i y := by simp [State.setStream]
@[simp] theorem State.ring_setRing_same (i : CtxId) (x : Ring) : (s.setRing i x).ring i = x := by simp [State.ring, State.setRing]
theorem State.ring_setRing_ne (i j : CtxId) (x : Ring) (h : j ≠ i) : (s.setRing i x).ring j = s.ring j := by
  simp [State.ring, State.setRing, Tab.get_set, Fin.val_inj, h]
@[simp] theorem State.setRing_setRing (i : CtxId) (x y : Ring) : (s.setRing i x).setRing i y = s.setRing i y := by simp [State.setRing]
@[simp] theorem State.window_setWindow_same (i : Nat) (x : Window) : (s.setWindow i x).window i = x := by simp [State.window, State.setWindow]
theorem State.window_setWindow_ne (i j : Nat) (x : Window) (h : j ≠ i) : (s.setWindow i x).window j = s.window j := by
  simp [State.window, State.setWindow, Tab.get_set, h]
@[simp] theorem State.setWindow_setWindow (i : Nat) (x y : Window) : (s.setWindow i x).setWindow i y = s.setWindow i y := by simp [State.setWindow]
@[simp] theorem State.link_setLink_same (i : LinkId) (x : Link) : (s.setLink i x).link i = x := by simp [State.link, State.setLink]
theorem State.link_setLink_ne (i j : LinkId) (x : Link) (h : j ≠ i) : (s.setLink i x).link j = s.link j := by
  simp [State.link, State.setLink, Tab.get_set, Fin.val_inj, h]
@[simp] theorem State.setLink_setLink (i : LinkId) (x y : Link) : (s.setLink i x).setLink i y = s.setLink i y := by simp [State.setLink]
@[simp] theorem State.bank_setBank_same (i : Nat) (x : Bank) : (s.setBank i x).bank i = x := by simp [State.bank, State.setBank]
theorem State.bank_setBank_ne (i j : Nat) (x : Bank) (h : j ≠ i) : (s.setBank i x).bank j = s.bank j := by
  simp [State.bank, State.setBank, Tab.get_set, h]
@[simp] theorem State.setBank_setBank (i : Nat) (x y : Bank) : (s.setBank i x).setBank i y = s.setBank i y := by simp [State.setBank]
@[simp] theorem State.chan_setChan_same (i : Nat) (x : Channel) : (s.setChan i x).chan i = x := by simp [State.chan, State.setChan]
theorem State.chan_setChan_ne (i j : Nat) (x : Channel) (h : j ≠ i) : (s.setChan i x).chan j = s.chan j := by
  simp [State.chan, State.setChan, Tab.get_set, h]
@[simp] theorem State.setChan_setChan (i : Nat) (x y : Channel) : (s.setChan i x).setChan i y = s.setChan i y := by simp [State.setChan]
@[simp] theorem State.cxlPort_setCxl_same (i : Nat) (x : CxlPort) : (s.setCxl i x).cxlPort i = x := by simp [State.cxlPort, State.setCxl]
theorem State.cxlPort_setCxl_ne (i j : Nat) (x : CxlPort) (h : j ≠ i) : (s.setCxl i x).cxlPort j = s.cxlPort j := by
  simp [State.cxlPort, State.setCxl, Tab.get_set, h]
@[simp] theorem State.setCxl_setCxl (i : Nat) (x y : CxlPort) : (s.setCxl i x).setCxl i y = s.setCxl i y := by simp [State.setCxl]

/-! ### A setter leaves every other part as it was -/

@[simp] theorem State.core_setCtx (c : CtxId) (x : Context) (j : CoreId) : (s.setCtx c x).core j = s.core j := rfl
@[simp] theorem State.core_setKey (i : Nat) (x : BitVec 256) (j : CoreId) : (s.setKey i x).core j = s.core j := rfl
@[simp] theorem State.core_setEngine (e : Nat) (x : Engine) (j : CoreId) : (s.setEngine e x).core j = s.core j := rfl
@[simp] theorem State.core_setStream (n : Nat) (x : Stream) (j : CoreId) : (s.setStream n x).core j = s.core j := rfl
@[simp] theorem State.core_setColl (i : Nat) (x : Collective) (j : CoreId) : (s.setColl i x).core j = s.core j := rfl
@[simp] theorem State.core_setRing (c : CtxId) (x : Ring) (j : CoreId) : (s.setRing c x).core j = s.core j := rfl
@[simp] theorem State.core_setHost (x : HostIf) (j : CoreId) : (s.setHost x).core j = s.core j := rfl
@[simp] theorem State.core_setWindow (w : Nat) (x : Window) (j : CoreId) : (s.setWindow w x).core j = s.core j := rfl
@[simp] theorem State.core_setLink (l : LinkId) (x : Link) (j : CoreId) : (s.setLink l x).core j = s.core j := rfl
@[simp] theorem State.core_setBank (b : Nat) (x : Bank) (j : CoreId) : (s.setBank b x).core j = s.core j := rfl
@[simp] theorem State.core_setChan (c : Nat) (x : Channel) (j : CoreId) : (s.setChan c x).core j = s.core j := rfl
@[simp] theorem State.core_setCxl (p : Nat) (x : CxlPort) (j : CoreId) : (s.setCxl p x).core j = s.core j := rfl
@[simp] theorem State.core_setSec (x : Security) (j : CoreId) : (s.setSec x).core j = s.core j := rfl
@[simp] theorem State.core_setMod (x : Module) (j : CoreId) : (s.setMod x).core j = s.core j := rfl
@[simp] theorem State.core_setPower (x : Power) (j : CoreId) : (s.setPower x).core j = s.core j := rfl
@[simp] theorem State.core_setRst (x : ResetCtl) (j : CoreId) : (s.setRst x).core j = s.core j := rfl
@[simp] theorem State.core_setIsland (i : IslandId) (x : Island) (j : CoreId) : (s.setIsland i x).core j = s.core j := rfl
@[simp] theorem State.core_updCmd (r : CmdRef) (f : Cmd → Cmd) (j : CoreId) : (s.updCmd r f).core j = s.core j := rfl
@[simp] theorem State.core_setPhase (r : CmdRef) (p : Phase) (j : CoreId) : (s.setPhase r p).core j = s.core j := rfl
@[simp] theorem State.core_finish (r : CmdRef) (x : Record) (j : CoreId) : (s.finish r x).core j = s.core j := rfl
@[simp] theorem State.core_finishSt (r : CmdRef) (st : Half) (j : CoreId) : (s.finishSt r st).core j = s.core j := rfl
@[simp] theorem State.ctx_setCore (c : CoreId) (x : Core) (j : CtxId) : (s.setCore c x).ctx j = s.ctx j := rfl
@[simp] theorem State.ctx_setKey (i : Nat) (x : BitVec 256) (j : CtxId) : (s.setKey i x).ctx j = s.ctx j := rfl
@[simp] theorem State.ctx_setEngine (e : Nat) (x : Engine) (j : CtxId) : (s.setEngine e x).ctx j = s.ctx j := rfl
@[simp] theorem State.ctx_setStream (n : Nat) (x : Stream) (j : CtxId) : (s.setStream n x).ctx j = s.ctx j := rfl
@[simp] theorem State.ctx_setColl (i : Nat) (x : Collective) (j : CtxId) : (s.setColl i x).ctx j = s.ctx j := rfl
@[simp] theorem State.ctx_setRing (c : CtxId) (x : Ring) (j : CtxId) : (s.setRing c x).ctx j = s.ctx j := rfl
@[simp] theorem State.ctx_setHost (x : HostIf) (j : CtxId) : (s.setHost x).ctx j = s.ctx j := rfl
@[simp] theorem State.ctx_setWindow (w : Nat) (x : Window) (j : CtxId) : (s.setWindow w x).ctx j = s.ctx j := rfl
@[simp] theorem State.ctx_setLink (l : LinkId) (x : Link) (j : CtxId) : (s.setLink l x).ctx j = s.ctx j := rfl
@[simp] theorem State.ctx_setBank (b : Nat) (x : Bank) (j : CtxId) : (s.setBank b x).ctx j = s.ctx j := rfl
@[simp] theorem State.ctx_setChan (c : Nat) (x : Channel) (j : CtxId) : (s.setChan c x).ctx j = s.ctx j := rfl
@[simp] theorem State.ctx_setCxl (p : Nat) (x : CxlPort) (j : CtxId) : (s.setCxl p x).ctx j = s.ctx j := rfl
@[simp] theorem State.ctx_setSec (x : Security) (j : CtxId) : (s.setSec x).ctx j = s.ctx j := rfl
@[simp] theorem State.ctx_setMod (x : Module) (j : CtxId) : (s.setMod x).ctx j = s.ctx j := rfl
@[simp] theorem State.ctx_setPower (x : Power) (j : CtxId) : (s.setPower x).ctx j = s.ctx j := rfl
@[simp] theorem State.ctx_setRst (x : ResetCtl) (j : CtxId) : (s.setRst x).ctx j = s.ctx j := rfl
@[simp] theorem State.ctx_setIsland (i : IslandId) (x : Island) (j : CtxId) : (s.setIsland i x).ctx j = s.ctx j := rfl
@[simp] theorem State.ctx_updCmd (r : CmdRef) (f : Cmd → Cmd) (j : CtxId) : (s.updCmd r f).ctx j = s.ctx j := rfl
@[simp] theorem State.ctx_setPhase (r : CmdRef) (p : Phase) (j : CtxId) : (s.setPhase r p).ctx j = s.ctx j := rfl
@[simp] theorem State.ctx_finish (r : CmdRef) (x : Record) (j : CtxId) : (s.finish r x).ctx j = s.ctx j := rfl
@[simp] theorem State.ctx_finishSt (r : CmdRef) (st : Half) (j : CtxId) : (s.finishSt r st).ctx j = s.ctx j := rfl
@[simp] theorem State.key_setCore (c : CoreId) (x : Core) (j : Nat) : (s.setCore c x).key j = s.key j := rfl
@[simp] theorem State.key_setCtx (c : CtxId) (x : Context) (j : Nat) : (s.setCtx c x).key j = s.key j := rfl
@[simp] theorem State.key_setEngine (e : Nat) (x : Engine) (j : Nat) : (s.setEngine e x).key j = s.key j := rfl
@[simp] theorem State.key_setStream (n : Nat) (x : Stream) (j : Nat) : (s.setStream n x).key j = s.key j := rfl
@[simp] theorem State.key_setColl (i : Nat) (x : Collective) (j : Nat) : (s.setColl i x).key j = s.key j := rfl
@[simp] theorem State.key_setRing (c : CtxId) (x : Ring) (j : Nat) : (s.setRing c x).key j = s.key j := rfl
@[simp] theorem State.key_setHost (x : HostIf) (j : Nat) : (s.setHost x).key j = s.key j := rfl
@[simp] theorem State.key_setWindow (w : Nat) (x : Window) (j : Nat) : (s.setWindow w x).key j = s.key j := rfl
@[simp] theorem State.key_setLink (l : LinkId) (x : Link) (j : Nat) : (s.setLink l x).key j = s.key j := rfl
@[simp] theorem State.key_setBank (b : Nat) (x : Bank) (j : Nat) : (s.setBank b x).key j = s.key j := rfl
@[simp] theorem State.key_setChan (c : Nat) (x : Channel) (j : Nat) : (s.setChan c x).key j = s.key j := rfl
@[simp] theorem State.key_setCxl (p : Nat) (x : CxlPort) (j : Nat) : (s.setCxl p x).key j = s.key j := rfl
@[simp] theorem State.key_setSec (x : Security) (j : Nat) : (s.setSec x).key j = s.key j := rfl
@[simp] theorem State.key_setMod (x : Module) (j : Nat) : (s.setMod x).key j = s.key j := rfl
@[simp] theorem State.key_setPower (x : Power) (j : Nat) : (s.setPower x).key j = s.key j := rfl
@[simp] theorem State.key_setRst (x : ResetCtl) (j : Nat) : (s.setRst x).key j = s.key j := rfl
@[simp] theorem State.key_setIsland (i : IslandId) (x : Island) (j : Nat) : (s.setIsland i x).key j = s.key j := rfl
@[simp] theorem State.key_updCmd (r : CmdRef) (f : Cmd → Cmd) (j : Nat) : (s.updCmd r f).key j = s.key j := rfl
@[simp] theorem State.key_setPhase (r : CmdRef) (p : Phase) (j : Nat) : (s.setPhase r p).key j = s.key j := rfl
@[simp] theorem State.key_finish (r : CmdRef) (x : Record) (j : Nat) : (s.finish r x).key j = s.key j := rfl
@[simp] theorem State.key_finishSt (r : CmdRef) (st : Half) (j : Nat) : (s.finishSt r st).key j = s.key j := rfl
@[simp] theorem State.engine_setCore (c : CoreId) (x : Core) (j : Nat) : (s.setCore c x).engine j = s.engine j := rfl
@[simp] theorem State.engine_setCtx (c : CtxId) (x : Context) (j : Nat) : (s.setCtx c x).engine j = s.engine j := rfl
@[simp] theorem State.engine_setKey (i : Nat) (x : BitVec 256) (j : Nat) : (s.setKey i x).engine j = s.engine j := rfl
@[simp] theorem State.engine_setStream (n : Nat) (x : Stream) (j : Nat) : (s.setStream n x).engine j = s.engine j := rfl
@[simp] theorem State.engine_setColl (i : Nat) (x : Collective) (j : Nat) : (s.setColl i x).engine j = s.engine j := rfl
@[simp] theorem State.engine_setRing (c : CtxId) (x : Ring) (j : Nat) : (s.setRing c x).engine j = s.engine j := rfl
@[simp] theorem State.engine_setHost (x : HostIf) (j : Nat) : (s.setHost x).engine j = s.engine j := rfl
@[simp] theorem State.engine_setWindow (w : Nat) (x : Window) (j : Nat) : (s.setWindow w x).engine j = s.engine j := rfl
@[simp] theorem State.engine_setLink (l : LinkId) (x : Link) (j : Nat) : (s.setLink l x).engine j = s.engine j := rfl
@[simp] theorem State.engine_setBank (b : Nat) (x : Bank) (j : Nat) : (s.setBank b x).engine j = s.engine j := rfl
@[simp] theorem State.engine_setChan (c : Nat) (x : Channel) (j : Nat) : (s.setChan c x).engine j = s.engine j := rfl
@[simp] theorem State.engine_setCxl (p : Nat) (x : CxlPort) (j : Nat) : (s.setCxl p x).engine j = s.engine j := rfl
@[simp] theorem State.engine_setSec (x : Security) (j : Nat) : (s.setSec x).engine j = s.engine j := rfl
@[simp] theorem State.engine_setMod (x : Module) (j : Nat) : (s.setMod x).engine j = s.engine j := rfl
@[simp] theorem State.engine_setPower (x : Power) (j : Nat) : (s.setPower x).engine j = s.engine j := rfl
@[simp] theorem State.engine_setRst (x : ResetCtl) (j : Nat) : (s.setRst x).engine j = s.engine j := rfl
@[simp] theorem State.engine_setIsland (i : IslandId) (x : Island) (j : Nat) : (s.setIsland i x).engine j = s.engine j := rfl
@[simp] theorem State.engine_updCmd (r : CmdRef) (f : Cmd → Cmd) (j : Nat) : (s.updCmd r f).engine j = s.engine j := rfl
@[simp] theorem State.engine_setPhase (r : CmdRef) (p : Phase) (j : Nat) : (s.setPhase r p).engine j = s.engine j := rfl
@[simp] theorem State.engine_finish (r : CmdRef) (x : Record) (j : Nat) : (s.finish r x).engine j = s.engine j := rfl
@[simp] theorem State.engine_finishSt (r : CmdRef) (st : Half) (j : Nat) : (s.finishSt r st).engine j = s.engine j := rfl
@[simp] theorem State.stream_setCore (c : CoreId) (x : Core) (j : Nat) : (s.setCore c x).stream j = s.stream j := rfl
@[simp] theorem State.stream_setCtx (c : CtxId) (x : Context) (j : Nat) : (s.setCtx c x).stream j = s.stream j := rfl
@[simp] theorem State.stream_setKey (i : Nat) (x : BitVec 256) (j : Nat) : (s.setKey i x).stream j = s.stream j := rfl
@[simp] theorem State.stream_setEngine (e : Nat) (x : Engine) (j : Nat) : (s.setEngine e x).stream j = s.stream j := rfl
@[simp] theorem State.stream_setColl (i : Nat) (x : Collective) (j : Nat) : (s.setColl i x).stream j = s.stream j := rfl
@[simp] theorem State.stream_setRing (c : CtxId) (x : Ring) (j : Nat) : (s.setRing c x).stream j = s.stream j := rfl
@[simp] theorem State.stream_setHost (x : HostIf) (j : Nat) : (s.setHost x).stream j = s.stream j := rfl
@[simp] theorem State.stream_setWindow (w : Nat) (x : Window) (j : Nat) : (s.setWindow w x).stream j = s.stream j := rfl
@[simp] theorem State.stream_setLink (l : LinkId) (x : Link) (j : Nat) : (s.setLink l x).stream j = s.stream j := rfl
@[simp] theorem State.stream_setBank (b : Nat) (x : Bank) (j : Nat) : (s.setBank b x).stream j = s.stream j := rfl
@[simp] theorem State.stream_setChan (c : Nat) (x : Channel) (j : Nat) : (s.setChan c x).stream j = s.stream j := rfl
@[simp] theorem State.stream_setCxl (p : Nat) (x : CxlPort) (j : Nat) : (s.setCxl p x).stream j = s.stream j := rfl
@[simp] theorem State.stream_setSec (x : Security) (j : Nat) : (s.setSec x).stream j = s.stream j := rfl
@[simp] theorem State.stream_setMod (x : Module) (j : Nat) : (s.setMod x).stream j = s.stream j := rfl
@[simp] theorem State.stream_setPower (x : Power) (j : Nat) : (s.setPower x).stream j = s.stream j := rfl
@[simp] theorem State.stream_setRst (x : ResetCtl) (j : Nat) : (s.setRst x).stream j = s.stream j := rfl
@[simp] theorem State.stream_setIsland (i : IslandId) (x : Island) (j : Nat) : (s.setIsland i x).stream j = s.stream j := rfl
@[simp] theorem State.stream_updCmd (r : CmdRef) (f : Cmd → Cmd) (j : Nat) : (s.updCmd r f).stream j = s.stream j := rfl
@[simp] theorem State.stream_setPhase (r : CmdRef) (p : Phase) (j : Nat) : (s.setPhase r p).stream j = s.stream j := rfl
@[simp] theorem State.stream_finish (r : CmdRef) (x : Record) (j : Nat) : (s.finish r x).stream j = s.stream j := rfl
@[simp] theorem State.stream_finishSt (r : CmdRef) (st : Half) (j : Nat) : (s.finishSt r st).stream j = s.stream j := rfl
@[simp] theorem State.ring_setCore (c : CoreId) (x : Core) (j : CtxId) : (s.setCore c x).ring j = s.ring j := rfl
@[simp] theorem State.ring_setCtx (c : CtxId) (x : Context) (j : CtxId) : (s.setCtx c x).ring j = s.ring j := rfl
@[simp] theorem State.ring_setKey (i : Nat) (x : BitVec 256) (j : CtxId) : (s.setKey i x).ring j = s.ring j := rfl
@[simp] theorem State.ring_setEngine (e : Nat) (x : Engine) (j : CtxId) : (s.setEngine e x).ring j = s.ring j := rfl
@[simp] theorem State.ring_setStream (n : Nat) (x : Stream) (j : CtxId) : (s.setStream n x).ring j = s.ring j := rfl
@[simp] theorem State.ring_setColl (i : Nat) (x : Collective) (j : CtxId) : (s.setColl i x).ring j = s.ring j := rfl
@[simp] theorem State.ring_setWindow (w : Nat) (x : Window) (j : CtxId) : (s.setWindow w x).ring j = s.ring j := rfl
@[simp] theorem State.ring_setLink (l : LinkId) (x : Link) (j : CtxId) : (s.setLink l x).ring j = s.ring j := rfl
@[simp] theorem State.ring_setBank (b : Nat) (x : Bank) (j : CtxId) : (s.setBank b x).ring j = s.ring j := rfl
@[simp] theorem State.ring_setChan (c : Nat) (x : Channel) (j : CtxId) : (s.setChan c x).ring j = s.ring j := rfl
@[simp] theorem State.ring_setCxl (p : Nat) (x : CxlPort) (j : CtxId) : (s.setCxl p x).ring j = s.ring j := rfl
@[simp] theorem State.ring_setSec (x : Security) (j : CtxId) : (s.setSec x).ring j = s.ring j := rfl
@[simp] theorem State.ring_setMod (x : Module) (j : CtxId) : (s.setMod x).ring j = s.ring j := rfl
@[simp] theorem State.ring_setPower (x : Power) (j : CtxId) : (s.setPower x).ring j = s.ring j := rfl
@[simp] theorem State.ring_setRst (x : ResetCtl) (j : CtxId) : (s.setRst x).ring j = s.ring j := rfl
@[simp] theorem State.ring_setIsland (i : IslandId) (x : Island) (j : CtxId) : (s.setIsland i x).ring j = s.ring j := rfl
@[simp] theorem State.ring_updCmd (r : CmdRef) (f : Cmd → Cmd) (j : CtxId) : (s.updCmd r f).ring j = s.ring j := rfl
@[simp] theorem State.ring_setPhase (r : CmdRef) (p : Phase) (j : CtxId) : (s.setPhase r p).ring j = s.ring j := rfl
@[simp] theorem State.ring_finish (r : CmdRef) (x : Record) (j : CtxId) : (s.finish r x).ring j = s.ring j := rfl
@[simp] theorem State.ring_finishSt (r : CmdRef) (st : Half) (j : CtxId) : (s.finishSt r st).ring j = s.ring j := rfl
@[simp] theorem State.window_setCore (c : CoreId) (x : Core) (j : Nat) : (s.setCore c x).window j = s.window j := rfl
@[simp] theorem State.window_setCtx (c : CtxId) (x : Context) (j : Nat) : (s.setCtx c x).window j = s.window j := rfl
@[simp] theorem State.window_setKey (i : Nat) (x : BitVec 256) (j : Nat) : (s.setKey i x).window j = s.window j := rfl
@[simp] theorem State.window_setEngine (e : Nat) (x : Engine) (j : Nat) : (s.setEngine e x).window j = s.window j := rfl
@[simp] theorem State.window_setStream (n : Nat) (x : Stream) (j : Nat) : (s.setStream n x).window j = s.window j := rfl
@[simp] theorem State.window_setColl (i : Nat) (x : Collective) (j : Nat) : (s.setColl i x).window j = s.window j := rfl
@[simp] theorem State.window_setRing (c : CtxId) (x : Ring) (j : Nat) : (s.setRing c x).window j = s.window j := rfl
@[simp] theorem State.window_setHost (x : HostIf) (j : Nat) : (s.setHost x).window j = s.window j := rfl
@[simp] theorem State.window_setLink (l : LinkId) (x : Link) (j : Nat) : (s.setLink l x).window j = s.window j := rfl
@[simp] theorem State.window_setBank (b : Nat) (x : Bank) (j : Nat) : (s.setBank b x).window j = s.window j := rfl
@[simp] theorem State.window_setChan (c : Nat) (x : Channel) (j : Nat) : (s.setChan c x).window j = s.window j := rfl
@[simp] theorem State.window_setCxl (p : Nat) (x : CxlPort) (j : Nat) : (s.setCxl p x).window j = s.window j := rfl
@[simp] theorem State.window_setSec (x : Security) (j : Nat) : (s.setSec x).window j = s.window j := rfl
@[simp] theorem State.window_setMod (x : Module) (j : Nat) : (s.setMod x).window j = s.window j := rfl
@[simp] theorem State.window_setPower (x : Power) (j : Nat) : (s.setPower x).window j = s.window j := rfl
@[simp] theorem State.window_setRst (x : ResetCtl) (j : Nat) : (s.setRst x).window j = s.window j := rfl
@[simp] theorem State.window_setIsland (i : IslandId) (x : Island) (j : Nat) : (s.setIsland i x).window j = s.window j := rfl
@[simp] theorem State.window_updCmd (r : CmdRef) (f : Cmd → Cmd) (j : Nat) : (s.updCmd r f).window j = s.window j := rfl
@[simp] theorem State.window_setPhase (r : CmdRef) (p : Phase) (j : Nat) : (s.setPhase r p).window j = s.window j := rfl
@[simp] theorem State.window_finish (r : CmdRef) (x : Record) (j : Nat) : (s.finish r x).window j = s.window j := rfl
@[simp] theorem State.window_finishSt (r : CmdRef) (st : Half) (j : Nat) : (s.finishSt r st).window j = s.window j := rfl
@[simp] theorem State.link_setCore (c : CoreId) (x : Core) (j : LinkId) : (s.setCore c x).link j = s.link j := rfl
@[simp] theorem State.link_setCtx (c : CtxId) (x : Context) (j : LinkId) : (s.setCtx c x).link j = s.link j := rfl
@[simp] theorem State.link_setKey (i : Nat) (x : BitVec 256) (j : LinkId) : (s.setKey i x).link j = s.link j := rfl
@[simp] theorem State.link_setEngine (e : Nat) (x : Engine) (j : LinkId) : (s.setEngine e x).link j = s.link j := rfl
@[simp] theorem State.link_setStream (n : Nat) (x : Stream) (j : LinkId) : (s.setStream n x).link j = s.link j := rfl
@[simp] theorem State.link_setColl (i : Nat) (x : Collective) (j : LinkId) : (s.setColl i x).link j = s.link j := rfl
@[simp] theorem State.link_setRing (c : CtxId) (x : Ring) (j : LinkId) : (s.setRing c x).link j = s.link j := rfl
@[simp] theorem State.link_setHost (x : HostIf) (j : LinkId) : (s.setHost x).link j = s.link j := rfl
@[simp] theorem State.link_setWindow (w : Nat) (x : Window) (j : LinkId) : (s.setWindow w x).link j = s.link j := rfl
@[simp] theorem State.link_setBank (b : Nat) (x : Bank) (j : LinkId) : (s.setBank b x).link j = s.link j := rfl
@[simp] theorem State.link_setChan (c : Nat) (x : Channel) (j : LinkId) : (s.setChan c x).link j = s.link j := rfl
@[simp] theorem State.link_setCxl (p : Nat) (x : CxlPort) (j : LinkId) : (s.setCxl p x).link j = s.link j := rfl
@[simp] theorem State.link_setSec (x : Security) (j : LinkId) : (s.setSec x).link j = s.link j := rfl
@[simp] theorem State.link_setMod (x : Module) (j : LinkId) : (s.setMod x).link j = s.link j := rfl
@[simp] theorem State.link_setPower (x : Power) (j : LinkId) : (s.setPower x).link j = s.link j := rfl
@[simp] theorem State.link_setRst (x : ResetCtl) (j : LinkId) : (s.setRst x).link j = s.link j := rfl
@[simp] theorem State.link_setIsland (i : IslandId) (x : Island) (j : LinkId) : (s.setIsland i x).link j = s.link j := rfl
@[simp] theorem State.link_updCmd (r : CmdRef) (f : Cmd → Cmd) (j : LinkId) : (s.updCmd r f).link j = s.link j := rfl
@[simp] theorem State.link_setPhase (r : CmdRef) (p : Phase) (j : LinkId) : (s.setPhase r p).link j = s.link j := rfl
@[simp] theorem State.link_finish (r : CmdRef) (x : Record) (j : LinkId) : (s.finish r x).link j = s.link j := rfl
@[simp] theorem State.link_finishSt (r : CmdRef) (st : Half) (j : LinkId) : (s.finishSt r st).link j = s.link j := rfl
@[simp] theorem State.bank_setCore (c : CoreId) (x : Core) (j : Nat) : (s.setCore c x).bank j = s.bank j := rfl
@[simp] theorem State.bank_setCtx (c : CtxId) (x : Context) (j : Nat) : (s.setCtx c x).bank j = s.bank j := rfl
@[simp] theorem State.bank_setKey (i : Nat) (x : BitVec 256) (j : Nat) : (s.setKey i x).bank j = s.bank j := rfl
@[simp] theorem State.bank_setEngine (e : Nat) (x : Engine) (j : Nat) : (s.setEngine e x).bank j = s.bank j := rfl
@[simp] theorem State.bank_setStream (n : Nat) (x : Stream) (j : Nat) : (s.setStream n x).bank j = s.bank j := rfl
@[simp] theorem State.bank_setColl (i : Nat) (x : Collective) (j : Nat) : (s.setColl i x).bank j = s.bank j := rfl
@[simp] theorem State.bank_setRing (c : CtxId) (x : Ring) (j : Nat) : (s.setRing c x).bank j = s.bank j := rfl
@[simp] theorem State.bank_setHost (x : HostIf) (j : Nat) : (s.setHost x).bank j = s.bank j := rfl
@[simp] theorem State.bank_setWindow (w : Nat) (x : Window) (j : Nat) : (s.setWindow w x).bank j = s.bank j := rfl
@[simp] theorem State.bank_setLink (l : LinkId) (x : Link) (j : Nat) : (s.setLink l x).bank j = s.bank j := rfl
@[simp] theorem State.bank_setChan (c : Nat) (x : Channel) (j : Nat) : (s.setChan c x).bank j = s.bank j := rfl
@[simp] theorem State.bank_setCxl (p : Nat) (x : CxlPort) (j : Nat) : (s.setCxl p x).bank j = s.bank j := rfl
@[simp] theorem State.bank_setSec (x : Security) (j : Nat) : (s.setSec x).bank j = s.bank j := rfl
@[simp] theorem State.bank_setMod (x : Module) (j : Nat) : (s.setMod x).bank j = s.bank j := rfl
@[simp] theorem State.bank_setPower (x : Power) (j : Nat) : (s.setPower x).bank j = s.bank j := rfl
@[simp] theorem State.bank_setRst (x : ResetCtl) (j : Nat) : (s.setRst x).bank j = s.bank j := rfl
@[simp] theorem State.bank_setIsland (i : IslandId) (x : Island) (j : Nat) : (s.setIsland i x).bank j = s.bank j := rfl
@[simp] theorem State.bank_updCmd (r : CmdRef) (f : Cmd → Cmd) (j : Nat) : (s.updCmd r f).bank j = s.bank j := rfl
@[simp] theorem State.bank_setPhase (r : CmdRef) (p : Phase) (j : Nat) : (s.setPhase r p).bank j = s.bank j := rfl
@[simp] theorem State.bank_finish (r : CmdRef) (x : Record) (j : Nat) : (s.finish r x).bank j = s.bank j := rfl
@[simp] theorem State.bank_finishSt (r : CmdRef) (st : Half) (j : Nat) : (s.finishSt r st).bank j = s.bank j := rfl
@[simp] theorem State.chan_setCore (c : CoreId) (x : Core) (j : Nat) : (s.setCore c x).chan j = s.chan j := rfl
@[simp] theorem State.chan_setCtx (c : CtxId) (x : Context) (j : Nat) : (s.setCtx c x).chan j = s.chan j := rfl
@[simp] theorem State.chan_setKey (i : Nat) (x : BitVec 256) (j : Nat) : (s.setKey i x).chan j = s.chan j := rfl
@[simp] theorem State.chan_setEngine (e : Nat) (x : Engine) (j : Nat) : (s.setEngine e x).chan j = s.chan j := rfl
@[simp] theorem State.chan_setStream (n : Nat) (x : Stream) (j : Nat) : (s.setStream n x).chan j = s.chan j := rfl
@[simp] theorem State.chan_setColl (i : Nat) (x : Collective) (j : Nat) : (s.setColl i x).chan j = s.chan j := rfl
@[simp] theorem State.chan_setRing (c : CtxId) (x : Ring) (j : Nat) : (s.setRing c x).chan j = s.chan j := rfl
@[simp] theorem State.chan_setHost (x : HostIf) (j : Nat) : (s.setHost x).chan j = s.chan j := rfl
@[simp] theorem State.chan_setWindow (w : Nat) (x : Window) (j : Nat) : (s.setWindow w x).chan j = s.chan j := rfl
@[simp] theorem State.chan_setLink (l : LinkId) (x : Link) (j : Nat) : (s.setLink l x).chan j = s.chan j := rfl
@[simp] theorem State.chan_setBank (b : Nat) (x : Bank) (j : Nat) : (s.setBank b x).chan j = s.chan j := rfl
@[simp] theorem State.chan_setCxl (p : Nat) (x : CxlPort) (j : Nat) : (s.setCxl p x).chan j = s.chan j := rfl
@[simp] theorem State.chan_setSec (x : Security) (j : Nat) : (s.setSec x).chan j = s.chan j := rfl
@[simp] theorem State.chan_setMod (x : Module) (j : Nat) : (s.setMod x).chan j = s.chan j := rfl
@[simp] theorem State.chan_setPower (x : Power) (j : Nat) : (s.setPower x).chan j = s.chan j := rfl
@[simp] theorem State.chan_setRst (x : ResetCtl) (j : Nat) : (s.setRst x).chan j = s.chan j := rfl
@[simp] theorem State.chan_setIsland (i : IslandId) (x : Island) (j : Nat) : (s.setIsland i x).chan j = s.chan j := rfl
@[simp] theorem State.chan_updCmd (r : CmdRef) (f : Cmd → Cmd) (j : Nat) : (s.updCmd r f).chan j = s.chan j := rfl
@[simp] theorem State.chan_setPhase (r : CmdRef) (p : Phase) (j : Nat) : (s.setPhase r p).chan j = s.chan j := rfl
@[simp] theorem State.chan_finish (r : CmdRef) (x : Record) (j : Nat) : (s.finish r x).chan j = s.chan j := rfl
@[simp] theorem State.chan_finishSt (r : CmdRef) (st : Half) (j : Nat) : (s.finishSt r st).chan j = s.chan j := rfl
@[simp] theorem State.cxlPort_setCore (c : CoreId) (x : Core) (j : Nat) : (s.setCore c x).cxlPort j = s.cxlPort j := rfl
@[simp] theorem State.cxlPort_setCtx (c : CtxId) (x : Context) (j : Nat) : (s.setCtx c x).cxlPort j = s.cxlPort j := rfl
@[simp] theorem State.cxlPort_setKey (i : Nat) (x : BitVec 256) (j : Nat) : (s.setKey i x).cxlPort j = s.cxlPort j := rfl
@[simp] theorem State.cxlPort_setEngine (e : Nat) (x : Engine) (j : Nat) : (s.setEngine e x).cxlPort j = s.cxlPort j := rfl
@[simp] theorem State.cxlPort_setStream (n : Nat) (x : Stream) (j : Nat) : (s.setStream n x).cxlPort j = s.cxlPort j := rfl
@[simp] theorem State.cxlPort_setColl (i : Nat) (x : Collective) (j : Nat) : (s.setColl i x).cxlPort j = s.cxlPort j := rfl
@[simp] theorem State.cxlPort_setRing (c : CtxId) (x : Ring) (j : Nat) : (s.setRing c x).cxlPort j = s.cxlPort j := rfl
@[simp] theorem State.cxlPort_setHost (x : HostIf) (j : Nat) : (s.setHost x).cxlPort j = s.cxlPort j := rfl
@[simp] theorem State.cxlPort_setWindow (w : Nat) (x : Window) (j : Nat) : (s.setWindow w x).cxlPort j = s.cxlPort j := rfl
@[simp] theorem State.cxlPort_setLink (l : LinkId) (x : Link) (j : Nat) : (s.setLink l x).cxlPort j = s.cxlPort j := rfl
@[simp] theorem State.cxlPort_setBank (b : Nat) (x : Bank) (j : Nat) : (s.setBank b x).cxlPort j = s.cxlPort j := rfl
@[simp] theorem State.cxlPort_setChan (c : Nat) (x : Channel) (j : Nat) : (s.setChan c x).cxlPort j = s.cxlPort j := rfl
@[simp] theorem State.cxlPort_setSec (x : Security) (j : Nat) : (s.setSec x).cxlPort j = s.cxlPort j := rfl
@[simp] theorem State.cxlPort_setMod (x : Module) (j : Nat) : (s.setMod x).cxlPort j = s.cxlPort j := rfl
@[simp] theorem State.cxlPort_setPower (x : Power) (j : Nat) : (s.setPower x).cxlPort j = s.cxlPort j := rfl
@[simp] theorem State.cxlPort_setRst (x : ResetCtl) (j : Nat) : (s.setRst x).cxlPort j = s.cxlPort j := rfl
@[simp] theorem State.cxlPort_setIsland (i : IslandId) (x : Island) (j : Nat) : (s.setIsland i x).cxlPort j = s.cxlPort j := rfl
@[simp] theorem State.cxlPort_updCmd (r : CmdRef) (f : Cmd → Cmd) (j : Nat) : (s.updCmd r f).cxlPort j = s.cxlPort j := rfl
@[simp] theorem State.cxlPort_setPhase (r : CmdRef) (p : Phase) (j : Nat) : (s.setPhase r p).cxlPort j = s.cxlPort j := rfl
@[simp] theorem State.cxlPort_finish (r : CmdRef) (x : Record) (j : Nat) : (s.finish r x).cxlPort j = s.cxlPort j := rfl
@[simp] theorem State.cxlPort_finishSt (r : CmdRef) (st : Half) (j : Nat) : (s.finishSt r st).cxlPort j = s.cxlPort j := rfl
@[simp] theorem State.cmdQ_setCore (c : CoreId) (x : Core) (j : CmdRef) : (s.setCore c x).cmd? j = s.cmd? j := rfl
@[simp] theorem State.cmdQ_setCtx (c : CtxId) (x : Context) (j : CmdRef) : (s.setCtx c x).cmd? j = s.cmd? j := rfl
@[simp] theorem State.cmdQ_setKey (i : Nat) (x : BitVec 256) (j : CmdRef) : (s.setKey i x).cmd? j = s.cmd? j := rfl
@[simp] theorem State.cmdQ_setEngine (e : Nat) (x : Engine) (j : CmdRef) : (s.setEngine e x).cmd? j = s.cmd? j := rfl
@[simp] theorem State.cmdQ_setStream (n : Nat) (x : Stream) (j : CmdRef) : (s.setStream n x).cmd? j = s.cmd? j := rfl
@[simp] theorem State.cmdQ_setColl (i : Nat) (x : Collective) (j : CmdRef) : (s.setColl i x).cmd? j = s.cmd? j := rfl
@[simp] theorem State.cmdQ_setRing (c : CtxId) (x : Ring) (j : CmdRef) : (s.setRing c x).cmd? j = s.cmd? j := rfl
@[simp] theorem State.cmdQ_setHost (x : HostIf) (j : CmdRef) : (s.setHost x).cmd? j = s.cmd? j := rfl
@[simp] theorem State.cmdQ_setWindow (w : Nat) (x : Window) (j : CmdRef) : (s.setWindow w x).cmd? j = s.cmd? j := rfl
@[simp] theorem State.cmdQ_setLink (l : LinkId) (x : Link) (j : CmdRef) : (s.setLink l x).cmd? j = s.cmd? j := rfl
@[simp] theorem State.cmdQ_setBank (b : Nat) (x : Bank) (j : CmdRef) : (s.setBank b x).cmd? j = s.cmd? j := rfl
@[simp] theorem State.cmdQ_setChan (c : Nat) (x : Channel) (j : CmdRef) : (s.setChan c x).cmd? j = s.cmd? j := rfl
@[simp] theorem State.cmdQ_setCxl (p : Nat) (x : CxlPort) (j : CmdRef) : (s.setCxl p x).cmd? j = s.cmd? j := rfl
@[simp] theorem State.cmdQ_setSec (x : Security) (j : CmdRef) : (s.setSec x).cmd? j = s.cmd? j := rfl
@[simp] theorem State.cmdQ_setMod (x : Module) (j : CmdRef) : (s.setMod x).cmd? j = s.cmd? j := rfl
@[simp] theorem State.cmdQ_setPower (x : Power) (j : CmdRef) : (s.setPower x).cmd? j = s.cmd? j := rfl
@[simp] theorem State.cmdQ_setRst (x : ResetCtl) (j : CmdRef) : (s.setRst x).cmd? j = s.cmd? j := rfl
@[simp] theorem State.cmdQ_setIsland (i : IslandId) (x : Island) (j : CmdRef) : (s.setIsland i x).cmd? j = s.cmd? j := rfl
@[simp] theorem State.coll_setCore (c : CoreId) (x : Core) (j : Nat) : (s.setCore c x).coll j = s.coll j := rfl
@[simp] theorem State.coll_setCtx (c : CtxId) (x : Context) (j : Nat) : (s.setCtx c x).coll j = s.coll j := rfl
@[simp] theorem State.coll_setKey (i : Nat) (x : BitVec 256) (j : Nat) : (s.setKey i x).coll j = s.coll j := rfl
@[simp] theorem State.coll_setEngine (e : Nat) (x : Engine) (j : Nat) : (s.setEngine e x).coll j = s.coll j := rfl
@[simp] theorem State.coll_setStream (n : Nat) (x : Stream) (j : Nat) : (s.setStream n x).coll j = s.coll j := rfl
@[simp] theorem State.coll_setRing (c : CtxId) (x : Ring) (j : Nat) : (s.setRing c x).coll j = s.coll j := rfl
@[simp] theorem State.coll_setHost (x : HostIf) (j : Nat) : (s.setHost x).coll j = s.coll j := rfl
@[simp] theorem State.coll_setWindow (w : Nat) (x : Window) (j : Nat) : (s.setWindow w x).coll j = s.coll j := rfl
@[simp] theorem State.coll_setLink (l : LinkId) (x : Link) (j : Nat) : (s.setLink l x).coll j = s.coll j := rfl
@[simp] theorem State.coll_setBank (b : Nat) (x : Bank) (j : Nat) : (s.setBank b x).coll j = s.coll j := rfl
@[simp] theorem State.coll_setChan (c : Nat) (x : Channel) (j : Nat) : (s.setChan c x).coll j = s.coll j := rfl
@[simp] theorem State.coll_setCxl (p : Nat) (x : CxlPort) (j : Nat) : (s.setCxl p x).coll j = s.coll j := rfl
@[simp] theorem State.coll_setSec (x : Security) (j : Nat) : (s.setSec x).coll j = s.coll j := rfl
@[simp] theorem State.coll_setMod (x : Module) (j : Nat) : (s.setMod x).coll j = s.coll j := rfl
@[simp] theorem State.coll_setPower (x : Power) (j : Nat) : (s.setPower x).coll j = s.coll j := rfl
@[simp] theorem State.coll_setRst (x : ResetCtl) (j : Nat) : (s.setRst x).coll j = s.coll j := rfl
@[simp] theorem State.coll_setIsland (i : IslandId) (x : Island) (j : Nat) : (s.setIsland i x).coll j = s.coll j := rfl
@[simp] theorem State.coll_updCmd (r : CmdRef) (f : Cmd → Cmd) (j : Nat) : (s.updCmd r f).coll j = s.coll j := rfl
@[simp] theorem State.coll_setPhase (r : CmdRef) (p : Phase) (j : Nat) : (s.setPhase r p).coll j = s.coll j := rfl
@[simp] theorem State.coll_finish (r : CmdRef) (x : Record) (j : Nat) : (s.finish r x).coll j = s.coll j := rfl
@[simp] theorem State.coll_finishSt (r : CmdRef) (st : Half) (j : Nat) : (s.finishSt r st).coll j = s.coll j := rfl

/-! ### Free values -/

@[simp] theorem State.fresh_fst (w : Nat) : (s.fresh w).1 = (Config.freeValue s.free).setWidth w := rfl
@[simp] theorem State.fresh_snd (w : Nat) : (s.fresh w).2 = { s with free := s.free + 1 } := rfl

/-! ### Memory of a state -/

@[simp] theorem State.setBank_mem (b : Nat) (x : Bank) : (s.setBank b x).ms.mem = s.ms.mem := rfl
@[simp] theorem State.setChan_mem (b : Nat) (x : Channel) : (s.setChan b x).ms.mem = s.ms.mem := rfl
@[simp] theorem State.setCxl_mem (b : Nat) (x : CxlPort) : (s.setCxl b x).ms.mem = s.ms.mem := rfl
@[simp] theorem State.setBank_poison (b : Nat) (x : Bank) : (s.setBank b x).ms.poison = s.ms.poison := rfl
@[simp] theorem State.setChan_poison (b : Nat) (x : Channel) : (s.setChan b x).ms.poison = s.ms.poison := rfl
@[simp] theorem State.setCxl_poison (b : Nat) (x : CxlPort) : (s.setCxl b x).ms.poison = s.ms.poison := rfl

end Sys2Proof.Machine
end

