-- ==== Sys2Proof/Laws/Access.lean ====
section
/-!
SUPPORT. Rows of every tier and accesses through entries: what each shared operation can change.
-/
namespace Sys2Proof.Machine

/-- A black-box record changes the black box alone. -/
theorem bbAppend_eq (s : State) (k : Nat) (c : Option CtxId) (p : BitVec 384) : ∃ b, bbAppend s k c p = { s with bb := b } := by
  unfold bbAppend
  dsimp only
  split
  · exact ⟨_, rfl⟩
  · split <;> exact ⟨_, rfl⟩

/-- Every record takes a number. -/
@[simp] theorem bbAppend_total (s : State) (k : Nat) (c : Option CtxId) (p : BitVec 384) :
    (bbAppend s k c p).bb.total = s.bb.total + 1 := by
  unfold bbAppend
  dsimp only
  split
  · rfl
  · split <;> rfl

@[simp] theorem bbAppend_ms (s : State) (k : Nat) (c : Option CtxId) (p : BitVec 384) : (bbAppend s k c p).ms = s.ms := by
  obtain ⟨b, h⟩ := bbAppend_eq s k c p
  rw [h]

/-- Poisoning a channel changes its mark and the black box. -/
theorem poisonChannel_eq (s : State) (c : Nat) : ∃ ch b, poisonChannel s c = { s with ms := { s.ms with chans := ch }, bb := b } := by
  unfold poisonChannel
  split
  · exact ⟨s.ms.chans, s.bb, rfl⟩
  · obtain ⟨b, h⟩ := bbAppend_eq (s.setChan c { s.chan c with poisoned := true }) 0x0A none (word 384 [(208, 32, c)])
    exact ⟨_, b, h⟩

/-- Placing poison changes the poison list, the channels' marks and the black box. -/
theorem putPoison_eq (s : State) (a : Nat) (m : BitVec 16) :
    ∃ l ch b, s.putPoison a m = { s with ms := { s.ms with poison := l, chans := ch }, bb := b } := by
  unfold State.putPoison
  split
  · dsimp only
    split
    · exact ⟨_, s.ms.chans, s.bb, rfl⟩
    · obtain ⟨ch, b, h⟩ := poisonChannel_eq
        { s with ms := { s.ms with poison := setPoison s.ms.poison a ((poisonMask s.ms.poison a &&& m) |||
          firstBits (16384 - poisonCount { s with ms := { s.ms with poison := setPoison s.ms.poison a (poisonMask s.ms.poison a &&& m) } }
            (channelOf s a).1) (m &&& ~~~(poisonMask s.ms.poison a))) } } (channelOf s a).1
      exact ⟨_, ch, b, h⟩
  · exact ⟨_, s.ms.chans, s.bb, rfl⟩
  · exact ⟨_, s.ms.chans, s.bb, rfl⟩

/-- What a row write that its tier accepts leaves (R72): the whole row replaced, and its poison. -/
theorem rawWrite_ok {s t : State} {a : Nat} {r : Row} {p : BitVec 16} (h : rawWrite s a r p = .ok t) :
    ∃ l ch b, t = { s with ms := { s.ms with mem := Mem.setRow s.ms.mem a r, poison := l, chans := ch }, bb := b } := by
  have hp : ∀ u : State, Except.ok (ε := Half) (({ s with ms := { s.ms with mem := Mem.setRow s.ms.mem a r } } : State).putPoison a p) = .ok u →
      ∃ l ch b, u = { s with ms := { s.ms with mem := Mem.setRow s.ms.mem a r, poison := l, chans := ch }, bb := b } := by
    intro u hu
    obtain ⟨l, ch, b, e⟩ := putPoison_eq { s with ms := { s.ms with mem := Mem.setRow s.ms.mem a r } } a p
    rw [e] at hu
    cases hu
    exact ⟨l, ch, b, rfl⟩
  unfold rawWrite at h
  dsimp only at h
  split at h
  · cases h
  · cases h
  · split at h
    · cases h
    · exact hp t h
  · exact hp t h

/-- The access marks change the contexts' runs alone. -/
theorem markSeen_eq (s : State) (c : Option CtxId) (k : Cap) (p : Nat) : ∃ x, markSeen s c k p = { s with ctxs := x } := by
  unfold markSeen
  split
  · dsimp only
    split
    · exact ⟨_, rfl⟩
    · exact ⟨s.ctxs, rfl⟩
  · exact ⟨s.ctxs, rfl⟩

/-- An address below the GDDR7 size lies in GDDR7 (R26). -/
theorem region_gddr (s : State) {a : Nat} (h : a < gddrBytes) : region s a = .gddr := by
  unfold region
  rw [if_pos h]

theorem chipBank_gddr (s : State) {a : Nat} (h : a < gddrBytes) : chipBank s a = none := by
  simp [chipBank, region_gddr s h]

/-- GDDR7 is reached at once. -/
theorem reachBank_gddr (s : State) {a : Nat} (w : Bool) (h : a < gddrBytes) : reachBank s a w = (true, s) := by
  simp [reachBank, chipBank_gddr s h]

/-- A row of GDDR7 reads with its poison (R96, R259). -/
theorem readRow_gddr (s : State) {a : Nat} (h : a < gddrBytes) : readRow s a = (.ok (Mem.row s.ms.mem a,
    if (s.chan (channelOf s a).1).poisoned then 0xFFFF else poisonMask s.ms.poison a), s) := by
  simp [readRow, reachBank_gddr s false h, rawRead, region_gddr s h, countCxlPoison]

/-- A row of GDDR7 is written. -/
theorem writeRow_gddr (s : State) {a : Nat} (r : Row) (p : BitVec 16) (h : a < gddrBytes) :
    ∃ l ch b, writeRow s a r p =
      (.ok (), { s with ms := { s.ms with mem := Mem.setRow s.ms.mem a r, poison := l, chans := ch }, bb := b }) := by
  have hr : ∃ t, rawWrite s a r p = .ok t := by simp [rawWrite, region_gddr s h]
  obtain ⟨t, ht⟩ := hr
  obtain ⟨l, ch, b, e⟩ := rawWrite_ok ht
  refine ⟨l, ch, b, ?_⟩
  simp only [writeRow, reachBank_gddr s true h, ht, e]

/-- No row of GDDR7 holds a configuration (R233). -/
theorem configRow_gddr (s : State) {a : Nat} (h : a < gddrBytes) : configRow s a = false := by
  simp [configRow, region_gddr s h]

/-- A row that is served at once is written, its poison with it (R72). -/
theorem rawPut_served {s : State} {a : Nat} (r : Row) (p : BitVec 16) (h : Served s a) :
    ∃ l ch b, rawPut s a r p = { s with ms := { s.ms with mem := Mem.setRow s.ms.mem a r, poison := l, chans := ch }, bb := b } ∧
      rawPut s a r p = ({ s with ms := { s.ms with mem := Mem.setRow s.ms.mem a r } } : State).putPoison a p := by
  have hr : rawWrite s a r p = .ok (({ s with ms := { s.ms with mem := Mem.setRow s.ms.mem a r } } : State).putPoison a p) := by
    obtain ⟨_, h⟩ := h
    unfold rawWrite
    rcases h with h | h | ⟨h, hd⟩ | ⟨h, _⟩
    · simp only [h]
    · simp only [h]
    · simp only [h, hd, Bool.false_eq_true, if_false]
    · simp only [h]
  obtain ⟨l, ch, b, e⟩ := rawWrite_ok hr
  have e2 : rawPut s a r p = ({ s with ms := { s.ms with mem := Mem.setRow s.ms.mem a r } } : State).putPoison a p := by
    unfold rawPut; rw [hr]
  exact ⟨l, ch, b, by rw [e2, e], e2⟩

/-- A row that is served at once reads with its poison (R96, R259). -/
theorem rawRead_served {s : State} {a : Nat} (h : Served s a) : rawRead s a = .ok (Mem.row s.ms.mem a,
    if region s a = .gddr ∧ (s.chan (channelOf s a).1).poisoned = true then 0xFFFF else poisonMask s.ms.poison a) := by
  obtain ⟨_, h⟩ := h
  unfold rawRead
  rcases h with h | h | ⟨h, hd⟩ | ⟨h, _⟩
  · simp only [h, true_and]
  · simp [h]
  · simp [h, hd]
  · simp [h]

end Sys2Proof.Machine
end

