-- ==== Sys2Proof/Laws/Commands.lean ====
section
/-!
SUPPORT. The shared operations over accepted commands: what taking up and finishing a command can do.
-/
namespace Sys2Proof.Machine

/-- A command that may start is taken up by its meaning. -/
theorem State.take_start {s : State} {r : CmdRef} {op : Nat} {c : Cmd} (f : Cmd → State) (h : Startable s r op c) :
    s.take r op f = f c := by
  obtain ⟨h1, h2, h3, h4⟩ := h
  unfold State.take
  rw [h1]
  simp only [h2, h3, h4, and_self, if_true]
  simp

/-- What taking up a command can do at all: its meaning runs on the accepted command, a fence ends it, or nothing happens. -/
theorem State.take_cases (s : State) (r : CmdRef) (op : Nat) (f : Cmd → State) :
    (∃ c, Startable s r op c ∧ s.take r op f = f c) ∨ s.take r op f = s.finishSt r St.jobFenced ∨ s.take r op f = s := by
  unfold State.take
  split
  · rename_i c hc
    by_cases h : c.opcode = op ∧ s.mayStart c = true
    · by_cases hf : (s.fenced && fencedOps.contains op) = true
      · right; left; rw [if_pos h, if_pos hf]
      · left
        refine ⟨c, ⟨hc, h.1, h.2, by simpa using hf⟩, ?_⟩
        rw [if_pos h, if_neg hf]
    · right; right; rw [if_neg h]
  · right; right; rfl

theorem updFirst_length {α : Type} (p : α → Bool) (f : α → α) (l : List α) : (updFirst p f l).length = l.length := by
  induction l with
  | nil => rfl
  | cons x t ih => simp only [updFirst]; split <;> simp [ih]

/-- The first element that meets a test, after it was replaced by one that still does. -/
theorem find_updFirst_same {α : Type} (p : α → Bool) (f : α → α) (l : List α) (hf : ∀ x, p x = true → p (f x) = true) :
    (updFirst p f l).find? p = (l.find? p).map f := by
  induction l with
  | nil => rfl
  | cons x t ih =>
    simp only [updFirst]
    by_cases h : p x = true
    · simp [h, hf x h]
    · simp [h, ih]

/-- The first element that meets another test is not disturbed. -/
theorem find_updFirst_ne {α : Type} (p q : α → Bool) (f : α → α) (l : List α)
    (h : ∀ x, p x = true → q x = false ∧ q (f x) = false) : (updFirst p f l).find? q = l.find? q := by
  induction l with
  | nil => rfl
  | cons x t ih =>
    simp only [updFirst]
    by_cases hx : p x = true
    · simp [hx, h x hx]
    · simp only [hx, Bool.false_eq_true, if_false, List.find?_cons, ih]

theorem Cmd.is_iff (r : CmdRef) (c : Cmd) : Cmd.is r c = true ↔ c.ring = r.ctx ∧ c.seq = r.seq ∧ c.nth = r.nth := by simp [Cmd.is, and_assoc]

/-- A command is named by its ring, SEQ and number. -/
theorem Cmd.is_ref (r : CmdRef) (c : Cmd) : Cmd.is r c = true ↔ c.ref = r := by
  rw [Cmd.is_iff]
  cases r
  simp [Cmd.ref]

/-- Updating the command of a reference, with what it is named by kept. -/
theorem State.cmd_updCmd_same (s : State) (r : CmdRef) (f : Cmd → Cmd) (hf : ∀ c, (f c).ref = c.ref) :
    (s.updCmd r f).cmd? r = (s.cmd? r).map f :=
  find_updFirst_same _ _ _ fun x hx => by rw [Cmd.is_ref] at hx ⊢; rw [hf x]; exact hx

/-- Updating the command of another reference. -/
theorem State.cmd_updCmd_ne (s : State) (r q : CmdRef) (f : Cmd → Cmd) (hf : ∀ c, (f c).ref = c.ref) (h : q ≠ r) :
    (s.updCmd r f).cmd? q = s.cmd? q := by
  apply find_updFirst_ne
  intro x hx
  rw [Cmd.is_ref] at hx
  have hq : ∀ y : Cmd, y.ref = r → Cmd.is q y = false := fun y hy => by
    by_contra hn
    have := (Cmd.is_ref q y).mp (by simpa using hn)
    exact h (this.symm.trans hy)
  exact ⟨hq x hx, hq (f x) ((hf x).trans hx)⟩

/-- The phase of a command replaced. -/
theorem State.cmd_setPhase_same {s : State} {r : CmdRef} {c : Cmd} (p : Phase) (h : s.cmd? r = some c) :
    (s.setPhase r p).cmd? r = some { c with phase := p } := by
  unfold State.setPhase
  rw [State.cmd_updCmd_same s r (fun c => { c with phase := p }) (fun _ => rfl), h]; rfl

theorem State.cmd_setPhase_ne (s : State) {r q : CmdRef} (p : Phase) (h : q ≠ r) : (s.setPhase r p).cmd? q = s.cmd? q :=
  State.cmd_updCmd_ne s r q _ (fun _ => rfl) h

/-- A command with a record, unless it has one (R417). -/
def settled (x : Record) (c : Cmd) : Cmd := if c.isDone then c else { c with phase := .done x }

theorem settled_ref (x : Record) (c : Cmd) : (settled x c).ref = c.ref := by
  unfold settled; split <;> rfl

theorem State.finish_eq (s : State) (r : CmdRef) (x : Record) : s.finish r x = s.updCmd r (settled x) := by
  unfold State.finish
  congr 1
  funext c
  unfold settled Cmd.isDone
  cases c.phase <;> rfl

/-- Finishing a command gives it the record, unless it has one (R417). -/
theorem State.cmd_finish_same {s : State} {r : CmdRef} {c : Cmd} (x : Record) (h : s.cmd? r = some c) :
    (s.finish r x).cmd? r = some (settled x c) := by
  rw [State.finish_eq, State.cmd_updCmd_same s r _ (settled_ref x), h]; rfl

theorem State.cmd_finish_ne (s : State) {r q : CmdRef} (x : Record) (h : q ≠ r) : (s.finish r x).cmd? q = s.cmd? q := by
  rw [State.finish_eq]; exact State.cmd_updCmd_ne s r q _ (settled_ref x) h

/-- An update that leaves the command as it is leaves the state as it is. -/
theorem State.updCmd_self {s : State} {r : CmdRef} {c : Cmd} {f : Cmd → Cmd} (h : s.cmd? r = some c) (hf : f c = c) : s.updCmd r f = s := by
  unfold State.updCmd
  have : updFirst (Cmd.is r) f s.cmds = s.cmds := by
    have h' : s.cmds.find? (Cmd.is r) = some c := h
    generalize s.cmds = l at h'
    induction l with
    | nil => rfl
    | cons a t ih =>
      simp only [updFirst]
      by_cases ha : Cmd.is r a = true
      · simp only [List.find?_cons, ha, Option.some.injEq] at h'
        subst h'; simp [ha, hf]
      · have ha' : Cmd.is r a = false := by simpa using ha
        simp only [List.find?_cons, ha'] at h'
        simp [ha', ih h']
  rw [this]

/-- Setting a column of a table at each index of a list. -/
theorem Tab.get_foldl_set {α : Type} [DecidableEq α] (d : α) (g : Nat → α) (l : List Nat) (t : Tab α) (i : Nat) :
    Tab.get d (l.foldl (fun u k => Tab.set d u k (g k)) t) i = if i ∈ l then g i else Tab.get d t i := by
  induction l generalizing t with
  | nil => simp
  | cons a l ih =>
    simp only [List.foldl_cons, ih, Tab.get_set, List.mem_cons]
    by_cases h1 : i ∈ l <;> by_cases h2 : i = a <;> simp [h1, h2]

/-- An index that is not listed reads as the default. -/
theorem Tab.get_of_not_mem {α : Type} (d : α) (t : Tab α) (i : Nat) (h : i ∉ t.map (·.1)) : Tab.get d t i = d := by
  induction t with
  | nil => rfl
  | cons p t ih =>
    obtain ⟨k, v⟩ := p
    simp only [List.map_cons, List.mem_cons, not_or] at h
    simp [Tab.get, h.1, ih h.2]

/-- Clearing a context's bit in every device entry (R426). -/
theorem get_dropMask (t : Tab (BitVec 256)) (c : CtxId) (i : Nat) :
    Tab.get 0 (dropMask t c) i = put (Tab.get 0 t i) (24 + c.val) 1 0 := by
  have : dropMask t c = (t.map (·.1)).foldl (fun u k => Tab.set 0 u k (put (Tab.get 0 t k) (24 + c.val) 1 0)) [] := by
    simp [dropMask, List.foldl_map]
  rw [this, Tab.get_foldl_set]
  split
  · rfl
  · rename_i h
    rw [Tab.get_of_not_mem 0 t i h]
    simp [put]

end Sys2Proof.Machine
end

