-- ==== Sys2Proof/Laws/Vector.lean ====
section
/-!
SUPPORT. What issuing one instruction or one sequencer word comes to, once its checks have passed.
-/
namespace Sys2Proof.Machine

/-- A command's instruction whose opcode is the command's stays as it is. -/
theorem vectorWord_same {op : Nat} {w : BitVec 64} (h : fld w 0 8 = op) : vectorWord op w = w := by
  unfold vectorWord
  subst h
  rw [put_fld]
  simp

/-- Everything issueVector does for an instruction that may issue and whose effect faults nothing. -/
theorem issueVector_done {s u : State} {c : CoreId} {w : BitVec 64} {k : Core} {op : Nat} (h : VectorReady s c w) (hop : fld w 0 8 = op)
    (hx : vecRun s c (vdecode w) = (none, u.setCore c k)) : issueVector op c w .clean s = vectorDone u c k := by
  obtain ⟨h1, h2, h3, h4, h5⟩ := h
  unfold issueVector
  rw [vectorWord_same hop]
  simp [h1, h2, h3, h4, h5, vecExec, hx, stepPc, vectorDone]

/-- A core that may not issue keeps its instruction. -/
theorem issueVector_held {s : State} {c : CoreId} {w : BitVec 64} {op : Nat} (e : OperandCheck) (h : canIssue s c = false) :
    issueVector op c w e s = s := by
  simp [issueVector, h]

/-- Everything issueWord does for a word that may issue and whose action faults nothing. -/
theorem issueWord_done {s u : State} {c : CoreId} {w : BitVec 128} {k : Core} {op : Nat} {act : BitVec 128 → State → Option (Option Flt × State)}
    {bad : BitVec 128 → State → Bool} (h : SequencerReady s c op w) (hr : reservedOp w = false) (hb : bad w s = false)
    (hx : act w s = some (none, u.setCore c k)) : issueWord op c w s act bad = sequencerDone u c k := by
  obtain ⟨h1, h2, h3, h4⟩ := h
  subst h3
  unfold issueWord
  simp [hr, put_fld, h1, h2, h4, hb, hx, stepPc, sequencerDone]

/-- A word that may issue and whose action stalls stays where it is. -/
theorem issueWord_stalls {s : State} {c : CoreId} {w : BitVec 128} {op : Nat} {act : BitVec 128 → State → Option (Option Flt × State)}
    {bad : BitVec 128 → State → Bool} (h : SequencerReady s c op w) (hr : reservedOp w = false) (hb : bad w s = false) (hx : act w s = none) :
    issueWord op c w s act bad = stallOn s c op w := by
  obtain ⟨h1, h2, h3, h4⟩ := h
  subst h3
  unfold issueWord
  simp [hr, put_fld, h1, h2, h4, hb, hx]

/-- Rounding to nearest draws nothing. -/
theorem drawLanes_false (c : CoreId) (l : List (Bool × Nat)) (s : State) : drawLanes c false l s = (l.map fun _ => 0, s) := by
  induction l with
  | nil => rfl
  | cons p l ih => obtain ⟨a, b⟩ := p; simp [drawLanes, ih]

/-- Lanes that raise nothing leave the flags. -/
theorem raiseLanes_zero (k : Core) (l : List Nat) (h : ∀ x ∈ l, x = 0) : raiseLanes k l = k := by
  unfold raiseLanes
  suffices ∀ (m : List (Nat × Nat)), (∀ p ∈ m, p.1 = 0) → m.foldl (fun k p => raiseLane k p.2 p.1) k = k by
    apply this
    intro p hp
    exact h _ (List.fst_mem_of_mem_zipIdx hp)
  intro m
  induction m with
  | nil => intro _; rfl
  | cons p m ih =>
    intro hm
    simp only [List.foldl_cons]
    rw [show raiseLane k p.2 p.1 = k by rw [hm p (by simp)]; simp [raiseLane]]
    exact ih fun q hq => hm q (by simp [hq])

end Sys2Proof.Machine
end

