-- ==== Sys2Proof/Tests/Slice0.lean ====
section
/-!
SUPPORT. Tests: what each check of WellFormed refuses, single steps whose results the manual gives, and for each statement the states
that meet its hypotheses.
-/
namespace Sys2Proof.Tests
open Sys2Proof.Machine

set_option Elab.async false


/-! ### States for the tests -/

/-- A device that is ready, with its protocol open, its completion ring enabled and context 0 open. -/
def up : State := { State.reset with
  mod := { ({} : Module) with perst := false, booted := true }
  host := { ({} : HostIf) with state := .ready, protoOpen := true, major := 1, cqEnable := true, cqSize := 4 }
  ctxs := [(0, { isOpen := true })] }

/-- A command of ring 0 with SEQ 1. -/
def cmdOf (op : Nat) (p : BitVec 384 := 0) (phase : Phase := .waiting) : Cmd :=
  { ring := 0, seq := 1, entry := word 512 [(0, 16, op), (128, 384, p.toNat)], phase := phase }

/-- Its reference. -/
def r0 : CmdRef := ⟨0, 1, 0⟩

/-- A state whose one accepted command has an opcode, a payload and a phase. -/
def withCmd (s : State) (op : Nat) (p : BitVec 384 := 0) (phase : Phase := .waiting) : State := { s with cmds := [cmdOf op p phase] }

/-! ### The host interface -/

def ringed : State := { up with host := { up.host with rings := [(0, { size := 4, enable := true })] } }

theorem witness_idle : up.pending = [] ∧ up.mgmtUp = true ∧ State.reset.pending = [] ∧ State.reset.mgmtUp = false := by decide +kernel

theorem witness_submission_rings :
    (ringed.mgmtUp = true ∧ (ringed.ring (Fin.ofNat 8 (fld (0xF0 : Word) 0 3))).enable = true ∧
      fld (0xF0 : Word) 4 12 < 2 ^ (ringed.ring (Fin.ofNat 8 (fld (0xF0 : Word) 0 3))).size.toNat) ∧
    (2 ^ (ringed.ring (Fin.ofNat 8 (fld (0x100 : Word) 0 3))).size.toNat ≤ fld (0x100 : Word) 4 12) ∧
    (up.mgmtUp = true ∧ (up.ring 0).enable = false ∧ 4 ≤ (4 : BitVec 4).toNat ∧ (4 : BitVec 4).toNat ≤ 12) ∧
    (4 ≤ (12 : BitVec 4).toNat ∧ (12 : BitVec 4).toNat ≤ 12) ∧ (3 : BitVec 4).toNat < 4 ∧ 12 < (13 : BitVec 4).toNat := by decide +kernel

def idleRing : State := { up with host := { up.host with cqEnable := false } }
def stopping : State := { up with host := { up.host with cqDisabling := true } }

theorem witness_completion_ring :
    (idleRing.mgmtUp = true ∧ idleRing.host.cqEnable = false) ∧ (4 ≤ (14 : BitVec 4).toNat ∧ (14 : BitVec 4).toNat ≤ 14) ∧
    14 < (15 : BitVec 4).toNat ∧ (up.mgmtUp = true ∧ up.host.cqEnable = true ∧ fld (15 : Word) 0 14 < 2 ^ up.host.cqSize.toNat) ∧
    (stopping.mgmtUp = true ∧ stopping.host.cqDisabling = true ∧ stopping.cmds = [] ∧ (withCmd stopping 2).cmds ≠ []) := by decide +kernel

/-- The message of vector 3 is pending. -/
def masked : State := { up with host := { up.host with msixPending := 8 } }

theorem witness_register_writes : (masked.mgmtUp = true ∧ (3 : Nat) < 16 ∧ bit (0 : Dword) 0 = false ∧ bit masked.host.msixPending 3 = true) ∧
    up.mgmtUp = true ∧ up.host.cqEnable = true ∧ idleRing.mgmtUp = true ∧ idleRing.host.cqEnable = false ∧
    ¬ ((8 : Nat) = 4 ∧ (4 : BitVec 16).toNat % 4 = 0) ∧ ¬ ((8 : Nat) = 8 ∧ (4 : BitVec 16).toNat % 8 = 0) := by decide +kernel

/-- An entry of ring 0 for version 1.0 with SEQ 0. -/
def entryOf (op : Nat) (p : BitVec 384 := 0) : BitVec 512 :=
  word 512 [(0, 16, op), (64, 6, 48), (72, 8, 1), (128, 384, p.toNat)]

def fetching : State := { up with host := { up.host with rings := [(0, { size := 4, enable := true, tail := 1 })] } }

/-- An entry in order for its checks up to the roles. -/
theorem witness_entry_fetch :
    (fetching.fetching = true ∧ (fetching.ring 0).enable = true ∧ (fetching.ring 0).head ≠ (fetching.ring 0).tail ∧ fetching.host.cqEnable = true ∧
      fetching.host.cqDisabling = false ∧ fetching.cmds.length < cqFree fetching ∧
      (fetching.cmds.filter fun d => decide (d.ring = 0)).length < 64) ∧
    entryCheck fetching 0 ((fetching.ring 0).expect.all fun x => x == EN.seq (entryOf 2)) (entryOf 2) = none ∧
    entryCheck fetching 0 true (entryOf 0) = some { status := St.opcodeUnknown } ∧ St.opcodeUnknown ≠ St.cxlPortDown ∧
    (up.ring 0).enable = false := by decide +kernel

/-- Device entry 6 is a CXL row behind port 0, which is down; JOB_OPEN names it. -/
def downPort : State := { fetching with
  keys := [(6, word 256 [(0, 1, 1), (1, 3, 3), (9, 7, 0x5F), (24, 8, 1), (32, 32, 4), (64, 52, cxlBase)])]
  ms := { fetching.ms with cxl := [(0, { units := 1, down := true })] } }

theorem witness_entry_fetch_down : (entryCheck downPort 0 true (entryOf 0x0501 0x8006)).any (fun x => x.status == St.cxlPortDown) = true ∧
    mayFetch downPort 0 = true := by decide +kernel

theorem witness_entry_checks :
    mayFetch fetching 0 = true ∧ mayFetch up 0 = false ∧
    entryCheck fetching 0 true (entryOf 2) = none ∧ (entryCheck fetching 0 true (entryOf 0)).isSome = true ∧
    EN.ctx (put (entryOf 2) 24 3 1) ≠ (0 : CtxId).val ∧ EN.ctx (entryOf 0) = (0 : CtxId).val ∧ opcodeKnown (EN.opcode (entryOf 0)) = false ∧
    (EN.ctx (entryOf 2) = (0 : CtxId).val ∧ opcodeKnown (EN.opcode (entryOf 2)) = true ∧ EN.opcode (entryOf 2) ≠ 1) ∧
    State.reset.host.protoOpen = false ∧ (fetching.host.protoOpen = true ∧ EN.vmajor (put (entryOf 2) 72 8 2) ≠ fetching.host.major.toNat) ∧
    (EN.vmajor (entryOf 2) = fetching.host.major.toNat ∧ EN.vminor (entryOf 2) = fetching.host.minor.toNat ∧ EN.opcode (entryOf 2) ≠ 0x0905) ∧
    EN.plen (put (entryOf 2) 64 6 47) ≠ 48 ∧
    (EN.plen (entryOf 5) = 48 ∧ payloadInRange (EN.opcode (entryOf 5)) (EN.payload (entryOf 5)) = true ∧
      roleCheck idleRing (EN.opcode (entryOf 5)) = none ∧ readyCheck idleRing (EN.opcode (entryOf 5)) = none ∧
      contextOps.contains (EN.opcode (entryOf 5)) = true ∧ (idleRing.ctx 1).isOpen = false) := by decide +kernel

def finished : State := withCmd up 2 0 (.done {})

theorem witness_completions :
    (finished.mgmtUp = true ∧ finished.cmd? r0 = some (cmdOf 2 0 (.done {})) ∧ (cmdOf 2 0 (.done {})).bound = false ∧
      (finished.ctx (cmdOf 2 0 (.done {})).ring).unreported = none ∧ fld finished.host.irqCoalesce 8 16 = 0) := by decide +kernel

/-- A record of context 0 is uncounted, with its vector masked or not. -/
def uncounted (mask : Word) : State := { up with host := { up.host with uncounted := [(0, 1)], msix := [(3, mask)] } }

theorem witness_coalescing : up.mgmtUp = true ∧ Tab.get 0 (uncounted 0).host.uncounted (0 : CtxId).val ≠ 0 ∧
    msixMasked (uncounted 0).host 0 = false ∧ msixMasked (uncounted 1).host 0 = true := by decide +kernel

/-! ### Protocol, contexts, data and memory -/

theorem witness_records : finished.cmd? r0 = some (cmdOf 2 0 (.done {})) ∧ (withCmd up 2).cmd? r0 = some (cmdOf 2) ∧ (cmdOf 2).isDone = false ∧
    (⟨1, 1, 0⟩ : CmdRef) ≠ r0 := by decide +kernel

theorem witness_opening : Startable (withCmd up 2) r0 2 (cmdOf 2) ∧ Startable (withCmd up 1 0x1) r0 1 (cmdOf 1 0x1) ∧
    Startable (withCmd State.reset 4) r0 4 (cmdOf 4) ∧ ((withCmd State.reset 4).ctx 0).isOpen = false := by unfold Startable; decide +kernel

/-- Context 0 owns an open window. -/
def owning : State := { up with fab := { up.fab with windows := [(0, { state := .opened })] } }

theorem witness_closing : Startable (withCmd up 5) r0 5 (cmdOf 5) ∧ (withCmd up 5).earlier (cmdOf 5) = [] ∧ ownsAny (withCmd up 5) 0 = false ∧
    ownsAny (withCmd owning 5) 0 = true := by unfold Startable; decide +kernel

theorem witness_layout : Startable (withCmd up 0x0102 0) r0 0x0102 (cmdOf 0x0102 0) ∧ Startable (withCmd up 0x0102 32) r0 0x0102 (cmdOf 0x0102 32) ∧
    BitVec.ofNat 6 (fld (cmdOf 0x0102 0).payload 0 6) = up.ms.gddrD ∧ BitVec.ofNat 6 (fld (cmdOf 0x0102 32).payload 0 6) ≠ up.ms.gddrD := by
  unfold Startable; decide +kernel

/-- A device entry in GDDR7 of 4 rows at address 0 with every permission of its tier, for context 0. -/
def gddrEntry : BitVec 256 := word 256 [(0, 1, 1), (1, 3, 2), (9, 7, 0x5F), (24, 8, 1), (32, 32, 4)]
def keyed : State := { up with keys := [(5, gddrEntry)] }
/-- Device handle 5. -/
def h5 : Half := 0x8005
def c5 : Machine.Cap := capture keyed none h5

theorem witness_access_order : (0 : Nat) < 1 ∧ (capture keyed none 0x8006).valid = false ∧ (c5.valid = true ∧ c5.ctxOk (some 1) = false) ∧
    (let k : Machine.Cap := { c5 with parent := put gddrEntry 9 1 0 }
     k.valid = true ∧ k.ctxOk (some 0) = true ∧ k.permOk pRD = false) ∧
    (let k : Machine.Cap := { c5 with parent := put gddrEntry 4 5 3 }
     k.valid = true ∧ k.ctxOk (some 0) = true ∧ k.permOk pRD = true ∧ k.fmtOk (some 4) = false) ∧
    (c5.refuse (some 0) pRD none = none ∧ c5.addr 4 = none) := by decide +kernel

theorem witness_entry_rows : (0 : Nat) < 2 ∧ c5.refuse (some 0) pRD none = none ∧
    (∀ j < 2, c5.addr (2 + j) = some ((2 + j) * 512) ∧ (2 + j) * 512 < gddrBytes ∧
      (keyed.chan (channelOf keyed ((2 + j) * 512)).1).poisoned = false ∧ poisonMask keyed.ms.poison ((2 + j) * 512) = 0) ∧
    c5.refuse (some 0) pWR none = none ∧ [(1 : Row), 2] ≠ [] ∧ (∀ i < 2, ∀ j < 2, i < j → (2 + i) * 512 + 512 ≤ (2 + j) * 512) := by decide +kernel

/-- DATA_PUT or DATA_GET of 1 row at row 1 of device entry 5, and one past its end. -/
def dataP (row : Nat) : BitVec 384 := word 384 [(0, 16, 0x8005), (32, 32, row), (64, 15, 1)]

theorem witness_data : Startable (withCmd keyed 0x0103 (dataP 1)) r0 0x0103 (cmdOf 0x0103 (dataP 1)) ∧
    Startable (withCmd keyed 0x0104 (dataP 1)) r0 0x0104 (cmdOf 0x0104 (dataP 1)) ∧
    capWaits (withCmd keyed 0x0103 (dataP 1)) (capture (withCmd keyed 0x0103 (dataP 1)) none (DP.handle (cmdOf 0x0103 (dataP 1)).payload)) = false ∧
    DP.rows (cmdOf 0x0103 (dataP 1)).payload = 1 ∧
    (accessWrite keyed (some 0) c5 none 1 [(7, 0)]).1 = none ∧ (accessWrite keyed (some 0) c5 none 4 [(7, 0)]).1.isSome = true ∧
    (accessRead keyed (some 0) c5 none 1 1).2.1 = none ∧ (accessRead keyed (some 0) c5 none 1 1).1 ≠ [] ∧
    (accessRead keyed (some 0) c5 none 4 1).1 = [] ∧ (accessRead keyed (some 0) c5 none 4 1).2.1.isSome = true := by unfold Startable; decide +kernel

/-- KEYRING_WRITE of device entry 5 with a value. -/
def keyW (e : BitVec 256) : BitVec 384 := word 384 [(0, 12, 5), (32, 256, e.toNat)]
def running : State := { keyed with grid := { keyed.grid with ctx := some 0, phase := .running } }

theorem witness_keyring : Startable (withCmd keyed 0x0101 (keyW gddrEntry)) r0 0x0101 (cmdOf 0x0101 (keyW gddrEntry)) ∧
    keyRefusal keyed (keyW (put gddrEntry 1 3 7)) ≠ 0 ∧ (keyRefusal keyed (keyW gddrEntry) = 0 ∧ keyResident keyed (keyW gddrEntry) = false) ∧
    (keyRefusal running (keyW gddrEntry) = 0 ∧ keyResident running (keyW gddrEntry) = true) ∧
    (DE.valid (KW.entry (keyW gddrEntry)) = true ∧ KW.setEpoch (keyW gddrEntry) = false) := by unfold Startable; decide +kernel

/-! ### Memory, banks and engines -/

/-- A chip-memory entry over 2 ^ 3 banks from bank 8, its first row row 1023. -/
def striped : BitVec 256 := word 256 [(0, 1, 1), (1, 3, 1), (16, 3, 3), (32, 32, 16), (64, 52, chipBase + 8 * 0x80000 + 1023 * 512)]

theorem witness_placement : DE.tier striped = 1 ∧ DE.interleave striped = 3 ∧ (3 : Nat) ≠ 0 ∧ 8 % 2 ^ 3 = 0 ∧ 1023 < 1024 ∧
    DE.base striped = chipBase + 8 * 0x80000 + 1023 * 512 ∧ DE.interleave gddrEntry = 0 ∧ DE.tier gddrEntry ≠ 1 := by decide +kernel

/-- The worked layout of R84: rows go round the banks. -/
theorem test_placement : devRowAddr striped 9 = chipBase + 9 * 0x80000 + 1024 * 512 := by decide +kernel

/-- One CXL port of 1 unit that is up, and the other of 1 unit that is down. -/
def expanded : State := { up with ms := { up.ms with cxl := [(0, { units := 1 }), (1, { units := 1, down := true })] } }
def gatedBank : State := { up with ms := { up.ms with banks := [(0, { power := .gated })] } }
def chip0 : BitVec 52 := BitVec.ofNat 52 chipBase

theorem witness_mesh_rows : Served up 0 ∧ Served up (gddrBytes - 512) ∧ Served up coreBase ∧ Served up chipBase ∧ Served expanded cxlBase ∧
    region up chipBase ≠ .gddr ∧ region up chipBase ≠ .cxl ∧ configRow up chipBase = false ∧
    rowFinding up chipBase .clean = up := by unfold Served; decide +kernel

theorem witness_mesh_refusals : (1 : BitVec 52).toNat % 512 ≠ 0 ∧ region up (BitVec.ofNat 52 gddrBytes).toNat = .unmapped ∧
    ((BitVec.ofNat 52 (cxlBase + 0x10000000)).toNat % 512 = 0 ∧ region expanded (BitVec.ofNat 52 (cxlBase + 0x10000000)).toNat = .cxl ∧
      (expanded.cxlPort (cxlPortOf expanded (BitVec.ofNat 52 (cxlBase + 0x10000000)).toNat)).down = true) ∧
    (chip0.toNat % 512 = 0 ∧ region gatedBank chip0.toNat = .chip ∧ (gatedBank.bank (bankOf chip0.toNat)).power = .gated) ∧
    region up (BitVec.ofNat 52 configBase).toNat = .config := by decide +kernel

/-- A running section whose core 0 holds its image in rows 10 and 11. -/
def configured : State := { up with grid := { up.grid with ctx := some 0, phase := .running }, cores := [(0, { loadRow := 10, imgRows := 2 })] }

theorem witness_mesh_config : (BitVec.ofNat 52 (coreBase + 11 * 512)).toNat % 512 = 0 ∧
    region configured (BitVec.ofNat 52 (coreBase + 11 * 512)).toNat = .coreMem ∧ configRow configured (BitVec.ofNat 52 (coreBase + 11 * 512)).toNat = true ∧
    configRow configured (coreBase + 12 * 512) = false := by decide +kernel

def gateQueued : State := { up with ms := { up.ms with banks := [(0, { queue := [.gate] })] } }
def wakeQueued : State := { up with ms := { up.ms with banks := [(0, { power := .waking, queue := [.write none chip0 7 0 {}] })] } }

theorem witness_gating : ((gateQueued.bank (0 : BankId).val).power = .awake ∧ (gateQueued.bank (0 : BankId).val).queue = [.gate]) ∧
    (chip0.toNat % 512 = 0 ∧ region gatedBank chip0.toNat = .chip ∧ (gatedBank.bank (bankOf chip0.toNat)).power = .gated) ∧
    (region wakeQueued chip0.toNat = .chip ∧ bankOf chip0.toNat = (0 : BankId).val ∧ (wakeQueued.bank (0 : BankId).val).power = .waking ∧
      (wakeQueued.bank (0 : BankId).val).queue = [.write none chip0 7 0 {}]) := by decide +kernel

theorem witness_words (a : BitVec 52) (h : a = 0 ∨ a = 508 ∨ a = BitVec.ofNat 52 (chipBase + 508)) : Mem.wf up.ms.mem = true ∧ a.toNat % 4 = 0 ∧
    Served up (a.toNat / 512 * 512) ∧ region up a.toNat = region up (a.toNat / 512 * 512) ∧ bankOf a.toNat = bankOf (a.toNat / 512 * 512) ∧
    (region up a.toNat = .chip ∨ region up a.toNat = .gddr) ∧ poisonMask up.ms.poison (a.toNat / 512 * 512) = 0 ∧
    (region up a.toNat = .gddr → (up.chan (channelOf up (a.toNat / 512 * 512)).1).poisoned = false) := by
  rcases h with h | h | h <;> subst h <;> unfold Served <;> decide +kernel

theorem witness_claims : (5 : Word) ≠ 0 ∧ c5.refuse (some 0) pFADD none = none ∧ (entryRowAt c5.parent 0).isSome = true ∧
    (capture keyed none 0x8006).refuse (some 0) pFADD none = some St.keyInvalid := by decide +kernel

/-- R273: a claim below its limit returns the word and raises it, clamped to the limit; at the limit it is refused. -/
theorem test_claim : claim 5 3 10 = (8, 5) ∧ claim 9 3 10 = (10, 9) ∧ claim 10 3 10 = (10, 0xFFFFFFFF) := by decide

/-- An armed slot of collective 1, bucket 0, expecting 2 and holding 1 or 2. -/
def slotOf (n : Nat) : BitVec 256 := word 256 [(0, 1, 1), (16, 16, 1), (96, 25, 2), (128, 25, n)]
def armed (n : Nat) : State := { up with engines := [(512, { slots := [(3, slotOf n)] })] }
/-- The header of collective 1. -/
def header1 : BitVec 128 := 1

theorem witness_engines (n : Nat) (h : n = 1 ∨ n = 2) : (0 : BitVec 52).toNat % 512 = 0 ∧
    ((region (armed n) (0 : BitVec 52).toNat = .gddr ∧ 512 = 512 + (channelOf (armed n) (0 : BitVec 52).toNat).1) ∧
      (region (armed n) chip0.toNat = .chip ∧ 0 = bankOf chip0.toNat ∧ ((armed n).bank 0).power = .awake ∧ ((armed n).bank 0).queue = [])) ∧
    (State.reset.engine 512).findSlot (gradHdr header1) = none ∧ ((armed n).engine 512).findSlot (gradHdr header1) = some 3 ∧
    matchSlot (((armed n).engine 512).slot 3) (gradHdr header1) 1 = (if n = 1 then accOk else accOver) ∧ blockPoisoned (armed n) 0 = false := by
  rcases h with h | h <;> subst h <;> decide +kernel

/-- Device entry 5 holds gradient blocks. -/
def accEntry : State := { up with keys := [(5, put gddrEntry 4 5 0x10)] }

theorem witness_issuers : (capture accEntry none h5).refuse (some 0) pACC (some 0x10) = none ∧ (capture accEntry none h5).format = 0x10 ∧
    (entryRowAt (capture accEntry none h5).parent 512).any (fun j => decide (j + 2 ≤ DE.rows (capture accEntry none h5).parent)) = true ∧
    (capture accEntry none 0x8006).refuse (some 0) pACC (some 0x10) = some St.keyInvalid := by decide +kernel

theorem witness_maintenance : (up.bank (5 : BankId).val).queue = [] ∧ (∀ c : CoreId, (up.core c).moveRows = []) ∧ region up (0 : BitVec 52).toNat = .gddr ∧ (0 < (1 : Fin 5).val ∧ (3 : Fin 5).val < 4) ∧ (4 : Fin 5).val = 4 ∧
    (expanded.cxlPort (0 : Fin 2).val).units ≠ 0 ∧ up.mgmtUp = true ∧ (up.bank (5 : BankId).val).power = .awake := by decide +kernel

def place0 : SparePlace := .chip 0 7
/-- Row 7 of bank 0 has had four errors. -/
def failing (spares : Nat) (kept : List SparePlace) : State := { up with ms := { up.ms with
  errRows := [(place0, [0, 0, 0, 0])], remaps := (List.range (16 - spares)).map fun n => (.chip 0 (Fin.ofNat 1024 n), false), kept := kept } }

theorem witness_remaps : (callsRemap (failing 1 []) place0 false = true ∧ sparesLeft (failing 1 []) place0 ≠ 0) ∧
    (callsRemap (failing 0 [place0]) place0 false = true ∧ sparesLeft (failing 0 [place0]) place0 = 0 ∧
      (failing 0 [place0]).ms.kept.contains place0 = true) ∧
    (callsRemap (failing 0 []) place0 false = true ∧ sparesLeft (failing 0 []) place0 = 0 ∧ (failing 0 []).ms.kept.contains place0 = false) := by
  decide +kernel

/-! ### Windows, remote operations and links -/

def windowed (st : WinState) (active : BitVec 24) : State :=
  { keyed with fab := { keyed.fab with devId := some 7, windows := [(9, { state := st, handle := h5, gen := 4, service := 4, ops := 0xF, active := active })] } }

/-- The payload that names window 9. -/
def win9 : BitVec 384 := 9

theorem witness_windows : (Startable (withCmd (windowed .closed 0) 0x0303 win9) r0 0x0303 (cmdOf 0x0303 win9) ∧
      (State.window (withCmd (windowed .closed 0) 0x0303 win9) (WP.window (cmdOf 0x0303 win9).payload)).state = .closed) ∧
    (Startable (withCmd (windowed .opened 0) 0x0304 win9) r0 0x0304 (cmdOf 0x0304 win9) ∧
      (State.window (withCmd (windowed .opened 0) 0x0304 win9) (WP.window (cmdOf 0x0304 win9).payload)).state = .opened) ∧
    Startable (withCmd up 0x0305 win9) r0 0x0305 (cmdOf 0x0305 win9) ∧
    (((windowed .closing 0).window (9 : BitVec 12).toNat).state = .closing ∧ ((windowed .closing 0).window (9 : BitVec 12).toNat).active = 0) := by
  unfold Startable; decide +kernel

theorem witness_routes : Startable (withCmd up 0x0301 9) r0 0x0301 (cmdOf 0x0301 9) ∧ Startable (withCmd up 0x0302 9) r0 0x0302 (cmdOf 0x0302 9) := by
  unfold Startable; decide +kernel

/-- REMOTE_WRITE of one row of device entry 5. -/
def remoteP : BitVec 384 := word 384 [(0, 20, 7), (48, 4, 1), (112, 16, 0x8005)]

theorem witness_remotes : up.fab.reqs.length < 16384 ∧ Startable (withCmd keyed 0x0307 remoteP) r0 0x0307 (cmdOf 0x0307 remoteP) ∧
    Startable (withCmd keyed 0x0308 remoteP) r0 0x0308 (cmdOf 0x0308 remoteP) ∧
    (Startable (withCmd keyed 0x0306 remoteP) r0 0x0306 (cmdOf 0x0306 remoteP) ∧
      capWaits (withCmd keyed 0x0306 remoteP) (capture (withCmd keyed 0x0306 remoteP) none (RP.handle remoteP)) = false ∧
      accessRead (withCmd keyed 0x0306 remoteP) (some 0) (capture (withCmd keyed 0x0306 remoteP) none (RP.handle remoteP)) none (RP.row remoteP)
        (RP.nrows remoteP) = ([0], none, withCmd keyed 0x0306 remoteP)) := by unfold Startable; decide +kernel

/-- A request to window 9 for n rows, from this device. -/
def packetOf (t : BitVec 4) (n : BitVec 4) (rows : List Row := []) : Packet :=
  { ptype := t, dst := 7, src := 7, window := 9, wgen := 4, nrows := n, tag := 0, ext1 := 0, rows := rows }

theorem witness_request_order : packetFormOk (packetOf ptRead 0) = false ∧ packetFormOk (packetOf ptRead 1) = true ∧ State.reset.serving = false ∧
    ((windowed .opened 0).serving = true ∧ (State.window (windowed .opened 0) (packetOf ptRead 1).window.toNat).state = .opened ∧
      (packetOf ptRead 1).wgen = (State.window (windowed .opened 0) (packetOf ptRead 1).window.toNat).gen) ∧
    ((windowed .closed 0).serving = true ∧ (State.window (windowed .closed 0) (packetOf ptRead 1).window.toNat).state ≠ .opened) ∧
    bit (State.window (windowed .opened 0) 9).ops (packetOp (packetOf ptExchange 1)) = false ∧
    bit (State.window (windowed .opened 0) 9).ops (packetOp (packetOf ptRead 1)) = true ∧
    packetRangeOk ((windowed .opened 0).devEntry (State.window (windowed .opened 0) 9).handle) (packetOf ptRead 5) = false ∧
    packetRangeOk ((windowed .opened 0).devEntry (State.window (windowed .opened 0) 9).handle) (packetOf ptRead 4) = true := by decide +kernel

/-- The packet stands in the queue of this device's own packets. -/
def looped (s : State) (p : Packet) : State := { s with fab := { s.fab with loop := [p] } }

theorem witness_arrives (p : Packet) (h : p = packetOf ptRead 1 ∨ p = packetOf ptWrite 1 [7]) :
    Arrives (looped (windowed .opened 0) p) none p p.ptype ∧ arrived (looped (windowed .opened 0) p) none p = windowed .opened 0 := by
  rcases h with h | h <;> subst h <;> unfold Arrives <;> decide +kernel

theorem witness_requests :
    (packetNext (looped up (packetOf ptWrite 1 [7])) none (packetOf ptWrite 1 [7]) = true ∧
      arrived (looped up (packetOf ptWrite 1 [7])) none (packetOf ptWrite 1 [7]) = up ∧ up.fab.devId = none) ∧
    requestStatus (windowed .opened 0) (packetOf ptRead 5) = 3 ∧
    requestStatus (windowed .closed 0) (packetOf ptRead 1) = 1 ∧ requestStatus (windowed .opened 0) (packetOf ptRead 1) = 0 ∧
    requestStatus (windowed .opened 0) (packetOf ptWrite 1 [7]) = 0 ∧ DE.tier gddrEntry = 2 ∧ DE.base gddrEntry + (0 + 1) * 512 ≤ gddrBytes ∧
    ((windowed .opened 0).chan (channelOf (windowed .opened 0) (devRowAddr gddrEntry 0)).1).poisoned = false := by decide +kernel

/-- FETCH_ADD of 1 with a limit of 5 at the window's first word. -/
def fetchP : Packet := { packetOf ptFetchAdd 0 with ext1 := word 128 [(64, 32, 1), (96, 32, 5)] }

theorem witness_fetch_add : Arrives (looped (windowed .opened 0) fetchP) none fetchP ptFetchAdd ∧
    arrived (looped (windowed .opened 0) fetchP) none fetchP = windowed .opened 0 ∧ requestStatus (windowed .opened 0) fetchP = 0 ∧
    devRowAddr gddrEntry 0 < gddrBytes ∧ bit (poisonMask up.ms.poison 0) 0 = false ∧ bit (poisonMask [0] 0) 0 = true := by
  unfold Arrives; decide +kernel

/-- Collective 1, of no members and buckets yet. -/
def plain : Collective := { desc := 0, ctx := 0, epoch := 0, count := 1 }
/-- Collective 1 is open in epoch 0, and slot 3 of the window's channel holds its bucket 0. -/
def collecting : State := { windowed .opened 0 with
  keys := [(5, put gddrEntry 4 5 0x10)], colls := [(1, plain)], engines := [(512, { slots := [(3, slotOf 1)] })] }
/-- One block for it. -/
def accP : Packet := { packetOf ptAccumulate 1 with ext2 := 1, blocks := [0] }

theorem witness_accumulate : Arrives (looped collecting accP) none accP ptAccumulate ∧ arrived (looped collecting accP) none accP = collecting ∧
    requestStatus collecting accP = 0 ∧ collecting.coll (gradHdr accP.ext2).coll = some plain ∧
    (plain.epoch.toNat = (gradHdr accP.ext2).epoch) ∧ accP.blocks ≠ [] ∧ (collecting.engine 512).findSlot (gradHdr accP.ext2) = some 3 ∧
    matchSlot ((collecting.engine 512).slot 3) (gradHdr accP.ext2) accP.blocks.length = accOk ∧
    (∀ b ∈ packetBlocks accP (collecting.devEntry (collecting.window 9).handle), blockPoisoned collecting b.1 = false) := by
  unfold Arrives; decide +kernel

/-- Device 8 lies behind link 2. -/
def routed (st : LinkState) (marks : List Nat) : State := { windowed .opened 0 with fab := { (windowed .opened 0).fab with
  routes := [(8, 5)], links := [(2, { state := st })], marks := marks } }
def otherP (t : BitVec 4) : Packet := { packetOf t 0 with dst := 8 }

theorem witness_forwarding : packetNext (looped (routed .up []) (otherP ptRead)) none (otherP ptRead) = true ∧
    dropPacket (looped (routed .up []) (otherP ptRead)) none (otherP ptRead) 1 = routed .up [] ∧
    (routed .up []).fab.devId = some 7 ∧ (otherP ptRead).dst ≠ 7 ∧ (routed .up []).ownId (otherP ptRead).dst = false ∧
    (routed .up []).outOfService 8 = false ∧ (routed .up []).packetLink 8 = some 2 ∧ (routed .down []).packetLink 8 = none ∧
    (routed .up []).route 8 = some 5 ∧ ((routed .up []).link (linkOfNat (fld (5 : Half) 1 5))).usable = true ∧ (routed .up []).route 9 = none ∧
    (otherP ptRead).ptype ≠ ptResp ∧ (otherP ptResp).ptype = ptResp ∧ (routed .up [8]).outOfService 8 = true ∧
    packetNext (looped (routed .up []) (packetOf 0 0)) none (packetOf 0 0) = true ∧ malformed (packetOf 0 0) = true := by decide +kernel

/-- A command with one request outstanding under TAG 0. -/
def awaiting (op : Nat) : State :=
  let q : Req := { tag := 0, issuer := .cmd r0, packet := packetOf ptRead 1 }
  { withCmd (windowed .opened 0) op remoteP .running with
    cmds := [{ cmdOf op remoteP .running with tags := [0] }], fab := { (windowed .opened 0).fab with reqs := [q] } }
def respP (status : BitVec 4) : Packet := { packetOf ptResp 1 [7] with status := status }

theorem witness_responses (op : Nat) (h : op = 0x0306 ∨ op = 0x0307 ∨ op = 0x0308) :
    let u := awaiting op
    let c := { cmdOf op remoteP .running with tags := [0] }
    (Arrives (looped u (respP 0)) none (respP 0) ptResp ∧ arrived (looped u (respP 0)) none (respP 0) = u) ∧
    (∃ q, u.fab.reqs.find? (fun x => x.tag == (respP 0).tag.toNat && !x.retry) = some q ∧ q.issuer = .cmd r0 ∧ c.tags.contains q.tag = true) ∧
    u.cmd? r0 = some c ∧ c.phase = .running ∧ c.opcode = op ∧ (respP 0).status = 0 ∧ (respP 2).status ≠ 0 ∧
    capWaits (dropReq u 0) (capture (dropReq u 0) none (RP.handle c.payload)) = false ∧
    (accessWrite (dropReq u 0) (some 0) (capture (dropReq u 0) none (RP.handle c.payload)) none (RP.row c.payload) (respRows (respP 0))).1 = none ∧
    u.fab.reqs.find? (fun x => x.tag == (0 : BitVec 24).toNat && !x.retry) = some { tag := 0, issuer := .cmd r0, packet := packetOf ptRead 1 } := by
  rcases h with h | h | h <;> subst h <;> unfold Arrives <;>
    exact ⟨by decide +kernel, ⟨_, rfl, rfl, rfl⟩, by decide +kernel, by decide +kernel, by decide +kernel, by decide,
      by decide, by decide +kernel, by decide +kernel, by decide +kernel⟩

theorem witness_late_response : Arrives (looped (windowed .opened 0) (respP 0)) none (respP 0) ptResp ∧
    (∀ x ∈ (windowed .opened 0).fab.reqs, x.tag ≠ (respP 0).tag.toNat) := by unfold Arrives; decide +kernel

/-- The TAG after one in use is the next; a counter at its end goes round. -/
theorem witness_tags : [5, 6].length < 16384 ∧ freeTag [5, 6] 16384 5 = 7 ∧ freeTag [16777215] 16384 16777215 = 0 := by decide +kernel

def linked (x : Link) : State := { up with fab := { up.fab with links := [(2, x)] } }
/-- A flit with its CRC. -/
def sealed (b : BitVec 2048) : BitVec 2048 := put b 2016 32 (flitCrc b).toNat
/-- A packet flit of TC2 with a SEQ, an idle flit, and a control message. -/
def flitOf (seq : Nat) : BitVec 2048 := sealed (word 2048 [(0, 2, 1), (2, 2, 2), (8, 12, seq), (34, 3, 7)])
def message (m : Nat) (major : Nat) : Dword := word 64 [(0, 8, m), (8, 8, major)]

/-- The check value of the CRC-32 of IEEE 802.3, over the ASCII digits 1 to 9 (log 25). -/
theorem test_crc32 : crc32 [0x31, 0x32, 0x33, 0x34, 0x35, 0x36, 0x37, 0x38, 0x39] = 0xCBF43926 := by decide +kernel

theorem witness_flits : ((linked { state := .up }).link 2).exchanging = true ∧ crcGood (flitOf 0) = true ∧ crcGood (put (flitOf 0) 100 1 1) = false ∧
    crcGood (sealed 0) = true ∧ fld (sealed 0) 0 2 = 0 ∧ fld (flitOf 0) 0 2 ≠ 0 ∧
    fld (flitOf 0) 8 12 = (applyHeader { state := .up } (flitOf 0)).rxSeq.toNat ∧
    fld (flitOf 4095) 8 12 ≠ (applyHeader { state := .up } (flitOf 4095)).rxSeq.toNat ∧ crcGood (flitOf 4095) = true ∧
    ({ state := .up, naked := true } : Link).naked = true := by decide +kernel

theorem witness_link_training : (up.linkUp = true ∧ linkPresent up 2 = true ∧ (up.link 2).state = .down ∧
      (linked { state := .mismatch } |>.link 2).state = .mismatch) ∧
    (reachedWidth up 2 0 = 3 ∧ reachedWidth up 2 0xF0 = 1 ∧ reachedWidth up 2 0x0F = 2 ∧ reachedWidth up 2 0xFF = 0 ∧
      bit up.fab.cfg.split 1 = false ∧ ((linked { state := .training }).link 2).state = .training ∧
      ((linked { state := .training }).link 2).width = 0) ∧
    (Tab.get [] ((linked { state := .training, width := 1 }).link 2).rx 3 = [] ∧ ((linked { state := .training, width := 1 }).link 2).exchanging = true ∧
      ((linked { state := .training, width := 1 }).link 2).up = false) ∧
    fld (message 1 1) 0 8 = 1 ∧ (fld (message 2 2) 0 8 = 2 ∧ MG.major (message 2 2) ≠ 1) ∧ (fld (message 2 1) 0 8 = 2 ∧ MG.major (message 2 1) = 1) ∧
    fld (message 3 1) 0 8 = 3 ∧ (fld (message 4 1) 0 8 = 4 ∧ ((linked { state := .up }).link 2).up = true ∧
      ((linked { state := .up }).link 2).exchanging = true) := by decide +kernel

theorem witness_link_loss : ((linked { state := .up }).link 2).up = true ∧
    (((linked { state := .up, replay := [{ lane := 2, bits := flitOf 0 }] }).link 2).up = true ∧
      ((linked { state := .up, replay := [{ lane := 2, bits := flitOf 0 }] }).link 2).replay ≠ []) ∧ ((linked { state := .up }).link 2).replay = [] ∧
    (((linked { state := .up }).link 2).tx = [] ∧ ((linked { state := .up }).link 2).usable = true) ∧
    (((linked { state := .retraining }).link 2).tx = [] ∧ ((linked { state := .retraining }).link 2).state = .retraining) := by decide +kernel

theorem witness_packets : PacketEncodable (packetOf ptWrite 8 (List.replicate 8 1)) ∧ PacketEncodable (packetOf ptResp 0) ∧
    PacketEncodable { packetOf ptAccumulate 8 with blocks := List.replicate 8 1 } ∧ PacketEncodable (packetOf ptBarrier 15) := by
  unfold PacketEncodable; decide +kernel

/-! ### The vector engine -/

/-- A core that executes the rows of its program in a running section of context 0. -/
def live (k : Core) : State := { keyed with
  ctxs := [(0, { isOpen := true, run := some { seq := 1, payload := 0, cur := 0, left := none } })]
  grid := { keyed.grid with ctx := some 0, phase := .running }
  cores := [(0, { k with active := true, progRows := 2 })] }

/-- A vector instruction on vector registers 1 and 2 that writes register 3. -/
def vw (op fmt : Nat) (src1 : Nat := 1) (k1 : Nat := 0) (src2 : Nat := 2) (k2 : Nat := 0) : BitVec 64 :=
  word 64 [(0, 8, op), (8, 9, 3), (18, 16, src1), (34, 2, k1), (36, 16, src2), (52, 2, k2), (58, 3, fmt)]

def vectorReady (s : State) (w : BitVec 64) : Bool :=
  canIssue s 0 && (fetchFault s 0 false == none) && vecOk (vdecode w) && !(vecHandles (vdecode w)).any (handleWaits s 0) &&
    !(accEntries (vdecode w)).any (accBusy (s.core 0))

theorem vectorReady_iff {s : State} {w : BitVec 64} (h : vectorReady s w = true) : VectorReady s 0 w := by
  simp only [vectorReady, Bool.and_eq_true, Bool.not_eq_true', beq_iff_eq] at h
  exact ⟨h.1.1.1.1, h.1.1.1.2, h.1.1.2, h.1.2, h.2⟩

theorem witness_vector_checks : canIssue up 0 = false ∧ canIssue (live {}) 0 = true ∧ fetchFault (live {}) 0 false = none ∧
    fld (vw 0x01 0) 0 8 = 0x01 ∧ vecOk (vdecode (vw 0x01 0)) = false := by decide +kernel

/-- Every lane instruction of two register sources may issue, in each format named. -/
theorem witness_lanes : (∀ op ∈ [0x01, 0x02, 0x03, 0x04, 0x05, 0x06, 0x07, 0x08, 0x09, 0x0A, 0x0B, 0x0C, 0x0D, 0x30, 0x31, 0x32, 0x33],
      vectorReady (live {}) (vw op 2) = true ∧ fld (vw op 2) 0 8 = op ∧ (vdecode (vw op 2)).fmt = 2) ∧
    (∀ op ∈ [0x20, 0x21, 0x22, 0x23, 0x24, 0x25, 0x30, 0x31, 0x32, 0x33], vectorReady (live {}) (vw op 0) = true ∧ fld (vw op 0) 0 8 = op ∧
      (vdecode (vw op 0)).fmt = 0) ∧
    (∀ op ∈ [0x26, 0x27, 0x40, 0x41, 0x42, 0x43, 0x44, 0x60], vectorReady (live {}) (vw op 0 (src2 := 0)) = true ∧ fld (vw op 0 (src2 := 0)) 0 8 = op ∧
      (vdecode (vw op 0 (src2 := 0))).fmt = 0) ∧
    (∀ op ∈ [0x39, 0x3A, 0x3B, 0x3C], vectorReady (live {}) (vw op 0) = true ∧ fld (vw op 0) 0 8 = op) ∧
    (vectorReady (live {}) (vw 0x38 0 (k1 := 3)) = true ∧ fld (vw 0x38 0 (k1 := 3)) 0 8 = 0x38) ∧
    (∀ op ∈ [0x50, 0x51], vectorReady (live {}) (vw op 0) = true ∧ vectorReady (live {}) (vw op 2) = true ∧ fld (vw op 0) 0 8 = op ∧ fld (vw op 2) 0 8 = op) ∧
    (vectorReady (live {}) (vw 0x52 0) = true ∧ fld (vw 0x52 0) 0 8 = 0x52) ∧
    (vectorReady (live {}) (vw 0x53 0 (k2 := 3)) = true ∧ fld (vw 0x53 0 (k2 := 3)) 0 8 = 0x53) := by decide +kernel

/-- The sources are read, 128 lanes each, and change nothing. -/
theorem witness_sources : ∃ a b, source1 (live {}) 0 (vdecode (vw 0x01 2)) = (.ok a, live {}) ∧
    source2 (live {}) 0 (vdecode (vw 0x01 2)) = (.ok b, live {}) ∧ a.length = 128 ∧ b.length = 128 :=
  ⟨lanesOf (((live {}).core 0).vreg 1), lanesOf (((live {}).core 0).vreg 2), rfl, rfl, by simp [lanesOf], by simp [lanesOf]⟩

theorem witness_comparison : (fun x => 0x7F800000 < x % 2 ^ 31) 0x7F800001 ∧ ¬ 0x7F800000 < 0xFF800000 % 2 ^ 31 ∧ 0x7F800001 < 2 ^ 32 := by decide

/-- No lane is active under an empty mask; otherwise the lowest is lane 0. -/
theorem witness_active : firstActive (activeLanes {} (vdecode (put (vw 0x52 0) 57 1 1))) = none ∧ firstActive (activeLanes {} (vdecode (vw 0x52 0))) = some 0 := by
  decide +kernel

theorem witness_conversions :
    (vectorReady (live {}) (vw 0x61 0 (src2 := 0x20 + 2) (k2 := 3)) = true ∧ cvWiden (vdecode (vw 0x61 0 (src2 := 0x20 + 2) (k2 := 3))) = true ∧
      isMx (cvCode (vdecode (vw 0x61 0 (src2 := 0x20 + 2) (k2 := 3)))) = false) ∧
    (vectorReady (live {}) (vw 0x61 0 (src2 := 2) (k2 := 3)) = true ∧ cvWiden (vdecode (vw 0x61 0 (src2 := 2) (k2 := 3))) = false ∧
      isMx (cvCode (vdecode (vw 0x61 0 (src2 := 2) (k2 := 3)))) = false ∧ (vdecode (vw 0x61 0 (src2 := 2) (k2 := 3))).stoch = false) ∧
    (vectorReady (live {}) (vw 0x62 0 (src2 := 7) (k2 := 2)) = true ∧ (vdecode (vw 0x62 0 (src2 := 7) (k2 := 2))).k2 = 2) ∧
    vectorReady (live {}) (vw 0x63 0 (src1 := 2) (src2 := 0) (k2 := 3)) = true := by decide +kernel

/-- A LOCAL entry of 4 rows of the core's own memory. -/
def localEntry : BitVec 128 := word 128 [(0, 1, 1), (1, 1, 1), (7, 7, 3), (64, 32, 4)]
def withLocal : State := live { keys := [(2, localEntry)] }

theorem witness_rows : vectorReady (live {}) (vw 0x00 0) = true ∧
    (vectorReady withLocal (vw 0x70 0 (src1 := 2) (k1 := 3) (src2 := 1) (k2 := 3)) = true ∧
      vectorReady withLocal (vw 0x71 0 (src1 := 2) (k1 := 3) (src2 := 1) (k2 := 3)) = true) ∧
    (let k := capture withLocal (some 0) 2
     k.valid = true ∧ ownEntry 0 k = true ∧ blocksPerRow k.format = 0 ∧ (accessRead withLocal (some 0) k none 1 1).1 = [0] ∧
      (accessRead withLocal (some 0) k none 1 1).2.1 = none ∧ (accessWrite withLocal (some 0) k none 1 [(0, 0)]).1 = none) ∧
    vectorReady (live {}) (vw 0x79 0 (k1 := 3)) = true ∧ vectorReady (live {}) (vw 0x7A 0 (k1 := 3)) = true ∧
    (vectorReady (live { replayMode := true }) (vw 0x78 0) = true ∧ ((live { replayMode := true }).core 0).replayMode = true) := by decide +kernel

/-- R147: an element that leaves its range wraps; R144: a saturating one clamps. -/
theorem test_wraps : (127 + 1) % 2 ^ 8 = 128 ∧ wrap 8 (max (-(2 ^ (8 - 1) : Int)) (min (signed 8 127 + signed 8 1) (2 ^ (8 - 1) - 1))) = 127 := by decide

/-! ### Sequencer words and the matrix array -/

/-- A sequencer word with its fields. -/
def sw (op : Nat) (fs : List (Nat × Nat × Nat) := []) : BitVec 128 := word 128 ((0, 4, op) :: fs)

def sequencerReady (s : State) (op : Nat) (w : BitVec 128) : Bool :=
  canIssue s 0 && (fetchFault s 0 true == none) && (fld w 0 4 == op) && !(wordHandles op w).any (handleWaits s 0)

theorem sequencerReady_iff {s : State} {op : Nat} {w : BitVec 128} (h : sequencerReady s op w = true) : SequencerReady s 0 op w := by
  simp only [sequencerReady, Bool.and_eq_true, Bool.not_eq_true', beq_iff_eq] at h
  exact ⟨h.1.1.1, h.1.1.2, h.1.2, h.2⟩

/-- RMOV of 1 row from local entry 2 to device entry 5; WCLAIM of 1 up to 4 at word 3 of device entry 6, in chip memory. -/
def moveW : BitVec 128 := sw 4 [(8, 16, 2), (24, 16, 0x8005), (104, 20, 1)]
def claimW : BitVec 128 := sw 7 [(32, 16, 0x8006), (48, 32, 3), (80, 16, 1), (96, 32, 4)]
def chipEntry : BitVec 256 := word 256 [(0, 1, 1), (1, 3, 1), (9, 7, 0x7F), (24, 8, 1), (32, 32, 4), (64, 52, chipBase)]
def claiming : State := { live {} with keys := [(6, chipEntry)] }

/-- A word as R163 and R230 lay it out bit by bit: SEQJ of loop 2 to word 8 while its count is below 5; an OPCODE of R144 (the worked
VFMA of R143). -/
theorem test_decode : decodeSequencer 0 (0x50008004F : BitVec 128) = some (.seqj 0 0x50008004F) ∧
    decodeSequencer 0 3 = none ∧ decodeVector 0 0x02E0142404B00723 .clean = some (.vfma 0 { word := 0x02E0142404B00723 }) ∧
    (vdecode 0x02E0142404B00723).dst = 7 ∧ (vdecode 0x02E0142404B00723).src1 = 300 ∧ (vdecode 0x02E0142404B00723).k1 = 1 ∧
    (vdecode 0x02E0142404B00723).src2 = 0x142 ∧ (vdecode 0x02E0142404B00723).k2 = 2 ∧
    readsBuffer (vdecode 0x02E0142404B00723) = true := by decide +kernel

theorem witness_reserved : canIssue withLocal 0 = true ∧ fetchFault withLocal 0 true = none ∧ fld (sw 3) 0 4 = 3 ∧ fld (sw 0) 0 4 = 0 ∧
    (sequencerReady withLocal 5 (sw 5 [(4, 6, 2), (10, 1, 1), (16, 5, 0x12)]) = true ∧ bit (sw 5 [(10, 1, 1)]) 10 = true) ∧
    (sequencerReady withLocal 5 (sw 5 [(4, 6, 9)]) = true ∧ CE.valid (Tab.get 0 (withLocal.core 0).keys 9) = false) ∧
    (sequencerReady (live { keys := [(2, localEntry)], moves := 8 }) 4 moveW = true) ∧
    (sequencerReady claiming 7 (sw 7 [(32, 16, 0x8006)]) = true ∧ sequencerReady withLocal 7 (sw 7 [(32, 16, 2), (80, 16, 1)]) = true ∧
      (capture withLocal (some 0) 2).valid = true ∧ (capture withLocal (some 0) 2).isLocal = true) := by decide +kernel

theorem witness_sequencer :
    (sequencerReady withLocal 5 (sw 5 [(4, 6, 2), (10, 1, 1), (16, 5, 0x11)]) = true ∧
      CE.valid (Tab.get 0 (withLocal.core 0).keys (fld (sw 5 [(4, 6, 2), (10, 1, 1), (16, 5, 0x11)]) 4 6)) = true ∧
      fld (sw 5 [(4, 6, 2), (10, 1, 1), (16, 5, 0x11)]) 16 5 < 0x12) ∧
    (sequencerReady (live {}) 0xF (sw 0xF [(4, 1, 1)]) = true ∧ bit (sw 0xF [(4, 1, 1)]) 4 = true ∧ sequencerReady (live {}) 0xF (sw 0xF) = true ∧
      bit (sw 0xF) 4 = false) ∧
    (sequencerReady withLocal 4 moveW = true ∧ (withLocal.core 0).moves < 8 ∧ sequencerReady (live { keys := [(2, localEntry)], moves := 7 }) 4 moveW = true ∧
      (copyRows withLocal (some 0) (capture withLocal (some 0) 2) (capture withLocal (some 0) h5) 0 0 1).1 = none) ∧
    0 < ((live { moves := 1 }).core 0).moves ∧
    (sequencerReady claiming 7 claimW = true ∧ fld claimW 80 16 ≠ 0 ∧ fld claimW 96 32 ≠ 0xFFFFFFFF ∧
      (let k := capture claiming (some 0) 0x8006
       k.isLocal = false ∧ k.tier = 1 ∧ k.refuse claiming.grid.ctx pFADD none = none ∧ k.addr 0 = some chipBase ∧
        (faddRow (markSeen claiming claiming.grid.ctx k pFADD) chipBase 3 1 4).1 = some 0)) := by decide +kernel

/-- SLOAD and MMUL of one segment of 32 BF16 elements from local entry 2. -/
def loadW (op : Nat) (count : Nat := 1) : BitVec 128 := sw op [(8, 5, 2), (16, 16, 2), (88, 9, 32), (97, 10, count)]
def setOf (cols : Nat) : StatSet := { valid := true, fmt := 2, kv := 32, nv := cols }
def arrayOp (op : Nat) : ArrayOp := mkArrayOp withLocal 0 (loadW op)
def arrayState (q : List ArrayOp) : State := live { keys := [(2, localEntry)], set0 := setOf 4, arrayQ := q }

theorem witness_array :
    (sequencerReady withLocal 1 (loadW 1) = true ∧ arrayOk (withLocal.core 0) 0 (arrayOp 1) = true ∧ (withLocal.core 0).arrayQ.length < 4 ∧
      arrayOk (withLocal.core 0) 0 (mkArrayOp withLocal 0 (loadW 1 129)) = false) ∧
    (sequencerReady (arrayState []) 2 (loadW 2) = true ∧ arrayOk ((arrayState []).core 0) 0 (arrayOp 2) = true ∧ AW.count (loadW 2) ≠ 0 ∧
      arrayOk ((arrayState []).core 0) 0 (mkArrayOp withLocal 0 (loadW 2 0)) = true ∧ AW.count (loadW 2 0) = 0 ∧
      arrayOk (withLocal.core 0) 0 (arrayOp 2) = false) ∧
    (sectionLive (arrayState [arrayOp 1]) = true ∧ ((arrayState [arrayOp 1]).core 0).tile = none ∧ AW.op (arrayOp 1).word = 1 ∧
      (∀ f ∈ ((arrayState [arrayOp 1]).core 0).flight, f.set ≠ AW.set (arrayOp 1).word) ∧
      (readSegs (arrayOp 1) 32 0 1 (arrayState [])).1.toOption.isSome = true ∧ ((readSegs (arrayOp 1) 32 0 1 (arrayState [])).2.core 0).tile = none) ∧
    (AW.op (arrayOp 2).word = 2 ∧ (((arrayState [arrayOp 2]).core 0).statSet (AW.set (arrayOp 2).word)).valid = true ∧
      (readSeg (arrayState [arrayOp 2]) (arrayOp 2) 0 32).1.toOption.isSome = true ∧ 0 < AW.len (arrayOp 2).word ∧
      0 < (((arrayState [arrayOp 2]).core 0).statSet (AW.set (arrayOp 2).word)).nv) := by decide +kernel

/-- A vector in flight names the set of the load at the head. -/
def named : State :=
  let v : Flight := { elems := 0, scales := 0, stat := setOf 4, set := 0, accMode := 0, entry := 0, len := 32, fmt := 2, cols := [0] }
  live { arrayQ := [arrayOp 1], flight := [v] }

theorem witness_array_waits :
    (let s := arrayState (List.replicate 4 (arrayOp 2))
     sequencerReady s 2 (loadW 2) = true ∧ sequencerReady s 1 (loadW 1) = true ∧ 4 ≤ (s.core 0).arrayQ.length ∧
      arrayOk (s.core 0) 0 (arrayOp 2) = true ∧ arrayOk (s.core 0) 0 (arrayOp 1) = true) ∧
    (let s := named
     sectionLive s = true ∧ ∃ f ∈ (s.core 0).flight, f.set = AW.set (arrayOp 1).word) ∧
    ((withLocal.core 0).statSet (AW.set (arrayOp 2).word)).valid = false := by decide +kernel

/-- A vector in flight of accumulation mode m, with column 0 left to commit. -/
def flying (m : Nat) : State := live { flight := [{ elems := 0, scales := 0, stat := setOf 4, set := 0, accMode := m, entry := 0, len := 32, fmt := 2, cols := [0] }] }

theorem witness_accumulators (m : Nat) (h : m = 0 ∨ m = 1 ∨ m = 2 ∨ m = 3) : sectionLive (flying m) = true ∧ ((flying m).core 0).tile = none ∧
    ∃ v, ((flying m).core 0).flight = [v] ∧ v.cols.contains (0 : Fin 128).val = true ∧ v.accMode = m := by
  rcases h with h | h | h | h <;> subst h <;> exact ⟨by decide +kernel, by decide +kernel, _, rfl, rfl, rfl⟩

/-- Channel 1 sends north on VC 0; channel 2 receives there. -/
def channels : Tab (BitVec 128) := [(1, word 128 [(0, 1, 1), (1, 1, 1)]), (2, word 128 [(0, 1, 1)])]
def meshed (rx : List Token) : State := live { keys := [(2, localEntry)], chans := channels, credits := [(1, 2)], rxq := [(2, rx)] }
def chW (op ch : Nat) (fs : List (Nat × Nat × Nat) := []) : BitVec 128 := sw op ([(8, 8, ch)] ++ fs)

theorem witness_channel_waits :
    (chanOk ((meshed []).core 0) 2 true = false ∧ sequencerReady (meshed []) 0xA (chW 0xA 2) = true ∧ sequencerReady (meshed []) 0xB (chW 0xB 1) = true ∧
      sequencerReady (meshed []) 8 (chW 8 2) = true ∧ sequencerReady (meshed []) 9 (chW 9 1) = true ∧ chanOk ((meshed []).core 0) 1 false = false) ∧
    chHead (meshed []) 0 2 = none ∧ ((live { sends := List.replicate 4 (1, 1, false) }).core 0).sends.length = 4 ∧
    ((live { recvs := List.replicate 4 { word := 0, cap := capture (meshed []) (some 0) 2 } }).core 0).recvs.length = 4 ∧
    (let a : Token := dataToken 0 0
     let b : Token := ((rowTokens 0 0).getD 1 a)
     let q := meshed [a, b]
     a.isData = true ∧ a.half = false ∧ b.isData = true ∧ b.half = true ∧ chHead q 0 2 = some a ∧ chHead (chPop q 0 2) 0 2 = some b ∧
      CW.kind (chW 9 2 [(5, 1, 1), (64, 20, 1)]) = true ∧ CW.eot (chW 9 2 [(5, 1, 1), (64, 20, 1)]) = false ∧
      sequencerReady q 9 (chW 9 2 [(5, 1, 1), (64, 20, 1)]) = true) := by decide +kernel

theorem witness_channels :
    (sequencerReady (meshed []) 0xA (chW 0xA 1) = true ∧ chanOk ((meshed []).core 0) 1 true = true ∧ Tab.get [] ((meshed []).core 0).txq 1 = [] ∧
      tileOwns ((meshed []).core 0) 1 = false ∧ chCredit (meshed []) 0 1 = true) ∧
    (sequencerReady (meshed [doneToken 0]) 0xB (chW 0xB 2) = true ∧ chanOk ((meshed [doneToken 0]).core 0) 2 false = true ∧
      (∀ o ∈ ((meshed [doneToken 0]).core 0).recvs, CW.chan o.word ≠ 2) ∧ chHead (meshed [doneToken 0]) 0 2 = some (doneToken 0) ∧
      fld (chW 0xB 2 [(5, 2, 3)]) 5 2 = 3 ∧ (doneToken 0).isDone = true ∧ fld (chW 0xB 2 [(5, 2, 1)]) 5 2 ≠ 3 ∧ (controlToken 1 5).isControl = true ∧
      (controlToken 1 5).ckind = fld (chW 0xB 2 [(5, 2, 1)]) 5 2 ∧ (dataToken 0 0).isData = true) ∧
    (sequencerReady (meshed []) 8 (chW 8 1 [(16, 16, 2), (64, 20, 1)]) = true ∧ ((meshed []).core 0).sends.length < 4 ∧
      CW.kind (chW 8 1 [(5, 1, 1), (64, 20, 1)]) = true ∧ CW.count (chW 8 1 [(5, 1, 1), (64, 20, 1)]) = 1 ∧
      CW.kind (chW 8 1 [(16, 16, 2), (64, 20, 1)]) = false ∧ CW.count (chW 8 1 [(16, 16, 2)]) = 0 ∧
      (capture (meshed []) (some 0) 2).valid = true ∧ ownEntry 0 (capture (meshed []) (some 0) 2) = true ∧
      (accessRead (meshed []) (meshed []).grid.ctx (capture (meshed []) (some 0) 2) none 0 1).2.1 = none) ∧
    (sequencerReady (meshed []) 9 (chW 9 2 [(16, 16, 2), (64, 20, 1)]) = true ∧ ((meshed []).core 0).recvs.length < 4 ∧
      CW.kind (chW 9 2 [(16, 16, 2), (64, 20, 1)]) = false) := by decide +kernel

/-- A descriptor of one 1 × 1 × 1 tile of INT8 that hands its output to nobody, its operands in local entry 2; with a done token if asked. -/
def level (k : Nat) : List (Nat × Nat × Nat) :=
  let b := 1024 + 256 * k
  [(b, 32, 1), (b + 32, 32, 1), (b + 64, 32, 1), (b + 96, 16, 1), (b + 112, 8, 0x93)]
def tileDesc (outkind done : Nat) : Row :=
  word 4096 ([(0, 4, 1), (4, 5, 2), (13, 2, outkind), (15, 1, done), (32, 32, 1), (64, 32, 1), (96, 32, 1), (128, 32, 1), (160, 16, 2), (176, 16, 2),
    (192, 16, 2), (528, 8, 1), (536, 8, 1)] ++ level 0 ++ level 1 ++ level 2 ++ level 3)

/-- Local entries 2 and 3: RAW, and BF16. -/
def tiled (k : Core) : State := live { k with keys := [(2, localEntry), (3, put localEntry 2 5 2)], chans := channels, credits := [(1, 2)] }
/-- The descriptor stands in row 0 of the core's memory. -/
def tileReady (outkind done : Nat) : State := { tiled {} with ms := { (tiled {}).ms with mem := Mem.setRow [] coreBase (tileDesc outkind done) } }
def tileW : BitVec 128 := sw 6 [(16, 16, 2)]
def box1 : Box := ⟨0, 0, 0, 0, 1, 1, 1, 1⟩
def l0 (endL1 : Bool) : L0Tile := { t0 := box1, t1 := box1, t2 := box1, firstK := true, lastK := true, endL1 := endL1 }
/-- A run of the descriptor with nothing left to compute. -/
def runOf (outkind done : Nat) : TileRun :=
  { word := tileW, desc := tileDesc outkind done, caps := List.replicate 9 (capture (tiled {}) (some 0) 3),
    members := [soleMember (tileDesc outkind done) 1], work := [] }
def tileState (t : TileRun) (k : Core := {}) : State := tiled { k with tile := some t }
def withEpilogue (outkind : Nat) (e : Bool) : TileRun := { runOf outkind 0 with epilogues := [(l0 e, 0)] }
def withShip (outkind : Nat) : TileRun := { runOf outkind 0 with ships := [(box1, 0)] }

theorem witness_tile_starts : sequencerReady (tileReady 2 0) 6 tileW = true ∧ ((tileReady 2 0).core 0).tile = none ∧
    ((startTile (tileReady 2 0) 0 tileW (shapeLanes ((tileReady 2 0).core 0) tileW) false).1.toOption.any fun t =>
      !(t.caps.any (capWaits (tileReady 2 0))) && t.work.length == 1) = true ∧
    (startTile (tiled {}) 0 tileW (shapeLanes ((tiled {}).core 0) tileW) false).1.toOption = none := by decide +kernel

theorem witness_tile_epilogues (o : Nat) (e : Bool) (h : (o = 0 ∧ e = true) ∨ (o = 2 ∧ e = true) ∨ (o = 2 ∧ e = false)) :
    let s := tileState (withEpilogue o e)
    let d := (withEpilogue o e).desc
    sectionLive s = true ∧ (s.core 0).tile = some (withEpilogue o e) ∧ (withEpilogue o e).epilogues = [(l0 e, 0)] ∧
    (([TD.accBase d] ++ epiEntries s 0 d).any (accBusy (s.core 0)) = false) ∧ (TD.outkind d = 2 ∨ (withEpilogue o e).ships.length < TD.bufs d 1) ∧
    (runEpilogue 0 false (TD.epiLen d) (TD.epiAddr d) (epilogueLanes s 0 (withEpilogue o e) (l0 e) 0 0)).1 = none ∧ (l0 e).endL1 = e ∧ TD.outkind d = o := by
  rcases h with ⟨h1, h2⟩ | ⟨h1, h2⟩ | ⟨h1, h2⟩ <;> subst h1 <;> subst h2 <;> decide +kernel

theorem witness_tile_ships :
    ((tileState (withShip 0)).core 0).tile = some (withShip 0) ∧ (withShip 0).ships = [(box1, 0)] ∧ TD.outkind (withShip 0).desc = 0 ∧
    (copySegs (withShip 0) 2 (homeAt 0 2) (fun i => i * (1 / 256)) (fun i => i) (ceilDiv 1 256) 1 0 (tileState (withShip 0))).1 = none ∧
    TD.outkind (withShip 1).desc ≠ 0 ∧ (shipTokens 0 ((withShip 1).cap 2) 1 [0] (tileState (withShip 1))).1 = none := by decide +kernel

theorem witness_tile_ends : let t := runOf 2 0
    (t.work = [] ∧ t.claimsDone = true ∧ t.epilogues = [] ∧ t.ships = [] ∧ TD.outkind t.desc ≠ 1 ∧ t.deferred = false ∧ TD.doneEn t.desc = false) ∧
    TD.doneEn (runOf 2 1).desc = true ∧ { t with deferred := true }.deferred = true ∧ sectionLive (tileState t) = true := by decide +kernel

/-- The core waits on CTAKE of channel 2, which holds nothing, or a token. -/
def stalled (rx : List Token) (k : Core) : State := tiled { k with stall := some 0xB02, rxq := [(2, rx)] }
def parkedRun : TileRun := { runOf 2 0 with deferred := true, atEnd := true, work := [l0 true] }

theorem witness_deferred :
    (sequencerReady (tiled {}) 0xC (sw 0xC) = true ∧ ((tiled {}).core 0).deferred.length < 16) ∧ sequencerReady (tiled {}) 0xD (sw 0xD) = true ∧
    (let s := stalled [] { parked := some parkedRun }
     sectionLive s = true ∧ (s.core 0).active = true ∧ (s.core 0).tile = none ∧ starved s 0 = true ∧ (s.core 0).parked = some parkedRun) ∧
    (let s := { tileReady 2 0 with cores := [(0, { (tileReady 2 0).core 0 with ended := true, deferred := [(sw 0xC [(16, 16, 2)], 0)] })] }
     mustRun (s.core 0) = true ∧ (s.core 0).parked = none ∧ (s.core 0).deferred = [(sw 0xC [(16, 16, 2)], 0)] ∧
      ((startTile s 0 (sw 0xC [(16, 16, 2)]) 0 true).1.toOption.any fun t => !(t.caps.any (capWaits s))) = true) ∧
    (let s := stalled [doneToken 0] { tile := some parkedRun }
     (s.core 0).tile = some parkedRun ∧ parkedRun.atBoundary = true ∧ parkedRun.epilogues = [] ∧ parkedRun.ships = [] ∧ wouldYield s 0 = true) := by
  decide +kernel

/-- STASH of 1 row between local entry 2 and device entry 5, a mode and a direction. -/
def stashW (dir mode : Nat) : BitVec 128 := sw 0xE [(5, 1, dir), (6, 3, mode), (16, 16, 2), (32, 16, 0x8005), (80, 20, 1)]
def stashed : State := { withLocal with ms := { withLocal.ms with mem := Mem.setRow (Mem.setRow [] 0 (word 4096 [(0, 32, 1)])) 1024 (BitVec.ofNat 4096 (512 + 1024)) } }

theorem witness_stash :
    (sequencerReady withLocal 0xE (stashW 0 0) = true ∧ (capture withLocal (some 0) 2).valid = true ∧ (capture withLocal (some 0) 2).tier ≤ 1 ∧
      (capture withLocal (some 0) h5).isLocal = false ∧ 2 ≤ (capture withLocal (some 0) h5).tier ∧ (withLocal.core 0).stashes < 4) ∧
    (SH.dirIn (stashW 1 0) = true ∧ (stashIn stashed 0 (stashW 1 0) (capture stashed (some 0) 2) (capture stashed (some 0) h5)).1 = none) ∧
    (SH.dirIn (stashW 0 0) = false ∧ SH.mode (stashW 0 0) ≤ 5 ∧ SH.mode (stashW 0 0) < 2 ∧
      (stashOut withLocal 0 (stashW 0 0) (capture withLocal (some 0) 2) (capture withLocal (some 0) h5)).1.isNone = true) ∧
    (sequencerReady withLocal 0xE (stashW 0 6) = true ∧ SH.dirIn (stashW 0 6) = false ∧ 5 < SH.mode (stashW 0 6)) ∧ 0 < ((live { stashes := 1 }).core 0).stashes := by
  decide +kernel

theorem witness_stash_waits : (sequencerReady (live { keys := [(2, localEntry)], stashes := 4 }) 0xE (stashW 0 0) = true ∧
      4 ≤ ((live { keys := [(2, localEntry)], stashes := 4 }).core 0).stashes) ∧
    (stashOut withLocal 0 (stashW 0 0) (capture withLocal (some 0) 2) (capture withLocal (some 0) h5)).1 = none ∧
    (capture withLocal (some 0) 2).tier ≤ 1 ∧ SH.count (put (stashW 1 0) 80 20 0) = 0 ∧ SH.dirIn (put (stashW 1 0) 80 20 0) = true := by decide +kernel

theorem witness_tile_waits : (let s := tileState (runOf 2 0)
      sequencerReady s 6 tileW = true ∧ (s.core 0).tile ≠ none) ∧
    (let s := tiled { deferred := List.replicate 16 (sw 0xC, 0) }
     sequencerReady s 0xC (sw 0xC) = true ∧ 16 ≤ (s.core 0).deferred.length) ∧
    (let s := { tiled {} with cores := [(0, { (tiled {}).core 0 with ended := true, deferred := [(sw 0xC [(16, 16, 2)], 0)] })] }
     mustRun (s.core 0) = true ∧ (startTile s 0 (sw 0xC [(16, 16, 2)]) 0 true).1.toOption = none) := by decide +kernel

/-! ### The stream mesh -/

theorem witness_tokens : CH.endpoint (((meshed []).core 0).chan 1) ≠ 1 ∧ neighbour 12 0 = none ∧ neighbour 0 1 = some 12 ∧
    CH.elastic (word 128 [(0, 1, 1), (2, 1, 1)]) = true ∧ CH.elastic (((meshed []).core 0).chan 2) = false := by decide +kernel

/-- Core 0 with a token on the wire of port 0, VC 0, whose channel 2 is elastic or not. -/
def wired (elastic : Nat) : State := live { chans := [(2, word 128 [(0, 1, 1), (2, 1, elastic)])], wire := [(0, [doneToken 5])] }
/-- Device entry 5 with SPILL, and a token spilled. -/
def spilled (n : Nat) : State := live { chans := [(2, word 128 [(0, 1, 1), (2, 1, 1), (16, 16, 0x8005), (32, 12, 4)])], spill := [(2, [doneToken 5])], rxq := [(2, List.replicate n (doneToken 5))] }
def routing : State := live { routes := [(1, word 16 [(0, 1, 1), (6, 2, 1)])], routeReg := [(1, [doneToken 5])] }

theorem witness_mesh_moves :
    (sectionLive (wired 0) = true ∧ Tab.get [] ((wired 0).core 0).wire (pv (0 : Fin 4).val (0 : Fin 8).val) = [doneToken 5] ∧
      recvEntry ((wired 0).core 0) (0 : Fin 4).val (0 : Fin 8).val = some 2 ∧ CH.elastic (((wired 0).core 0).chan 2) = false ∧
      recvEntry ((wired 1).core 0) (0 : Fin 4).val (0 : Fin 8).val = some 2 ∧ CH.elastic (((wired 1).core 0).chan 2) = true) ∧
    (sectionLive (spilled 11) = true ∧ Tab.get [] ((spilled 11).core 0).spill (2 : Fin 64).val = [doneToken 5] ∧
      (Tab.get [] ((spilled 11).core 0).rxq (2 : Fin 64).val).length < 12 ∧
      (capture (spilled 11) (some 0) (CH.spill (((spilled 11).core 0).chan 2))).refuse (spilled 11).grid.ctx pSPILL none = none ∧
      (readAt (markSeen (spilled 11) (some 0) (capture (spilled 11) (some 0) h5) pSPILL) (capture (spilled 11) (some 0) h5) 0).1.toOption.isSome = true) ∧
    (Tab.get 0 ((live { creditsBack := [(1, 1)] }).core 0).creditsBack (1 : Fin 64).val ≠ 0 ∧ Tab.get [] ((live {}).core 0).txq (1 : Fin 64).val = [] ∧
      Tab.get [] ((live { creditsBack := [(1, 1)], txq := [(1, [doneToken 0])] }).core 0).txq (1 : Fin 64).val ≠ []) ∧
    (RT.valid (Tab.get 0 (routing.core 0).routes (1 : Fin 4).val) = true ∧ Tab.get [] (routing.core 0).routeReg (1 : Fin 4).val = [doneToken 5] ∧
      neighbour 0 (RT.outPort (Tab.get 0 (routing.core 0).routes (1 : Fin 4).val)) = some 12) := by decide +kernel

/-- Elastic channel 2 of core 0 with its spill entry captured: n tokens in the queue, m spilled, and one on the wire. -/
def elastic (n m : Nat) : State :=
  let e : BitVec 128 := word 128 [(0, 1, 1), (2, 1, 1), (16, 16, 0x8005), (32, 12, 4)]
  live { chans := [(2, e)], spillCaps := [(2, capture keyed (some 0) h5)], wire := [(0, [doneToken 5])],
         rxq := [(2, List.replicate n (doneToken 5))], spill := [(2, List.replicate m (doneToken 5))] }

theorem witness_elastic :
    (∀ s ∈ [elastic 3 0, elastic 12 2, elastic 12 4], sectionLive s = true ∧ Tab.get [] (s.core 0).wire (pv (0 : Fin 4).val (0 : Fin 8).val) = [doneToken 5] ∧
      recvEntry (s.core 0) (0 : Fin 4).val (0 : Fin 8).val = some 2 ∧ CH.elastic ((s.core 0).chan 2) = true ∧ CH.spillRows ((s.core 0).chan 2) = 4 ∧
      ((s.core 0).spillCap 2).refuse s.grid.ctx pSPILL none = none) ∧
    (Tab.get [] ((elastic 3 0).core 0).spill 2 = [] ∧ (Tab.get [] ((elastic 3 0).core 0).rxq 2).length < 12) ∧
    ((Tab.get [] ((elastic 12 2).core 0).spill 2).length < 4 ∧
      (writeAt (elastic 12 2) (((elastic 12 2).core 0).spillCap 2) 2 (tokenRow (doneToken 5)) 0).1.toOption.isSome = true) ∧
    (12 ≤ (Tab.get [] ((elastic 12 4).core 0).rxq 2).length ∧ (Tab.get [] ((elastic 12 4).core 0).spill 2).length = 4) ∧
    (Tab.get [] ((elastic 11 2).core 0).spill (2 : Fin 64).val = [doneToken 5, doneToken 5] ∧ (Tab.get [] ((elastic 11 2).core 0).rxq (2 : Fin 64).val).length < 12 ∧
      (consumeAt (elastic 11 2) (((elastic 11 2).core 0).spillCap 2) 0).1.toOption.isSome = true ∧
      (consumeAt { elastic 11 2 with ms := { (elastic 11 2).ms with poison := [0] } } (((elastic 11 2).core 0).spillCap 2) 0).1.toOption = none) := by
  decide +kernel

/-- A steering unit whose control is channel 2, inputs channels 3 and 4, and output channel 1. -/
def unitDesc (nin : Nat) : BitVec 128 := word 128 [(0, 1, 1), (2, 6, 2), (8, 6, 3), (14, 6, 4), (32, 6, 1), (38, 6, 1), (56, 2, nin), (58, 2, 0), (64, 8, 2), (72, 8, 1)]
def steered (u nin : Nat) (ctrl : List Token) (st : SteerSt := {}) (x : Token := dataToken 0 7) : State :=
  let recv : BitVec 128 := word 128 [(0, 1, 1), (8, 3, 1)]
  live { chans := channels ++ [(3, recv), (4, recv)], credits := [(1, 2)], steer := [(u, unitDesc nin)], steerSt := [(u, st)], rxq := [(2, ctrl), (3, [x]), (4, [x])] }

theorem witness_steering :
    (unitLive (steered 0 1 [controlToken 1 1]) 0 0 = true ∧ ctrlStep (steered 0 1 [controlToken 1 1]) 0 0 = .index 1 ∧
      chHead (steered 0 1 [controlToken 1 1]) 0 4 = some (dataToken 0 7) ∧ (dataToken 0 7).isData = true ∧ chCredit (steered 0 1 [controlToken 1 1]) 0 1 = true) ∧
    (unitLive (steered 1 0 [controlToken 1 0]) 0 1 = true ∧ ctrlStep (steered 1 0 [controlToken 1 0]) 0 1 = .index 0 ∧
      chHead (steered 1 0 [controlToken 1 0]) 0 3 = some (dataToken 0 7)) ∧
    (unitLive (steered 3 0 [controlToken 1 2]) 0 3 = true ∧ ctrlStep (steered 3 0 [controlToken 1 2]) 0 3 = .index 2 ∧
      ctrlStep (steered 3 0 [controlToken 1 0]) 0 3 = .index 0 ∧ (((steered 3 0 [controlToken 1 2]).core 0).unitSt 3).copies + 1 < 2 ∧
      2 ≤ (((steered 3 0 [controlToken 1 2] { copies := 1 }).core 0).unitSt 3).copies + 1) ∧
    (unitLive (steered 2 1 []) 0 2 = true ∧ (((steered 2 1 []).core 0).unitSt 2).ended.length ≠ SD.nin (((steered 2 1 []).core 0).unit 2) ∧
      chHead (steered 2 1 []) 0 (SD.inp (((steered 2 1 []).core 0).unit 2) 0) = some (dataToken 0 7) ∧
      0 + 1 < SD.weight (((steered 2 1 []).core 0).unit 2) 0 ∧ SD.weight (((steered 2 1 [] { taken := 1 }).core 0).unit 2) 0 ≤ 1 + 1) ∧
    (let s := steered 1 0 [doneToken 0] {} (doneToken 0)
     unitLive s 0 (1 : Fin 4).val = true ∧ (∀ ch ∈ unitInputs ((s.core 0).unit 1) 1, (chHead s 0 ch).any Token.isDone = true) ∧
      (∀ ch ∈ SD.outs ((s.core 0).unit 1), chCredit s 0 ch = true)) := by decide +kernel

theorem witness_deadlock : (sectionLive (live {}) = true ∧ allCores.filter (coreOccupied (live {})) = [] ∧ streamsOccupied (live {}) = false) ∧
    (sectionLive (wired 0) = true ∧ (allCores.filter (coreOccupied (wired 0))).isEmpty = false ∧ (wired 0).grid.ctx = some 0 ∧ ((wired 0).ctx 0).fault = none) := by
  decide +kernel

theorem witness_steering_faults :
    (unitLive (steered 0 1 [controlToken 1 5]) 0 0 = true ∧ chHead (steered 0 1 [controlToken 1 5]) 0 2 = some (controlToken 1 5) ∧
      (controlToken 1 5).isControl = true ∧ (controlToken 1 5).isEot = false ∧ ctrlStep (steered 0 1 [controlToken 1 5]) 0 0 = .fault 2) ∧
    (unitLive (steered 1 0 [controlToken 0 1]) 0 1 = true ∧ ctrlStep (steered 1 0 [controlToken 0 1]) 0 1 = .fault 2) ∧
    (unitLive (steered 3 0 [controlToken 0 1]) 0 3 = true ∧ ctrlStep (steered 3 0 [controlToken 0 1]) 0 3 = .fault 2) ∧
    (ctrlStep (steered 0 1 [controlToken 1 1] {} (controlToken 1 0)) 0 0 = .index 1 ∧ ctrlStep (steered 1 0 [controlToken 1 0] {} (controlToken 1 0)) 0 1 = .index 0 ∧
      ctrlStep (steered 3 0 [controlToken 1 2] {} (controlToken 1 0)) 0 3 = .index 2 ∧ (controlToken 1 0).isData = false) ∧
    (let s := steered 2 1 [] { ended := [0, 1] }
     unitLive s 0 (2 : Fin 4).val = true ∧ ((s.core 0).unitSt 2).ended.length = SD.nin ((s.core 0).unit 2) ∧ (∀ ch ∈ SD.outs ((s.core 0).unit 2), chCredit s 0 ch = true)) ∧
    (let s := steered 1 0 [controlToken 2 0] {} (controlToken 2 0)
     unitLive s 0 (1 : Fin 4).val = true ∧ ∀ ch ∈ unitInputs ((s.core 0).unit 1) 1, (chHead s 0 ch).any Token.isEot = true) := by decide +kernel

/-- A token is held where a fault of the context stands. -/
def faultedHold : State := { wired 0 with ctxs := [(0, { (wired 0).ctx 0 with fault := some ⟨St.sectionTimeout, 0, 0⟩ })] }

theorem witness_deadlock_records : faultedHold.grid.phase = .running ∧ faultedHold.grid.ctx = some 0 ∧ (faultedHold.ctx 0).fault ≠ none ∧
    (allCores.filter (coreOccupied faultedHold)).isEmpty = false ∧ faultedHold.bb.recs.length + 384 + 2 ≤ 4096 := by decide +kernel

/-! ### Runs, sections and updates -/

def runP (replay : Nat) : BitVec 384 := word 384 [(0, 16, 0x8005), (98, 1, replay), (99, 1, 0)]
def idle : State := { keyed with ctxs := [(0, { isOpen := true })] }

theorem witness_runs : Startable (withCmd idle 0x0201 (runP 0)) r0 0x0201 (cmdOf 0x0201 (runP 0)) ∧
    (withCmd idle 0x0201 (runP 0)).earlier (cmdOf 0x0201 (runP 0)) = [] ∧ (idle.ctx r0.ctx).run = none ∧ idle.rst.eng = .idle ∧ idle.rst.dev = false ∧
    idle.rst.suspects = [] ∧ idle.rst.replaying = none ∧ (RUN.replay (runP 1) = true ∧ replayState idle (runP 1) = (true, false)) ∧
    (RUN.replay (runP 0) = false ∧ RUN.ub (runP 0) = false) ∧ idle.grid.phase = .idle ∧ (live {}).grid.phase ≠ .idle := by unfold Startable; decide +kernel

/-- A run in progress, its section done or with a token left. -/
def hinged (left : Option Nat) (k : Core) : State := { live {} with
  ctxs := [(0, { isOpen := true, run := some { seq := 1, payload := runP 0, cur := 0, left := left } })], cores := [(0, k)] }

theorem witness_hinges :
    (let s := hinged (some 1) {}
     s.grid.ctx = some 0 ∧ (s.ctx 0).run = some { seq := 1, payload := runP 0, cur := 0, left := some 1 } ∧ sectionLive s = true ∧ hingeReady s 0 = true ∧ firstLeft s = none) ∧
    (let s := hinged none { chans := channels, rxq := [(2, [doneToken 0])] }
     hingeReady s 0 = true ∧ (firstLeft s).isSome = true) := by decide +kernel

/-- RUN with an update binding of one shard. -/
def ubP (h : Nat) : BitVec 384 := word 384 [(0, 16, 0x8005), (99, 1, 1), (128, 16, h), (144, 16, 1)]

theorem witness_run_forms :
    (let s := { withCmd idle 0x0201 (runP 0) with rst := { idle.rst with eng := .triggered } }
     Startable s r0 0x0201 (cmdOf 0x0201 (runP 0)) ∧ s.rst.eng ≠ .idle) ∧
    RUN.ub (ubP 0x8005) = true ∧ bindingDown idle (ubP 0x8005) = none ∧ (bindHeaders idle 0 (ubP 0x8005)).1.isSome = true ∧
    bindingDown downPort (ubP 0x8006) = some 0 := by unfold Startable; decide +kernel

/-- Context 1 has an accepted RUN that may begin, and context 2 a run that goes on. -/
def nextUp : State := { hinged (some 1) {} with
  cmds := [{ cmdOf 0x0201 (runP 0) with ring := 1 }]
  ctxs := [(0, (hinged (some 1) {}).ctx 0), (1, { isOpen := true }), (2, { isOpen := true, run := some { seq := 2, payload := runP 0, cur := 0, left := none } })] }

theorem witness_next_context : runGoes nextUp 2 = true ∧ (runGoes nextUp 3 = false ∧ waitingRun nextUp 3 = none) ∧
    (runGoes nextUp 1 = false ∧ waitingRun nextUp 1 = some ⟨1, 1, 0⟩ ∧ runGoes (beginRun nextUp ⟨1, 1, 0⟩) 1 = true) ∧
    (readyFrom [1, 2] nextUp).1 = some 1 ∧ (readyFrom [3] nextUp).1 = none ∧ progressWatched up 0 = false := by decide +kernel

/-- A section about to start. -/
def starting (hdr : Row) : State := { hinged none {} with grid := { (hinged none {}).grid with phase := .starting, hdr := hdr } }

theorem witness_section_starts : (starting 0).grid.ctx = some 0 ∧ (starting 0).grid.phase = .starting ∧
    ((starting 0).ctx 0).run = some { seq := 1, payload := runP 0, cur := 0, left := none } ∧ ((starting 0).ctx 0).fault = none ∧ (starting 0).grid.waiting = [] ∧
    HD.preload 0 = false ∧ (HD.preload (word 4096 [(4, 1, 1)]) = true ∧ HD.next (word 4096 [(4, 1, 1)]) ≠ 0xFFFF) := by decide +kernel

theorem witness_watchdogs :
    (sectionLive (live {}) = true ∧ (live {}).grid.replay = false ∧ (live {}).rst.eng = .idle ∧ (live {}).rst.dev = false ∧ progressWatched (live {}) 0 = true) ∧
    (let s := { live {} with grid := { (live {}).grid with replay := true } }; sectionLive s = true ∧ s.grid.replay = true) ∧
    ({ live {} with grid := { (live {}).grid with phase := .draining } } : State).grid.phase = .draining ∧
    ({ live {} with rst := { (live {}).rst with eng := .triggered } } : State).rst.eng ≠ .idle := by decide +kernel

/-- A run that was stopped, and one whose context faulted. -/
def stopped (st : Option Half) (f : Option FirstFault) (ph : GridPhase) : State := { live {} with
  grid := { (live {}).grid with phase := ph }
  ctxs := [(0, { isOpen := true, fault := f, run := some { seq := 1, payload := 0, cur := 0, left := none, stop := st } })] }

theorem witness_context_stops :
    (let s := stopped (some St.aborted) none .running
     s.grid.ctx = some 0 ∧ (s.ctx 0).run.any (·.stop.isSome) = true ∧ s.grid.phase = .running) ∧
    (let s := stopped none (some ⟨St.sectionTimeout, 0, 0⟩) .starting
     (s.ctx 0).fault.isSome = true ∧ s.grid.phase = .starting) ∧
    (let s := stopped (some St.aborted) none .draining
     s.grid.phase = .draining ∧ bankPending s 0 = false ∧ (s.ctx 0).run.isSome = true) ∧
    (let s := stopped none (some ⟨St.sectionTimeout, 0, 0⟩) .draining
     bankPending s 0 = false ∧ (s.ctx 0).run = some { seq := 1, payload := 0, cur := 0, left := none } ∧ (s.ctx 0).fault = some ⟨St.sectionTimeout, 0, 0⟩) := by
  decide +kernel

/-- Collective 1 of context 0 with one bucket: its record, its ready word and its notice word stand in device entries 5, 7 and 8. -/
def collective (b : Bucket) (switch : Option CmdRef := none) : Collective :=
  { desc := word 4096 [(0, 16, 1), (40, 17, 1), (96, 32, 1), (128, 16, 0x8007), (144, 16, 0x8008), (192, 16, 0x8005)], ctx := 0, epoch := 0,
    buckets := [(0, b)], count := 1, switch := switch }
/-- A bucket's record of STEP 5 with a verdict, rescales, and the ARMED and REPLAY bits. -/
def record (verdict rescales armed replay : Nat) : Row := word 4096 [(0, 32, 5), (32, 2, verdict), (34, 2, rescales), (37, 1, replay), (38, 1, armed)]
def entryAt (base : Nat) : BitVec 256 := put gddrEntry 64 52 base
def collected (b : Bucket) (rec' : Row) (ready notice : Nat) (switch : Option CmdRef := none) : State :=
  { windowed .opened 0 with
    colls := [(1, collective b switch)]
    keys := [(5, gddrEntry), (7, entryAt 4096), (8, entryAt 8192)]
    ms := { keyed.ms with mem := Mem.setRow (Mem.setRow (Mem.setRow [] 0 rec') 4096 (BitVec.ofNat 4096 ready)) 8192 (BitVec.ofNat 4096 notice) } }

/-- A replay run of STEP 5 of collective 1: its bucket waits, or is settled with a rescale to replay. -/
def replayP : BitVec 384 := word 384 [(0, 16, 0x8005), (64, 32, 5), (98, 1, 1), (112, 16, 1)]
/-- A run that binds the header of one shard in row 0 of device entry 5. -/
def bound (h : Row) : State := { keyed with ms := { keyed.ms with mem := Mem.setRow [] 512 h } }
def boundP : BitVec 384 := word 384 [(0, 16, 0x8005), (64, 32, 6), (99, 1, 1), (128, 16, 0x8005), (144, 16, 1)]
def shard (step : Nat) (flags : Nat := 0) : Row := word 4096 [(0, 4, 1), (4, 2, flags), (32, 32, step)]

theorem witness_bound_runs :
    (replayState (collected {} (record 0 0 1 0) 0 0) replayP).1 = false ∧ replayState (collected {} (record 0 0 1 1) 0 0) replayP = (true, true) ∧
    (RUN.ub boundP = true ∧ (bindHeaders (bound 0) 0 boundP).1.isSome = true) := by decide +kernel

theorem witness_step_checks : (5 : Nat) < 2 ^ 32 ∧
    ¬ (SH'.hver (0 : Row) = 1) ∧ (SH'.hver (shard 4) = 1 ∧ SH'.inconsistent (shard 4) = false ∧ (∀ x, some 0 = some x → x = SH'.granules (shard 4))) ∧
    SH'.updating (shard 4 1) = true ∧ (SH'.updating (shard 4) = false ∧ (SH'.step (shard 4) + 1) % 2 ^ 32 = 5) ∧ (SH'.step (shard 5) + 1) % 2 ^ 32 ≠ 5 ∧
    (SH'.step (shard 0xFFFFFFFF) + 1) % 2 ^ 32 = 0 ∧ fld (shard 4) 16 16 < 0xFFFF := by decide +kernel

/-- Engine 512 with a complete slot 3 whose program is row 0 of device entry 5 and whose header is row 1. -/
def updateSlot : BitVec 256 := word 256 [(0, 2, 3), (16, 16, 1), (96, 25, 1), (128, 25, 1), (208, 16, 0x8005)]
def updating (h : Row) : State := { bound h with
  ms := { keyed.ms with mem := Mem.setRow (Mem.setRow [] 0 (word 4096 [(0, 4, 1), (96, 32, 5)])) 512 h }
  engines := [(512, { slots := [(3, updateSlot)], updateQ := [3] })] }

theorem witness_updates :
    (((updating (shard 4)).engine (updEngine 0)).updating.isNone = true ∧ ((updating (shard 4)).engine (updEngine 0)).updateQ = [3] ∧
      rowDown ((updating (shard 4)).setEngine 512 { (updating (shard 4)).engine 512 with updateQ := [] }) (devRowAddr (State.devEntry (updating (shard 4)) 0x8005) 0) = false ∧
      slotHeader (updating (shard 4)) (((updating (shard 4)).engine (updEngine 0)).slot 3) = some 512) ∧
    (rawRead (updating (shard 4)) 512).toOption = some (shard 4, 0) ∧ (rawRead (updating 0) 512).toOption = some (0, 0) ∧
    (let d := fwRow (updating (shard 4)) 0x8005 0
     stepCheck (shard 4) (UD.step d) (some (UD.granules d)) = 0 ∧ stepCheck (shard 5) (UD.step d) (some (UD.granules d)) = St.stepSkew ∧
      stepCheck 0 (UD.step d) (some (UD.granules d)) = St.shardInconsistent ∧ UD.granules d = 0) := by decide +kernel

/-! ### Gradient reduction -/

/-- A collective's descriptor in row 0 of device entry 5, named by a payload. -/
def openP : BitVec 384 := 0x8005
def described (cal : Nat) : State := { keyed with ms := { keyed.ms with mem := Mem.setRow [] 0 (word 4096 [(0, 16, 1), (37, 1, cal), (40, 17, 1)]) } }

theorem witness_collective_open : Startable (withCmd (described 0) 0x0401 openP) r0 0x0401 (cmdOf 0x0401 openP) ∧
    CD.cal (namedRow (described 0) openP) = false ∧ CD.cal (namedRow (described 1) openP) = true ∧ CD.id (namedRow (described 0) openP) = 1 ∧
    (described 0).coll 1 = none := by unfold Startable; decide +kernel

def quiet : State := collected {} (record 0 0 0 0) 0 0
def sending : State := { quiet with fab := { quiet.fab with reqs := [{ tag := 3, issuer := .bucket 0 1 0, packet := accP }] } }

theorem witness_collective_close : Startable (withCmd quiet 0x0402 1) r0 0x0402 (cmdOf 0x0402 1) ∧ quiet.coll (fld (1 : BitVec 384) 0 16) = some (collective {}) ∧
    (senderTags (closeCollective quiet 1) fun i _ => i == 1) = [] ∧ (cmdOf 0x0402 1).queue = [] := by unfold Startable; decide +kernel

/-- BUCKET_ARM of bucket 0 at STEP 5; BUCKET_WAIT for bucket 0 at STEP 5 or 6. -/
def armP : BitVec 384 := word 384 [(0, 16, 1), (32, 32, 5), (96, 32, 1)]
def waitP (step : Nat) : BitVec 384 := word 384 [(0, 16, 1), (32, 32, step)]

/-- Bucket 0's notices of an earlier verdict are out. -/
def noticing : Bucket := { noticeTags := [1] }

theorem witness_bucket_arms : Startable (withCmd quiet 0x0403 armP) r0 0x0403 (cmdOf 0x0403 armP) ∧ BA.first armP = 0 ∧ BA.count armP = 1 ∧
    (((collective {}).bucket 0).noticeTags = [] ∧ ((collective {}).bucket 0).noticeQ = [] ∧ ((collective {}).bucket 0).distributing = false) ∧
    ((collective noticing).bucket 0).noticeTags ≠ [] ∧
    Startable (withCmd (collected noticing (record 0 0 0 0) 0 0) 0x0403 armP) r0 0x0403 (cmdOf 0x0403 armP) := by unfold Startable; decide +kernel

theorem witness_bucket_waits : (Startable (withCmd quiet 0x0404 (waitP 5)) r0 0x0404 (cmdOf 0x0404 (waitP 5)) ∧
      (∀ v ∈ [0, 1, 2, 3], RC.step (bucketRecord (collected {} (record v 0 0 0) 0 0) (collective {}) 0) = BW.step (waitP 5) ∧
        RC.verdict (bucketRecord (collected {} (record v 0 0 0) 0 0) (collective {}) 0) = v) ∧
      serLater 32 (RC.step (bucketRecord quiet (collective {}) 0)) (BW.step (waitP 4)) = true) := by unfold Startable; decide +kernel

/-- A layout switch in progress, with the bucket's record as given. -/
def switching (b : Bucket) (rec' : Row) (p : BitVec 384) : State :=
  { withCmd (collected b rec' 0 0) 0x0405 p .running with colls := [(1, collective b (some r0))] }

theorem witness_layout_switches : Startable (withCmd quiet 0x0405 1) r0 0x0405 (cmdOf 0x0405 1) ∧ (collective {}).switch = none ∧ (collective {} (some r0)).switch ≠ none := by
  unfold Startable; decide +kernel

/-- A layout switch that also calibrates. -/
def switchCal : BitVec 384 := word 384 [(0, 16, 1), (24, 1, 1)]

theorem witness_layout_effects (p : BitVec 384) (h : p = 1 ∨ p = switchCal) :
    (switching {} (record 0 0 0 0) p).coll (1 : BitVec 16).toNat = some (collective {} (some r0)) ∧
    (switching {} (record 0 0 0 0) p).cmd? r0 = some (cmdOf 0x0405 p .running) := by
  rcases h with h | h <;> subst h <;> constructor <;> rfl

theorem witness_layout_quiet : RC.armed (bucketRecord (switching {} (record 0 0 0 0) 1) (collective {} (some r0)) 0) = false ∧
    (∀ b ∈ (collective {} (some r0)).buckets, b.2.noticeTags = [] ∧ b.2.noticeQ = []) ∧
    RC.armed (bucketRecord (switching {} (record 0 0 1 0) 1) (collective {} (some r0)) 0) = true ∧ LS.cal (1 : BitVec 384) = false ∧
    LS.cal switchCal = true := by decide +kernel

/-- A bucket of two parts waits for its ready word; or it is being sent. -/
def waiting : Bucket := { entry := put (0 : BitVec 512) 256 16 2, awaiting := true }
def underway : Bucket := { sending := some 0 }

theorem witness_bucket_sending : (0 : Word).toNat < (collective waiting).count ∧ ((collective underway).bucket 0).sending.isSome = true ∧
    (let s := collected waiting (record 0 0 1 0) 1 0
     s.coll (1 : BitVec 16).toNat = some (collective waiting) ∧ ((collective waiting).bucket 0).sending = none ∧ ((collective waiting).bucket 0).awaiting = true ∧
      readWord s (CD.ready (collective waiting).desc) 0 - waiting.ignored = 1 ∧ BK.parts waiting.entry = 2 ∧
      readWord (collected waiting (record 0 0 1 0) 2 0) (CD.ready (collective waiting).desc) 0 - waiting.ignored = 2) := by decide +kernel

/-- The bucket's accumulate request was refused and waits to go out again. -/
def retry (why : Nat) : State := { quiet with fab := { quiet.fab with reqs := [{ tag := 3, issuer := .bucket 0 1 0, packet := accP, retry := true, refusal := why }] } }

theorem witness_retries :
    ((retry 2).fab.reqs.find? (fun q => q.tag == (3 : BitVec 24).toNat && q.retry)).isSome = true ∧
    ((retry accEpoch).fab.reqs.find? (fun q => q.tag == (3 : BitVec 24).toNat && q.retry && q.refusal == accEpoch)) =
      some { tag := 3, issuer := .bucket 0 1 0, packet := accP, retry := true, refusal := accEpoch } ∧
    (∃ q ∈ (retry 2).fab.reqs, q.retry = true ∧ q.issuer = .bucket (collective {}).ctx (1 : BitVec 16).toNat (0 : Word).toNat ∧ q.refusal ≠ accEpoch) := by
  decide +kernel

/-- This device owns the armed bucket. -/
def owned : Bucket := { armedOwner := true }
/-- Engine 512 holds a partly filled slot of bucket 0. -/
def filling : State := { collected owned (record 0 0 1 0) 0 0 with engines := [(512, { slots := [(3, word 256 [(0, 2, 3), (16, 16, 1), (96, 25, 2), (128, 25, 1)])] })] }

theorem witness_wait_expiries : (((collective owned).bucket 0).armedOwner = true ∧ ∃ v ∈ bucketSlots filling 1 0, SL.count v.2.2 ≠ 0) ∧
    (let s := collected {} (record 0 0 1 0) 0 0
     RC.armed (bucketRecord s (collective {}) 0) = true ∧ ((collective {}).bucket 0).awaiting = false ∧ ((collective {}).bucket 0).sending = none ∧
      ((collective {}).bucket 0).tags = []) ∧
    (∀ c : Fin 2, waitingCmd (withCmd { quiet with colls := [(1, { collective {} with ctx := Fin.castLE (by decide) c })] } 0x0404 (waitP 5) .running) 1 0 =
      some (cmdOf 0x0404 (waitP 5) .running)) ∧ (cmdOf 0x0404 (waitP 5) .running).ring = 0 := by
  decide +kernel

/-- Slot 3 of engine 512 belongs to bucket 0 of collective 1, clean or not. -/
def verdictState (rescales notice nf : Nat) : State := { collected owned (record 0 rescales 1 0) 0 notice with
  engines := [(512, { slots := [(3, word 256 [(0, 2, 3), (3, 1, nf), (16, 16, 1), (96, 25, 1), (128, 25, 1)])] })] }

theorem witness_verdicts :
    ((collective owned).bucket 0).armedOwner = true ∧
    (∀ r ∈ [0, 3], ∀ nf ∈ [0, 1], ∀ n ∈ [0, 1, 65537],
      (verdictState r n nf).coll 1 = some (collective owned) ∧ (bucketSlots (verdictState r n nf) 1 0).length = 1 ∧
      readWord (verdictState r n nf) (CD.notice (collective owned).desc) 0 = n ∧
      ((bucketSlots (verdictState r n nf) 1 0).any fun y => SL.nf y.2.2) = decide (nf = 1) ∧
      RC.rescales (bucketRecord (verdictState r n nf) (collective owned) 0) = r) ∧
    (let b : Bucket := { distributing := true }
     ((collective b).bucket 0).distributing = true ∧ ((collective b).bucket 0).scaleQ = [] ∧ ((collective b).bucket 0).scaleTags = []) := by decide +kernel

/-- A notice to this device for bucket 0 of collective 1 at STEP 5 or 6. -/
def noticeP (code step : Nat) : Packet := { packetOf ptNotice 0 with ext1 := word 128 [(0, 8, code), (16, 16, 1), (96, 32, step)] }

theorem witness_notices (code : Nat) (h : code = 0x10 ∨ code = 0x11 ∨ code = 0x12 ∨ code = 0x13) :
    let u := collected {} (record 0 0 1 0) 0 0
    let p := noticeP code 5
    Arrives (looped u p) none p ptNotice ∧ arrived (looped u p) none p = u ∧ p.nrows = 0 ∧ u.serving = true ∧ NT.code p = code ∧
    NT.coll p = 1 ∧ NT.bucket p = 0 ∧ noticeApplies u p = true ∧ noticeApplies u (noticeP code 6) = false := by
  rcases h with h | h | h | h <;> subst h <;> unfold Arrives <;> decide +kernel

/-! ### Gathers, exchanges, jobs and streams -/

/-- Context 0 runs with a gather list and an exchange list of one entry each at row 0 of device entries 5 and 7. -/
def listRun (g : List GatherGroup) (x : List ExchEntry) : RunSt :=
  { seq := 9, payload := word 384 [(192, 16, 0x8005), (208, 16, 1), (256, 16, 0x8007), (272, 16, 1)], cur := 0, begun := 1, left := none, gathers := g, exchs := x }
def listed (ge : BitVec 512) (xe : BitVec 512) (ready : Nat) (g : List GatherGroup := []) (x : List ExchEntry := []) : State := { keyed with
  keys := [(5, gddrEntry), (7, entryAt 4096), (8, chipEntry)]
  ms := { keyed.ms with mem := Mem.setRow (Mem.setRow (Mem.setRow [] 0 (BitVec.ofNat 4096 ge.toNat)) 4096 (BitVec.ofNat 4096 xe.toNat)) chip0.toNat (BitVec.ofNat 4096 ready) }
  fab := { keyed.fab with devId := some 7 }
  ctxs := [(0, { isOpen := true, run := some (listRun g x) })] }

/-- A last piece of 1 row or of none into device entry 5 from epoch 9. -/
def pieceEntry (rows mode : Nat) : BitVec 512 := word 512 [(0, 16, 0x8005), (64, 20, 8), (144, 20, rows), (224, 32, 9), (256, 1, mode), (257, 1, 1)]
def gatherGroup (p : GatherPiece) (again : Bool := false) : GatherGroup := { first := 0, dst := h5, regather := again, pieces := [p] }

theorem witness_gathers :
    (let s := listed (pieceEntry 0 0) 0 0
     (s.ctx 0).run = some (listRun [] []) ∧ listLive s 0 (listRun [] []) = true ∧
      groupEntries s (RUN.glHandle (listRun [] []).payload) (RUN.glRow (listRun [] []).payload) (RUN.glCount (listRun [] []).payload - 0) 0 = some [pieceEntry 0 0] ∧
      0 < RUN.glCount (listRun [] []).payload ∧ GLE.start (pieceEntry 0 0) < 1 ∧ groupOk s 0 [pieceEntry 0 0] = false ∧
      (accessRead s (some 0) (capture s none h5) none 0 1).2.1 = none) ∧
    (let s := listed (pieceEntry 1 0) 0 0
     groupEntries s (RUN.glHandle (listRun [] []).payload) (RUN.glRow (listRun [] []).payload) 1 0 = some [pieceEntry 1 0] ∧
      groupOk s 0 [pieceEntry 1 0] = true ∧ groupOk s 0 [pieceEntry 1 1] = true ∧ GLE.mode (pieceEntry 1 0) = false ∧ GLE.mode (pieceEntry 1 1) = true ∧
      DE.epochValid (s.key 5) = false ∧ DE.epochValid (put gddrEntry 144 1 1) = true) ∧
    (let x : GatherPiece := { entry := pieceEntry 1 0, backoff := some 64 }
     let s := listed 0 0 0 [gatherGroup x]
     findPiece s 0 0 = some (0, 0) ∧ getPiece s 0 0 0 = some (gatherGroup x, x) ∧ x.asking = false ∧ x.complete = false ∧ x.headerOk = false ∧
      (issueReq s (.gatherHdr 0 0 0) (readPacket (GLE.owner x.entry) (GLE.hdrWindow x.entry) (GLE.hdrWgen x.entry) (GLE.hdrOffset x.entry) 1)).isSome = true) ∧
    (let x : GatherPiece := { entry := pieceEntry 1 0, headerOk := true, complete := true }
     let s := listed 0 0 0 [gatherGroup x]
     findPiece s 0 0 = some (0, 0) ∧ getPiece s 0 0 0 = some (gatherGroup x, x) ∧
      (listRun [gatherGroup x] []).gathers[0]? = some (gatherGroup x) ∧ (gatherGroup x).complete = false ∧ (gatherGroup x).pieces.all (·.complete) = true ∧
      listLive s 0 (listRun [gatherGroup x] []) = true ∧ (gatherGroup x).pieces.getLast? = some x) := by decide +kernel

/-- An exchange entry of a kind whose descriptor stands in row 0 of device entry 5 and whose ready word, in chip memory, is 8's first. -/
def exchOf (kind parts : Nat) : BitVec 512 := word 512 [(0, 2, kind), (32, 16, 0x8005), (80, 16, 0x8005), (144, 16, 0x8008), (192, 16, parts)]
/-- A descriptor of one expert with one slot and no token, its tables and outputs in device entry 7; device entry 5 holds it and the member list. -/
def exchDesc : Row := word 4096 [(0, 4, 1), (32, 16, 8), (48, 4, 2), (56, 8, 16), (96, 32, 1), (160, 16, 0x8009), (176, 16, 0x8009), (224, 16, 0x8005), (240, 16, 0x8005)]
/-- Group 2 of job 3, an expert group of this device alone whose member list is device entry 10. -/
def groupEnt : BitVec 512 := word 512 [(0, 4, 2), (4, 3, 3), (8, 17, 1), (32, 16, 0x800A)]
def jobOf (g : Group) (fenced : Bool := false) : Job := { id := 3, seed := 0, ctx := 0, groups := if fenced then [] else [g], fenced := fenced }
def group2 : Group := { entry := groupEnt, step := 6 }
def exchanging (kind : Nat) (done : Nat) (ready : Nat) (x : List ExchEntry := []) (arr : List Arrival := []) : State :=
  let s := listed 0 (exchOf kind 1) ready [] x
  { s with
    keys := [(5, gddrEntry), (7, entryAt 4096), (8, chipEntry), (9, entryAt 8192), (10, entryAt 12288)]
    ms := { s.ms with mem := Mem.setRow (Mem.setRow (Mem.setRow s.ms.mem 0 exchDesc) 512 (word 4096 [(16, 1, done)])) 12288 7 }
    job := some (jobOf group2)
    arrivals := arr }

/-- The entry that EXCHANGE_ENTRY_START would make. -/
def newExch (s : State) (kind : Nat) : ExchEntry :=
  { index := 0, entry := exchOf kind 1, desc := exchDesc, dseq := BitVec.ofNat 16 (fld (exchStateRow s (exchOf kind 1)) 0 16) }

theorem witness_exchange_waits : let s := exchanging 3 0 1
    (s.ctx 0).run = some (listRun [] []) ∧ listLive s 0 (listRun [] []) = true ∧ 0 < RUN.xlCount (listRun [] []).payload ∧
    fwEntry64 s (RUN.xlHandle (listRun [] []).payload) (RUN.xlRow (listRun [] []).payload) 0 = exchOf 3 1 ∧ XE.start (exchOf 3 1) < 1 ∧
    exchsInProgress s < 4 ∧ (readTable s 0 (RUN.xlHandle (listRun [] []).payload) 0 1).1 = none ∧ (exchFormFault s 0 (exchOf 3 1)).isSome = true := by
  decide +kernel

theorem witness_exchange_start (k : Nat) (h : k = 0 ∨ k = 1) :
    let t := entryWord (exchanging k 1 1) 0x8008 0 0
    exchFormFault (exchanging k 1 0) 0 (exchOf k 1) = none ∧ tablesWait (exchanging k 1 0) exchDesc = false ∧
    (fwWord (exchanging k 1 0) 0x8008 0).toNat < XE.parts (exchOf k 1) ∧ XE.parts (exchOf k 1) ≤ (fwWord (exchanging k 1 1) 0x8008 0).toNat ∧
    (readDesc t 0 (exchOf k 1)).1.toOption = some exchDesc ∧ (exchCheck t 0 (newExch t k)).1 = none := by
  rcases h with h | h <;> subst h <;> decide +kernel

/-- An exchange entry in progress with descriptor d, with the count row of this device held for a round. -/
def inExch (kind granted : Nat) (d : Row := exchDesc) (sent settled recorded : Bool := false) : ExchEntry :=
  { index := 0, entry := exchOf kind 1, desc := d, granted := granted, payloadSent := sent, expect := if sent then some 0 else none, settled := settled, recorded := recorded }
def arrival (k round : Nat) : Arrival := { kind := k, place := 0, dseq := 0, sub := round, src := 7 }
/-- Count window 0 is the entry that starts at byte 8,192, whose first row gives a number of tokens. -/
def granting (x : ExchEntry) (tokens : Nat) : State :=
  let s := exchanging (XE.kind x.entry) 0 1 [x] [arrival 0 0, arrival 0 1]
  { s with
    ms := { s.ms with mem := Mem.setRow s.ms.mem 8192 (BitVec.ofNat 4096 tokens) }
    fab := { s.fab with windows := [(0, { handle := 0x8009 })] } }
/-- The descriptor with two rounds. -/
def twoRounds : Row := put exchDesc 4 1 1

/-- No count row of a round is poisoned. -/
def countsClean (s : State) (x : ExchEntry) : Bool :=
  ((List.range (exchMembers s x.desc).length).findSome? fun m =>
    windowPoison s (XD.countWindow x.desc) (4 * m + 2 * (x.dseq.toNat % 2) + x.granted)).isNone

theorem witness_exchange_grants (n : Nat) (h : n = 5 ∨ n = 2000000) :
    let x := inExch 0 0
    let s := granting x n
    (s.ctx 0).run = some (listRun [] [x]) ∧ listLive s 0 (listRun [] [x]) = true ∧ getExch s 0 0 = some x ∧ x.complete = false ∧
    XE.kind x.entry = 0 ∧ x.granted < rounds x.desc ∧ countsHeld s x x.granted (exchMembers s x.desc) = true ∧ countsClean s x = true ∧
    totalTokens s x.desc x.dseq (exchMembers s x.desc).length = n := by
  rcases h with h | h <;> subst h <;> decide +kernel

theorem witness_exchange_round : let x := inExch 0 1 twoRounds
    getExch (granting x 5) 0 0 = some x ∧ XE.kind x.entry = 0 ∧ x.granted < rounds x.desc ∧
    countsHeld (granting x 5) x x.granted (exchMembers (granting x 5) x.desc) = true ∧ countsClean (granting x 5) x = true := by decide +kernel

theorem witness_exchange_payload (k : Nat) (h : k = 0 ∨ k = 1) :
    let x := inExch k 1
    getExch (granting x 5) 0 0 = some x ∧ XE.kind x.entry = k ∧ x.complete = false ∧ sourceWaits (granting x 5) x = false := by
  rcases h with h | h <;> subst h <;> decide +kernel

theorem witness_exchange_settles : let x := inExch 0 1 exchDesc true
    let s := granting x 0
    x.settled = false ∧ x.expect = some x.received ∧ countsHere (granting x 5) x = false ∧ countsHere s x = true ∧ getExch s 0 0 = some x ∧
    (accessWrite s (some 0) (capture s none (XD.cnt x.desc)) none 0 [(countOutput s x, 0)]).1 = none := by decide +kernel

/-- The entry has its grants, from this device alone. -/
def granted1 : ExchEntry := { inExch 0 1 exchDesc true true with grantsIn := [0] }

theorem witness_exchange_records : let s := granting granted1 5
    getExch s 0 0 = some granted1 ∧ granted1.settled = true ∧ granted1.recorded = false ∧
    grantsHeld s granted1 (rounds granted1.desc - 1) (exchMembers s granted1.desc).length = true := by decide +kernel

theorem witness_exchange_completes (k : Nat) (h : k = 0 ∨ k = 1) : let x := inExch k 1 exchDesc true true true
    getExch (granting x 5) 0 0 = some x ∧ XE.kind x.entry = k ∧ x.settled = true ∧ x.recorded = true ∧ x.payloadSent = true ∧ x.queue = [] ∧ x.tags = [] := by
  rcases h with h | h <;> subst h <;> decide +kernel

/-- EXCHANGE of one row to window 9, which admits it; a ready notice of job 3. -/
def exchP : Packet := { packetOf ptExchange 1 [7] with ext2 := 3 }
def readyP : Packet := { packetOf ptNotice 0 with ext1 := word 128 [(0, 8, 0x21), (16, 16, 3)] }
def admitting (j : Option Job) : State := { windowed .opened 0 with
  fab := { (windowed .opened 0).fab with windows := [(9, { state := .opened, handle := h5, gen := 4, service := 4, ops := 0x1F })] }, job := j }

theorem witness_exchange_packets : let u := admitting (some (jobOf group2))
    (Arrives (looped u exchP) none exchP ptExchange ∧ arrived (looped u exchP) none exchP = u ∧ requestStatus u exchP = 0 ∧
      (windowWrite (u.devEntry (u.window 9).handle) (PX.offset exchP / 512) exchP.rows (setActive u 9 (· + 1))).1 = 0) ∧
    (Arrives (looped u readyP) none readyP ptNotice ∧ arrived (looped u readyP) none readyP = u ∧ fld readyP.ext1 0 8 = 0x21 ∧ readyP.nrows = 0 ∧
      u.serving = true ∧ (jobOf group2).id.toNat = XN.job readyP ∧ u.arrivals = []) := by unfold Arrives; decide +kernel

theorem witness_ready_without_job : let u := admitting none
    Arrives (looped u readyP) none readyP ptNotice ∧ arrived (looped u readyP) none readyP = u ∧ u.job = none := by unfold Arrives; decide +kernel

/-- A job's descriptor and table in device entry 5, and a command on the open job 3. -/
def inJob (j : Option Job) (op : Nat) (p : BitVec 384) (reqs : List Req := []) : State :=
  let s := withCmd (exchanging 0 0 0) op p
  { s with job := j, fab := { s.fab with reqs := reqs } }
/-- A request of a gather outstanding under TAG 4. -/
def outstanding : List Req := [{ tag := 4, issuer := .notice 0, packet := packetOf ptRead 1 }]

theorem witness_job_open : Startable (inJob none 0x0501 0x8005) r0 0x0501 (cmdOf 0x0501 0x8005) ∧ (inJob none 0x0501 0x8005).job = none := by
  unfold Startable; decide +kernel

theorem witness_job_ends : Startable (inJob (some (jobOf group2)) 0x0704 3) r0 0x0704 (cmdOf 0x0704 3) ∧ (jobOf group2).id.toNat = fld (3 : BitVec 384) 0 16 ∧
    (jobOf group2).id.toNat ≠ fld (4 : BitVec 384) 0 16 ∧ Startable (inJob (some (jobOf group2)) 0x0704 4) r0 0x0704 (cmdOf 0x0704 4) ∧
    Startable (inJob (some (jobOf group2)) 0x0502 0) r0 0x0502 (cmdOf 0x0502 0) := by unfold Startable; decide +kernel

theorem witness_awaits (op : Nat) (h : op = 0x0704 ∨ op = 0x0502) :
    (inJob (some (jobOf group2)) op 3).cmd? r0 = some (cmdOf op 3) ∧ (cmdOf op 3).queue = [] ∧
    fenceWaits (inJob (some (jobOf group2)) op 3) (cmdOf op 3) = false ∧ fenceWaits (inJob (some { jobOf group2 with fencing := true }) op 3) (cmdOf op 3) = true ∧
    ((inJob (some (jobOf group2)) op 3 outstanding).fab.reqs.filter fun q => !q.retry).map (·.tag) = [4] ∧
    ((inJob (some (jobOf group2)) op 3).fab.reqs.filter fun q => !q.retry).map (·.tag) = [] := by
  rcases h with h | h <;> subst h <;> decide +kernel

/-- A job being fenced while context 0's run still ends, or has ended. -/
def fencingJob (run : Bool) : State :=
  let s := inJob (some { jobOf group2 with fencing := true }) 0x0502 0
  { s with ctxs := [(0, { isOpen := true, run := if run then some { listRun [] [] with stop := some St.jobFenced } else none })] }

theorem witness_fences : runsLeft (fencingJob true) = true ∧ runsLeft (fencingJob false) = false ∧
    (fencingJob true).job = some { jobOf group2 with fencing := true } := by decide +kernel

/-- Group 2 kept by this device, or by device 8; BARRIER_ENTER of it at step 6, GROUP_BROADCAST of a row of device entry 5. -/
def enterP : BitVec 384 := word 384 [(0, 4, 2), (4, 1, 1), (32, 32, 6)]
def castP : BitVec 384 := word 384 [(0, 4, 2), (8, 4, 1), (16, 16, 0x8005)]
def grouped (member : Nat) (g : Group) (op : Nat) (p : BitVec 384) (ph : Phase := .waiting) : State :=
  let s := withCmd (exchanging 0 0 0) op p ph
  { s with
    ms := { s.ms with mem := Mem.setRow s.ms.mem 12288 (BitVec.ofNat 4096 member) }
    fab := { s.fab with windows := [(0, { handle := 0x8009 })] }
    job := some (jobOf g) }
def entered2 : Group := { group2 with entered := some r0 }
def barrierP (job : Nat) : Packet := { packetOf ptBarrier 0 with ext1 := word 128 [(0, 16, job), (16, 4, 2)] }
def releaseP : Packet := { packetOf ptNotice 0 with ext1 := word 128 [(0, 8, 0x20), (16, 16, 3), (32, 4, 2)] }

/-- Group 2 with its keyholder. -/
def keptBy (k : BitVec 20) : Group := { group2 with holder := k }
def castHandle : Half := ((grouped 7 group2 0x0504 castP).window (GP.bcastWindow group2.entry)).handle

theorem witness_group_enters (k : BitVec 20) (h : k = 7 ∨ k = 8) : let s := grouped 7 (keptBy k) 0x0503 enterP
    Startable s r0 0x0503 (cmdOf 0x0503 enterP) ∧ s.job = some (jobOf (keptBy k)) ∧ s.group (BE.group enterP) = some (keptBy k) ∧
    (keptBy k).entered = none ∧ entered2.entered ≠ none ∧ s.ownId (keptBy k).holder = decide (k = 7) ∧ s.fab.reqs.length < 16384 := by
  rcases h with h | h <;> subst h <;> unfold Startable <;> decide +kernel

theorem witness_group_broadcasts : let s := grouped 7 group2 0x0504 castP
    Startable s r0 0x0504 (cmdOf 0x0504 castP) ∧ s.group (GB.group castP) = some group2 ∧ capWaits s (capture s none (GB.src castP)) = false ∧
    capWaits s (capture s none castHandle) = false ∧ (accessRead s (some 0) (capture s none (GB.src castP)) none (GB.srcRow castP) (GB.rows castP)).2.1 = none ∧
    (accessWrite s (some 0) (capture s none castHandle) none (GB.offset castP / 512) [(0, 0)]).1 = none := by unfold Startable; decide +kernel

theorem witness_group_waits : let s := grouped 7 entered2 0x0503 enterP .running
    s.group (2 : Fin 16).val = some entered2 ∧ entered2.entered = some r0 ∧ s.cmd? r0 = some (cmdOf 0x0503 enterP .running) ∧
    (cmdOf 0x0503 enterP .running).tags = [] := by decide +kernel

theorem witness_group_packets (p : Packet) (h : p = barrierP 3 ∨ p = barrierP 4 ∨ p = releaseP) : let u := admitting (some (jobOf group2))
    Arrives (looped u p) none p p.ptype ∧ arrived (looped u p) none p = u ∧ p.nrows = 0 ∧ u.serving = true ∧ u.job = some (jobOf group2) := by
  rcases h with h | h | h <;> subst h <;> unfold Arrives <;> decide +kernel

theorem witness_group_jobs : BH.job (barrierP 3) = 3 ∧ BH.job (barrierP 4) = 4 ∧ (barrierP 3).ptype = ptBarrier ∧ releaseP.ptype = ptNotice ∧
    fld releaseP.ext1 0 8 = 0x20 ∧ XN.job releaseP = 3 ∧ (jobOf group2).id.toNat = 3 := by decide +kernel

theorem witness_group_arrivals : let s := grouped 7 (keptBy 7) 0x0503 enterP
    s.group 2 = some (keptBy 7) ∧ rankOf (groupMembers s (keptBy 7)) 7 = some 0 ∧ (1 : Word) ≠ (keptBy 7).bseq ∧ (0 : Word) = (keptBy 7).bseq ∧
    (keptBy 7).barrier.arrived.contains 0 = false ∧ s.ownId (keptBy 7).holder = true := by decide +kernel

theorem witness_group_releases : let s := grouped 7 entered2 0x0503 enterP
    s.group 2 = some entered2 ∧ s.cmd? r0 = some (cmdOf 0x0503 enterP) ∧ (cmdOf 0x0503 enterP).isDone = false := by decide +kernel

/-- STREAM_BIND of stream 6; a receive end with room for 16 tokens; a flit for device 7 or 8 that holds padding alone. -/
def bindP : BitVec 384 := word 384 [(0, 10, 6)]
def recvEnd : BitVec 128 := word 128 [(0, 1, 1), (80, 12, 16)]
def flitFor (dst : Nat) : BitVec 1920 := word 1920 [(0, 20, dst), (32, 8, 0xFF)]
/-- Link 2 has taken in a stream flit for device 7 or 8. -/
def streamed (x : Stream) (dst : Nat) (id : Option (BitVec 20) := some 7) : State :=
  let s := linked { state := .up, rx := [(0, [flitBits 2 0 false false false 6 (toBytes (flitFor dst) 240)])] }
  { s with fab := { s.fab with devId := id, routes := [(8, 5)] }, streams := [(6, x)] }

theorem witness_stream_bind : Startable (withCmd up 0x0505 bindP) r0 0x0505 (cmdOf 0x0505 bindP) := by unfold Startable; decide +kernel

theorem witness_stream_flits (dst : Nat) (h : dst = 7 ∨ dst = 8) : let s := streamed { entry := recvEnd } dst
    streamNext s 2 6 (flitFor dst) = true ∧ (streamed { entry := recvEnd } dst none).fab.devId = none ∧
    streamNext (streamed { entry := recvEnd } dst none) 2 6 (flitFor dst) = true ∧
    s.ownId (BitVec.ofNat 20 (fld (flitFor dst) 0 20)) = decide (dst = 7) := by
  rcases h with h | h <;> subst h <;> decide +kernel

theorem witness_stream_takes : let u := consumeRx (streamed { entry := recvEnd } 7) 2 0 1 1
    SE.valid (u.stream (6 : BitVec 16).toNat).entry = true ∧ (u.stream (6 : BitVec 16).toNat).partialBytes = [] ∧ (6 : BitVec 16).toNat < 1024 ∧
    (readRecords 237 ((toBytes (flitFor 7) 240).drop 4)).any (fun x => x.1.isEmpty && x.2.isEmpty) = true ∧ recordsSuit { entry := recvEnd } [] = true ∧
    SE.valid (u.stream 5).entry = false ∧ recordsSuit { entry := recvEnd } [.credit 1] = false := by decide +kernel

theorem witness_stream_forwards : let s := streamed { entry := recvEnd } 8
    s.fab.devId.isSome = true ∧ s.ownId 8 = false ∧ s.outOfService 8 = false ∧ s.streamLink 8 = some 2 ∧ s.streamLink 9 = none := by decide +kernel

theorem witness_stream_credits : let s := streamed { entry := recvEnd, owed := 3 } 7
    SE.valid (s.stream (6 : Fin 1024).val).entry = true ∧ (s.stream (6 : Fin 1024).val).owed ≠ 0 := by decide +kernel

/-! ### Aborts, resets and deadbolt -/

/-- An ABORT of SEQ 2 of ring 0, and of itself; the command it targets. -/
def abortP (seq : Nat) : BitVec 384 := word 384 [(32, 32, seq)]
def target (op : Nat) (ph : Phase) : Cmd := { ring := 0, seq := 2, entry := word 512 [(0, 16, op)], phase := ph }
def aborting (d : Cmd) : State := { live {} with cmds := [cmdOf 3 (abortP 2), d] }

theorem witness_abort_none : Startable (withCmd up 3 (abortP 2)) r0 3 (cmdOf 3 (abortP 2)) ∧ abortTarget (withCmd up 3 (abortP 2)) (abortP 2) = none ∧
    Startable (withCmd up 3 (abortP 1)) r0 3 (cmdOf 3 (abortP 1)) ∧ abortTarget (withCmd up 3 (abortP 1)) (abortP 1) = some (cmdOf 3 (abortP 1)) ∧
    (cmdOf 3 (abortP 1)).ref = r0 := by unfold Startable; decide +kernel

theorem witness_aborts (d : Cmd) (h : d = target 2 .waiting ∨ d = target 2 (.done {}) ∨ d = target 0x0201 .running) :
    Startable (aborting d) r0 3 (cmdOf 3 (abortP 2)) ∧ abortTarget (aborting d) (abortP 2) = some d ∧ d.ref ≠ r0 ∧ abortPending (aborting d) d.ref = false ∧
    heldForReplay (aborting d) d.ref = false ∧ d.ring = 0 ∧ ((aborting d).ctx 0).run = some { seq := 1, payload := 0, cur := 0, left := none } ∧
    (aborting d).grid.ctx = some 0 := by
  rcases h with h | h | h <;> subst h <;> unfold Startable <;> decide +kernel

/-- Another ABORT has the command as its target already. -/
def abortedTwice : State :=
  { aborting (target 2 .waiting) with cmds := [{ target 3 .running with seq := 3, target := some (target 2 .waiting).ref }, cmdOf 3 (abortP 2), target 2 .waiting] }

theorem witness_abort_waits : abortPending abortedTwice (target 2 .waiting).ref = true ∧ abortTarget abortedTwice (abortP 2) = some (target 2 .waiting) := by
  decide +kernel

def resetting (x : ResetCtl) (op : Nat := 2) : State := { withCmd up op with rst := x }
/-- A suspect of context 0 with SEQ 1. -/
def suspect (outcome : Nat := 0) (aborted : Bool := false) (f : Option FirstFault := none) : Suspect :=
  { ctx := 0, run := { seq := 1, payload := 0, cur := 0, left := none }, firstFault := f, aborted := aborted, outcome := outcome }

theorem witness_engine_reset_commands (x : ResetCtl) (h : x = {} ∨ x = { eng := .triggered } ∨ x = { deadbolt := true }) :
    Startable (resetting x 0x0701) r0 0x0701 (cmdOf 0x0701) ∧ (resetting {} 0x0701).inService = true ∧
    (resetting { eng := .triggered } 0x0701).inService = true := by
  rcases h with h | h | h <;> subst h <;> unfold Startable <;> decide +kernel

theorem witness_engine_reset_not_ready : Startable (withCmd State.reset 0x0701) r0 0x0701 (cmdOf 0x0701) ∧ (withCmd State.reset 0x0701).inService = false ∧
    (withCmd State.reset 0x0701).rst.deadbolt = false := by unfold Startable; decide +kernel

theorem witness_reset_triggers : let s := { resetting { replaying := some (suspect) } with grid := { up.grid with replay := true } }
    s.rst.eng = .idle ∧ s.rst.dev = false ∧ s.inService = true ∧ s.grid.replay = true ∧ s.rst.replaying = some suspect ∧ (suspect).outcome = 0 := by
  decide +kernel

theorem witness_device_reset_commands : (Startable (withCmd up 0x0702) r0 0x0702 (cmdOf 0x0702) ∧ (withCmd up 0x0702).inService = true ∧
      (withCmd up 0x0702).rst.devWanted = none) ∧
    (Startable (resetting { devWanted := some 1 } 0x0702) r0 0x0702 (cmdOf 0x0702) ∧ (resetting { devWanted := some 1 } 0x0702).rst.devWanted.isSome = true) := by
  unfold Startable; decide +kernel

theorem witness_engine_reset_starts (b : Bool) : let s := resetting { eng := .triggered, recovery := b }
    s.rst.eng = .triggered ∧ s.rst.dev = false ∧ s.rst.recovery = b := by cases b <;> decide +kernel

theorem witness_engine_reset_ends (q : Option Suspect) (l n : Bool) (h : q = none ∨ q = some suspect) :
    let s := resetting { eng := .edgeClosed, replaying := q, noReplay := n, enterDeadbolt := l }
    s.rst.eng = .edgeClosed ∧ s.rst.replaying = q ∧ s.rst.enterDeadbolt = l ∧ s.rst.noReplay = n ∧
    (resetting { eng := .started }).rst.eng = .started ∧ (resetting { eng := .started }).rst.devWanted = none := by
  rcases h with h | h <;> subst h <;> cases l <;> cases n <;> decide +kernel

theorem witness_suspects :
    (let s := resetting { suspects := [suspect] }
     s.rst.eng = .idle ∧ s.grid.phase = .idle ∧ s.rst.dev = false ∧ s.rst.replaying = none ∧ (suspect).aborted = false ∧ replayable (suspect).run = true) ∧
    ((resetting { replaying := some (suspect 1) }).rst.replaying = some (suspect 1) ∧ (suspect 1).outcome ≠ 0) ∧
    ((suspect 0 true).aborted = true ∧ (suspect 0 false (some ⟨St.sectionTimeout, 0, 0⟩)).firstFault = some ⟨St.sectionTimeout, 0, 0⟩ ∧ (suspect).firstFault = none) ∧
    ((withCmd up 0x0201 0 .running).cmd? ((suspect).run.ref (suspect).ctx) = some (cmdOf 0x0201 0 .running) ∧ (cmdOf 0x0201 0 .running).isDone = false) := by
  decide +kernel

/-- What training at the end of a device reset finds: rate 3, or a failing channel. -/
def trained (rate : Option (Fin 5)) : Training := { rate := rate, failing := 1 }
def devReset (d : Bool) : State := { resetting { dev := true, enterDeadbolt := d } with host := { up.host with state := .deviceReset } }

theorem witness_device_reset : ((resetting { devWanted := some 3 }).rst.devWanted = some 3 ∧ (resetting { devWanted := some 3 }).rst.dev = false ∧
      (resetting { devWanted := some 3 }).cmds = [cmdOf 2] ∧ (cmdOf 2).phase = .waiting ∧ (resetting { devWanted := some 3 }).rst.devCmd = none) ∧
    (cxlBase < chipBase ∧ (cmdOf 2).bound = false) ∧
    ((devReset false).rst.dev = true ∧ (devReset false).host.state = .deviceReset ∧ (trained none).rate = none ∧ (trained (some 3)).rate = some 3 ∧
      (devReset false).rst.failed = false ∧ (resetting { dev := true, failed := true }).rst.failed = true ∧
      (3 : Fin 5).val ≤ (devReset false).fab.cfg.ceiling.toNat ∧ (devReset false).rst.enterDeadbolt = false) ∧
    (let s := { devReset false with fab := { (devReset false).fab with cfg := { (devReset false).fab.cfg with ceiling := 2 } } }
     s.rst.dev = true ∧ s.fab.cfg.ceiling.toNat < (3 : Fin 5).val) := by decide +kernel

def peerP (event : Nat) : BitVec 384 := word 384 [(0, 20, 9), (20, 3, event)]

theorem witness_peer_notices : (∀ e ∈ [1, 3, 4, 0, 5], Startable (withCmd up 0x0703 (peerP e)) r0 0x0703 (cmdOf 0x0703 (peerP e)) ∧ PN.event (peerP e) = e) := by
  unfold Startable; decide +kernel

/-! ### Clocks, power and heat -/

/-- Core island 0 in a given state. -/
def islanded (x : Island) : State := up.setIsland 0 x

theorem witness_islands :
    (∀ f ∈ [1000, 1200, 1100], let s := islanded { freq := some f, target := some 1100 }
      (s.island 0).drooping = false ∧ (s.island 0).recovering = false ∧ islandFreq s 0 = f ∧ islandTarget s 0 = 1100) ∧
    (((islanded { supply := true }).island 0).drooping = true ∧ ((islanded { supply := true }).island 0).supply = true ∧
      ((islanded { supply := true }).island 0).limit = false) ∧
    (((islanded { limit := true }).island 0).limit = true ∧ ((islanded { limit := true }).island 0).supply = false) ∧
    (((islanded { supply := true, limit := true }).island 0).supply = true ∧ ((islanded { supply := true, limit := true }).island 0).limit = true) ∧
    ((islanded { recovering := true }).island 0).recovering = true := by decide +kernel

theorem witness_cap_loop : loopFrequency up.power 2400000 2000000 2400000 = some 1070 ∧ (2400000 * 2000000 : Nat) ≠ 0 ∧ up.power.duty ≤ 8 ∧ 400 ≤ up.power.ft ∧
    (1 : Nat) ≠ 0 := by decide +kernel

/-- A die limit of 1,000 W: a draw above it and one at it. -/
theorem witness_limits : (up.setPower { up.power with dieLimit := some 1000000 }).power.dieLimit = some 1000000 ∧ (1000000 : Nat) < 1000001 ∧
    up.power.dieLimit = none := by decide +kernel

theorem ceiling_up (c : CoreId) : 1100 ≤ ceiling up c := by
  simp only [ceiling, up, State.reset, Tab.get, fusedCeiling]
  omega

/-- Every limit of the temperatures; a measured ceiling of 1,050 lowers every one, 1,300 does not where the fused one is at most 1,300. -/
theorem witness_heat : (List.replicate 384 (0 : Int)).length = 384 ∧ (16 * 105 < max (1681 : Int) 0 ∧ max (1647 : Int) 0 < 16 * 103) ∧
    ((16 * 103 : Int) ≤ max 1648 0 ∧ max (1680 : Int) 0 ≤ 16 * 105) ∧
    ((1149 - 50) / 5 * 5 < ceiling up 0 ∧ 5 ≤ (1149 - 50) / 5 * 5 ∧ (1149 - 50) / 5 * 5 < 1100) ∧
    (ceiling up 0 ≤ (1400 - 50) / 5 * 5 ∧ (1100 < ceiling up 0 → (1150 - 50) / 5 * 5 < ceiling up 0 ∧ 1100 ≤ (1150 - 50) / 5 * 5)) := by
  have h := ceiling_up 0
  have g : ceiling up 0 ≤ 1350 := by
    simp only [ceiling, up, State.reset, Tab.get, fusedCeiling]
    omega
  refine ⟨List.length_replicate .., by decide, by decide, by omega, by omega⟩

/-! ### Trust -/

/-- FIRMWARE_UPDATE of an action for 2 bytes; FUSE_PROGRAM of 2 bytes of a field. -/
def firmP (action : Nat) : BitVec 384 := word 384 [(0, 2, action), (32, 32, 2)]
def fuseP (field : Nat) : BitVec 384 := word 384 [(0, 8, field), (32, 32, 2)]

theorem witness_audited_begin (op : Nat)
    (h : op = 0x0901 ∨ op = 0x0902 ∨ op = 0x0903 ∨ op = 0x0904 ∨ op = 0x0905 ∨ op = 0x0906 ∨ op = 0x0907 ∨ op = 0x0A01 ∨ op = 0x0A02) :
    (∀ a ∈ [0, 1, 2], (withCmd up op (firmP a)).cmd? r0 = some (cmdOf op (firmP a)) ∧ (cmdOf op (firmP a)).phase = .waiting ∧
      (withCmd up op (firmP a)).mayStart (cmdOf op (firmP a)) = true ∧ (cmdOf op (firmP a)).opcode = op ∧ FW.action (cmdOf op (firmP a)).payload = a ∧
      FW.length (cmdOf op (firmP a)).payload = [(1 : Byte), 2].length) ∧ FP.length (cmdOf 0x0A01 (fuseP 1)).payload = [(1 : Byte), 2].length := by
  rcases h with h | h | h | h | h | h | h | h | h <;> subst h <;> decide +kernel

theorem witness_audited_act (op : Nat)
    (h : op = 0x0901 ∨ op = 0x0902 ∨ op = 0x0903 ∨ op = 0x0904 ∨ op = 0x0905 ∨ op = 0x0906 ∨ op = 0x0907 ∨ op = 0x0A01 ∨ op = 0x0A02) :
    ∀ a ∈ [0, 1, 2], ∀ ph ∈ [Phase.cleared, .running], (withCmd up op (firmP a) ph).cmd? r0 = some (cmdOf op (firmP a) ph) ∧
      (cmdOf op (firmP a) ph).phase = ph ∧ (cmdOf op (firmP a) ph).opcode = op ∧ FW.action (cmdOf op (firmP a) ph).payload = a := by
  rcases h with h | h | h | h | h | h | h | h | h <;> subst h <;> decide +kernel

def secured (x : Security) (op : Nat) (p : BitVec 384 := 0) (ph : Phase := .waiting) : State := { withCmd up op p ph with sec := x }

theorem witness_audited_choices :
    (firmwareBusy up = false ∧ firmwareBusy (withCmd up 0x0905) = true) ∧
    ((getSlot up (idleSlot up)).staged = false ∧ (getSlot (secured { slotB := { staged := true, invalid := true }, running := some false } 0) true).invalid = true) ∧
    FW.action (firmP 1) = 1 ∧ FW.action (firmP 2) = 2 ∧ up.sec.runningSvn ≤ rollbackCount up ∧
    (up.rst.devWanted = none ∧ (resetting { devWanted := some 1 } 0x0906).rst.devWanted.isSome = true) ∧
    fuse (secured { fuses := [(256 * 9, 1)] } 0x0A02) FU.debugDisable 0 ≠ 0 ∧ ((0 : Nat) < 256 ∧ (255 : Nat) < 256) := by decide +kernel

/-- A changed reset limit is a changed installer setting; the same one is not. -/
theorem witness_resettles : installerSettings { up with rst := { limit := 4 } } ≠ installerSettings up ∧ installerSettings (withCmd up 2) = installerSettings up := by
  decide +kernel

/-- A serial number of which a bit is programmed is taken, whatever the maker provisioned. -/
theorem witness_fuse_taken : fuseTaken (secured { fuses := [(256 * 8, 1)] } 0x0A01) (fuseP 8) = true := by
  have h : ∀ x : Nat, 1 ||| x ≠ 0 := fun x e => by
    have := congrArg (fun n => Nat.testBit n 0) e
    simp at this
  have e : fuse (secured { fuses := [(256 * 8, 1)] } 0x0A01) 8 0 ≠ 0 := h (fuseMask 8 (Config.shippedFuse (256 * 8)))
  have f : FP.field (fuseP 8) = 8 := by decide +kernel
  have g : FP.index (fuseP 8) = 0 := by decide +kernel
  rw [fuseTaken, f, g, bne_iff_ne.mpr e]
  rfl

/-- A record of a kind waits for ring 0's command. -/
def recording (kind : Nat) (ph : Phase) : State := { withCmd up 0x0901 0 ph with sec := { auditQ := [(word 2048 [(128, 8, kind)], some r0)] } }

theorem witness_audit_log (k : Nat) (p : Phase) (h : (k = 2 ∨ k = 4 ∨ k = 5 ∨ k = 6) ∧ (p = .begun ∨ p = .ending {})) :
    (recording k p).sec.auditQ = [(word 2048 [(128, 8, k)], some r0)] ∧ (recording k p).cmd? r0 = some (cmdOf 0x0901 0 p) ∧
    (cmdOf 0x0901 0 p).phase = p ∧ auditKind (word 2048 [(128, 8, k)]) = k := by
  obtain ⟨h | h | h | h, g | g⟩ := h <;> subst h <;> subst g <;> decide +kernel

theorem witness_audit_second : 0 < ({ auditNext := 1 } : Security).auditNext.toNat ∧ (0 : Nat) ≠ 1 % 16384 := by decide

/-- A challenge for the installer, fresh or past its minute; a credential of another version. -/
def challenged (now : Dword) : State := { secured { challenge := some (0, 1, 0) } 0x0802 1 with time := now }

theorem witness_roles : Startable (withCmd up 0x0801 1) r0 0x0801 (cmdOf 0x0801 1) ∧ Startable (withCmd up 0x0803) r0 0x0803 (cmdOf 0x0803) ∧
    Startable (challenged 0) r0 0x0802 (cmdOf 0x0802 1) ∧ up.sec.challenge = none ∧ (challenged 0).sec.challenge = some (0, 1, 0) := by
  unfold Startable; decide +kernel

/-- A challenge is open to its sixtieth second, and for its own role; a third refusal within 60 s locks out. -/
theorem witness_role_times : within60 (challenged 60000001) 0 = false ∧ within60 (challenged 60000000) 0 = true ∧
    responseReason (challenged 60000001) 1 [] = 2 ∧ responseReason (challenged 0) 2 [] = 2 ∧ responseReason (challenged 0) 1 [] = 3 ∧
    2 ≤ (({ refusals := [0, 0] } : Security).refusals.filter (within60 (challenged 0))).length ∧
    (secured { lockout := some 0 } 2).sec.lockout = some 0 ∧ within60 (secured { lockout := some 0 } 2) 0 = true := by decide +kernel

/-- A maker's role granted at time 0, at a later time. -/
def granted (now : Dword) : State := { secured { role := .maker } 2 with time := now }

theorem witness_role_lapse : (granted 1800000000).sec.role ≠ .operator ∧ 1800000000 ≤ ((granted 1800000000).time - (granted 1800000000).sec.grantTime).toNat ∧
    roleRecordWaits (granted 1800000000) = false ∧ ((granted 1799999999).time - (granted 1799999999).sec.grantTime).toNat < 1800000000 ∧
    up.sec.role = .operator := by decide +kernel

theorem witness_response : (List.replicate 11910 (0 : Byte)).length = 11910 := List.length_replicate ..

theorem witness_attestation : Startable (withCmd up 0x0804 (word 384 [(0, 32, 1), (32, 32, 64)])) r0 0x0804 (cmdOf 0x0804 (word 384 [(0, 32, 1), (32, 32, 64)])) ∧
    [(5 : Byte)].length = fld (cmdOf 0x0804 (word 384 [(0, 32, 1), (32, 32, 64)])).payload 0 32 := by unfold Startable; decide +kernel

/-- Requests of version 1.3: a challenge of slot 0, one of slot 1, a certificate of slot 1, one that is not supported; and one of version 1.2. -/
theorem witness_requests_spdm : SP.code [0x13, 0x83, 0] = SP.challenge ∧ SP.slot [0x13, 0x83, 0] = 0 ∧ SP.slot [0x13, 0x83, 1] ≠ 0 ∧
    SP.code [0x13, 0x82, 1] = SP.getCertificate ∧ SP.version [0x13, 0x82, 1] = 0x13 ∧
    SP.code [0x13, 0xE4] ∉ [SP.challenge, SP.getMeasurements, SP.getVersion, SP.getCapabilities, SP.negotiateAlgorithms, SP.getDigests, SP.getCertificate] ∧
    SP.version [0x12, 0xE1] ≠ 0x13 ∧ SP.code [0x10, 0x84] = SP.getVersion ∧
    up.sec.debugOpen = false ∧ (secured { debugOpen := true } 2).sec.debugOpen = true := by decide +kernel

/-! ### Telemetry, the black box, the sideband and the module -/

/-- A read of one record from 0 into row 0 of device entry 5, of the black box or, with bit 112, of the audit log. -/
def readP (audit : Nat) : BitVec 384 := word 384 [(0, 16, 0x8005), (64, 32, 0), (96, 16, 1), (112, 1, audit)]

theorem witness_record_reads (op a : Nat) (h : (op = 0x0601 ∨ op = 0x0602) ∧ (a = 0 ∨ a = 1)) :
    let s := withCmd keyed op (readP a)
    Startable s r0 op (cmdOf op (readP a)) ∧ capWaits s (capture s none (RD.handle (cmdOf op (readP a)).payload)) = false ∧
      RD.audit (cmdOf op (readP a)).payload = decide (a = 1) ∧
      (accessWrite s (some 0) (capture s none (RD.handle (cmdOf op (readP a)).payload)) none (RD.row (cmdOf op (readP a)).payload) [(0, 0)]).1 = none := by
  obtain ⟨h | h, k | k⟩ := h <;> subst h <;> subst k <;> unfold Startable <;> decide +kernel

/-- Context 0 gathers into device entry 5: a read into it waits. -/
theorem witness_record_waits (op : Nat) (h : op = 0x0601 ∨ op = 0x0602) :
    let s := { withCmd keyed op (readP 0) with ctxs := [(0, { isOpen := true, run := some (listRun [gatherGroup { entry := pieceEntry 1 0 }] []) })] }
    Startable s r0 op (cmdOf op (readP 0)) ∧ capWaits s (capture s none h5) = true := by
  rcases h with h | h <;> subst h <;> unfold Startable <;> decide +kernel

def copying (w : List Nat) : State := { up with bb := { up.bb with copying := some 3, waiting := w } }

theorem witness_background : up.sec.auditQ = [] ∧ up.bb.copying = none ∧ (recording 5 .begun).sec.auditQ ≠ [] ∧ (up.mgmtUp = true ∧ up.mod.booted = true ∧ State.reset.mgmtUp = false) ∧
    ((copying []).bb.copying = some 3 ∧ (copying []).bb.waiting = [] ∧ (copying [9]).bb.waiting = [9]) := by decide +kernel

/-- A full ring whose oldest record is number 3. -/
def fullBox (cp : Option Nat) : State := { up with bb := { up.bb with recs := (3, 0) :: List.replicate 4095 (4, 0), copying := cp } }

theorem witness_black_box : (5 : Nat) < 256 ∧ up.bb.recs.length < 4096 ∧ (fullBox none).bb.recs = (3, 0) :: List.replicate 4095 (4, 0) ∧
    4096 ≤ (fullBox none).bb.recs.length ∧ bbProtected (fullBox none).bb 3 = false ∧ bbProtected (fullBox (some 4)).bb 3 = true ∧ up.bb.copying = none := by
  refine ⟨by decide, by decide, rfl, ?_, by decide +kernel, by decide +kernel, by decide⟩
  exact Nat.le_of_eq (congrArg (· + 1) (List.length_replicate (n := 4095) (a := ((4 : Nat), (0 : BitVec 512))))).symm

theorem witness_perst : (up.mod.perst = false ∧ up.mod.powered = true ∧ { up.mod with powered := false }.powered = false) ∧ State.reset.mod.perst = true := by decide +kernel

/-- PERST# deasserted and not booted, with an image or none that verifies. -/
def coming (bad : Bool) (booted : Bool := false) : State := { State.reset with
  mod := { State.reset.mod with perst := false, booted := booted }, sec := { slotA := { shipped := true, invalid := bad } } }

theorem witness_boot (b : Bool) : (coming b).mgmtUp = true ∧ (coming b).mod.booted = false ∧ (coming b).host.state = .booting := by
  cases b <;> decide +kernel

/-- No image verifies; or slot A holds the image as shipped, whose key the maker provisioned. -/
theorem witness_boot_slots : bootSlot (coming true) = none ∧ shippedOk (coming false) = true ∧ (bootSlot (coming false)).isSome = true := by
  have h : shippedOk (coming false) = true := by
    have e : fuse (coming false) FU.rootHash 0 = fuseMask FU.rootHash (Config.shippedFuse (256 * FU.rootHash)) := Nat.zero_or _
    rw [shippedOk, e, beq_self_eq_true]
    decide +kernel
  refine ⟨by decide +kernel, h, ?_⟩
  have g : slotVerifies (coming false) (getSlot (coming false) (activeSlot (coming false).sec)) =
      some (0, [Config.shippedDigest 1, Config.shippedDigest 2, Config.shippedDigest 3]) := by
    show (if shippedOk (coming false) = true then _ else _) = _
    rw [if_pos h]
  rw [bootSlot, g]
  rfl

theorem witness_training : (awaitsReady (coming false true) = true ∧ (trained none).rate = none ∧ (trained (some 3)).rate = some 3 ∧
      (3 : Fin 5).val ≤ (coming false true).fab.cfg.ceiling.toNat ∧ (coming false true).rst.failed = false) ∧
    (let s := { coming false true with fab := { State.reset.fab with cfg := { State.reset.fab.cfg with ceiling := 2 } }, rst := { failed := true } }
     awaitsReady s = true ∧ s.fab.cfg.ceiling.toNat < (3 : Fin 5).val ∧ s.rst.failed = true) := by decide +kernel

def unpowered (trip ov : Bool) : State := { up with mod := { up.mod with powered := false, thermtrip := trip, faultOv := ov } }

theorem witness_module_power :
    ((unpowered false false).mod.powered = false ∧ (unpowered false false).mod.thermtrip = false ∧ (unpowered false false).mod.faultOv = false) ∧
    ((unpowered true false).mod.thermtrip = true ∧ (unpowered false true).mod.faultOv = true) ∧
    (up.mod.powered = true ∧ up.sec.auditQ = [] ∧ up.mod.standby = true) ∧ ((16 * 120 : Int) ≤ 1920 ∧ (1919 : Int) < 16 * 120) := by decide +kernel

/-- The form that every step keeps holds after reset, and a step from there answers a next state. -/
theorem witness_canonical : Mem.wf State.reset.ms.mem = true ∧ step State.reset = .next State.reset := ⟨by decide, rfl⟩

/-! ### What the sender cannot form -/

/-- A packet with more than 8 rows, one with more than 8 blocks, and one with a row and a block. -/
def packets : List Packet :=
  [packetOf ptWrite 9 (List.replicate 9 0), { packetOf ptAccumulate 9 with blocks := List.replicate 9 0 }, { packetOf ptWrite 1 [0] with blocks := [0] }]

theorem illformed_packets (p : Packet) (h : p ∈ packets) :
    [Instr.write none p, .accumulate none p, .read none p, .readResp none p, .fetchAdd none p, .exchange none p, .barrier none p, .barrierRelease none p,
      .exchangeReady none p, .verdictClean none p, .rescale none p, .verdictWardExhausted none p, .verdictNonfinite none p, .packetForward none p,
      .malformedPacket none p].all (fun i => !i.wf) = true := by
  simp only [packets, List.mem_cons, List.not_mem_nil, or_false] at h
  rcases h with h | h | h <;> subst h <;> decide +kernel

theorem illformed_data : (Instr.dataPut r0 (List.replicate 16385 0)).wf = false := by
  simp only [Instr.wf, Instr.packet?, Bool.true_and, decide_eq_false_iff_not, List.length_replicate]
  omega

theorem illformed_image : (Instr.firmwareStage r0 (List.replicate 16777217 0)).wf = false := by
  simp only [Instr.wf, Instr.packet?, Bool.true_and, decide_eq_false_iff_not, List.length_replicate]
  omega

theorem illformed_readings : (Instr.thermalRead (List.replicate 383 0) 0 0).wf = false := by decide +kernel

theorem illformed_patrol : (Instr.patrolScrubTick [(3, .clean), (3, .corrected)]).wf = false := by decide +kernel

theorem illformed_others : (Instr.sbTelemetryRead 0 5).wf = false ∧ (Instr.sbBlackboxRead 0 5).wf = false ∧ (Instr.sbAuditRead 0 5).wf = false ∧
    (Instr.fadd32 ⟨none, h5⟩ 0 0 9).wf = false := by decide +kernel

theorem wellformed : (Instr.write none (packetOf ptWrite 8 (List.replicate 8 0))).wf = true ∧ (Instr.dataPut r0 [0]).wf = true ∧
    (Instr.sbAuditRead 0 4).wf = true ∧ (Instr.fadd32 ⟨none, h5⟩ 0 1 9).wf = true ∧ (Instr.run r0).wf = true := by decide +kernel

/-! ### Worked examples of the manual -/

/-- No row of the command table gives bits. -/
theorem test_no_word : decodeTableWord 16 0x0103 = none := rfl

/-- The fields and bytes of a 32-bit register (00). -/
theorem test_fields : fld (0xA53 : Word) 4 8 = 165 ∧ bit (0xA53 : Word) 0 = true ∧ toBytes (0xA53 : Word) 4 = [0x53, 0x0A, 0, 0] := by decide

/-- The window of core 209: its last byte, and the first address past it (01). -/
theorem test_core_window : region State.reset (0x20002A200000 + 0x17FFFF) = .coreMem ∧ region State.reset (0x20002A200000 + 0x180000) = .unmapped ∧
    (0x20002A20A600 - coreBase) / 0x200000 = 209 := by decide

/-- FP32 to E2M1, E4M3 and BF16 (02). -/
theorem test_narrow :
    (fencode .e2m1 .rne true (fdecode .fp32 0x40A9999A)).1 = 7 ∧ (fencode .e2m1 .rne true (fdecode .fp32 0x40200000)).1 = 4 ∧
    (fencode .e2m1 .rne true (fdecode .fp32 0xBE99999A)).1 = 9 ∧ fencode .e2m1 .rne true (fdecode .fp32 0x3E4CCCCD) = (0, Fl.uf + Fl.nx) ∧
    (fencode .e4m3 .rne false (fdecode .fp32 0x3DCCCCCD)).1 = 0x1D ∧ fencode .e4m3 .rne false (fdecode .fp32 0x43FA0000) = (0x7E, Fl.ov + Fl.nx) ∧
    (fencode .bf16 .rne false (fdecode .fp32 0x3F804000)).1 = 0x3F80 ∧ (fencode .bf16 (.stoch 0xBFFF) false (fdecode .fp32 0x3F804000)).1 = 0x3F80 ∧
    (fencode .bf16 (.stoch 0xC000) false (fdecode .fp32 0x3F804000)).1 = 0x3F81 ∧ (fencode .bf16 .rne false (fdecode .fp32 0x3F808000)).1 = 0x3F80 ∧
    (fencode .bf16 .rne false (fdecode .fp32 0x3F818000)).1 = 0x3F82 := by decide +kernel

/-- Entry 163 of the placement example: row 997 (03). -/
theorem test_interleave : devRowAddr (word 256 [(1, 3, 1), (16, 3, 3), (32, 32, 1000), (64, 52, 0x20000200C800)]) 997 = 0x20000229C000 := by decide +kernel

/-- The word of v7 = acc[300] × v2[lane 5] + v7 under mask m3 (05). -/
theorem test_vector_word : vdecode 0x02E0142404B00723 =
    { word := 0x02E0142404B00723, op := 0x23, dst := 7, dk := false, src1 := 300, k1 := 1, src2 := 0x142, k2 := 2, mreg := 3, men := true, fmt := 0,
      stoch := false, sat := false } := by decide +kernel

/-- Channel hashing with D of 1 GiB (09). -/
theorem test_channels : (let s := { State.reset with ms := { State.reset.ms with gddrD := 4 } }
    channelOf s 0x12345000 = (26, 0x748000) ∧ (channelOf s 0x4EC0000000).1 = 35 ∧ (channelOf s 0x4FFFFFFFFF).1 = 39) := by decide +kernel

/-- Serial comparison (18), and the cap example (16). -/
theorem test_serial : serEarlier 16 0xFFFD 1 = true ∧ serDiff 32 1 0xFFFFFFFE = 3 := by decide
theorem test_cap_loop : loopFrequency { cap := 1800, ft := 1100 } 2400000 1280000 2400000 = some 550 ∧ loopFrequency { cap := 1800, ft := 550 } 1760000 640000 1760000 = some 550 := by
  decide +kernel

/-- A droop of an island at 430 MHz steps down to 400 and no further; a step of a command in front of the queue runs it. -/
theorem test_droop : (match step { islanded { freq := some 430, supply := true } with pending := [.droopStepDown 0] } with
    | .next t => decide (islandFreq t 0 = 400 ∧ t.pending = [])
    | _ => false) = true := by decide +kernel

/-- VIADD of INT32 wraps and raises nothing (05). -/
theorem test_viadd : (match exec (.viadd 0 { word := vw 0x01 2 }) (live { vregs := [(1, 0x7FFFFFFF), (2, 1)] }) with
    | .next t => decide (fld (Tab.get 0 (t.core 0).vregs 3) 0 32 = 0x80000000 ∧ fld (Tab.get 0 (t.core 0).vregs 3) 32 32 = 0 ∧ (t.core 0).summary = 0)
    | _ => false) = true := by decide +kernel

end Sys2Proof.Tests
end

section
/-!
LEMMA. Where the rows of a device entry lie (R84): the two forms of `devRowAddr`, and the obligation O11 from them.
-/
namespace Sys2Proof.Machine

/-- The placement of R84 without interleaving, which every tier but chip memory has. -/
theorem devRowAddr_of_not_interleaved {e : BitVec 256} (h : DE.interleave e = 0 ∨ DE.tier e ≠ 1) (j : Nat) :
    devRowAddr e j = DE.base e + j * 512 :=
  if_neg fun ⟨htier, hk⟩ => h.elim hk (· htier)

/-- The bank and the row's byte in its bank, read from the offset in chip memory that the model divides (R29). -/
theorem chipOffset_div_mod {b r : Nat} (hr : r < 1024) :
    (b * 0x80000 + r * 512) / 0x80000 = b ∧ (b * 0x80000 + r * 512) % 0x80000 = r * 512 := by
  omega

/-- The placement of R84 over the 2 ^ k banks from bank `b`; it needs no alignment of `b`, which R84 leaves to the host. -/
theorem devRowAddr_of_interleaved {e : BitVec 256} {b r : Nat} (htier : DE.tier e = 1) (hk : DE.interleave e ≠ 0) (hr : r < 1024)
    (hbase : DE.base e = chipBase + b * 0x80000 + r * 512) (j : Nat) :
    devRowAddr e j =
      chipBase + (b + j % 2 ^ DE.interleave e) * 0x80000 + (r + j / 2 ^ DE.interleave e) * 512 := by
  have hoff : DE.base e - chipBase = b * 0x80000 + r * 512 := by omega
  obtain ⟨hbank, hrow⟩ := chipOffset_div_mod (b := b) hr
  have hrows : (r + j / 2 ^ DE.interleave e) * 512 = r * 512 + j / 2 ^ DE.interleave e * 512 := Nat.add_mul ..
  simp only [devRowAddr, if_pos (And.intro htier hk), hoff, hbank, hrow, hrows, Nat.add_assoc]

/-- Settles O11, by the two forms of the model's placement: interleaved chip memory, and every other entry. -/
theorem rowPlacement : Obligations.RowPlacement := by
  intro e j
  constructor
  case left =>
    rintro htier _ b r rfl hk _ hr hbase
    exact devRowAddr_of_interleaved htier hk hr hbase j
  case right =>
    exact fun h => devRowAddr_of_not_interleaved h j

end Sys2Proof.Machine
end

section
/-!
LEMMA. A column's commit into the accumulator (R73, R120, R131): the words of the accumulator, what each mode makes of the partial
sum, the core after a commit of the oldest vector in flight, and the obligation O34 from them.
-/
namespace Sys2Proof.Machine

/-! ### The words of the accumulator -/

/-- The word of a column in an accumulator entry. -/
def Core.accWord (k : Core) (e l : Nat) : Nat := fld (k.accEntry e) (32 * l) 32

/-- A core with the word of one column of an entry written. -/
def Core.setAccWord (k : Core) (e l x : Nat) : Core := k.setAcc e (put (k.accEntry e) (32 * l) 32 x)

@[simp] theorem Core.accEntry_setAcc_same (k : Core) (e : Nat) (x : Row) : (k.setAcc e x).accEntry e = x :=
  Tab.get_set_same ..

theorem Core.accEntry_setAcc_ne (k : Core) {e e' : Nat} (x : Row) (h : e' ≠ e) : (k.setAcc e x).accEntry e' = k.accEntry e' :=
  Tab.get_set_ne _ _ _ h

theorem Core.accWord_setAccWord_same (k : Core) (e x : Nat) {l : Nat} (hl : l < 128) :
    (k.setAccWord e l x).accWord e l = x % 2 ^ 32 := by
  rw [accWord, setAccWord, accEntry_setAcc_same, fld_put_same _ _ _ _ (by omega)]

theorem Core.accWord_setAccWord_ne (k : Core) {e l e' l' : Nat} (x : Nat) (h : ¬ (e' = e ∧ l' = l)) :
    (k.setAccWord e l x).accWord e' l' = k.accWord e' l' := by
  by_cases he : e' = e
  case pos =>
    subst he
    have hl : l' ≠ l := fun hl => h ⟨rfl, hl⟩
    rw [accWord, setAccWord, accEntry_setAcc_same, fld_put_apart _ _ _ _ _ _ (by omega), accWord]
  case neg => rw [accWord, setAccWord, accEntry_setAcc_ne _ _ he, accWord]

/-! ### What each mode makes of the partial sum (R131) -/

/-- The binary32 word nearest to an exact value (R57, R58). -/
def nearest32 (x : FVal) : Nat := (toF32 (x, 0)).1

/-- What rounding to binary32 loses of a value, itself rounded: the error term of the compensated modes. -/
def roundLoss (x : FVal) : Nat := nearest32 (fsum x (fdecode .fp32 (nearest32 x)).flip).1

/-- The flags that come with a value do not enter the word that it rounds to. -/
theorem toF32_fst (v : FVal × Nat) : (toF32 v).1 = nearest32 v.1 := rfl

section
variable {mode : Nat} (p : FVal) (a b : Nat)

theorem accUpdate_store (h : mode = 0) : (accUpdate mode p a b).1 = nearest32 p := by
  subst h
  exact toF32_fst _

theorem accUpdate_add (h : mode = 1) : (accUpdate mode p a b).1 = nearest32 (fsum (fdecode .fp32 a) p).1 := by
  subst h
  exact toF32_fst _

theorem accUpdate_storeCompensated (h : mode = 2) :
    (accUpdate mode p a b).1 = nearest32 p ∧ (accUpdate mode p a b).2.1 = roundLoss p := by
  subst h
  exact ⟨toF32_fst _, toF32_fst _⟩

theorem accUpdate_addCompensated (h : mode = 3) :
    let sum := (fsum (fdecode .fp32 a) p).1
    (accUpdate mode p a b).1 = nearest32 sum ∧
      (accUpdate mode p a b).2.1 = nearest32 (fsum (fdecode .fp32 b) (fdecode .fp32 (roundLoss sum))).1 := by
  subst h
  exact ⟨toF32_fst _, toF32_fst _⟩
end

/-! ### The core after a commit -/

/-- The new words of a vector's entry and error entry at column `j`, and the flags of making them. -/
def Core.columnUpdate (k : Core) (v : Flight) (j : Nat) : Nat × Nat × Nat :=
  accUpdate v.accMode (columnSum v v.stat j).1 (k.accWord v.entry j) (k.accWord (v.entry + 256) j)

/-- A core with the words written that column `j` of a vector updates. -/
def Core.commitWords (k : Core) (v : Flight) (j : Nat) : Core :=
  let k₁ := k.setAccWord v.entry j (k.columnUpdate v j).1
  if 2 ≤ v.accMode then k₁.setAccWord (v.entry + 256) j (k.columnUpdate v j).2.1 else k₁

/-- A core after column `j` of its oldest vector in flight has committed, `rest` the younger ones. -/
def Core.commitOldest (k : Core) (v : Flight) (rest : List Flight) (j : Nat) : Core :=
  let cols := v.cols.filter fun x => x != j
  { raiseCol (k.commitWords v j) j ((columnSum v v.stat j).2 ||| (k.columnUpdate v j).2.2) with
    flight := if cols = [] then rest else { v with cols := cols } :: rest }

/-- A core that has counted a single-bit error of the entry it reads: only a mode that adds to the entry reads it (R73). -/
def Core.countEntryError (k : Core) (check : OperandCheck) (mode : Nat) : Core :=
  { k with obCorrected := if check = .corrected ∧ mode % 2 = 1 then countErr k.obCorrected else k.obCorrected }

theorem raiseCol_eq (k : Core) (col fl : Nat) :
    raiseCol k col fl = { k with colFlags := (raiseCol k col fl).colFlags, summary := (raiseCol k col fl).summary } := by
  by_cases h : BitVec.ofNat 8 (fl % 128) = 0
  case pos =>
    have hk : raiseCol k col fl = k := if_pos h
    rw [hk]
  case neg =>
    have hk : raiseCol k col fl = _ := if_neg h
    rw [hk]

theorem Core.accWord_commitOldest (k : Core) (v : Flight) (rest : List Flight) (j e l : Nat) :
    (k.commitOldest v rest j).accWord e l = (k.commitWords v j).accWord e l := by
  rw [commitOldest, raiseCol_eq]
  rfl

theorem Core.commitWords_eq (k : Core) (v : Flight) (j : Nat) : k.commitWords v j = { k with acc := (k.commitWords v j).acc } := by
  unfold commitWords
  split <;> rfl

/-- A commit changes the accumulator, the column flags with their summary, and the vectors in flight. -/
theorem Core.commitOldest_frame (k : Core) (v : Flight) (rest : List Flight) (j : Nat) :
    let n := k.commitOldest v rest j
    n = { k with acc := n.acc, colFlags := n.colFlags, summary := n.summary, flight := n.flight } := by
  dsimp only
  rw [commitOldest, raiseCol_eq, commitWords_eq]

section
variable (k : Core) (v : Flight) {j : Nat}

theorem Core.accWord_commitWords_entry (hj : j < 128) :
    (k.commitWords v j).accWord v.entry j = (k.columnUpdate v j).1 % 2 ^ 32 := by
  unfold commitWords
  split
  case isTrue => rw [accWord_setAccWord_ne _ _ (by omega), accWord_setAccWord_same _ _ _ hj]
  case isFalse => exact accWord_setAccWord_same _ _ _ hj

theorem Core.accWord_commitWords_error (hj : j < 128) (hmode : 2 ≤ v.accMode) :
    (k.commitWords v j).accWord (v.entry + 256) j = (k.columnUpdate v j).2.1 % 2 ^ 32 := by
  rw [commitWords, if_pos hmode, accWord_setAccWord_same _ _ _ hj]

theorem Core.accWord_commitWords_apart {e l : Nat} (hentry : ¬ (e = v.entry ∧ l = j))
    (herror : ¬ (2 ≤ v.accMode ∧ e = v.entry + 256 ∧ l = j)) : (k.commitWords v j).accWord e l = k.accWord e l := by
  unfold commitWords
  split
  case isTrue hmode => rw [accWord_setAccWord_ne _ _ (fun h => herror ⟨hmode, h⟩), accWord_setAccWord_ne _ _ hentry]
  case isFalse => exact accWord_setAccWord_ne _ _ hentry
end

/-! ### The command -/

theorem splitFirst_cons_of_pos {α : Type} {p : α → Bool} {x : α} (t : List α) (h : p x = true) :
    splitFirst p (x :: t) = some ([], x, t) :=
  if_pos h

/-- A core without a run has nothing to pump. -/
theorem pumpTile_of_idle {s : State} {c : CoreId} (h : (s.core c).tile = none) : pumpTile s c = s := by
  simp [pumpTile, pumpTileFrom, h]

theorem exec_accumulatorCommit {s : State} (c : CoreId) (x : ColumnCommit) (hlive : sectionLive s = true) :
    exec (.accumulatorCommit c x) s = .next (pumpTile (commitChecked s c x.column.val x.check) c) := by
  change Host.Outcome.next (if sectionLive s then _ else s) = _
  rw [if_pos hlive]

section
variable {s : State} {c : CoreId} {j : Nat} {v : Flight} {rest : List Flight}

theorem commitColumn_oldest (hflight : (s.core c).flight = v :: rest) (hcol : v.cols.contains j = true) :
    commitColumn s c j = s.setCore c ((s.core c).commitOldest v rest j) := by
  rw [commitColumn, hflight, splitFirst_cons_of_pos rest hcol]
  simp only [List.isEmpty_iff, List.nil_append]
  rfl

/-- Whether the commit of the oldest vector reads its entry is whether the vector's mode adds (R73, R131). -/
theorem commitChecked_reads (hflight : (s.core c).flight = v :: rest) (hcol : v.cols.contains j = true) :
    (((s.core c).flight.find? fun (f : Flight) => f.cols.contains j).any fun f => f.accMode % 2 == 1) = (v.accMode % 2 == 1) := by
  rw [hflight, List.find?_cons_of_pos (p := fun f : Flight => f.cols.contains j) hcol, Option.any_some]

theorem commitChecked_double (hflight : (s.core c).flight = v :: rest) (hcol : v.cols.contains j = true) (hmode : v.accMode % 2 = 1) :
    commitChecked s c j .double = faultCore s c 0 ⟨St.operandParity, { index := j }⟩ := by
  simp only [commitChecked, commitChecked_reads hflight hcol, hmode, BEq.rfl]

/-- A commit whose check does not fault. -/
theorem commitChecked_oldest {check : OperandCheck} (hflight : (s.core c).flight = v :: rest) (hcol : v.cols.contains j = true)
    (hok : check = .double → v.accMode % 2 = 0) :
    commitChecked s c j check = s.setCore c (((s.core c).countEntryError check v.accMode).commitOldest v rest j) := by
  have hcommit := commitColumn_oldest hflight hcol
  simp only [commitChecked, commitChecked_reads hflight hcol]
  cases check with
  | clean => simpa [Core.countEntryError] using hcommit
  | double => simpa [Core.countEntryError, hok rfl] using hcommit
  | corrected =>
    rcases Nat.mod_two_eq_zero_or_one v.accMode with hmode | hmode
    · simpa [Core.countEntryError, hmode] using hcommit
    · have hcounted : ((countOperand s c).core c).flight = v :: rest := by simpa [countOperand] using hflight
      simpa [Core.countEntryError, hmode, countOperand] using commitColumn_oldest hcounted hcol

end

/-- Settles O34: the command commits the oldest vector in flight, and the words are read back from the core after it, mode by mode. -/
theorem accumulatorUpdates : Obligations.AccumulatorUpdates := by
  intro s c j check v rest k hlive htile hflight hcol
  constructor
  case left =>
    rintro rfl hmode
    rw [exec_accumulatorCommit c _ hlive, commitChecked_double hflight hcol hmode]
  case right =>
    intro hok p old a e rnd val minus sum
    let k₁ := k.countEntryError check v.accMode
    let n := k₁.commitOldest v rest j.val
    have hframe : n = { k₁ with acc := n.acc, colFlags := n.colFlags, summary := n.summary, flight := n.flight } :=
      Core.commitOldest_frame ..
    have hcount : n.obCorrected = k₁.obCorrected := (congrArg Core.obCorrected hframe :)
    have hidle : ((s.setCore c n).core c).tile = none := by
      rw [State.core_setCore_same]
      exact (congrArg Core.tile hframe).trans htile
    have hentry {x : Nat} (h : (k₁.columnUpdate v j.val).1 = x) : n.accWord v.entry j.val = x % 2 ^ 32 :=
      h ▸ (Core.accWord_commitOldest ..).trans (Core.accWord_commitWords_entry _ _ j.isLt)
    have herror {x : Nat} (hmode : 2 ≤ v.accMode) (h : (k₁.columnUpdate v j.val).2.1 = x) :
        n.accWord (v.entry + 256) j.val = x % 2 ^ 32 :=
      h ▸ (Core.accWord_commitOldest ..).trans (Core.accWord_commitWords_error _ _ j.isLt hmode)
    refine ⟨n, ?exec, ?store, ?add, ?storeCompensated, ?addCompensated, ?apart, ?frame, hcount, rfl⟩
    case exec => rw [exec_accumulatorCommit c _ hlive, commitChecked_oldest hflight hcol hok, pumpTile_of_idle hidle]
    case store => exact fun hmode => hentry (accUpdate_store _ _ _ hmode)
    case add => exact fun hmode => hentry (accUpdate_add _ _ _ hmode)
    case storeCompensated =>
      intro hmode
      obtain ⟨hword, hloss⟩ := accUpdate_storeCompensated p (k₁.accWord v.entry j.val) (k₁.accWord (v.entry + 256) j.val) hmode
      exact ⟨hentry hword, herror hmode.ge hloss⟩
    case addCompensated =>
      intro hmode
      obtain ⟨hword, hloss⟩ := accUpdate_addCompensated p (k₁.accWord v.entry j.val) (k₁.accWord (v.entry + 256) j.val) hmode
      exact ⟨hentry hword, herror (by omega) hloss⟩
    case apart =>
      exact fun x l _ hx hx' => (Core.accWord_commitOldest ..).trans (Core.accWord_commitWords_apart _ _ hx hx')
    case frame =>
      rw [hcount]
      exact hframe

end Sys2Proof.Machine
end

section
/-!
LEMMA. Integer lanes (R45, R144, R147): the wrapped and the clamped readings of two's complement, what the operation of each opcode makes
of two elements, a lane as its elements, and the obligation O27 from them.
-/
namespace Sys2Proof.Machine

/-! ### Two's complement (R45, R147) -/

theorem signed_modEq (w x : Nat) : signed w x ≡ x [ZMOD (2 ^ w : Nat)] := by
  have hmod : ((x % 2 ^ w : Nat) : Int) ≡ x [ZMOD (2 ^ w : Nat)] := by
    rw [Int.natCast_mod]
    exact Int.mod_modEq ..
  unfold signed
  dsimp only
  split
  case isTrue => exact hmod
  case isFalse => simpa using hmod.sub (Int.modEq_zero_iff_dvd.2 (dvd_refl ((2 ^ w : Nat) : Int)))

theorem wrap_eq_of_modEq {w n : Nat} {v : Int} (h : v ≡ n [ZMOD (2 ^ w : Nat)]) : wrap w v = n % 2 ^ w := by
  rw [wrap, h.eq, ← Int.natCast_mod, Int.toNat_natCast]

theorem wrap_signed (w x : Nat) : wrap w (signed w x) = x % 2 ^ w := wrap_eq_of_modEq (signed_modEq w x)

theorem wrap_lt (w : Nat) (v : Int) : wrap w v < 2 ^ w := by
  have hpos : (0 : Int) < (2 ^ w : Nat) := by exact_mod_cast Nat.two_pow_pos w
  have hlt := Int.emod_lt_of_pos v hpos
  unfold wrap
  omega

theorem wrap_mod (w : Nat) (v : Int) : wrap w v % 2 ^ w = wrap w v := Nat.mod_eq_of_lt (wrap_lt w v)

/-- An integer clamped to the range of w bits of two's complement (R45). -/
def saturate (w : Nat) (x : Int) : Int := max (-(2 ^ (w - 1) : Int)) (min x (2 ^ (w - 1) - 1))

theorem clampInt_eq (w : Nat) (v : Int) :
    clampInt w v = (wrap w (saturate w v), if saturate w v = v then 0 else Fl.sat) := by
  have hpos : (0 : Int) < 2 ^ (w - 1) := by positivity
  simp only [clampInt, Nat.cast_pow, Nat.cast_ofNat]
  split
  case isTrue hhigh =>
    have hsat : saturate w v = 2 ^ (w - 1) - 1 := by rw [saturate, min_eq_right hhigh.le, max_eq_right (by omega)]
    rw [hsat, if_neg hhigh.ne]
  case isFalse hhigh =>
    have hsat : saturate w v = max (-(2 ^ (w - 1))) v := by rw [saturate, min_eq_left (by omega)]
    rw [hsat]
    split
    case isTrue hlow => rw [max_eq_left hlow.le, if_neg hlow.ne']
    case isFalse hlow => rw [max_eq_right (not_lt.1 hlow), if_pos rfl]

theorem clampInt_writes (w : Nat) (v : Int) :
    (clampInt w v).1 % 2 ^ w = wrap w (saturate w v) ∧ (clampInt w v).2 = if saturate w v = v then 0 else Fl.sat := by
  rw [clampInt_eq]
  exact ⟨wrap_mod .., rfl⟩

/-! ### The operation of each opcode on two elements (R144, R147) -/

/-- On elements of w bits the opcode's operation writes `val` and raises `flags`. -/
def IntOpIs (op w : Nat) (val flags : Nat → Nat → Nat) : Prop :=
  ∀ x y, x < 2 ^ w → y < 2 ^ w → (intOp op w x y).1 % 2 ^ w = val x y ∧ (intOp op w x y).2 = flags x y

section
variable (w : Nat)

theorem intOpIs_add : IntOpIs 0x01 w (fun x y => (x + y) % 2 ^ w) fun _ _ => 0 := by
  intro x y _ _
  refine ⟨(wrap_mod ..).trans (wrap_eq_of_modEq ?_), rfl⟩
  exact_mod_cast (signed_modEq w x).add (signed_modEq w y)

theorem intOpIs_sub : IntOpIs 0x02 w (fun x y => (x + 2 ^ w - y) % 2 ^ w) fun _ _ => 0 := by
  intro x y _ hy
  refine ⟨(wrap_mod ..).trans (wrap_eq_of_modEq ?_), rfl⟩
  have hcast : ((x + 2 ^ w - y : Nat) : Int) = x - y + (2 ^ w : Nat) := by omega
  rw [hcast]
  exact ((signed_modEq w x).sub (signed_modEq w y)).trans Int.add_modEq_right.symm

theorem intOpIs_mul : IntOpIs 0x03 w (fun x y => (x * y) % 2 ^ w) fun _ _ => 0 := by
  intro x y _ _
  refine ⟨(wrap_mod ..).trans (wrap_eq_of_modEq ?_), rfl⟩
  exact_mod_cast (signed_modEq w x).mul (signed_modEq w y)

theorem intOpIs_addSat : IntOpIs 0x04 w (fun x y => wrap w (saturate w (signed w x + signed w y)))
    fun x y => if saturate w (signed w x + signed w y) = signed w x + signed w y then 0 else Fl.sat :=
  fun _ _ _ _ => clampInt_writes ..

theorem intOpIs_subSat : IntOpIs 0x05 w (fun x y => wrap w (saturate w (signed w x - signed w y)))
    fun x y => if saturate w (signed w x - signed w y) = signed w x - signed w y then 0 else Fl.sat :=
  fun _ _ _ _ => clampInt_writes ..

theorem intOpIs_min : IntOpIs 0x06 w (fun x y => if signed w x ≤ signed w y then x else y) fun _ _ => 0 := by
  intro x y hx hy
  refine ⟨(wrap_mod ..).trans ?_, rfl⟩
  dsimp only
  split
  case isTrue h => rw [min_eq_left h, wrap_signed, Nat.mod_eq_of_lt hx]
  case isFalse h => rw [min_eq_right (not_le.1 h).le, wrap_signed, Nat.mod_eq_of_lt hy]

theorem intOpIs_max : IntOpIs 0x07 w (fun x y => if signed w x ≤ signed w y then y else x) fun _ _ => 0 := by
  intro x y hx hy
  refine ⟨(wrap_mod ..).trans ?_, rfl⟩
  dsimp only
  split
  case isTrue h => rw [max_eq_right h, wrap_signed, Nat.mod_eq_of_lt hy]
  case isFalse h => rw [max_eq_left (not_le.1 h).le, wrap_signed, Nat.mod_eq_of_lt hx]

theorem intOpIs_and : IntOpIs 0x08 w (fun x y => x &&& y) fun _ _ => 0 :=
  fun x _ _ hy => ⟨Nat.mod_eq_of_lt (Nat.and_lt_two_pow x hy), rfl⟩

theorem intOpIs_or : IntOpIs 0x09 w (fun x y => x ||| y) fun _ _ => 0 :=
  fun _ _ hx hy => ⟨Nat.mod_eq_of_lt (Nat.or_lt_two_pow hx hy), rfl⟩

theorem intOpIs_xor : IntOpIs 0x0A w (fun x y => x ^^^ y) fun _ _ => 0 :=
  fun _ _ hx hy => ⟨Nat.mod_eq_of_lt (Nat.xor_lt_two_pow hx hy), rfl⟩

theorem intOpIs_shl : IntOpIs 0x0B w (fun x y => (x * 2 ^ (y % w)) % 2 ^ w) fun _ _ => 0 := by
  intro x y _ _
  have h : intOp 0x0B w x y = ((x <<< (y % w)) % 2 ^ w, 0) := rfl
  rw [h, Nat.shiftLeft_eq]
  exact ⟨Nat.mod_mod .., rfl⟩

theorem intOpIs_shrArith : IntOpIs 0x0C w (fun x y => wrap w (signed w x / (2 ^ (y % w) : Nat))) fun _ _ => 0 :=
  fun _ _ _ _ => ⟨wrap_mod .., rfl⟩

theorem intOpIs_shrLogic : IntOpIs 0x0D w (fun x y => x / 2 ^ (y % w)) fun _ _ => 0 := by
  intro x y hx _
  have h : intOp 0x0D w x y = (x >>> (y % w), 0) := rfl
  rw [h, Nat.shiftRight_eq_div_pow]
  exact ⟨Nat.mod_eq_of_lt (lt_of_le_of_lt (Nat.div_le_self ..) hx), rfl⟩
end

/-! ### A lane as its elements (R137, R159) -/

/-- An operation over a lane does its work on each element apart. -/
theorem laneMap_eq {m : Nat} {g : Nat → Nat → Nat × Nat} {val flags : Nat → Nat → Nat}
    (hg : ∀ x y, x < 2 ^ m → y < 2 ^ m → (g x y).1 % 2 ^ m = val x y ∧ (g x y).2 = flags x y) (p q d : Nat) :
    laneMap m (fun _ x y _ => g x y) p q d = (elements m p q val, anyElement m p q flags) := by
  have hfold : ∀ (es : List Nat) (v f : Nat),
      es.foldl (fun (acc : Nat × Nat) e =>
          (acc.1 ||| (((g (p >>> (m * e) % 2 ^ m) (q >>> (m * e) % 2 ^ m)).1 % 2 ^ m) <<< (m * e)),
            acc.2 ||| (g (p >>> (m * e) % 2 ^ m) (q >>> (m * e) % 2 ^ m)).2)) (v, f) =
        (es.foldl (fun a e => a ||| (val (p / 2 ^ (m * e) % 2 ^ m) (q / 2 ^ (m * e) % 2 ^ m) <<< (m * e))) v,
          es.foldl (fun a e => a ||| flags (p / 2 ^ (m * e) % 2 ^ m) (q / 2 ^ (m * e) % 2 ^ m)) f) := by
    intro es
    induction es with
    | nil => exact fun _ _ => rfl
    | cons e es ih =>
      intro v f
      obtain ⟨hval, hflags⟩ := hg (p >>> (m * e) % 2 ^ m) (q >>> (m * e) % 2 ^ m)
        (Nat.mod_lt _ (Nat.two_pow_pos m)) (Nat.mod_lt _ (Nat.two_pow_pos m))
      rw [List.foldl_cons, hval, hflags, ih]
      simp only [List.foldl_cons, Nat.shiftRight_eq_div_pow]
  exact hfold (List.range (32 / m)) 0 0

theorem anyElement_zero (m p q : Nat) : anyElement m p q (fun _ _ => 0) = 0 := by
  simp [anyElement]

/-- Lanes whose operation raises nothing leave the flags. -/
theorem raiseLanes_laneFlagsOf_zero (k n : Core) (i : VIns) (a b : List Nat) {f : Nat → Nat → Nat} (hf : ∀ p q, f p q = 0) :
    raiseLanes n (laneFlagsOf k i a b f) = n := by
  refine raiseLanes_zero n _ fun x hx => ?_
  obtain ⟨l, _, rfl⟩ := List.mem_map.1 hx
  simp [hf]

/-! ### An element-wise instruction -/

theorem activeLanes_length (k : Core) (i : VIns) : (activeLanes k i).length = 128 := by simp [activeLanes]

/-- What an operation makes of each active lane of 128, the lanes given as lists side by side. -/
theorem map_zip_lanes {α : Type} (k : Core) (i : VIns) (f : Nat → Nat → Nat → α) {ws a b d : List Nat} (hws : ws.length = 128)
    (ha : a.length = 128) (hb : b.length = 128) (hd : d.length = 128) :
    (((activeLanes k i).zip ws).zip (a.zip (b.zip d))).map (fun p => if p.1.1 then some (f p.2.1 p.2.2.1 p.2.2.2) else none) =
      (List.range 128).map fun l =>
        if (activeLanes k i).getD l false then some (f (a.getD l 0) (b.getD l 0) (d.getD l 0)) else none := by
  have hact := activeLanes_length k i
  refine List.ext_getElem (by simp [hact, hws, ha, hb, hd]) fun l _ hl => ?_
  have hl : l < 128 := by simpa using hl
  simp [hact, ha, hb, hd, hl]

/-- An element-wise instruction of two sources that rounds no element at random and does not read its destination. -/
theorem elementwise_eq {s t u : State} {c : CoreId} {i : VIns} {a b : List Nat} {g : Nat → Nat → Nat × Nat}
    (hsrc1 : source1 s c i = (.ok a, t)) (hsrc2 : source2 t c i = (.ok b, u)) (ha : a.length = 128) (hb : b.length = 128) :
    elementwise s c i true false false (fun _ x y _ => g x y) =
      (none, u.setCore c (raiseLanes
        (putDest (u.core c) i (laneResults (u.core c) i a b fun p q => (laneMap (fmtWidth i.fmt) (fun _ x y _ => g x y) p q 0).1))
        (laneFlagsOf (u.core c) i a b fun p q => (laneMap (fmtWidth i.fmt) (fun _ x y _ => g x y) p q 0).2))) := by
  simp only [elementwise, hsrc1, hsrc2, if_true, Bool.false_and, drawLanes_false, Bool.false_eq_true, if_false]
  rw [map_zip_lanes _ _ (fun p q r => laneMap (fmtWidth i.fmt) (fun _ x y _ => g x y) p q r) (by simp [activeLanes_length]) ha hb (by simp)]
  simp only [laneResults, laneFlagsOf, List.map_map, Function.comp_def, List.getD_eq_getElem?_getD, List.getElem?_getD_replicate_default_eq,
    apply_ite (Option.map _), apply_ite (Option.getD · 0), Option.map_some, Option.map_none, Option.getD_some, Option.getD_none]

theorem vecRun_integer (s : State) (c : CoreId) {i : VIns} (h : 0x01 ≤ i.op ∧ i.op ≤ 0x0D) : vecRun s c i = vecInt s c i := by
  rw [vecRun, if_neg (by omega), if_pos h.2]

section
variable {s t u : State} {c : CoreId} {w : BitVec 64} {a b : List Nat} {op : Nat} {val flags : Nat → Nat → Nat}

/-- Every integer instruction: what it writes and raises, lane by lane and element by element. -/
theorem issueVector_integer (h : VectorReady s c w) (hsrc1 : source1 s c (vdecode w) = (.ok a, t))
    (hsrc2 : source2 t c (vdecode w) = (.ok b, u)) (ha : a.length = 128) (hb : b.length = 128) (hrange : 0x01 ≤ op ∧ op ≤ 0x0D)
    (hval : IntOpIs op (fmtWidth (vdecode w).fmt) val flags) (hop : fld w 0 8 = op) :
    issueVector op c w .clean s = vectorDone u c (raiseLanes
      (putDest (u.core c) (vdecode w) (laneResults (u.core c) (vdecode w) a b fun p q => elements (fmtWidth (vdecode w).fmt) p q val))
      (laneFlagsOf (u.core c) (vdecode w) a b fun p q => anyElement (fmtWidth (vdecode w).fmt) p q flags)) := by
  have hdecode : (vdecode w).op = op := hop
  refine issueVector_done h hop ?_
  rw [vecRun_integer s c (hdecode ▸ hrange), vecInt, elementwise_eq hsrc1 hsrc2 ha hb, hdecode]
  simp only [laneMap_eq hval]

/-- An integer instruction whose operation raises nothing. -/
theorem issueVector_integer_quiet (h : VectorReady s c w) (hsrc1 : source1 s c (vdecode w) = (.ok a, t))
    (hsrc2 : source2 t c (vdecode w) = (.ok b, u)) (ha : a.length = 128) (hb : b.length = 128) (hrange : 0x01 ≤ op ∧ op ≤ 0x0D)
    (hval : IntOpIs op (fmtWidth (vdecode w).fmt) val fun _ _ => 0) (hop : fld w 0 8 = op) :
    issueVector op c w .clean s = vectorDone u c
      (putDest (u.core c) (vdecode w) (laneResults (u.core c) (vdecode w) a b fun p q => elements (fmtWidth (vdecode w).fmt) p q val)) := by
  rw [issueVector_integer h hsrc1 hsrc2 ha hb hrange hval hop, raiseLanes_laneFlagsOf_zero _ _ _ _ _ (anyElement_zero _)]
end

/-- Settles O27: the operation of each opcode on two elements, applied element by element to the active lanes. -/
theorem integerLanes : Obligations.IntegerLanes := by
  constructor
  case left =>
    intro s t u c w a b h i m hsrc1 hsrc2 ha hb gives
    have writes {x : Instr} {op : Nat} {val : Nat → Nat → Nat} (hx : exec x s = .next (issueVector op c w .clean s))
        (hrange : 0x01 ≤ op ∧ op ≤ 0x0D) (hval : IntOpIs op m val fun _ _ => 0) (hop : fld w 0 8 = op) : gives x val :=
      hx.trans (congrArg _ (issueVector_integer_quiet h hsrc1 hsrc2 ha hb hrange hval hop))
    exact ⟨writes rfl (by decide) (intOpIs_add m), writes rfl (by decide) (intOpIs_sub m), writes rfl (by decide) (intOpIs_mul m),
      writes rfl (by decide) (intOpIs_min m), writes rfl (by decide) (intOpIs_max m), writes rfl (by decide) (intOpIs_and m),
      writes rfl (by decide) (intOpIs_or m), writes rfl (by decide) (intOpIs_xor m), writes rfl (by decide) (intOpIs_shl m),
      writes rfl (by decide) (intOpIs_shrArith m), writes rfl (by decide) (intOpIs_shrLogic m)⟩
  case right =>
    intro s t u c w a b h i m hsrc1 hsrc2 ha hb clamp gives
    exact ⟨fun hop => congrArg _ (issueVector_integer h hsrc1 hsrc2 ha hb (by decide) (intOpIs_addSat m) hop),
      fun hop => congrArg _ (issueVector_integer h hsrc1 hsrc2 ha hb (by decide) (intOpIs_subSat m) hop)⟩

end Sys2Proof.Machine
end

section
/-!
LEMMA. Across the lanes (R144, R150, R151): reading a lane of a register after a lane, a register or the destination is written, the
reductions, the rotation and the softmax step, and the obligation O30 from them.
-/
namespace Sys2Proof.Machine

/-! ### Lanes of registers (R137) -/

@[simp] theorem Core.vreg_setVreg_same (k : Core) (r : Nat) (x : Row) : (k.setVreg r x).vreg r = x := Tab.get_set_same ..

theorem Core.vreg_setVreg_ne (k : Core) {r r' : Nat} (x : Row) (h : r' ≠ r) : (k.setVreg r x).vreg r' = k.vreg r' :=
  Tab.get_set_ne _ _ _ h

theorem Core.lane_setLane_same (k : Core) (r x : Nat) {l : Nat} (hl : l < 128) : (k.setLane r l x).lane r l = x % 2 ^ 32 := by
  rw [lane, setLane, vreg_setVreg_same, fld_put_same _ _ _ _ (by omega)]

theorem Core.lane_setLane_ne (k : Core) {r l r' l' : Nat} (x : Nat) (h : ¬ (r' = r ∧ l' = l)) :
    (k.setLane r l x).lane r' l' = k.lane r' l' := by
  by_cases hr : r' = r
  case pos =>
    subst hr
    have hl : l' ≠ l := fun hl => h ⟨rfl, hl⟩
    rw [lane, setLane, vreg_setVreg_same, fld_put_apart _ _ _ _ _ _ (by omega), lane]
  case neg => rw [lane, setLane, vreg_setVreg_ne _ _ hr, lane]

theorem Core.lane_lt (k : Core) (r l : Nat) : k.lane r l < 2 ^ 32 := Nat.mod_lt _ (Nat.two_pow_pos 32)

/-- Flags are no part of the registers. -/
@[simp] theorem Core.lane_raiseLane (k : Core) (n fl r l : Nat) : (raiseLane k n fl).lane r l = k.lane r l := by
  by_cases h : BitVec.ofNat 8 (fl % 128) = 0
  case pos =>
    have hk : raiseLane k n fl = k := if_pos h
    rw [hk]
  case neg =>
    have hk : raiseLane k n fl = _ := if_neg h
    rw [hk]
    rfl

/-- A row made of lane words is the word of the fields that the lanes are. -/
theorem rowOfLanes_eq_word (l : List Nat) : rowOfLanes l = word 4096 (l.zipIdx.map fun p => (32 * p.2, 32, p.1)) := by
  rw [rowOfLanes, word, List.foldl_map]

theorem fld_rowOfLanes {l : List Nat} {n x : Nat} (hn : n < 128) (hx : l[n]? = some x) : fld (rowOfLanes l) (32 * n) 32 = x % 2 ^ 32 := by
  rw [rowOfLanes_eq_word]
  refine fld_word _ _ n (by simp [hx]) (List.all_eq_true.2 fun f hf => ?_) (by omega)
  obtain ⟨m, hm, hf⟩ := List.mem_eraseIdx_iff_getElem?.1 hf
  obtain ⟨y, _, rfl⟩ : ∃ y, l[m]? = some y ∧ (32 * m, 32, y) = f := by simpa using hf
  have hapart : 32 * m + 32 ≤ 32 * n ∨ 32 * n + 32 ≤ 32 * m := by omega
  simpa using hapart

/-- A lane of the destination register that is written with a word. -/
theorem Core.lane_putDest {k : Core} {i : VIns} {new : List (Option Nat)} {l x : Nat} (hdk : i.dk = false) (hl : l < 128)
    (hnew : new[l]? = some (some x)) : (putDest k i new).lane i.dreg l = x % 2 ^ 32 := by
  have hmerged : (((destLanes k i).zip new).map fun p => p.2.getD p.1)[l]? = some x := by
    simp [List.getElem?_zip_eq_some, destLanes, lanesOf, hl, hnew]
  simp only [putDest, hdk, Bool.false_eq_true, if_false, lane, vreg_setVreg_same, mergeLanes]
  exact fld_rowOfLanes hl hmerged

/-! ### Issue -/

/-- An instruction whose effect faults nothing leaves the state of its effect, issued. -/
theorem issueVector_ok {s u : State} {c : CoreId} {w : BitVec 64} {op : Nat} (h : VectorReady s c w) (hop : fld w 0 8 = op)
    (hx : vecRun s c (vdecode w) = (none, u)) : issueVector op c w .clean s = vectorDone u c (u.core c) := by
  obtain ⟨hissue, hfetch, hok, hheld, hbusy⟩ := h
  unfold issueVector
  rw [vectorWord_same hop]
  simp [hissue, hfetch, hok, hheld, hbusy, vecExec, hx, stepPc, vectorDone]

/-! ### Reductions and the rotation (R144, R150) -/

/-- The operation and the identity of a reduction in FP32 (FMT 0) or INT32, by its opcode. -/
def reduction (op fmt : Nat) (sat : Bool) : (Nat → Nat → Nat × Nat) × Nat :=
  if op = 0x50 then (if fmt = 0 then (add32 sat, 0x80000000) else (intOp 0x01 32, 0))
  else if fmt = 0 then (fpMax .fp32, 0xFF800000) else (intOp 0x07 32, 0x80000000)

section
variable {s t : State} {c : CoreId} {i : VIns} {a : List Nat}

theorem vecReduce_inactive (hsrc : source1 s c i = (.ok a, t)) (hnone : firstActive (activeLanes (t.core c) i) = none) :
    vecReduce s c i = (none, t) := by
  simp only [vecReduce, hsrc, hnone]

theorem vecReduce_active {l : Nat} (hsrc : source1 s c i = (.ok a, t)) (hfirst : firstActive (activeLanes (t.core c) i) = some l) :
    let active := activeLanes (t.core c) i
    let tree := reduceTree (reduction i.op i.fmt i.sat).1 (withIdentity active a (reduction i.op i.fmt i.sat).2)
    vecReduce s c i =
      (none, t.setCore c (raiseLane (putDest (t.core c) i (active.map fun y => if y then some tree.1 else none)) l tree.2)) := by
  simp only [vecReduce, hsrc, hfirst]
  rfl

theorem vecRot_eq (hsrc : source1 s c i = (.ok a, t)) (ha : a.length = 128) :
    vecRot s c i = (none, t.setCore c (putDest (t.core c) i ((List.range 128).map fun l =>
      if (activeLanes (t.core c) i).getD l false then some (a.getD ((l + i.src2) % 128) 0) else none))) := by
  have hrotate : a.drop (i.src2 % 128) ++ a.take (i.src2 % 128) = a.rotate i.src2 := by
    rw [← ha, List.rotate_eq_drop_append_take_mod]
  have hact := activeLanes_length (t.core c) i
  simp only [vecRot, hsrc, hrotate]
  congr 3
  refine List.ext_getElem (by simp [hact, ha]) fun l _ hl => ?_
  have hl : l < 128 := by simpa using hl
  simp [hact, ha, hl, List.getElem_rotate, Nat.mod_lt]

theorem vecRun_reduce (s : State) (c : CoreId) (h : i.op = 0x50 ∨ i.op = 0x51) : vecRun s c i = vecReduce s c i := by
  rcases h with h | h <;> simp [vecRun, h]

theorem vecRun_softmax (s : State) (c : CoreId) (h : i.op = 0x52) : vecRun s c i = vecSoftmax s c i := by simp [vecRun, h]

theorem vecRun_rot (s : State) (c : CoreId) (h : i.op = 0x53) : vecRun s c i = vecRot s c i := by simp [vecRun, h]

end

/-- Both reductions in both formats: what is written and raised with some lane active, and that nothing changes with none. -/
theorem issueVector_reduce {s t : State} {c : CoreId} {w : BitVec 64} {a : List Nat} {op ident : Nat} {f : Nat → Nat → Nat × Nat}
    (h : VectorReady s c w) (hsrc : source1 s c (vdecode w) = (.ok a, t)) (hreduces : op = 0x50 ∨ op = 0x51) (hop : fld w 0 8 = op)
    (hred : reduction op (vdecode w).fmt (vdecode w).sat = (f, ident)) :
    let active := activeLanes (t.core c) (vdecode w)
    let tree := reduceTree f (withIdentity active a ident)
    (∀ l, firstActive active = some l → issueVector op c w .clean s = vectorDone t c
      (raiseLane (putDest (t.core c) (vdecode w) (active.map fun y => if y then some tree.1 else none)) l tree.2)) ∧
    (firstActive active = none → issueVector op c w .clean s = vectorDone t c (t.core c)) := by
  have hdecode : (vdecode w).op = op := hop
  have hrun := vecRun_reduce s c (hdecode ▸ hreduces)
  constructor
  case left =>
    intro l hfirst
    refine issueVector_done h hop (hrun.trans ((vecReduce_active hsrc hfirst).trans ?_))
    rw [hdecode, hred]
  case right => exact fun hnone => issueVector_ok h hop (hrun.trans (vecReduce_inactive hsrc hnone))

/-! ### The softmax step (R151) -/

/-- The core after a softmax step of state register r: the weights written, then the maximum, the sum and the rescale factor,
and the flags of all of it in lane l0. -/
def softmaxCore (k : Core) (i : VIns) (r : Nat) (weights : List (Option Nat)) (top sum scale l0 fl : Nat) : Core :=
  raiseLane ((((putDest k i weights).setLane r 0 top).setLane r 1 sum).setLane r 2 scale) l0 fl

section
variable (k : Core) (i : VIns) (r : Nat) (weights : List (Option Nat)) (top sum scale l0 fl : Nat)

theorem softmaxCore_top : (softmaxCore k i r weights top sum scale l0 fl).lane r 0 = top % 2 ^ 32 := by
  rw [softmaxCore, Core.lane_raiseLane, Core.lane_setLane_ne _ _ (by omega), Core.lane_setLane_ne _ _ (by omega),
    Core.lane_setLane_same _ _ _ (by decide)]

theorem softmaxCore_sum : (softmaxCore k i r weights top sum scale l0 fl).lane r 1 = sum % 2 ^ 32 := by
  rw [softmaxCore, Core.lane_raiseLane, Core.lane_setLane_ne _ _ (by omega), Core.lane_setLane_same _ _ _ (by decide)]

theorem softmaxCore_scale : (softmaxCore k i r weights top sum scale l0 fl).lane r 2 = scale % 2 ^ 32 := by
  rw [softmaxCore, Core.lane_raiseLane, Core.lane_setLane_same _ _ _ (by decide)]

theorem softmaxCore_apart {r' l : Nat} (h : r' ≠ r) :
    (softmaxCore k i r weights top sum scale l0 fl).lane r' l = (putDest k i weights).lane r' l := by
  rw [softmaxCore, Core.lane_raiseLane, Core.lane_setLane_ne _ _ (h ·.1), Core.lane_setLane_ne _ _ (h ·.1),
    Core.lane_setLane_ne _ _ (h ·.1)]
end

section
variable {s t : State} {c : CoreId} {i : VIns} {x : List Nat}

theorem vecSoftmax_inactive (hsrc : source1 s c i = (.ok x, t)) (hnone : firstActive (activeLanes (t.core c) i) = none) :
    vecSoftmax s c i = (none, t.setCore c ((t.core c).setLane (i.src2 % 64) 2 fpOne)) := by
  simp only [vecSoftmax, hsrc, hnone]

/-- A weight of zero in every active lane. -/
def zeroWeights (k : Core) (i : VIns) : List (Option Nat) := (activeLanes k i).map fun y => if y then some 0 else none

theorem lane_putDest_zeroWeights {k : Core} {i : VIns} {l : Nat} (hdk : i.dk = false) (hl : l < 128)
    (hact : (activeLanes k i).getD l false = true) : (putDest k i (zeroWeights k i)).lane i.dreg l = 0 := by
  have hlen : l < (activeLanes k i).length := by simpa [activeLanes_length] using hl
  have hzero : (zeroWeights k i)[l]? = some (some 0) := by
    rw [List.getD_eq_getElem _ _ hlen] at hact
    simp [zeroWeights, hlen, hact]
  exact Core.lane_putDest hdk hl hzero

/-- The larger of the old maximum and the maximum of the active lanes. -/
def softmaxTop (k : Core) (i : VIns) (x : List Nat) : Nat :=
  (fpMax .fp32 (k.lane (i.src2 % 64) 0) (reduceTree (fpMax .fp32) (withIdentity (activeLanes k i) x 0xFF800000)).1).1

/-- A step with some lane active writes some weights, sum and scale beside the maximum; at a maximum of −∞ they are the zero weights,
the old sum and 1. -/
theorem vecSoftmax_active {l0 : Nat} (hsrc : source1 s c i = (.ok x, t)) (hfirst : firstActive (activeLanes (t.core c) i) = some l0) :
    let k := t.core c
    let r := i.src2 % 64
    ∃ weights sum scale fl,
      vecSoftmax s c i = (none, t.setCore c (softmaxCore k i r weights (softmaxTop k i x) sum scale l0 fl)) ∧
      (softmaxTop k i x = 0xFF800000 →
        weights = zeroWeights k i ∧ sum = k.lane r 1 ∧ scale = fpOne) := by
  intro k r
  simp only [vecSoftmax, hsrc, hfirst]
  by_cases hinf : softmaxTop k i x = 0xFF800000
  case pos => exact ⟨_, _, _, _, if_pos hinf, fun _ => ⟨rfl, rfl, rfl⟩⟩
  case neg => exact ⟨_, _, _, _, if_neg hinf, fun h => absurd h hinf⟩
end

/-- VSMX has no accumulator destination (R144, R145). -/
theorem dk_of_vecOk_softmax {i : VIns} (hok : vecOk i = true) (hop : i.op = 0x52) : i.dk = false := by
  have hspec : vspec i.op = some { fmts := some [0], k1 := some [0, 1, 2], k2 := some [0] } := by rw [hop]; rfl
  unfold vecOk at hok
  rw [hspec] at hok
  cases hdk : i.dk with
  | false => rfl
  | true => simp [hdk, hop] at hok

/-- Settles O30: the reductions and the rotation as the model computes them, and the lanes of the state and weight registers read back
from the core after a softmax step. -/
theorem acrossLanes : Obligations.AcrossLanes := by
  constructor
  case left =>
    intro s t c w a h i hsrc ha k active reduces
    have runs {x : Instr} {op ident : Nat} {f : Nat → Nat → Nat × Nat} (hx : exec x s = .next (issueVector op c w .clean s))
        (hreduces : op = 0x50 ∨ op = 0x51) (hop : fld w 0 8 = op) (hred : reduction op i.fmt i.sat = (f, ident)) :
        reduces x f ident := by
      obtain ⟨hactive, hnone⟩ := issueVector_reduce h hsrc hreduces hop hred
      exact ⟨fun l hl => hx.trans (congrArg _ (hactive l hl)), fun hn => hx.trans (congrArg _ (hnone hn))⟩
    refine ⟨fun hop => ⟨?sumFp, ?sumInt⟩, fun hop => ⟨?maxFp, ?maxInt⟩, ?rotate⟩
    case sumFp => exact fun hfmt => runs rfl (.inl rfl) hop (by rw [hfmt]; rfl)
    case sumInt => exact fun hfmt => runs rfl (.inl rfl) hop (by rw [hfmt]; rfl)
    case maxFp => exact fun hfmt => runs rfl (.inr rfl) hop (by rw [hfmt]; rfl)
    case maxInt => exact fun hfmt => runs rfl (.inr rfl) hop (by rw [hfmt]; rfl)
    case rotate => exact fun hop => congrArg _ (issueVector_done h hop ((vecRun_rot s c hop).trans (vecRot_eq hsrc ha)))
  case right =>
    intro s t c w x h hop i hsrc _ k r active m
    have hrun := vecRun_softmax s c (i := i) hop
    refine ⟨fun hnone => congrArg _ (issueVector_done h hop (hrun.trans (vecSoftmax_inactive hsrc hnone))), fun l0 hfirst => ?_⟩
    obtain ⟨weights, sum, scale, fl, hstep, hinf⟩ := vecSoftmax_active hsrc hfirst
    refine ⟨_, congrArg _ (issueVector_done h hop (hrun.trans hstep)), softmaxCore_top .., fun hm => ?_⟩
    obtain ⟨rfl, rfl, rfl⟩ := hinf hm
    refine ⟨?sum, softmaxCore_scale .., fun hr l hl hact => ?weight⟩
    case sum => exact (softmaxCore_sum ..).trans (Nat.mod_eq_of_lt (k.lane_lt r 1))
    case weight =>
      obtain ⟨_, _, hok, _, _⟩ := h
      exact (softmaxCore_apart _ _ _ _ _ _ _ _ _ hr).trans (lane_putDest_zeroWeights (dk_of_vecOk_softmax hok hop) hl hact)

end Sys2Proof.Machine
end

section
/-!
LEMMA. Bytes of words (R5): the number that bytes hold, bit by bit, and words written as bytes and read back.
-/
namespace Sys2Proof.Machine

/-! ### Bytes of words (R5) -/

theorem byte_testBit_ge (b : Byte) {i : Nat} (h : 8 ≤ i) : b.toNat.testBit i = false := testBit_toNat_ge b h

theorem testBit_byte (x i : Nat) : (BitVec.ofNat 8 x).toNat.testBit i = (decide (i < 8) && x.testBit i) := by
  rw [BitVec.toNat_ofNat, Nat.testBit_mod_two_pow]

theorem testBit_foldl_bytes (bs : List Byte) (k acc i : Nat) :
    ((bs.zipIdx k).foldl (fun a b => a ||| (b.1.toNat <<< (8 * b.2))) acc).testBit i =
      (acc.testBit i || (decide (k ≤ i / 8) && (bs.getD (i / 8 - k) 0).toNat.testBit (i % 8))) := by
  induction bs generalizing k acc with
  | nil => simp
  | cons b t ih =>
    rw [List.zipIdx_cons, List.foldl_cons, ih, Nat.testBit_or, Nat.testBit_shiftLeft]
    rcases Nat.lt_trichotomy (i / 8) k with hlt | heq | hgt
    · simp [show ¬ k ≤ i / 8 by omega, show ¬ k + 1 ≤ i / 8 by omega, show ¬ 8 * k ≤ i by omega]
    · simp [show k ≤ i / 8 by omega, show ¬ k + 1 ≤ i / 8 by omega, show 8 * k ≤ i by omega, show i / 8 - k = 0 by omega,
        show i - 8 * k = i % 8 by omega]
    · simp [show k ≤ i / 8 by omega, show k + 1 ≤ i / 8 by omega, byte_testBit_ge b (show 8 ≤ i - 8 * k by omega),
        show i / 8 - k = i / 8 - (k + 1) + 1 by omega]

/-- Bit i of the number that bytes hold is a bit of byte i / 8. -/
theorem testBit_ofBytes (bs : List Byte) (i : Nat) : (ofBytes bs).testBit i = (bs.getD (i / 8) 0).toNat.testBit (i % 8) := by
  simp [ofBytes, testBit_foldl_bytes]

@[simp] theorem toBytes_length {n : Nat} (v : BitVec n) (count : Nat) : (toBytes v count).length = count := by simp [toBytes]

theorem toBytes_getD {n : Nat} (v : BitVec n) (count i : Nat) :
    (toBytes v count).getD i 0 = if i < count then BitVec.ofNat 8 (v.toNat >>> (8 * i)) else 0 := by
  by_cases h : i < count
  · simp [toBytes, h]
  · simp [toBytes, h]

/-- A word that its bytes hold whole, zeros behind it, is the number that they hold. -/
theorem ofBytes_toBytes_append {n : Nat} (v : BitVec n) {count : Nat} (h : n ≤ 8 * count) (z : Nat) :
    ofBytes (toBytes v count ++ List.replicate z 0) = v.toNat := by
  apply Nat.eq_of_testBit_eq
  intro i
  rw [testBit_ofBytes]
  by_cases hi : i / 8 < count
  · rw [List.getD_append _ _ _ _ (by simpa using hi), toBytes_getD, if_pos hi, testBit_byte]
    simp [show i % 8 < 8 by omega, show 8 * (i / 8) + i % 8 = i by omega]
  · rw [List.getD_append_right _ _ _ _ (by simpa using hi), testBit_toNat_ge v (by omega)]
    simp

theorem ofBytes_toBytes {n : Nat} (v : BitVec n) {count : Nat} (h : n ≤ 8 * count) : ofBytes (toBytes v count) = v.toNat := by
  simpa using ofBytes_toBytes_append v h 0

theorem ofNat_ofBytes_toBytes {n : Nat} (v : BitVec n) {count : Nat} (h : n ≤ 8 * count) :
    BitVec.ofNat n (ofBytes (toBytes v count)) = v := by
  rw [ofBytes_toBytes v h, BitVec.ofNat_toNat, BitVec.setWidth_eq]

/-- Bytes that fit a word are its bytes, zeros behind them. -/
theorem toBytes_ofBytes {n : Nat} (bs : List Byte) {count : Nat} (hn : 8 * count ≤ n) (hl : bs.length ≤ count) :
    toBytes (BitVec.ofNat n (ofBytes bs)) count = bs ++ List.replicate (count - bs.length) 0 := by
  apply List.ext_getElem
  · simp; omega
  · intro i hi _
    rw [toBytes_length] at hi
    have hbyte : (toBytes (BitVec.ofNat n (ofBytes bs)) count)[i]'(by simpa using hi) = bs.getD i 0 := by
      rw [← List.getD_eq_getElem _ 0, toBytes_getD, if_pos hi]
      apply BitVec.eq_of_toNat_eq
      apply Nat.eq_of_testBit_eq
      intro j
      rw [testBit_byte, Nat.testBit_shiftRight, BitVec.toNat_ofNat, Nat.testBit_mod_two_pow, testBit_ofBytes]
      by_cases hj : j < 8
      · simp [hj, show 8 * i + j < n by omega, show (8 * i + j) / 8 = i by omega, Nat.mod_eq_of_lt hj]
      · simp [hj, byte_testBit_ge _ (Nat.le_of_not_lt hj)]
    rw [hbyte, List.getElem_append]
    by_cases hlt : i < bs.length
    · simp [hlt]
    · simp [hlt]

end Sys2Proof.Machine
end

section
/-!
LEMMA. Packets and their flits (R285, R291 to R293): a flit's marks and payload, the chunks of a packet's bytes put together again, the
packet that its bytes hold, and the obligation O25 from them.
-/
namespace Sys2Proof.Machine

/-! ### One flit (R285) -/

theorem testBit_flitBits (kind tc : Nat) (resp sop eop : Bool) (stream : Nat) (payload : List Byte) {i : Nat} (h : i < 96) :
    (flitBits kind tc resp sop eop stream payload).toNat.testBit i =
      (word 96 [(0, 2, kind), (2, 2, tc), (4, 1, b2n resp), (5, 1, b2n sop), (6, 1, b2n eop), (48, 16, stream)]).toNat.testBit i := by
  unfold flitBits
  rw [BitVec.toNat_ofNat, Nat.testBit_mod_two_pow, Nat.testBit_or, Nat.testBit_shiftLeft]
  simp [show i < 2048 by omega, show ¬ 96 ≤ i by omega]

theorem b2n_mod_two (b : Bool) : decide (b2n b % 2 = 1) = b := by cases b <;> rfl

theorem flitBits_sop (kind tc : Nat) (resp sop eop : Bool) (stream : Nat) (payload : List Byte) :
    bit (flitBits kind tc resp sop eop stream payload) 5 = sop := by
  rw [bit, testBit_flitBits _ _ _ _ _ _ _ (by omega), testBit_word]
  simp [b2n_mod_two]

theorem flitBits_eop (kind tc : Nat) (resp sop eop : Bool) (stream : Nat) (payload : List Byte) :
    bit (flitBits kind tc resp sop eop stream payload) 6 = eop := by
  rw [bit, testBit_flitBits _ _ _ _ _ _ _ (by omega), testBit_word]
  simp [b2n_mod_two]

/-- A flit carries its payload, filled with zeros to 240 bytes. -/
theorem flitPayload_flitBits (kind tc : Nat) (resp sop eop : Bool) (stream : Nat) (payload : List Byte) (h : payload.length ≤ 240) :
    flitPayload (flitBits kind tc resp sop eop stream payload) = payload ++ List.replicate (240 - payload.length) 0 := by
  rw [← toBytes_ofBytes (n := 1920) payload (by omega) h, flitPayload, flitBits, List.take_of_length_le h]
  congr 1
  apply BitVec.eq_of_toNat_eq
  apply Nat.eq_of_testBit_eq
  intro i
  rw [BitVec.toNat_ofNat, BitVec.toNat_ofNat, BitVec.toNat_ofNat, Nat.testBit_mod_two_pow, Nat.testBit_mod_two_pow,
    Nat.testBit_shiftRight, Nat.testBit_mod_two_pow, Nat.testBit_or, Nat.testBit_shiftLeft, testBit_toNat_ge _ (show 96 ≤ 96 + i by omega)]
  by_cases hi : i < 1920
  · simp [hi, show 96 + i < 2048 by omega]
  · simp [hi]

/-! ### The flits of a packet (R291) -/

/-- The flit of piece `i` of `n` of a packet's bytes. -/
def pieceFlit (p : Packet) (via : Option LinkId) (n : Nat) (piece : List Byte × Nat) : Flit :=
  let lane := packetLane p
  { lane := lane, via := via,
    bits := flitBits 1 (if lane = 4 then 2 else lane) (lane == 4) (piece.2 == 0) (piece.2 + 1 == n) 0 piece.1 }

theorem packetFlits_eq (p : Packet) (via : Option LinkId) (w : Option Nat) :
    let cs := chunks 240 ((packetBytes p).length / 240 + 1) (packetBytes p)
    packetFlits p via w = updLast (fun f => { f with retire := w }) (cs.zipIdx.map (pieceFlit p via cs.length)) := rfl

section
variable (p : Packet) (via : Option LinkId) (n i : Nat) (c : List Byte)

theorem pieceFlit_sop : bit (pieceFlit p via n (c, i)).bits 5 = (i == 0) := flitBits_sop ..

theorem pieceFlit_eop : bit (pieceFlit p via n (c, i)).bits 6 = (i + 1 == n) := flitBits_eop ..

theorem flitPayload_pieceFlit (h : c.length ≤ 240) :
    flitPayload (pieceFlit p via n (c, i)).bits = c ++ List.replicate (240 - c.length) 0 := flitPayload_flitBits _ _ _ _ _ _ _ h
end

/-- A piece that is neither first nor last adds its payload to the bytes held. -/
theorem queuedPackets_piece {f : Flit} (t : List Flit) (acc : List Byte) (hopen : bit f.bits 5 = false) (hend : bit f.bits 6 = false) :
    queuedPackets (f :: t) acc true = queuedPackets t (acc ++ flitPayload f.bits) true := by
  simp [queuedPackets, hopen, hend]

/-- The last piece of an open packet completes it. -/
theorem queuedPackets_last {f : Flit} (acc : List Byte) (hopen : bit f.bits 5 = false) (hend : bit f.bits 6 = true) :
    queuedPackets [f] acc true = [(f.via, parsePacket (acc ++ flitPayload f.bits), f.retire)] := by
  simp [queuedPackets, hopen, hend]

/-- A first piece opens a packet, whatever was held. -/
theorem queuedPackets_first {f : Flit} (t : List Flit) (hopen : bit f.bits 5 = true) (hend : bit f.bits 6 = false) :
    queuedPackets (f :: t) [] false = queuedPackets t (flitPayload f.bits) true := by
  simp [queuedPackets, hopen, hend]

/-- One piece that is first and last is a packet. -/
theorem queuedPackets_only {f : Flit} (hopen : bit f.bits 5 = true) (hend : bit f.bits 6 = true) :
    queuedPackets [f] [] false = [(f.via, parsePacket (flitPayload f.bits), f.retire)] := by
  simp [queuedPackets, hopen, hend]

theorem chunks_length_le {n : Nat} (fuel : Nat) (l : List Byte) : ∀ c ∈ chunks n fuel l, c.length ≤ n := by
  induction fuel generalizing l with
  | zero => simp [chunks]
  | succ f ih =>
    cases l with
    | nil => simp [chunks]
    | cons b t =>
      intro c hc
      rcases List.mem_cons.1 hc with rfl | hc
      · exact List.length_take_le ..
      · exact ih _ c hc

/-- Payloads of pieces that fill their flits but the last, put together, are the bytes with zeros behind. -/
theorem chunks_flatten (fuel : Nat) (l : List Byte) (h : l.length ≤ 240 * fuel) :
    ∃ z, ((chunks 240 fuel l).flatMap fun c => c ++ List.replicate (240 - c.length) (0 : Byte)) = l ++ List.replicate z 0 := by
  induction fuel generalizing l with
  | zero => exact ⟨0, by simp [chunks, List.length_eq_zero_iff.1 (Nat.le_zero.1 h)]⟩
  | succ f ih =>
    cases l with
    | nil => exact ⟨0, rfl⟩
    | cons b t =>
      obtain ⟨z, hz⟩ := ih ((b :: t).drop 240) (by rw [List.length_drop]; omega)
      simp only [chunks, List.flatMap_cons, hz]
      by_cases hlong : 240 ≤ (b :: t).length
      · refine ⟨z, ?_⟩
        rw [List.length_take, Nat.min_eq_left hlong, Nat.sub_self, List.replicate_zero, List.append_nil, ← List.append_assoc,
          List.take_append_drop]
      · refine ⟨240 - (b :: t).length + z, ?_⟩
        have hle : (b :: t).length ≤ 240 := by omega
        rw [List.take_of_length_le hle, List.drop_of_length_le hle, List.nil_append, List.append_assoc, List.replicate_append_replicate]

section
variable (p : Packet) (via : Option LinkId) (w : Option Nat)

/-- Pieces after the first, whose last one is marked, complete the packet that the bytes held began. -/
theorem queuedPackets_pieces (n : Nat) (cs : List (List Byte)) (acc : List Byte) (i : Nat) (hi : i ≠ 0) (hn : i + cs.length = n)
    (hcs : cs ≠ []) (hlen : ∀ c ∈ cs, c.length ≤ 240) :
    queuedPackets (updLast (fun f => { f with retire := w }) ((cs.zipIdx i).map (pieceFlit p via n))) acc true =
      [(via, parsePacket (acc ++ cs.flatMap fun c => c ++ List.replicate (240 - c.length) 0), w)] := by
  induction cs generalizing acc i with
  | nil => exact absurd rfl hcs
  | cons c t ih =>
    have hpayload := flitPayload_pieceFlit p via n i c (hlen c (by simp))
    have hfirst : (i == 0) = false := by simpa using hi
    cases t with
    | nil =>
      have hlast : (i + 1 == n) = true := by simpa using hn
      simp only [List.zipIdx_cons, List.zipIdx_nil, List.map_cons, List.map_nil, updLast]
      refine (queuedPackets_last (f := { pieceFlit p via n (c, i) with retire := w }) acc ((pieceFlit_sop p via n i c).trans hfirst) ((pieceFlit_eop p via n i c).trans hlast)).trans ?_
      simp only [hpayload, List.flatMap_cons, List.flatMap_nil, List.append_nil]
      rfl
    | cons d t =>
      have hmid : (i + 1 == n) = false := by simp at hn ⊢; omega
      simp only [List.zipIdx_cons, List.map_cons, updLast]
      rw [queuedPackets_piece _ _ ((pieceFlit_sop ..).trans hfirst) ((pieceFlit_eop ..).trans hmid)]
      have := ih (acc ++ flitPayload (pieceFlit p via n (c, i)).bits) (i + 1) (by omega) (by simp at hn ⊢; omega) (by simp)
        fun x hx => hlen x (List.mem_cons_of_mem _ hx)
      simp only [List.zipIdx_cons, List.map_cons] at this
      rw [this, hpayload]
      simp

/-- A packet's flits hold its bytes, zeros behind them. -/
theorem queuedPackets_packetFlits (h : packetBytes p ≠ []) :
    ∃ z, queuedPackets (packetFlits p via w) [] false = [(via, parsePacket (packetBytes p ++ List.replicate z 0), w)] := by
  obtain ⟨z, hz⟩ := chunks_flatten ((packetBytes p).length / 240 + 1) (packetBytes p) (by omega)
  refine ⟨z, ?_⟩
  have hlen := chunks_length_le (n := 240) ((packetBytes p).length / 240 + 1) (packetBytes p)
  have hcs : chunks 240 ((packetBytes p).length / 240 + 1) (packetBytes p) ≠ [] := by
    cases hb : packetBytes p with
    | nil => exact absurd hb h
    | cons b t => simp [chunks]
  rw [packetFlits_eq, ← hz]
  generalize chunks 240 ((packetBytes p).length / 240 + 1) (packetBytes p) = cs at hlen hcs
  cases cs with
  | nil => exact absurd rfl hcs
  | cons c t =>
    have hpayload := fun n => flitPayload_pieceFlit p via n 0 c (hlen c (by simp))
    cases t with
    | nil =>
      simp only [List.zipIdx_cons, List.zipIdx_nil, List.map_cons, List.map_nil, updLast]
      refine (queuedPackets_only (f := { pieceFlit p via 1 (c, 0) with retire := w }) (pieceFlit_sop p via 1 0 c) (pieceFlit_eop p via 1 0 c)).trans ?_
      simp only [hpayload, List.flatMap_cons, List.flatMap_nil, List.append_nil]
      rfl
    | cons d t =>
      have hmid : (0 + 1 == (c :: d :: t).length) = false := by simp
      simp only [List.zipIdx_cons, List.map_cons, updLast]
      rw [queuedPackets_first _ (pieceFlit_sop ..) ((pieceFlit_eop ..).trans hmid)]
      have := queuedPackets_pieces p via w (c :: d :: t).length (d :: t) (flitPayload (pieceFlit p via (c :: d :: t).length (c, 0)).bits) 1
        (by omega) (by simp; omega) (by simp) fun x hx => hlen x (List.mem_cons_of_mem _ hx)
      simp only [List.zipIdx_cons, List.map_cons] at this
      rw [this, hpayload]
      simp
end

/-! ### The packet that its bytes hold (R292, R293) -/

theorem ofNat_fld {n m : Nat} {v : BitVec n} {lo : Nat} {x : BitVec m} (h : fld v lo m = x.toNat % 2 ^ m) : BitVec.ofNat m (fld v lo m) = x := by
  rw [h, Nat.mod_eq_of_lt x.isLt, BitVec.ofNat_toNat, BitVec.setWidth_eq]

/-- Words of one size written one after the other and read back, whatever follows them. -/
theorem words_read_back {n : Nat} (size : Nat) (h : n ≤ 8 * size) (xs : List (BitVec n)) (rest : List Byte) :
    ((List.range xs.length).map fun i =>
      BitVec.ofNat n (ofBytes ((((xs.flatMap fun x => toBytes x size) ++ rest).drop (size * i)).take size))) = xs := by
  induction xs with
  | nil => rfl
  | cons x t ih =>
    have hhead : (((x :: t).flatMap fun x => toBytes x size) ++ rest) =
        toBytes x size ++ ((t.flatMap fun x => toBytes x size) ++ rest) := by simp
    rw [List.length_cons, List.range_succ_eq_map, List.map_cons, List.map_map, hhead]
    congr 1
    · rw [Nat.mul_zero, List.drop_zero, List.take_left' (toBytes_length x size), ofNat_ofBytes_toBytes x h]
    · have hstep : ∀ i, (toBytes x size ++ ((t.flatMap fun x => toBytes x size) ++ rest)).drop (size * (i + 1)) =
          ((t.flatMap fun x => toBytes x size) ++ rest).drop (size * i) := by
        intro i
        rw [Nat.mul_succ, Nat.add_comm, ← List.drop_drop, List.drop_left' (toBytes_length x size)]
      simpa [Function.comp_def, hstep] using ih

section
variable (p : Packet)

/-- What follows the header and the first extension. -/
def packetRest : List Byte :=
  (if p.ptype = ptAccumulate ∨ p.ptype = ptExchange then toBytes p.ext2 16 else []) ++
    (p.rows.flatMap (fun r => toBytes r 512) ++ (p.blocks.flatMap (fun b => toBytes b 388) ++
    (if p.ptype = ptNotice then toBytes p.note 64 else [])))

theorem packetBytes_eq : packetBytes p = toBytes (packetHeader p) 16 ++ (toBytes p.ext1 16 ++ packetRest p) := by
  simp only [packetBytes, packetRest, List.append_assoc]

theorem packetBytes_ne_nil : packetBytes p ≠ [] := by
  intro h
  have := congrArg List.length h
  rw [packetBytes_eq, List.length_append, toBytes_length] at this
  simp at this

variable (z : List Byte)

theorem quad_header : quad (packetBytes p ++ z) 0 = packetHeader p := by
  rw [packetBytes_eq, quad, Nat.mul_zero, List.drop_zero, List.append_assoc, List.take_left' (toBytes_length _ 16)]
  exact ofNat_ofBytes_toBytes _ (by omega)

theorem drop_header : (packetBytes p ++ z).drop 16 = toBytes p.ext1 16 ++ (packetRest p ++ z) := by
  rw [packetBytes_eq, List.append_assoc, List.drop_left' (toBytes_length _ 16), List.append_assoc]

theorem quad_ext1 : quad (packetBytes p ++ z) 1 = p.ext1 := by
  rw [quad, Nat.mul_one, drop_header, List.take_left' (toBytes_length _ 16)]
  exact ofNat_ofBytes_toBytes _ (by omega)

theorem drop_ext1 : (packetBytes p ++ z).drop 32 = packetRest p ++ z := by
  rw [show 32 = 16 + 16 from rfl, ← List.drop_drop, drop_header, List.drop_left' (toBytes_length _ 16)]

theorem quad_ext2 (h : p.ptype = ptAccumulate ∨ p.ptype = ptExchange) : quad (packetBytes p ++ z) 2 = p.ext2 := by
  rw [quad, show 16 * 2 = 32 from rfl, drop_ext1, packetRest, if_pos h, List.append_assoc, List.take_left' (toBytes_length _ 16)]
  exact ofNat_ofBytes_toBytes _ (by omega)

/-- The payload's bytes, at the place where a packet of its type has them. -/
theorem packet_body : (packetBytes p ++ z).drop (if p.ptype = ptAccumulate ∨ p.ptype = ptExchange then 48 else 32) =
    p.rows.flatMap (fun r => toBytes r 512) ++ (p.blocks.flatMap (fun b => toBytes b 388) ++
      ((if p.ptype = ptNotice then toBytes p.note 64 else []) ++ z)) := by
  by_cases h : p.ptype = ptAccumulate ∨ p.ptype = ptExchange
  · rw [if_pos h, show 48 = 32 + 16 from rfl, ← List.drop_drop, drop_ext1, packetRest, if_pos h, List.append_assoc,
      List.drop_left' (toBytes_length _ 16)]
    simp only [List.append_assoc]
  · rw [if_neg h, drop_ext1, packetRest, if_neg h]
    simp only [List.append_assoc, List.nil_append]

/-- Each field of the header is its field of the packet. -/
theorem packetHeader_fields :
    fld (packetHeader p) 0 4 = p.ptype.toNat % 2 ^ 4 ∧ fld (packetHeader p) 4 4 = p.status.toNat % 2 ^ 4 ∧
    fld (packetHeader p) 8 20 = p.dst.toNat % 2 ^ 20 ∧ fld (packetHeader p) 28 20 = p.src.toNat % 2 ^ 20 ∧
    fld (packetHeader p) 48 12 = p.window.toNat % 2 ^ 12 ∧ fld (packetHeader p) 60 4 = p.nrows.toNat % 2 ^ 4 ∧
    fld (packetHeader p) 64 16 = p.wgen.toNat % 2 ^ 16 ∧ fld (packetHeader p) 80 24 = p.tag.toNat % 2 ^ 24 :=
  ⟨fld_word 128 _ 0 rfl rfl (by omega), fld_word 128 _ 1 rfl rfl (by omega), fld_word 128 _ 2 rfl rfl (by omega),
    fld_word 128 _ 3 rfl rfl (by omega), fld_word 128 _ 4 rfl rfl (by omega), fld_word 128 _ 5 rfl rfl (by omega),
    fld_word 128 _ 6 rfl rfl (by omega), fld_word 128 _ 7 rfl rfl (by omega)⟩

/-- The bytes of a packet whose parts are those of its type hold that packet, whatever follows them. -/
theorem parsePacket_packetBytes (h : PacketEncodable p) : parsePacket (packetBytes p ++ z) = p := by
  obtain ⟨hext2, hblocks, hrows, hnote⟩ := h
  obtain ⟨htype, hstatus, hdst, hsrc, hwindow, hnrows, hwgen, htag⟩ := packetHeader_fields p
  have hn : fld (packetHeader p) 60 4 = p.nrows.toNat := hnrows.trans (Nat.mod_eq_of_lt p.nrows.isLt)
  have hwide : (p.ptype == ptAccumulate || p.ptype == ptExchange) = decide (p.ptype = ptAccumulate ∨ p.ptype = ptExchange) := by
    rw [Bool.eq_iff_iff]
    simp
  have hrowed : (p.ptype == ptWrite || p.ptype == ptExchange || p.ptype == ptResp) =
      decide (p.ptype = ptWrite ∨ p.ptype = ptExchange ∨ p.ptype = ptResp) := by
    rw [Bool.eq_iff_iff]
    simp [or_assoc]
  unfold parsePacket
  simp only [quad_header, quad_ext1, ofNat_fld htype, ofNat_fld hstatus, ofNat_fld hdst, ofNat_fld hsrc, ofNat_fld hwindow, ofNat_fld hwgen,
    ofNat_fld htag, hn, BitVec.ofNat_toNat, BitVec.setWidth_eq, hwide, hrowed, decide_eq_true_eq, packet_body]
  have e2 : (if p.ptype = ptAccumulate ∨ p.ptype = ptExchange then quad (packetBytes p ++ z) 2 else 0) = p.ext2 := by
    split
    case isTrue hw => exact quad_ext2 p z hw
    case isFalse hw => exact (hext2 (fun h => hw (.inl h)) (fun h => hw (.inr h))).symm
  have er : (if p.ptype = ptWrite ∨ p.ptype = ptExchange ∨ p.ptype = ptResp then (List.range p.nrows.toNat).map fun i =>
      BitVec.ofNat 4096 (ofBytes (((p.rows.flatMap (fun r => toBytes r 512) ++ (p.blocks.flatMap (fun b => toBytes b 388) ++
        ((if p.ptype = ptNotice then toBytes p.note 64 else []) ++ z))).drop (512 * i)).take 512)) else []) = p.rows := by
    split
    case isTrue hr =>
      rw [if_pos hr] at hrows
      rw [← hrows]
      exact words_read_back 512 (by omega) _ _
    case isFalse hr => rw [if_neg hr] at hrows; exact hrows.symm
  have eb : (if p.ptype = ptAccumulate then (List.range p.nrows.toNat).map fun i =>
      BitVec.ofNat 3104 (ofBytes (((p.rows.flatMap (fun r => toBytes r 512) ++ (p.blocks.flatMap (fun b => toBytes b 388) ++
        ((if p.ptype = ptNotice then toBytes p.note 64 else []) ++ z))).drop (388 * i)).take 388)) else []) = p.blocks := by
    split
    case isTrue ha =>
      rw [if_pos ha] at hblocks
      rw [if_neg (by rw [ha]; decide)] at hrows
      rw [← hblocks, hrows]
      exact words_read_back 388 (by omega) _ _
    case isFalse ha => rw [if_neg ha] at hblocks; exact hblocks.symm
  have en : (if p.ptype = ptNotice then BitVec.ofNat 512 (ofBytes ((p.rows.flatMap (fun r => toBytes r 512) ++
      (p.blocks.flatMap (fun b => toBytes b 388) ++ ((if p.ptype = ptNotice then toBytes p.note 64 else []) ++ z))).take 64)) else 0) =
      p.note := by
    split
    case isTrue ht =>
      rw [if_neg (by rw [ht]; decide)] at hrows hblocks
      rw [hrows, hblocks, List.flatMap_nil, List.flatMap_nil, List.nil_append, List.nil_append, List.take_left' (toBytes_length _ 64)]
      exact ofNat_ofBytes_toBytes _ (by omega)
    case isFalse ht => exact (hnote ht).symm
  rw [e2, er, eb, en]
end

/-- Settles O25: the flits of a packet hold its bytes with zeros behind, and the bytes hold the packet. -/
theorem packetFlitsRoundTrip : Obligations.PacketFlitsRoundTrip := by
  intro p via w h
  obtain ⟨z, hz⟩ := queuedPackets_packetFlits p via w (packetBytes_ne_nil p)
  rw [hz, parsePacket_packetBytes p _ h]

end Sys2Proof.Machine
end

section
/-!
LEMMA. Every function of the model that a step goes through keeps the memory of the state in its one form: one lemma for each, named
after it, in the order in which the model defines them. A function whose argument is an action asks it of the action.
-/
namespace Sys2Proof.Machine

/-- The memory of a state stands in its one form. -/
def State.MemWf (s : State) : Prop := Mem.wf s.ms.mem = true

theorem memWf_foldl {α : Type} {f : State → α → State} {l : List α} {s : State} (h : s.MemWf)
    (hf : ∀ s a, s.MemWf → (f s a).MemWf) : (l.foldl f s).MemWf := by
  induction l generalizing s with
  | nil => exact h
  | cons a l ih => exact ih (hf s a h)

theorem memWf_foldl_snd {α β : Type} {f : β × State → α → β × State} {l : List α} {x : β × State}
    (h : x.2.MemWf) (hf : ∀ x a, x.2.MemWf → (f x a).2.MemWf) : (l.foldl f x).2.MemWf := by
  induction l generalizing x with
  | nil => exact h
  | cons a l ih => exact ih (hf x a h)

theorem memWf_State_hosted {s : State} {f} (h : s.MemWf) (hf : (f s).MemWf) : (State.hosted s f).MemWf := by
  grind [State.hosted]

theorem memWf_State_setRing {s : State} {c} {x} (h : s.MemWf) : (State.setRing s c x).MemWf := by
  grind [State.MemWf, State.setRing]

theorem memWf_doorbell {s : State} {v} (h : s.MemWf) : (doorbell s v).MemWf := by
  grind [doorbell, memWf_State_setRing]

theorem memWf_State_setHost {s : State} {x2} (h : s.MemWf) : (State.setHost s x2).MemWf := by
  grind [State.MemWf, State.setHost]

theorem memWf_cqDoorbell {s : State} {v} (h : s.MemWf) : (cqDoorbell s v).MemWf := by
  grind [cqDoorbell, memWf_State_setHost]

theorem memWf_sqCtrl {s : State} {c} {size} {en} (h : s.MemWf) : (sqCtrl s c size en).MemWf := by
  grind [sqCtrl, memWf_State_setRing]

theorem memWf_cqCtrl {s : State} {size} {en} (h : s.MemWf) : (cqCtrl s size en).MemWf := by
  grind [cqCtrl, memWf_State_setHost]

theorem memWf_cqDisabled {s : State} (h : s.MemWf) : (cqDisabled s).MemWf := by
  grind [cqDisabled, memWf_State_setHost]

theorem memWf_irqClear {s : State} {v} (h : s.MemWf) : (irqClear s v).MemWf := by
  grind [irqClear, memWf_State_setHost]

theorem memWf_holdHalf {s : State} {off} {v} (h : s.MemWf) : (holdHalf s off v).MemWf := by
  grind [holdHalf, memWf_State_setHost]

theorem memWf_msixWrite {s : State} {i} {v} (h : s.MemWf) : (msixWrite s i v).MemWf := by
  grind [State.MemWf, msixWrite, memWf_State_setHost]

theorem memWf_write32 {s : State} {off} {v} (h : s.MemWf) : (write32 s off v).MemWf := by
  unfold write32
  split
  · split
    · exact h
    · exact memWf_holdHalf h
  split
  · split
    · exact h
    · exact memWf_State_setHost h
  split
  · exact memWf_cqCtrl h
  split
  · exact memWf_State_setHost h
  split
  · exact memWf_irqClear h
  split
  · dsimp only
    split
    · exact memWf_holdHalf h
    · exact memWf_State_setRing h
    · exact memWf_sqCtrl h
    · exact h
  split
  · exact memWf_doorbell h
  split
  · exact memWf_cqDoorbell h
  split
  · exact memWf_msixWrite h
  · exact h

theorem memWf_writeReg {s : State} {off} {bytes} {v} (h : s.MemWf) : (writeReg s off bytes v).MemWf := by
  grind [writeReg, memWf_write32]

theorem memWf_State_setBank {s : State} {b} {x} (h : s.MemWf) : (State.setBank s b x).MemWf := by
  grind [State.MemWf, State.setBank]

theorem memWf_State_answer {s : State} {o} (h : s.MemWf) : (State.answer s o).MemWf := by
  grind [State.MemWf, State.answer]

theorem memWf_pulseAlert {s : State} (h : s.MemWf) : (pulseAlert s).MemWf := by
  grind [State.MemWf, pulseAlert]

theorem memWf_bbFreeze {s : State} (h : s.MemWf) : (bbFreeze s).MemWf := by
  grind [State.MemWf, bbFreeze, memWf_pulseAlert]

theorem memWf_bbAppend {s : State} {kind} {ctx} {payload} (h : s.MemWf) : (bbAppend s kind ctx payload).MemWf := by
  grind [State.MemWf, bbAppend]

theorem memWf_State_setCtx {s : State} {c} {x} (h : s.MemWf) : (State.setCtx s c x).MemWf := by
  grind [State.MemWf, State.setCtx]

theorem memWf_State_updCmd {s : State} {r} {f} (h : s.MemWf) : (State.updCmd s r f).MemWf := by
  grind [State.MemWf, State.updCmd]

theorem memWf_State_finish {s : State} {r} {x} (h : s.MemWf) : (State.finish s r x).MemWf := by
  grind [State.finish, memWf_State_updCmd]

theorem memWf_abandonReqs {s : State} {p} (h : s.MemWf) : (abandonReqs s p).MemWf := by
  grind [State.MemWf, abandonReqs]

theorem memWf_abandonRun {s : State} {c} (h : s.MemWf) : (abandonRun s c).MemWf := by
  grind [abandonRun, memWf_abandonReqs]

theorem memWf_faultRun {s : State} {c} {f} {t : State} (h : s.MemWf) (e : faultRun s c f = some t) : t.MemWf := by
  grind [faultRun, memWf_State_setCtx, memWf_State_finish, memWf_abandonRun, memWf_State_updCmd]

theorem memWf_raiseFault {s : State} {ctx} {status} {i} {detail} (h : s.MemWf) : (raiseFault s ctx status i detail).MemWf := by
  unfold raiseFault
  grind [memWf_State_setCtx, memWf_bbAppend, memWf_bbFreeze, memWf_faultRun, State.MemWf, memWf_foldl]

theorem memWf_faultIssuer {s : State} {c} {st} {a} {aux} (h : s.MemWf) : (faultIssuer s c st a aux).MemWf := by
  unfold faultIssuer
  grind [memWf_raiseFault, State.MemWf, memWf_foldl]

theorem memWf_lateWake {s : State} {b} {q} (h : s.MemWf) : (lateWake s b q).MemWf := by
  grind [lateWake, memWf_State_setBank]

theorem memWf_transitCount {s : State} {t} (h : s.MemWf) : (transitCount s t).MemWf := by
  grind [State.MemWf, transitCount]

theorem memWf_countRowError {s : State} {p} (h : s.MemWf) : (countRowError s p).MemWf := by
  grind [State.MemWf, countRowError]

theorem memWf_State_setCore {s : State} {c} {x} (h : s.MemWf) : (State.setCore s c x).MemWf := by
  grind [State.MemWf, State.setCore]

theorem memWf_State_setChan {s : State} {c} {x} (h : s.MemWf) : (State.setChan s c x).MemWf := by
  grind [State.MemWf, State.setChan]

theorem memWf_poisonChannel {s : State} {c} (h : s.MemWf) : (poisonChannel s c).MemWf := by
  grind [poisonChannel, memWf_bbAppend, memWf_State_setChan]

theorem memWf_State_putPoison {s : State} {a} {m} (h : s.MemWf) : (State.putPoison s a m).MemWf := by
  grind [State.MemWf, State.putPoison, memWf_poisonChannel]

theorem memWf_addPoison {s : State} {a} {m} (h : s.MemWf) : (addPoison s a m).MemWf := by
  grind [addPoison, memWf_State_putPoison]

theorem memWf_placeFinding {s : State} {p} {f} (h : s.MemWf) : (placeFinding s p f).MemWf := by
  unfold placeFinding
  grind [memWf_State_setBank, memWf_State_setCore, memWf_addPoison, memWf_countRowError, State.MemWf, memWf_foldl]

theorem memWf_channelFinding {s : State} {c} {a} {f} (h : s.MemWf) : (channelFinding s c a f).MemWf := by
  unfold channelFinding
  grind [memWf_State_setChan, memWf_addPoison, State.MemWf, memWf_foldl]

theorem memWf_rowFinding {s : State} {a} {f} (h : s.MemWf) : (rowFinding s a f).MemWf := by
  unfold rowFinding
  grind [memWf_addPoison, memWf_channelFinding, memWf_placeFinding, State.MemWf, memWf_foldl]

theorem memWf_State_setCxl {s : State} {p} {x} (h : s.MemWf) : (State.setCxl s p x).MemWf := by
  grind [State.MemWf, State.setCxl]

theorem memWf_countCxlPoison {s : State} {a} {m} (h : s.MemWf) : (countCxlPoison s a m).MemWf := by
  grind [countCxlPoison, memWf_State_setCxl]

theorem memWf_rawWrite {s : State} {a} {r} {p} {t : State} (h : s.MemWf) (e : rawWrite s a r p = .ok t) : t.MemWf := by
  obtain ⟨l, ch, b, rfl⟩ := rawWrite_ok e
  exact Mem.wf_setRow a r h

theorem memWf_rawPut {s : State} {a} {r} {p} (h : s.MemWf) : (rawPut s a r p).MemWf := by
  grind [rawPut, memWf_rawWrite]

theorem memWf_State_setEngine {s : State} {x2} {x} (h : s.MemWf) : (State.setEngine s x2 x).MemWf := by
  grind [State.MemWf, State.setEngine]

theorem memWf_addBlock {s : State} {x2} {a} {b} (h : s.MemWf) : (addBlock s x2 a b).MemWf := by
  grind [addBlock, memWf_rawPut, memWf_State_setEngine]

theorem memWf_faddAt {s : State} {a} {w} {d} {limit} (h : s.MemWf) : (faddAt s a w d limit).2.MemWf := by
  grind [faddAt, memWf_rawPut]

theorem memWf_noticeServe {s : State} {c} {a} {w} {addend} (h : s.MemWf) : (noticeServe s c a w addend).MemWf := by
  grind [noticeServe, memWf_faddAt, memWf_faultIssuer]

theorem memWf_noticeAt {s : State} {c} {a} {w} {addend} (h : s.MemWf) : (noticeAt s c a w addend).MemWf := by
  grind [noticeAt, memWf_noticeServe, memWf_lateWake, memWf_State_setBank]

theorem memWf_slotNotice {s : State} {v} (h : s.MemWf) : (slotNotice s v).MemWf := by
  grind [slotNotice, memWf_noticeAt]

theorem memWf_countSlot {s : State} {x2} {i} {n} {wb} {nf} (h : s.MemWf) : (countSlot s x2 i n wb nf).MemWf := by
  grind [countSlot, memWf_State_setEngine, memWf_slotNotice]

theorem memWf_accServe {s : State} {x2} {x3} {bs} (h : s.MemWf) : (accServe s x2 x3 bs).2.MemWf := by
  grind [State.MemWf, memWf_foldl, accServe, memWf_State_setEngine, memWf_addBlock, memWf_countSlot]

theorem memWf_replayClaim {s : State} {a} {w} {n} (h : s.MemWf) : (replayClaim s a w n).MemWf := by
  grind [State.MemWf, replayClaim]

theorem memWf_wordPut {s : State} {a} {w} {x} (h : s.MemWf) : (wordPut s a w x).MemWf := by
  grind [wordPut, memWf_rawPut]

theorem memWf_requestDone {s : State} {b} (h : s.MemWf) : (requestDone s b).MemWf := by
  grind [State.MemWf, requestDone]

theorem memWf_gateBank {s : State} {b} (h : s.MemWf) : (gateBank s b).MemWf :=
  Mem.wf_clear _ _ (memWf_requestDone (memWf_State_setBank h))

theorem memWf_serveReq {s : State} {b} {r} (h : s.MemWf) : (serveReq s b r).MemWf := by
  unfold serveReq
  grind [memWf_State_answer, memWf_accServe, memWf_countCxlPoison, memWf_faddAt, memWf_faultIssuer, memWf_gateBank,
    memWf_noticeServe, memWf_rawPut, memWf_replayClaim, memWf_rowFinding, memWf_transitCount, memWf_wordPut, State.MemWf,
      memWf_foldl]

theorem memWf_serveQueue {b} {x2} {s : State} (h : s.MemWf) : (serveQueue b x2 s).MemWf := by
  fun_induction serveQueue b x2 s <;>
    grind [memWf_State_setBank, memWf_faultIssuer, memWf_State_answer, memWf_lateWake, memWf_serveReq]

theorem memWf_wakeDone {s : State} {b} (h : s.MemWf) : (wakeDone s b).MemWf := by
  grind [wakeDone, memWf_State_setBank, memWf_serveQueue, memWf_requestDone]

theorem memWf_gateDone {s : State} {b} (h : s.MemWf) : (gateDone s b).MemWf := by
  grind [gateDone, memWf_serveQueue, memWf_State_setBank]

theorem memWf_settleBank {s : State} {b} (h : s.MemWf) : (settleBank s b).MemWf := by
  grind [State.MemWf, memWf_foldl, settleBank, memWf_wakeDone, memWf_gateDone]

theorem memWf_faultCmd {s : State} {c} {st} {i} {detail} (h : s.MemWf) : (faultCmd s c st i detail).MemWf := by
  have hb : (bbFreeze (bbAppend s 1 (some c.ring) (faultPayload st c.seq i))).MemWf := memWf_bbFreeze (memWf_bbAppend h)
  refine memWf_State_finish ?_
  cases e : faultRun (bbFreeze (bbAppend s 1 (some c.ring) (faultPayload st c.seq i))) c.ring ⟨st, s.nextRef, 0⟩ with
  | none => exact hb
  | some t => exact memWf_faultRun hb e

theorem memWf_accept {s : State} {c} {x3} (h : s.MemWf) : (accept s c x3).MemWf := by
  grind [State.MemWf, accept, memWf_State_setRing, memWf_faultCmd]

theorem memWf_entryFetch {s : State} {c} {x3} (h : s.MemWf) : (entryFetch s c x3).MemWf := by
  grind [entryFetch, memWf_accept]

theorem memWf_reachBank {s : State} {a} {write} (h : s.MemWf) : (reachBank s a write).2.MemWf := by
  grind [reachBank, memWf_settleBank, memWf_lateWake, memWf_State_setBank]

theorem memWf_writeRow {s : State} {a} {r} {p} (h : s.MemWf) : (writeRow s a r p).2.MemWf := by
  grind [writeRow, memWf_reachBank, memWf_rawWrite]

theorem memWf_ctxModify {s : State} {c} {a} {f} (h : s.MemWf) : (ctxModify s c a f).MemWf := by
  grind [ctxModify, memWf_writeRow, memWf_faultIssuer]

theorem memWf_mapBinding {s : State} {c} {p} {f} (h : s.MemWf) : (mapBinding s c p f).MemWf := by
  grind [State.MemWf, memWf_foldl, mapBinding, memWf_ctxModify]

theorem memWf_settleBinding {s : State} {c} {p} {st} (h : s.MemWf) : (settleBinding s c p st).MemWf := by
  grind [settleBinding, memWf_mapBinding]

theorem memWf_reportFault {s : State} {c} {x} (h : s.MemWf) : (reportFault s c x).2.MemWf := by
  grind [reportFault, memWf_State_setCtx]

theorem memWf_releaseAborts {s : State} {r} (h : s.MemWf) : (releaseAborts s r).MemWf := by
  grind [State.MemWf, releaseAborts]

theorem memWf_fireVector {s : State} {v} (h : s.MemWf) : (fireVector s v).MemWf := by
  grind [State.MemWf, fireVector]

theorem memWf_fireContext {s : State} {c} (h : s.MemWf) : (fireContext s c).MemWf := by
  grind [fireContext, memWf_fireVector, memWf_State_setHost]

theorem memWf_signalRecord {s : State} {c} (h : s.MemWf) : (signalRecord s c).MemWf := by
  grind [signalRecord, memWf_State_setHost, memWf_fireContext]

theorem memWf_writeEntry {s : State} {c} {x} (h : s.MemWf) : (writeEntry s c x).MemWf := by
  grind [State.MemWf, writeEntry, memWf_signalRecord]

theorem memWf_applySetting {s : State} {c} {x} (h : s.MemWf) : (applySetting s c x).MemWf := by
  grind [State.MemWf, applySetting]

theorem memWf_commit {s : State} {r} (h : s.MemWf) : (commit s r).MemWf := by
  grind [State.MemWf, commit, memWf_settleBinding, memWf_reportFault, memWf_releaseAborts, memWf_writeEntry, memWf_applySetting]

theorem memWf_coalesceExpired {s : State} {c} (h : s.MemWf) : (coalesceExpired s c).MemWf := by
  grind [coalesceExpired, memWf_fireContext]

theorem memWf_State_finishSt {s : State} {r} {st} (h : s.MemWf) : (State.finishSt s r st).MemWf := by
  grind [State.finishSt, memWf_State_finish]

theorem memWf_State_take {s : State} {r} {opcode} {f} (h : s.MemWf) (hf : ∀ c, (f c).MemWf) :
    (State.take s r opcode f).MemWf := by
  grind [State.take, memWf_State_finishSt]

theorem memWf_protocolOpen {s : State} {r} (h : s.MemWf) : (protocolOpen s r).MemWf := by
  grind [protocolOpen, memWf_State_take, memWf_State_finish, memWf_State_setHost]

theorem memWf_nop {s : State} {r} (h : s.MemWf) : (nop s r).MemWf := by
  grind [nop, memWf_State_take, memWf_State_finishSt]

theorem memWf_State_defer {s : State} {r} (h : s.MemWf) : (State.defer s r).MemWf := by
  grind [State.defer, memWf_State_updCmd]

theorem memWf_State_setPhase {s : State} {r} {p} (h : s.MemWf) : (State.setPhase s r p).MemWf := by
  grind [State.setPhase, memWf_State_updCmd]

theorem memWf_State_setSec {s : State} {x} (h : s.MemWf) : (State.setSec s x).MemWf := by
  grind [State.MemWf, State.setSec]

theorem memWf_queueAudit {s : State} {r} {c} (h : s.MemWf) : (queueAudit s r c).MemWf := by
  grind [queueAudit, memWf_State_setSec]

theorem memWf_endAudit {s : State} {c} {x} (h : s.MemWf) : (endAudit s c x).MemWf := by
  grind [endAudit, memWf_State_setPhase, memWf_queueAudit]

theorem memWf_restateEnd {s : State} {c} {x} (h : s.MemWf) : (restateEnd s c x).MemWf := by
  grind [restateEnd, memWf_State_setSec]

theorem memWf_endCmd {s : State} {st} {c} (h : s.MemWf) : (endCmd s st c).MemWf := by
  grind [endCmd, memWf_endAudit, memWf_State_setPhase, memWf_restateEnd]

theorem memWf_State_setRst {s : State} {x} (h : s.MemWf) : (State.setRst s x).MemWf := by
  grind [State.MemWf, State.setRst]

theorem memWf_resetEnded {s : State} (h : s.MemWf) : (resetEnded s).MemWf := by
  grind [State.MemWf, memWf_foldl, resetEnded, memWf_State_finishSt, memWf_State_setRst]

theorem memWf_settleSuspect {s : State} {q} {outcome} (h : s.MemWf) : (settleSuspect s q outcome).MemWf := by
  grind [settleSuspect, memWf_bbAppend, memWf_State_finish]

theorem memWf_settleFrom {x1} {s : State} (h : s.MemWf) : (settleFrom x1 s).MemWf := by
  fun_induction settleFrom x1 s <;> grind [memWf_resetEnded, memWf_settleSuspect, memWf_State_setRst]

theorem memWf_settleNext {s : State} (h : s.MemWf) : (settleNext s).MemWf := by
  grind [settleNext, memWf_settleFrom]

theorem memWf_abortSuspect {s : State} {c} (h : s.MemWf) : (abortSuspect s c).MemWf := by
  grind [abortSuspect, memWf_endCmd, memWf_State_setRst, memWf_settleNext]

theorem memWf_State_setRun {s : State} {c} {r} (h : s.MemWf) : (State.setRun s c r).MemWf := by
  grind [State.setRun, memWf_State_setCtx]

theorem memWf_finishRun {s : State} {c} {st} {ref} {detail} (h : s.MemWf) : (finishRun s c st ref detail).MemWf := by
  grind [State.MemWf, finishRun, memWf_State_setCtx, memWf_State_finish]

theorem memWf_endOffGrid {s : State} {c} {st} (h : s.MemWf) : (endOffGrid s c st).MemWf := by
  grind [endOffGrid, memWf_finishRun, memWf_abandonRun, memWf_State_setCtx]

theorem memWf_stopRun {s : State} {c} {st} (h : s.MemWf) : (stopRun s c st).MemWf := by
  grind [stopRun, memWf_State_setRun, memWf_endOffGrid]

theorem memWf_clearEntered {s : State} {r} (h : s.MemWf) : (clearEntered s r).MemWf := by
  grind [State.MemWf, clearEntered]

theorem memWf_abortRunning {s : State} {c} (h : s.MemWf) : (abortRunning s c).MemWf := by
  grind [State.MemWf, abortRunning, memWf_abortSuspect, memWf_stopRun, memWf_clearEntered, memWf_State_setRst, memWf_endCmd]

theorem memWf_abort {s : State} {r} (h : s.MemWf) : (abort s r).MemWf := by
  grind [abort, memWf_State_take, memWf_State_finishSt, memWf_State_defer, memWf_State_updCmd, memWf_abortRunning, memWf_endCmd]

theorem memWf_contextOpen {s : State} {r} (h : s.MemWf) : (contextOpen s r).MemWf := by
  grind [contextOpen, memWf_State_take, memWf_State_finishSt, memWf_State_setCtx]

theorem memWf_contextClose {s : State} {r} (h : s.MemWf) : (contextClose s r).MemWf := by
  grind [State.MemWf, contextClose, memWf_State_take, memWf_State_defer, memWf_State_finishSt, memWf_State_setCtx]

theorem memWf_State_setKey {s : State} {i} {x} (h : s.MemWf) : (State.setKey s i x).MemWf := by
  grind [State.MemWf, State.setKey]

theorem memWf_keyApply {s : State} {c} (h : s.MemWf) : (keyApply s c).MemWf := by
  unfold keyApply
  split
  · exact memWf_State_finishSt (memWf_State_setKey h)
  · exact memWf_State_finishSt h

theorem memWf_keyringWrite {s : State} {r} (h : s.MemWf) : (keyringWrite s r).MemWf := by
  grind [State.MemWf, keyringWrite, memWf_State_take, memWf_keyApply, memWf_State_setPhase]

theorem memWf_gddrLayout {s : State} {r} (h : s.MemWf) : (gddrLayout s r).MemWf := by
  refine memWf_State_take h fun c => memWf_State_finishSt ?_
  split
  · exact h
  · exact Mem.wf_clear _ _ h

theorem memWf_markSeen {s : State} {c} {k} {p} (h : s.MemWf) : (markSeen s c k p).MemWf := by
  unfold markSeen
  grind [memWf_State_setCtx, State.MemWf, memWf_foldl]

theorem memWf_begin' {s : State} {c} {k} {p} {f} (h : s.MemWf) : (begin' s c k p f).2.MemWf := by
  grind [begin', memWf_markSeen]

theorem memWf_writeAt {s : State} {k} {j} {r} {p} (h : s.MemWf) : (writeAt s k j r p).2.MemWf := by
  grind [writeAt, memWf_writeRow]

theorem memWf_putRows {k} {x2} {x3} {s : State} (h : s.MemWf) : (putRows k x2 x3 s).2.MemWf := by
  fun_induction putRows k x2 x3 s <;> grind [memWf_writeAt]

theorem memWf_accessWrite {s : State} {c} {k} {f} {o} {rs} (h : s.MemWf) : (accessWrite s c k f o rs).2.MemWf := by
  grind [accessWrite, memWf_begin', memWf_putRows]

theorem memWf_dataFault {s : State} {c} {f} (h : s.MemWf) : (dataFault s c f).MemWf := by
  grind [dataFault, memWf_faultCmd]

theorem memWf_dataPut {s : State} {r} {host} (h : s.MemWf) : (dataPut s r host).MemWf := by
  grind [dataPut, memWf_State_take, memWf_State_defer, memWf_accessWrite, memWf_State_finishSt, memWf_dataFault]

theorem memWf_readRow {s : State} {a} (h : s.MemWf) : (readRow s a).2.MemWf := by
  grind [readRow, memWf_reachBank, memWf_countCxlPoison]

theorem memWf_readAt {s : State} {k} {j} (h : s.MemWf) : (readAt s k j).2.MemWf := by
  grind [readAt, memWf_readRow]

theorem memWf_consumeAt {s : State} {k} {j} (h : s.MemWf) : (consumeAt s k j).2.MemWf := by
  grind [consumeAt, memWf_readAt]

theorem memWf_consumeRows {k} {x2} {x3} {s : State} (h : s.MemWf) : (consumeRows k x2 x3 s).2.2.MemWf := by
  induction x3 generalizing x2 s <;> grind [consumeRows, memWf_consumeAt]

theorem memWf_accessRead {s : State} {c} {k} {f} {o} {n} (h : s.MemWf) : (accessRead s c k f o n).2.2.MemWf := by
  grind [accessRead, memWf_begin', memWf_consumeRows]

theorem memWf_dataGet {s : State} {r} (h : s.MemWf) : (dataGet s r).MemWf := by
  grind [State.MemWf, dataGet, memWf_State_take, memWf_State_defer, memWf_accessRead, memWf_State_finishSt, memWf_dataFault]

theorem memWf_bindHeaders {s : State} {c} {p} (h : s.MemWf) : (bindHeaders s c p).2.MemWf := by
  grind [State.MemWf, memWf_foldl, bindHeaders, memWf_mapBinding, memWf_ctxModify]

theorem memWf_beginRun {s : State} {r} (h : s.MemWf) : (beginRun s r).MemWf := by
  grind [beginRun, memWf_State_take, memWf_State_defer, memWf_State_finishSt, memWf_bindHeaders, memWf_faultCmd,
    memWf_State_finish, memWf_State_setCtx, memWf_State_updCmd]

theorem memWf_ctxWrite {s : State} {c} {a} {r} (h : s.MemWf) : (ctxWrite s c a r).MemWf := by
  grind [ctxWrite, memWf_writeRow, memWf_faultIssuer]

theorem memWf_saveCore {s : State} {c} {i} (h : s.MemWf) : (saveCore s c i).MemWf := by
  grind [State.MemWf, memWf_foldl, saveCore, memWf_ctxWrite]

theorem memWf_saveContext {s : State} {c} (h : s.MemWf) : (saveContext s c).MemWf := by
  grind [State.MemWf, memWf_foldl, saveContext, memWf_saveCore, memWf_ctxWrite, memWf_State_setCtx]

theorem memWf_clearCores {s : State} (h : s.MemWf) : (clearCores s).MemWf :=
  memWf_foldl (Mem.wf_clear _ _ h) fun _ _ h => memWf_State_setCore h

theorem memWf_restoreCore {c} {replay} {s : State} {i} (h : s.MemWf) : (restoreCore c replay s i).MemWf := by
  grind [restoreCore, memWf_State_setCore]

theorem memWf_restoreContext {s : State} {c} (h : s.MemWf) : (restoreContext s c).MemWf := by
  grind [State.MemWf, memWf_foldl, restoreContext, memWf_faultIssuer, memWf_restoreCore, memWf_State_setCtx]

theorem memWf_changeContext {s : State} {c} (h : s.MemWf) : (changeContext s c).MemWf := by
  grind [State.MemWf, changeContext, memWf_saveContext, memWf_clearCores, memWf_restoreContext]

theorem memWf_seedCores {s : State} {r} (h : s.MemWf) : (seedCores s r).MemWf := by
  grind [State.MemWf, memWf_foldl, seedCores, memWf_State_setCore]

theorem memWf_freeCores {s : State} (h : s.MemWf) : (freeCores s).MemWf := by
  grind [State.MemWf, memWf_foldl, freeCores, memWf_State_setCore]

theorem memWf_faultCtx {s : State} {c} {f} (h : s.MemWf) : (faultCtx s c f).MemWf := by
  grind [faultCtx, memWf_raiseFault]

theorem memWf_dropPreload {s : State} (h : s.MemWf) : (dropPreload s).MemWf := by
  grind [State.MemWf, memWf_foldl, dropPreload, memWf_State_setCore]

theorem memWf_imageRows {k} {lim} {x3} {x4} {s : State} (h : s.MemWf) : (imageRows k lim x3 x4 s).2.2.MemWf := by
  induction x4 generalizing lim x3 s <;> grind [imageRows, memWf_readAt]

theorem memWf_fetchImage {s : State} {ctx} {hdr} {i} (h : s.MemWf) : (fetchImage s ctx hdr i).2.2.MemWf := by
  grind [fetchImage, memWf_begin', memWf_imageRows]

theorem memWf_placeImage {c} {x2} {x3} {s : State} (h : s.MemWf) : (placeImage c x2 x3 s).MemWf := by
  fun_induction placeImage c x2 x3 s <;> grind [memWf_rawPut]

theorem memWf_loadImage {ctx} {hdr} {pre} {c} {i} {s : State} (h : s.MemWf) : (loadImage ctx hdr pre c i s).2.MemWf := by
  grind [loadImage, memWf_State_setCore, memWf_fetchImage, memWf_placeImage]

theorem memWf_loadImages {ctx} {hdr} {pre} {x4} {s : State} (h : s.MemWf) : (loadImages ctx hdr pre x4 s).2.MemWf := by
  induction x4 generalizing s <;> grind [loadImages, memWf_loadImage]

theorem memWf_captureSpills {s : State} {c} (h : s.MemWf) : (captureSpills s c).MemWf := by
  grind [captureSpills, memWf_State_setCore]

theorem memWf_configureAll {s : State} {hdr} (h : s.MemWf) : (configureAll s hdr).MemWf := by
  grind [State.MemWf, memWf_foldl, configureAll, memWf_captureSpills, memWf_State_setCore]

theorem memWf_wordWrite {s : State} {a} {w} {x} (h : s.MemWf) : (wordWrite s a w x).MemWf := by
  grind [wordWrite, memWf_wordPut, memWf_reachBank]

theorem memWf_counterReset {s : State} {c} {x} (h : s.MemWf) : (counterReset s c x).2.MemWf := by
  grind [counterReset, memWf_begin', memWf_wordWrite]

theorem memWf_counterResets {c} {x2} {s : State} (h : s.MemWf) : (counterResets c x2 s).2.MemWf := by
  fun_induction counterResets c x2 s <;> grind [memWf_counterReset]

theorem memWf_applyCounters {s : State} {c} {hdr} (h : s.MemWf) : (applyCounters s c hdr).2.MemWf := by
  grind [applyCounters, memWf_accessRead, memWf_counterResets]

theorem memWf_handleList {s : State} {c} {x3} {n} (h : s.MemWf) : (handleList s c x3 n).2.MemWf := by
  grind [handleList, memWf_accessRead]

theorem memWf_waitBank {s : State} {b} (h : s.MemWf) : (waitBank s b).MemWf := by
  grind [State.MemWf, waitBank]

theorem memWf_gateRequest {s : State} {b} (h : s.MemWf) : (gateRequest s b).MemWf := by
  grind [gateRequest, memWf_waitBank, memWf_State_setBank]

theorem memWf_wakeRequest {s : State} {b} (h : s.MemWf) : (wakeRequest s b).MemWf := by
  grind [wakeRequest, memWf_waitBank, memWf_State_setBank]

theorem memWf_gateLists {s : State} {c} {hdr} (h : s.MemWf) : (gateLists s c hdr).2.MemWf := by
  grind [State.MemWf, memWf_foldl, gateLists, memWf_handleList, memWf_gateRequest, memWf_wakeRequest]

theorem memWf_buildSection {s : State} {c} {hdr} {pre} (h : s.MemWf) : (buildSection s c hdr pre).2.MemWf := by
  grind [buildSection, memWf_loadImages, memWf_configureAll, memWf_applyCounters, memWf_gateLists]

theorem memWf_loadSection {s : State} {c} (h : s.MemWf) : (loadSection s c).MemWf := by
  unfold loadSection
  grind [memWf_State_setRun, memWf_accessRead, memWf_buildSection, memWf_changeContext, memWf_dropPreload, memWf_faultCtx,
    memWf_freeCores, memWf_seedCores, State.MemWf, memWf_foldl]

theorem memWf_startRun {s : State} {r} (h : s.MemWf) : (startRun s r).MemWf := by
  grind [startRun, memWf_beginRun, memWf_loadSection]

theorem memWf_State_setLink {s : State} {l} {x} (h : s.MemWf) : (State.setLink s l x).MemWf := by
  grind [State.MemWf, State.setLink]

theorem memWf_State_idle {s : State} {l} (h : s.MemWf) : (State.idle s l).MemWf := by
  grind [State.idle, memWf_State_setLink]

theorem memWf_State_setWindow {s : State} {w} {x} (h : s.MemWf) : (State.setWindow s w x).MemWf := by
  grind [State.MemWf, State.setWindow]

theorem memWf_retireWindow {s : State} {w} (h : s.MemWf) : (retireWindow s w).MemWf := by
  grind [retireWindow, memWf_State_setWindow]

theorem memWf_flitGone {s : State} {f} (h : s.MemWf) : (flitGone s f).MemWf := by
  grind [flitGone, memWf_State_idle, memWf_State_setLink, memWf_retireWindow]

theorem memWf_State_pump {s : State} {l} (h : s.MemWf) : (State.pump s l).MemWf := by
  grind [State.MemWf, memWf_foldl, State.pump, memWf_State_idle, memWf_flitGone, memWf_State_setLink]

theorem memWf_pushFlits {s : State} {l} {fs} (h : s.MemWf) : (pushFlits s l fs).MemWf := by
  grind [pushFlits, memWf_State_pump, memWf_State_setLink]

theorem memWf_sendControl {s : State} {l} {msg} (h : s.MemWf) : (sendControl s l msg).MemWf := by
  grind [sendControl, memWf_pushFlits]

theorem memWf_sendPeerStates {s : State} (h : s.MemWf) : (sendPeerStates s).MemWf := by
  grind [State.MemWf, memWf_foldl, sendPeerStates, memWf_sendControl]

theorem memWf_deviceIdSet {s : State} {r} (h : s.MemWf) : (deviceIdSet s r).MemWf := by
  grind [State.MemWf, deviceIdSet, memWf_State_take, memWf_State_finishSt, memWf_sendPeerStates]

theorem memWf_routeWrite {s : State} {r} (h : s.MemWf) : (routeWrite s r).MemWf := by
  grind [State.MemWf, routeWrite, memWf_State_take, memWf_State_finishSt]

theorem memWf_setGen {s : State} {w} {x} (h : s.MemWf) : (setGen s w x).MemWf := by
  grind [State.MemWf, setGen, memWf_State_setWindow]

theorem memWf_windowOpen {s : State} {r} (h : s.MemWf) : (windowOpen s r).MemWf := by
  grind [windowOpen, memWf_State_take, memWf_State_finish, memWf_setGen]

theorem memWf_windowClose {s : State} {r} (h : s.MemWf) : (windowClose s r).MemWf := by
  grind [windowClose, memWf_State_take, memWf_State_finish, memWf_State_setPhase, memWf_setGen]

theorem memWf_haspComplete {s : State} {i} (h : s.MemWf) : (haspComplete s i).MemWf := by
  grind [State.MemWf, haspComplete, memWf_State_setWindow]

theorem memWf_windowStatus {s : State} {r} (h : s.MemWf) : (windowStatus s r).MemWf := by
  grind [windowStatus, memWf_State_take, memWf_State_finish]

theorem memWf_countLinkDrop {s : State} {l} (h : s.MemWf) : (countLinkDrop s l).MemWf := by
  grind [countLinkDrop, memWf_State_setLink]

theorem memWf_countLocalDrop {s : State} (h : s.MemWf) : (countLocalDrop s).MemWf := by
  grind [State.MemWf, countLocalDrop]

theorem memWf_countDrop {s : State} {via} (h : s.MemWf) : (countDrop s via).MemWf := by
  unfold countDrop
  grind [memWf_countLinkDrop, memWf_countLocalDrop, State.MemWf, memWf_foldl]

theorem memWf_packetGone {s : State} {via} {p} {win} (h : s.MemWf) : (packetGone s via p win).MemWf := by
  grind [State.MemWf, memWf_foldl, packetGone, memWf_flitGone]

theorem memWf_dispatchResp {s : State} {via} {p} {win} (h : s.MemWf) : (dispatchResp s via p win).MemWf := by
  grind [State.MemWf, dispatchResp, memWf_countDrop, memWf_packetGone, memWf_pushFlits]

theorem memWf_dispatchPacket {s : State} {via} {p} {win} (h : s.MemWf) : (dispatchPacket s via p win).MemWf := by
  grind [State.MemWf, dispatchPacket, memWf_countDrop, memWf_packetGone, memWf_dispatchResp, memWf_pushFlits]

theorem memWf_issueReq {s : State} {i} {p} {x} {t : State} (h : s.MemWf) (e : issueReq s i p = some (x, t)) : t.MemWf := by
  grind [State.MemWf, issueReq, memWf_dispatchPacket]

theorem memWf_issueCmd {s : State} {r} {ps} (h : s.MemWf) : (issueCmd s r ps).MemWf := by
  unfold issueCmd
  split
  · exact memWf_State_defer h
  · exact memWf_State_updCmd (memWf_foldl_snd h fun x p hx => by grind [memWf_issueReq])

theorem memWf_remoteWrite {s : State} {r} (h : s.MemWf) : (remoteWrite s r).MemWf := by
  grind [remoteWrite, memWf_State_take, memWf_State_defer, memWf_accessRead, memWf_issueCmd, memWf_faultCmd]

theorem memWf_readDone {s : State} {r} (h : s.MemWf) : (readDone s r).MemWf := by
  grind [readDone, memWf_State_updCmd, memWf_accessWrite, memWf_State_finishSt, memWf_faultCmd]

theorem memWf_remoteRead {s : State} {r} (h : s.MemWf) : (remoteRead s r).MemWf := by
  grind [remoteRead, memWf_readDone, memWf_State_take, memWf_issueCmd]

theorem memWf_remoteFetchAdd {s : State} {r} (h : s.MemWf) : (remoteFetchAdd s r).MemWf := by
  grind [remoteFetchAdd, memWf_State_take, memWf_issueCmd]

theorem memWf_setRecord {s : State} {c} {k} {x} (h : s.MemWf) : (setRecord s c k x).MemWf := by
  grind [setRecord, memWf_ctxModify]

theorem memWf_zeroRecords {s : State} {c} (h : s.MemWf) : (zeroRecords s c).MemWf := by
  grind [State.MemWf, memWf_foldl, zeroRecords, memWf_setRecord]

theorem memWf_fillScales {s : State} {c} {x3} (h : s.MemWf) : (fillScales s c x3).MemWf := by
  grind [State.MemWf, memWf_foldl, fillScales, memWf_ctxWrite]

theorem memWf_fillAllScales {s : State} {c} (h : s.MemWf) : (fillAllScales s c).MemWf := by
  grind [State.MemWf, memWf_foldl, fillAllScales, memWf_fillScales]

theorem memWf_collectiveOpen {s : State} {r} (h : s.MemWf) : (collectiveOpen s r).MemWf := by
  grind [State.MemWf, collectiveOpen, memWf_State_take, memWf_zeroRecords, memWf_State_finishSt, memWf_fillAllScales]

theorem memWf_releaseSlots {s : State} {p} (h : s.MemWf) : (releaseSlots s p).MemWf := by
  grind [State.MemWf, memWf_foldl, releaseSlots, memWf_State_setEngine]

theorem memWf_dropRetries {s : State} {p} (h : s.MemWf) : (dropRetries s p).MemWf := by
  grind [State.MemWf, dropRetries]

theorem memWf_closeCollective {s : State} {id} (h : s.MemWf) : (closeCollective s id).MemWf := by
  grind [State.MemWf, memWf_foldl, closeCollective, memWf_releaseSlots, memWf_dropRetries, memWf_setRecord]

theorem memWf_settleTags {s : State} {r} (h : s.MemWf) : (settleTags s r).MemWf := by
  grind [State.MemWf, settleTags, memWf_State_finishSt]

theorem memWf_collectiveClose {s : State} {r} (h : s.MemWf) : (collectiveClose s r).MemWf := by
  grind [collectiveClose, memWf_State_take, memWf_State_finishSt, memWf_closeCollective, memWf_settleTags, memWf_State_updCmd]

theorem memWf_entryWord {s : State} {x2} {k} {x} (h : s.MemWf) : (entryWord s x2 k x).MemWf := by
  grind [entryWord, memWf_wordWrite]

theorem memWf_fwWrite {s : State} {a} {r} (h : s.MemWf) : (fwWrite s a r).MemWf := by
  grind [fwWrite, memWf_writeRow]

theorem memWf_zeroSum {s : State} {x2} (h : s.MemWf) : (zeroSum s x2).MemWf := by
  grind [State.MemWf, memWf_foldl, zeroSum, memWf_fwWrite]

theorem memWf_fillSlot {s : State} {n} {v} (h : s.MemWf) : (fillSlot s n v).MemWf := by
  grind [fillSlot, memWf_State_setEngine]

theorem memWf_State_setColl {s : State} {id} {x} (h : s.MemWf) : (State.setColl s id x).MemWf := by
  grind [State.MemWf, State.setColl]

theorem memWf_onBucket {s : State} {id} {k} {f} (h : s.MemWf) : (onBucket s id k f).MemWf := by
  grind [onBucket, memWf_State_setColl]

theorem memWf_armOwner {s : State} {ctx} {id} {k} {t} {cal} (h : s.MemWf) : (armOwner s ctx id k t cal).MemWf := by
  grind [State.MemWf, memWf_foldl, armOwner, memWf_entryWord, memWf_zeroSum, memWf_ctxModify, memWf_releaseSlots, memWf_fillSlot,
    memWf_onBucket]

theorem memWf_armMember {s : State} {id} {k} {t} {cal} (h : s.MemWf) : (armMember s id k t cal).MemWf := by
  grind [armMember, memWf_setRecord, memWf_fillScales, memWf_onBucket, memWf_entryWord]

theorem memWf_bucketArm {s : State} {r} (h : s.MemWf) : (bucketArm s r).MemWf := by
  grind [State.MemWf, memWf_foldl, bucketArm, memWf_State_take, memWf_State_finishSt, memWf_State_defer, memWf_armOwner,
    memWf_armMember]

theorem memWf_bucketWait {s : State} {r} (h : s.MemWf) : (bucketWait s r).MemWf := by
  grind [bucketWait, memWf_State_take, memWf_State_finish, memWf_State_setPhase]

theorem memWf_layoutSwitch {s : State} {r} (h : s.MemWf) : (layoutSwitch s r).MemWf := by
  grind [layoutSwitch, memWf_State_take, memWf_State_finishSt, memWf_State_defer, memWf_State_setPhase, memWf_State_setColl]

theorem memWf_layoutEffect {s : State} {id} (h : s.MemWf) : (layoutEffect s id).MemWf := by
  grind [layoutEffect, memWf_releaseSlots, memWf_State_setColl, memWf_zeroRecords, memWf_fillAllScales, memWf_State_finishSt]

theorem memWf_jobOpen {s : State} {r} (h : s.MemWf) : (jobOpen s r).MemWf := by
  grind [State.MemWf, jobOpen, memWf_State_take, memWf_State_finishSt]

theorem memWf_fenceRest {s : State} (h : s.MemWf) : (fenceRest s).MemWf := by
  grind [State.MemWf, memWf_foldl, fenceRest, memWf_State_finishSt, memWf_closeCollective, memWf_abandonReqs]

theorem memWf_awaitAll {s : State} {r} (h : s.MemWf) : (awaitAll s r).MemWf := by
  grind [awaitAll, memWf_settleTags, memWf_State_updCmd]

theorem memWf_fenceOn {s : State} (h : s.MemWf) : (fenceOn s).MemWf := by
  grind [State.MemWf, memWf_foldl, fenceOn, memWf_fenceRest, memWf_awaitAll]

theorem memWf_fenceJob {s : State} (h : s.MemWf) : (fenceJob s).MemWf := by
  grind [State.MemWf, memWf_foldl, fenceJob, memWf_stopRun]

theorem memWf_jobClose {s : State} {r} (h : s.MemWf) : (jobClose s r).MemWf := by
  grind [jobClose, memWf_State_take, memWf_State_finishSt, memWf_fenceOn, memWf_awaitAll, memWf_fenceJob]

theorem memWf_State_onGroupNo {s : State} {n} {f} (h : s.MemWf) : (State.onGroupNo s n f).MemWf := by
  grind [State.MemWf, State.onGroupNo]

theorem memWf_applyRelease {s : State} {n} {skew} {step} (h : s.MemWf) : (applyRelease s n skew step).MemWf := by
  grind [applyRelease, memWf_State_onGroupNo, memWf_State_finish]

theorem memWf_issueQueue {i} {x2} {s : State} (h : s.MemWf) : (issueQueue i x2 s).2.2.MemWf := by
  induction x2 generalizing s <;> grind [issueQueue, memWf_issueReq]

theorem memWf_pumpGroup {s : State} {n} (h : s.MemWf) : (pumpGroup s n).MemWf := by
  grind [pumpGroup, memWf_issueQueue, memWf_State_onGroupNo]

theorem memWf_releaseBarrier {s : State} {n} (h : s.MemWf) : (releaseBarrier s n).MemWf := by
  grind [releaseBarrier, memWf_applyRelease, memWf_pumpGroup, memWf_State_onGroupNo]

theorem memWf_takeArrival {s : State} {n} {src} {bseq} {step} {adv} (h : s.MemWf) : (takeArrival s n src bseq step adv).MemWf :=
    by
  grind [takeArrival, memWf_State_onGroupNo, memWf_releaseBarrier]

theorem memWf_barrierEnter {s : State} {r} (h : s.MemWf) : (barrierEnter s r).MemWf := by
  grind [barrierEnter, memWf_State_take, memWf_State_defer, memWf_State_onGroupNo, memWf_takeArrival, memWf_State_setPhase,
    memWf_issueCmd, memWf_State_finishSt]

theorem memWf_pumpCmd {s : State} {r} (h : s.MemWf) : (pumpCmd s r).MemWf := by
  grind [pumpCmd, memWf_issueQueue, memWf_State_updCmd]

theorem memWf_groupBroadcast {s : State} {r} (h : s.MemWf) : (groupBroadcast s r).MemWf := by
  refine memWf_State_take h fun c => ?_
  dsimp only
  split
  · exact memWf_State_finishSt h
  split
  · exact memWf_State_defer h
  split
  · exact memWf_faultCmd (by grind [memWf_accessRead])
  next s1 e =>
  have h1 : s1.MemWf := by grind [memWf_accessRead]
  clear e
  split
  · exact memWf_faultCmd (by grind [memWf_accessWrite])
  · exact memWf_settleTags (memWf_pumpCmd (memWf_State_updCmd (by grind [memWf_accessWrite])))

theorem memWf_State_setStream {s : State} {n} {x} (h : s.MemWf) : (State.setStream s n x).MemWf := by
  grind [State.MemWf, State.setStream]

theorem memWf_streamBind {s : State} {r} (h : s.MemWf) : (streamBind s r).MemWf := by
  grind [streamBind, memWf_State_take, memWf_State_finishSt, memWf_State_setStream]

theorem memWf_readInto {s : State} {c} {n} {bytes} (h : s.MemWf) : (readInto s c n bytes).MemWf := by
  grind [readInto, memWf_State_defer, memWf_accessWrite, memWf_State_finish, memWf_faultCmd]

theorem memWf_telemetryRead {s : State} {r} (h : s.MemWf) : (telemetryRead s r).MemWf := by
  grind [telemetryRead, memWf_State_take, memWf_readInto]

theorem memWf_blackboxRead {s : State} {r} (h : s.MemWf) : (blackboxRead s r).MemWf := by
  grind [blackboxRead, memWf_State_take, memWf_readInto]

theorem memWf_auditRead {s : State} {r} (h : s.MemWf) : (auditRead s r).MemWf := by
  grind [auditRead, memWf_State_take, memWf_readInto]

theorem memWf_triggerEngine {s : State} {trig} {core} {seq} {noReplay} (h : s.MemWf) : (triggerEngine s trig core seq
    noReplay).MemWf := by
  grind [State.MemWf, triggerEngine]

theorem memWf_engineReset {s : State} {r} (h : s.MemWf) : (engineReset s r).MemWf := by
  grind [engineReset, memWf_State_take, memWf_State_finishSt, memWf_triggerEngine, memWf_State_setPhase, memWf_State_setRst]

theorem memWf_deviceReset {s : State} {r} (h : s.MemWf) : (deviceReset s r).MemWf := by
  grind [deviceReset, memWf_State_take, memWf_State_defer, memWf_State_setPhase, memWf_State_setRst]

theorem memWf_peerNotice {s : State} {r} (h : s.MemWf) : (peerNotice s r).MemWf := by
  grind [State.MemWf, peerNotice, memWf_State_take, memWf_bbAppend, memWf_State_finishSt]

theorem memWf_jobFence {s : State} {r} (h : s.MemWf) : (jobFence s r).MemWf := by
  grind [jobFence, memWf_State_take, memWf_State_finish, memWf_fenceOn, memWf_awaitAll, memWf_fenceJob]

theorem memWf_State_fresh {s : State} {w} (h : s.MemWf) : (State.fresh s w).2.MemWf := by
  grind [State.MemWf, State.fresh]

theorem memWf_roleChallenge {s : State} {r} (h : s.MemWf) : (roleChallenge s r).MemWf := by
  grind [State.MemWf, roleChallenge, memWf_State_take, memWf_State_fresh, memWf_State_setSec, memWf_State_finishSt]

theorem memWf_roleResponse {s : State} {r} {host} (h : s.MemWf) : (roleResponse s r host).MemWf := by
  grind [roleResponse, memWf_State_take, memWf_State_setSec, memWf_State_updCmd, memWf_queueAudit, memWf_State_setPhase]

theorem memWf_endRole {s : State} {opcode} {r} (h : s.MemWf) : (endRole s opcode r).MemWf := by
  grind [endRole, memWf_queueAudit]

theorem memWf_roleDrop {s : State} {r} (h : s.MemWf) : (roleDrop s r).MemWf := by
  grind [roleDrop, memWf_State_take, memWf_State_setPhase, memWf_endRole]

theorem memWf_spdmMessage {s : State} {r} {request} (h : s.MemWf) : (spdmMessage s r request).MemWf := by
  grind [State.MemWf, spdmMessage, memWf_State_take, memWf_State_finish]

theorem memWf_audited {s : State} {r} {opcode} {host} {act} (h : s.MemWf) (ha : ∀ c, (act c s).MemWf) :
    (audited s r opcode host act).MemWf := by
  grind [audited, memWf_State_updCmd, memWf_queueAudit]

theorem memWf_State_setMeas {s : State} {i} {d} (h : s.MemWf) : (State.setMeas s i d).MemWf := by
  grind [State.setMeas, memWf_State_setSec]

theorem memWf_extend {s : State} {i} {digest} (h : s.MemWf) : (extend s i digest).MemWf := by
  grind [extend, memWf_State_setMeas]

theorem memWf_measureSettings {s : State} (h : s.MemWf) : (measureSettings s).MemWf := by
  grind [measureSettings, memWf_extend]

theorem memWf_resettle {s : State} {s2 : State} (h : s.MemWf) (hs2 : s2.MemWf) : (resettle s s2).MemWf := by
  grind [resettle, memWf_measureSettings]

theorem memWf_State_setPower {s : State} {p} (h : s.MemWf) : (State.setPower s p).MemWf := by
  grind [State.MemWf, State.setPower]

theorem memWf_powerSet {s : State} {r} (h : s.MemWf) : (powerSet s r).MemWf := by
  grind [powerSet, memWf_audited, memWf_endAudit, memWf_resettle, memWf_State_setPower]

theorem memWf_resetLimits {s : State} {r} (h : s.MemWf) : (resetLimits s r).MemWf := by
  grind [resetLimits, memWf_audited, memWf_endAudit, memWf_resettle, memWf_State_setRst]

theorem memWf_linkConfigSet {s : State} {r} (h : s.MemWf) : (linkConfigSet s r).MemWf := by
  grind [State.MemWf, linkConfigSet, memWf_audited, memWf_endAudit, memWf_resettle]

theorem memWf_routeDefaults {s : State} {r} (h : s.MemWf) : (routeDefaults s r).MemWf := by
  grind [State.MemWf, routeDefaults, memWf_audited, memWf_endAudit, memWf_resettle]

theorem memWf_firmware {s : State} {r} {action} {host} {act} {fin} (h : s.MemWf) (ha : ∀ c, (act c s).MemWf)
    (hf : ∀ c, (fin c s).MemWf) : (firmware s r action host act fin).MemWf := by
  grind [firmware, memWf_audited]

theorem memWf_setSlot {s : State} {b} {x} (h : s.MemWf) : (setSlot s b x).MemWf := by
  grind [setSlot, memWf_State_setSec]

theorem memWf_stageImage {c} {s : State} (h : s.MemWf) : (stageImage c s).MemWf := by
  grind [stageImage, memWf_State_setPhase, memWf_setSlot]

theorem memWf_stageDone {c} {s : State} (h : s.MemWf) : (stageDone c s).MemWf := by
  grind [stageDone, memWf_setSlot, memWf_endAudit]

theorem memWf_firmwareStage {s : State} {r} {image} (h : s.MemWf) : (firmwareStage s r image).MemWf := by
  grind [firmwareStage, memWf_firmware, memWf_stageImage, memWf_stageDone]

theorem memWf_openActive {s : State} (h : s.MemWf) : (openActive s).MemWf := by
  grind [openActive, memWf_State_setSec]

theorem memWf_activateSlot {c} {s : State} (h : s.MemWf) : (activateSlot c s).MemWf := by
  grind [activateSlot, memWf_State_setPhase, memWf_openActive]

theorem memWf_writeActive {s : State} {b} (h : s.MemWf) : (writeActive s b).MemWf := by
  grind [writeActive, memWf_State_setSec]

theorem memWf_activateDone {c} {s : State} (h : s.MemWf) : (activateDone c s).MemWf := by
  grind [activateDone, memWf_endAudit, memWf_writeActive]

theorem memWf_setFuse {s : State} {code} {index} {v} (h : s.MemWf) : (setFuse s code index v).MemWf := by
  grind [setFuse, memWf_State_setSec]

theorem memWf_measureFuses {s : State} {debug} (h : s.MemWf) : (measureFuses s debug).MemWf := by
  grind [measureFuses, memWf_extend]

theorem memWf_commitImage {c} {s : State} (h : s.MemWf) : (commitImage c s).MemWf := by
  grind [commitImage, memWf_setFuse, memWf_setSlot, memWf_endAudit, memWf_measureFuses]

theorem memWf_clearDeadbolt {c} {s : State} (h : s.MemWf) : (clearDeadbolt c s).MemWf := by
  grind [clearDeadbolt, memWf_State_setPhase, memWf_State_setRst]

theorem memWf_deadboltClear {s : State} {r} (h : s.MemWf) : (deadboltClear s r).MemWf := by
  grind [deadboltClear, memWf_audited, memWf_clearDeadbolt]

theorem memWf_coreEvent {s : State} {code} {c} {ceil} (h : s.MemWf) : (coreEvent s code c ceil).MemWf := by
  grind [coreEvent, memWf_bbAppend]

theorem memWf_noteSpareless {s : State} {site} (h : s.MemWf) : (noteSpareless s site).MemWf := by
  grind [noteSpareless, memWf_coreEvent, memWf_State_setPower]

theorem memWf_commitRemaps {s : State} (h : s.MemWf) : (commitRemaps s).MemWf := by
  grind [State.MemWf, memWf_foldl, commitRemaps, memWf_State_setPower, memWf_noteSpareless]

theorem memWf_remapCommit {s : State} {r} (h : s.MemWf) : (remapCommit s r).MemWf := by
  grind [remapCommit, memWf_audited, memWf_endAudit, memWf_commitRemaps]

theorem memWf_fuseProgram {s : State} {r} {host} (h : s.MemWf) : (fuseProgram s r host).MemWf := by
  grind [fuseProgram, memWf_audited, memWf_setFuse, memWf_endAudit, memWf_measureFuses]

theorem memWf_debugUnlock {s : State} {r} (h : s.MemWf) : (debugUnlock s r).MemWf := by
  grind [debugUnlock, memWf_audited, memWf_measureFuses, memWf_endAudit, memWf_State_setSec]

theorem memWf_faultCore {s : State} {c} {word} {f} (h : s.MemWf) : (faultCore s c word f).MemWf := by
  grind [faultCore, memWf_raiseFault]

theorem memWf_holdFor {s : State} {c} {hs} (h : s.MemWf) : (holdFor s c hs).MemWf := by
  grind [holdFor, memWf_State_setCore]

theorem memWf_stallOn {s : State} {c} {op} {w} (h : s.MemWf) : (stallOn s c op w).MemWf := by
  grind [stallOn, memWf_State_setCore]

theorem memWf_stepPc {s : State} {c} {n} (h : s.MemWf) : (stepPc s c n).MemWf := by
  grind [stepPc, memWf_State_setCore]

theorem memWf_issueWord {op} {c} {w} {s : State} {act} {bad} (h : s.MemWf)
    (ha : ∀ w f t, act w s = some (f, t) → t.MemWf) : (issueWord op c w s act bad).MemWf := by
  unfold issueWord
  grind [memWf_faultCore, memWf_holdFor, memWf_stallOn, memWf_stepPc]

theorem memWf_pushArray {s : State} {c} {o} {x} {t : State} (h : s.MemWf) (e : pushArray s c o = some (x, t)) : t.MemWf := by
  grind [pushArray, memWf_State_setCore]

theorem memWf_faddRow {s : State} {a} {w} {d} {limit} (h : s.MemWf) : (faddRow s a w d limit).2.MemWf := by
  grind [faddRow, memWf_faddAt, memWf_reachBank]

theorem memWf_claimRow {s : State} {a} {w} {d} {limit} (h : s.MemWf) : (claimRow s a w d limit).2.MemWf := by
  grind [claimRow, memWf_faddRow, memWf_replayClaim]

theorem memWf_putTile {s : State} {c} {t} (h : s.MemWf) : (putTile s c t).MemWf := by
  grind [putTile, memWf_State_setCore]

theorem memWf_copyBytes {a} {b} {x3} {x4} {x5} {x6} {s : State} (h : s.MemWf) : (copyBytes a b x3 x4 x5 x6 s).2.MemWf := by
  fun_induction copyBytes a b x3 x4 x5 x6 s <;> grind [memWf_readAt, memWf_writeAt]

theorem memWf_copyScales {s : State} {x} {y} {fmt} {i} {j} (h : s.MemWf) : (copyScales s x y fmt i j).2.MemWf := by
  grind [copyScales, memWf_begin', memWf_copyBytes]

theorem memWf_copyRowsFrom {a} {b} {x} {y} {mx} {x6} {x7} {x8} {s : State} (h : s.MemWf) : (copyRowsFrom a b x y mx x6 x7 x8
    s).2.MemWf := by
  fun_induction copyRowsFrom a b x y mx x6 x7 x8 s <;> grind [memWf_copyScales, memWf_readAt, memWf_writeAt]

theorem memWf_copyRowsVia {s : State} {a} {b} {x} {y} {i} {j} {n} (h : s.MemWf) : (copyRowsVia s a b x y i j n).2.MemWf := by
  grind [copyRowsVia, memWf_markSeen, memWf_copyRowsFrom]

theorem memWf_copySegs {t} {a} {b} {src} {dst} {rows} {x7} {x8} {s : State} (h : s.MemWf) : (copySegs t a b src dst rows x7 x8
    s).2.MemWf := by
  fun_induction copySegs t a b src dst rows x7 x8 s <;> grind [memWf_copyRowsVia]

/-- The state that a staging leaves stands in its form. -/
def StageStep.MemWf : StageStep → Prop
  | .wait => True
  | .done _ s => s.MemWf
  | .fault _ s => s.MemWf

/-- The state that a step of a tile run leaves stands in its form. -/
def TileStep.MemWf : TileStep → Prop
  | .wait => True
  | .go s => s.MemWf
  | .fault _ _ s => s.MemWf

theorem memWf_stageTile {s : State} {c t x k b} (h : s.MemWf) : StageStep.MemWf (stageTile s c t x k b) := by
  unfold stageTile
  grind [StageStep.MemWf, memWf_copySegs]

theorem memWf_stageAll {c x l t} {s : State} (h : s.MemWf) : StageStep.MemWf (stageAll c x l t s) := by
  induction l generalizing t s with
  | nil => exact h
  | cons p l ih =>
    have ht : StageStep.MemWf (stageTile s c t x p.1 p.2) := memWf_stageTile h
    simp only [stageAll]
    cases e : stageTile s c t x p.1 p.2 <;> rw [e] at ht
    · trivial
    · exact ih ht
    · exact ht

theorem memWf_tileClaim {s : State} {c t} (h : s.MemWf) : TileStep.MemWf (tileClaim s c t) := by
  unfold tileClaim
  grind [TileStep.MemWf, memWf_begin', memWf_claimRow, memWf_putTile]

theorem memWf_tileLoad {s : State} {c t x} (h : s.MemWf) : TileStep.MemWf (tileLoad s c t x) := by
  unfold tileLoad
  grind [TileStep.MemWf, memWf_pushArray, memWf_putTile]

theorem memWf_tileMul {s : State} {c t x} (h : s.MemWf) : TileStep.MemWf (tileMul s c t x) := by
  unfold tileMul
  grind [TileStep.MemWf, memWf_pushArray, memWf_putTile]

theorem memWf_tileStep {s : State} {c t} (h : s.MemWf) : TileStep.MemWf (tileStep s c t) := by
  unfold tileStep
  split
  · split
    · trivial
    · exact memWf_tileClaim h
  next x _ _ =>
  split
  · trivial
  have ha : StageStep.MemWf (stageAll c x [(2, false), (2, true), (1, false), (1, true)] t s) := memWf_stageAll h
  split
  · trivial
  next e => rwa [e] at ha
  next t' s' e =>
  rw [e] at ha
  have hm : TileStep.MemWf (tileMul s' c t' x) := memWf_tileMul ha
  have hl : TileStep.MemWf (tileLoad s' c t' x) := memWf_tileLoad ha
  split <;> split
  · exact memWf_putTile ha
  · exact hm
  · exact memWf_putTile ha
  · exact hl

theorem memWf_pumpTileFrom {c} {n} {s : State} (h : s.MemWf) : (pumpTileFrom c n s).MemWf := by
  induction n generalizing s with
  | zero => exact h
  | succ n ih =>
    simp only [pumpTileFrom]
    split
    · exact h
    next t _ =>
    have ht : TileStep.MemWf (tileStep s c t) := memWf_tileStep h
    cases e : tileStep s c t <;> rw [e] at ht
    · exact h
    · dsimp only
      split
      exacts [ht, ih ht]
    · exact memWf_faultCore ht

theorem memWf_pumpTile {s : State} {c} (h : s.MemWf) : (pumpTile s c).MemWf := by
  grind [pumpTile, memWf_pumpTileFrom]

theorem memWf_segRows {s : State} {o} {x3} {x4} (h : s.MemWf) : (segRows s o x3 x4).2.MemWf := by
  fun_induction segRows s o x3 x4 <;> grind [memWf_accessRead]

theorem memWf_readBytes {s : State} {c} {k} {f} {lo} {n} (h : s.MemWf) : (readBytes s c k f lo n).2.MemWf := by
  grind [readBytes, memWf_accessRead]

theorem memWf_readSeg {s : State} {o} {start} {len} (h : s.MemWf) : (readSeg s o start len).2.MemWf := by
  grind [readSeg, memWf_segRows, memWf_readBytes]

theorem memWf_readSegs {o} {len} {x3} {x4} {s : State} (h : s.MemWf) : (readSegs o len x3 x4 s).2.MemWf := by
  induction x4 generalizing o x3 s <;> grind [readSegs, memWf_readSeg]

theorem memWf_commitColumn {s : State} {c} {j} (h : s.MemWf) : (commitColumn s c j).MemWf := by
  grind [commitColumn, memWf_State_setCore]

theorem memWf_commitAll {s : State} {c} (h : s.MemWf) : (commitAll s c).MemWf := by
  grind [State.MemWf, memWf_foldl, commitAll, memWf_commitColumn]

theorem memWf_completeLoad {s : State} {c} (h : s.MemWf) : (completeLoad s c).MemWf := by
  grind [completeLoad, memWf_State_setCore, memWf_readSegs, memWf_faultCore, memWf_commitAll]

theorem memWf_issueNext {s : State} {c} {parityError} (h : s.MemWf) : (issueNext s c parityError).MemWf := by
  grind [issueNext, memWf_faultCore, memWf_readSeg, memWf_commitAll, memWf_State_setCore]

theorem memWf_countOperand {s : State} {c} (h : s.MemWf) : (countOperand s c).MemWf := by
  grind [countOperand, memWf_State_setCore]

theorem memWf_commitChecked {s : State} {c} {j} {x4} (h : s.MemWf) : (commitChecked s c j x4).MemWf := by
  unfold commitChecked
  grind [memWf_commitColumn, memWf_countOperand, memWf_faultCore, State.MemWf, memWf_foldl]

theorem memWf_copyRows {s : State} {core} {a} {b} {i} {j} {n} (h : s.MemWf) : (copyRows s core a b i j n).2.MemWf := by
  grind [copyRows, memWf_copyRowsVia]

theorem memWf_rmovWord {w} {s : State} {c} {x} {t : State} (h : s.MemWf) (e : rmovWord w s c = some (x, t)) : t.MemWf := by
  grind [rmovWord, memWf_copyRows, memWf_State_setCore]

theorem memWf_moveDone {s : State} {c} (h : s.MemWf) : (moveDone s c).MemWf := by
  grind [moveDone, memWf_State_setCore]

theorem memWf_ksetWord {w} {s : State} {c} {x} {t : State} (h : s.MemWf) (e : ksetWord w s c = some (x, t)) : t.MemWf := by
  grind [ksetWord, memWf_State_setCore]

theorem memWf_readMembers {s : State} {c} {d} {g} (h : s.MemWf) : (readMembers s c d g).2.MemWf := by
  grind [readMembers, memWf_accessRead]

theorem memWf_tileMembers {s : State} {c} {d} {m} {g} (h : s.MemWf) : (tileMembers s c d m g).2.MemWf := by
  grind [tileMembers, memWf_readMembers]

theorem memWf_startTile {s : State} {c} {w} {shape} {deferred} (h : s.MemWf) : (startTile s c w shape deferred).2.MemWf := by
  unfold startTile
  grind [memWf_accessRead, memWf_tileMembers, State.MemWf, memWf_foldl]

theorem memWf_tileWord {w} {s : State} {c} {x} {t : State} (h : s.MemWf) (e : tileWord w s c = some (x, t)) : t.MemWf := by
  grind [tileWord, memWf_startTile, memWf_pumpTile, memWf_State_setCore]

theorem memWf_epilogueLanes {s : State} {c} {t} {x} {slot} {buf} (h : s.MemWf) : (epilogueLanes s c t x slot buf).MemWf := by
  grind [epilogueLanes, memWf_State_setCore]

theorem memWf_source {s : State} {c} {i} {kind} {f} (h : s.MemWf) : (source s c i kind f).2.MemWf := by
  unfold source
  grind [memWf_accessRead, State.MemWf, memWf_foldl]

theorem memWf_source1 {s : State} {c} {i} (h : s.MemWf) : (source1 s c i).2.MemWf := by
  grind [source1, memWf_source]

theorem memWf_source2 {s : State} {c} {i} (h : s.MemWf) : (source2 s c i).2.MemWf := by
  grind [source2, memWf_source]

theorem memWf_laneStep {c} {lane} {s : State} (h : s.MemWf) : (laneStep c lane s).2.MemWf := by
  grind [laneStep, memWf_State_setCore, memWf_State_fresh]

theorem memWf_drawLanes {c} {take} {x3} {s : State} (h : s.MemWf) : (drawLanes c take x3 s).2.MemWf := by
  fun_induction drawLanes c take x3 s <;> grind [memWf_laneStep]

theorem memWf_elementwise {s : State} {c} {i} {two} {acc} {rnd} {g} (h : s.MemWf) : (elementwise s c i two acc rnd g).2.MemWf :=
    by
  grind [elementwise, memWf_source1, memWf_source2, memWf_drawLanes, memWf_State_setCore]

theorem memWf_vecInt {s : State} {c} {i} (h : s.MemWf) : (vecInt s c i).2.MemWf := by
  grind [vecInt, memWf_elementwise]

theorem memWf_vecFp {s : State} {c} {i} (h : s.MemWf) : (vecFp s c i).2.MemWf := by
  grind [vecFp, memWf_elementwise]

theorem memWf_vecSign {s : State} {c} {i} (h : s.MemWf) : (vecSign s c i).2.MemWf := by
  grind [vecSign, memWf_elementwise]

theorem memWf_vecCompare {s : State} {c} {i} (h : s.MemWf) : (vecCompare s c i).2.MemWf := by
  grind [vecCompare, memWf_source1, memWf_source2, memWf_State_setCore]

theorem memWf_vecMask {s : State} {c} {i} (h : s.MemWf) : (vecMask s c i).2.MemWf := by
  grind [vecMask, memWf_State_setCore]

theorem memWf_vecSpecial {s : State} {c} {i} (h : s.MemWf) : (vecSpecial s c i).2.MemWf := by
  grind [vecSpecial, memWf_elementwise]

theorem memWf_vecReduce {s : State} {c} {i} (h : s.MemWf) : (vecReduce s c i).2.MemWf := by
  grind [vecReduce, memWf_source1, memWf_State_setCore]

theorem memWf_vecSoftmax {s : State} {c} {i} (h : s.MemWf) : (vecSoftmax s c i).2.MemWf := by
  grind [vecSoftmax, memWf_source1, memWf_State_setCore]

theorem memWf_vecRot {s : State} {c} {i} (h : s.MemWf) : (vecRot s c i).2.MemWf := by
  grind [vecRot, memWf_source1, memWf_State_setCore]

theorem memWf_vecMov {s : State} {c} {i} (h : s.MemWf) : (vecMov s c i).2.MemWf := by
  grind [vecMov, memWf_elementwise]

theorem memWf_vecConvert {s : State} {c} {i} (h : s.MemWf) : (vecConvert s c i).2.MemWf := by
  grind [vecConvert, memWf_source1, memWf_drawLanes, memWf_State_setCore]

theorem memWf_vecQuantize {s : State} {c} {i} (h : s.MemWf) : (vecQuantize s c i).2.MemWf := by
  grind [vecQuantize, memWf_source1, memWf_source2, memWf_drawLanes, memWf_State_setCore]

theorem memWf_vecDequantize {s : State} {c} {i} (h : s.MemWf) : (vecDequantize s c i).2.MemWf := by
  grind [vecDequantize, memWf_State_setCore]

theorem memWf_writeBytesFrom {k} {x2} {x3} {x4} {s : State} (h : s.MemWf) : (writeBytesFrom k x2 x3 x4 s).2.MemWf := by
  fun_induction writeBytesFrom k x2 x3 x4 s <;> grind [memWf_State_take, memWf_readAt, memWf_writeAt]

theorem memWf_writeBytes {s : State} {c} {k} {lo} {bs} (h : s.MemWf) : (writeBytes s c k lo bs).2.MemWf := by
  grind [writeBytes, memWf_begin', memWf_writeBytesFrom]

theorem memWf_vecRow {s : State} {c} {i} (h : s.MemWf) : (vecRow s c i).2.MemWf := by
  grind [vecRow, memWf_accessRead, memWf_State_setCore, memWf_readBytes, memWf_accessWrite, memWf_writeBytes]

theorem memWf_vecRandom {s : State} {c} {i} (h : s.MemWf) : (vecRandom s c i).2.MemWf := by
  grind [vecRandom, memWf_drawLanes, memWf_State_setCore]

theorem memWf_vecFlagRead {s : State} {c} {i} (h : s.MemWf) : (vecFlagRead s c i).2.MemWf := by
  grind [vecFlagRead, memWf_State_setCore]

theorem memWf_vecFlagClear {s : State} {c} {i} (h : s.MemWf) : (vecFlagClear s c i).2.MemWf := by
  grind [vecFlagClear, memWf_State_setCore]

theorem memWf_vecRun {s : State} {c} {i} (h : s.MemWf) : (vecRun s c i).2.MemWf := by
  have branch (p : Prop) [Decidable p] {x y : Option Flt × State} (hx : x.2.MemWf) (hy : y.2.MemWf) :
      (if p then x else y).2.MemWf := by split <;> assumption
  exact branch _ h <| branch _ (memWf_vecInt h) <| branch _ (memWf_vecFp h) <| branch _ (memWf_vecSign h) <|
    branch _ (memWf_vecCompare h) <| branch _ (memWf_vecMask h) <| branch _ (memWf_vecSpecial h) <|
    branch _ (memWf_vecReduce h) <| branch _ (memWf_vecSoftmax h) <| branch _ (memWf_vecRot h) <|
    branch _ (memWf_vecMov h) <| branch _ (memWf_vecConvert h) <| branch _ (memWf_vecQuantize h) <|
    branch _ (memWf_vecDequantize h) <| branch _ (memWf_vecRow h) <| branch _ (memWf_vecRandom h) <|
    branch _ (memWf_vecFlagRead h) (memWf_vecFlagClear h)

theorem memWf_vecExec {s : State} {c} {w} (h : s.MemWf) : (vecExec s c w).2.MemWf := by
  grind [vecExec, memWf_vecRun]

theorem memWf_runEpilogue {c} {deferred} {x3} {x4} {s : State} (h : s.MemWf) : (runEpilogue c deferred x3 x4 s).2.MemWf := by
  induction x3 generalizing x4 s <;> grind [runEpilogue, memWf_vecExec, memWf_State_setCore]

theorem memWf_tileEpilogue {s : State} {c} (h : s.MemWf) : (tileEpilogue s c).MemWf := by
  grind [tileEpilogue, memWf_epilogueLanes, memWf_runEpilogue, memWf_faultCore, memWf_pumpTile, memWf_putTile]

theorem memWf_flushStream {s : State} {n} (h : s.MemWf) : (flushStream s n).MemWf := by
  grind [State.MemWf, memWf_foldl, flushStream, memWf_State_setStream, memWf_countLocalDrop, memWf_pushFlits]

theorem memWf_streamRecords {s : State} {n} {bs} (h : s.MemWf) : (streamRecords s n bs).MemWf := by
  grind [streamRecords, memWf_flushStream, memWf_State_setStream]

theorem memWf_putWire {s : State} {c} {port} {vc} {t} (h : s.MemWf) : (putWire s c port vc t).MemWf := by
  grind [putWire, memWf_State_setCore]

theorem memWf_chSend {s : State} {c} {ch} {t} (h : s.MemWf) : (chSend s c ch t).MemWf := by
  grind [chSend, memWf_streamRecords, memWf_State_setStream, memWf_putWire, memWf_State_setCore]

theorem memWf_pumpChannel {c} {ch} {x3} {s : State} (h : s.MemWf) : (pumpChannel c ch x3 s).MemWf := by
  fun_induction pumpChannel c ch x3 s <;> grind [memWf_State_setCore, memWf_chSend]

theorem memWf_queueTokens {s : State} {c} {ch} {ts} (h : s.MemWf) : (queueTokens s c ch ts).MemWf := by
  grind [queueTokens, memWf_pumpChannel, memWf_State_setCore]

theorem memWf_shipTokens {c} {cap} {ch} {x4} {s : State} (h : s.MemWf) : (shipTokens c cap ch x4 s).2.MemWf := by
  fun_induction shipTokens c cap ch x4 s <;> grind [memWf_accessRead, memWf_queueTokens]

theorem memWf_tileShip {s : State} {c} (h : s.MemWf) : (tileShip s c).MemWf := by
  grind [tileShip, memWf_copySegs, memWf_shipTokens, memWf_faultCore, memWf_pumpTile, memWf_putTile]

theorem memWf_streamCredit {s : State} {n} (h : s.MemWf) : (streamCredit s n).MemWf := by
  grind [streamCredit, memWf_streamRecords, memWf_State_setStream]

theorem memWf_streamPop {s : State} {n} (h : s.MemWf) : (streamPop s n).MemWf := by
  grind [streamPop, memWf_State_setStream, memWf_streamCredit]

theorem memWf_creditBack {s : State} {c} {port} {vc} (h : s.MemWf) : (creditBack s c port vc).MemWf := by
  grind [creditBack, memWf_State_setCore]

theorem memWf_chPop {s : State} {c} {ch} (h : s.MemWf) : (chPop s c ch).MemWf := by
  grind [chPop, memWf_streamPop, memWf_State_setCore, memWf_creditBack]

theorem memWf_recvRow {s : State} {c} {o} {r} (h : s.MemWf) : (recvRow s c o r).2.MemWf := by
  grind [recvRow, memWf_State_setCore, memWf_accessWrite]

/-- The state that a step of a receive leaves stands in its form. -/
def RecvStep.MemWf : RecvStep → Prop
  | .wait => True
  | .go _ s => s.MemWf
  | .complete s => s.MemWf
  | .fault _ s => s.MemWf

theorem memWf_recvStep {s : State} {c} {o} (h : s.MemWf) : RecvStep.MemWf (recvStep s c o) := by
  unfold recvStep
  grind [RecvStep.MemWf, memWf_chPop, memWf_recvRow, memWf_State_setCore]

theorem memWf_pumpRecvs {c} {x2} {x3} {x4} {s : State} (h : s.MemWf) : (pumpRecvs c x2 x3 x4 s).MemWf := by
  have step := @memWf_recvStep
  fun_induction pumpRecvs c x2 x3 x4 s <;> grind [RecvStep.MemWf, memWf_State_setCore, memWf_faultCore]

theorem memWf_runRecvs {s : State} {c} (h : s.MemWf) : (runRecvs s c).MemWf := by
  grind [runRecvs, memWf_pumpRecvs]

theorem memWf_tileEnd {s : State} {c} (h : s.MemWf) : (tileEnd s c).MemWf := by
  grind [tileEnd, memWf_runRecvs, memWf_State_setCore, memWf_queueTokens]

theorem memWf_wclaimWord {w} {s : State} {c} {x} {t : State} (h : s.MemWf) (e : wclaimWord w s c = some (x, t)) : t.MemWf := by
  grind [wclaimWord, memWf_begin', memWf_claimRow, memWf_State_setCore]

theorem memWf_csend {w} {s : State} {c} {x} {t : State} (h : s.MemWf) (e : csend w s c = some (x, t)) : t.MemWf := by
  grind [csend, memWf_accessRead, memWf_State_setCore, memWf_queueTokens]

theorem memWf_crecv {w} {s : State} {c} {x} {t : State} (h : s.MemWf) (e : crecv w s c = some (x, t)) : t.MemWf := by
  grind [crecv, memWf_runRecvs, memWf_State_setCore]

theorem memWf_ctok {w} {s : State} {c} {x} {t : State} (h : s.MemWf) (e : ctok w s c = some (x, t)) : t.MemWf := by
  grind [ctok, memWf_chSend]

theorem memWf_ctake {w} {s : State} {c} {x} {t : State} (h : s.MemWf) (e : ctake w s c = some (x, t)) : t.MemWf := by
  grind [ctake, memWf_chPop, memWf_State_setCore]

theorem memWf_wqueue {w} {s : State} {c} {x} {t : State} (h : s.MemWf) (e : wqueue w s c = some (x, t)) : t.MemWf := by
  grind [wqueue, memWf_State_setCore]

theorem memWf_wfence {s : State} {c} {x} {t : State} (h : s.MemWf) (e : wfence s c = some (x, t)) : t.MemWf := by
  grind [wfence, memWf_State_setCore]

theorem memWf_bufBytes {s : State} {buf} {lo} {n} (h : s.MemWf) : (bufBytes s buf lo n).2.MemWf := by
  grind [bufBytes, memWf_consumeRows]

theorem memWf_stashInRows {k} {sc} {buf} {hdr} {x5} {x6} {x7} {s : State} (h : s.MemWf) : (stashInRows k sc buf hdr x5 x6 x7
    s).2.MemWf := by
  fun_induction stashInRows k sc buf hdr x5 x6 x7 s <;> grind [memWf_bufBytes, memWf_writeAt]

theorem memWf_stashIn {s : State} {c} {w} {k} {buf} (h : s.MemWf) : (stashIn s c w k buf).2.MemWf := by
  grind [stashIn, memWf_begin', memWf_consumeRows, memWf_stashInRows]

theorem memWf_stashRows {k} {sc} {buf} {w} {key} {room} {x7} {x8} {x9} {x10} {s : State} (h : s.MemWf) :
    (stashRows k sc buf w key room x7 x8 x9 x10 s).2.2.2.MemWf := by
  induction x7 generalizing x8 x9 x10 s <;> grind [stashRows, memWf_consumeAt, memWf_readBytes]

theorem memWf_stashOut {s : State} {c} {w} {k} {buf} (h : s.MemWf) : (stashOut s c w k buf).2.MemWf := by
  unfold stashOut
  have hs : (s.fresh 64).2.MemWf := memWf_State_fresh h
  have hb : ∀ fmt, (if SH.count w = 0 then (none, (s.fresh 64).2)
      else begin' (s.fresh 64).2 (s.fresh 64).2.grid.ctx k pRD fmt).2.MemWf := by
    intro fmt
    split
    · exact hs
    · exact memWf_begin' hs
  dsimp only
  split
  next e => grind
  next s1 e =>
  have h1 : s1.MemWf := by grind
  clear hb e
  split
  next e => grind [memWf_begin']
  next s2 e =>
  have h2 : s2.MemWf := by grind [memWf_begin']
  clear e
  have h3 := fun key room => memWf_State_fresh (w := 4096) (memWf_stashRows (k := k) (sc := scaleCap s2 k (some c)) (buf := buf)
    (w := w)
    (key := key) (room := room) (x7 := SH.count w) (x8 := SH.row w) (x9 := []) (x10 := []) h2)
  split
  next e => grind [memWf_putRows]
  next s4 e =>
  have h4 : s4.MemWf := by grind [memWf_putRows]
  clear e
  split
  · exact h4
  split
  next e => grind [memWf_putRows]
  next e => grind [memWf_putRows]

theorem memWf_stashWord {w} {s : State} {c} {x} {t : State} (h : s.MemWf) (e : stashWord w s c = some (x, t)) : t.MemWf := by
  grind [stashWord, memWf_stashIn, memWf_stashOut, memWf_State_setCore]

theorem memWf_seqjWord {w} {s : State} {c} {x} {t : State} (h : s.MemWf) (e : seqjWord w s c = some (x, t)) : t.MemWf := by
  grind [seqjWord, memWf_State_setCore]

theorem memWf_deferredStart {s : State} {c} (h : s.MemWf) : (deferredStart s c).MemWf := by
  grind [deferredStart, memWf_pumpTile, memWf_State_setCore, memWf_startTile, memWf_faultCore]

theorem memWf_deferredSuspend {s : State} {c} (h : s.MemWf) : (deferredSuspend s c).MemWf := by
  grind [deferredSuspend, memWf_runRecvs, memWf_State_setCore]

theorem memWf_issueVector {op} {c} {w} {x4} {s : State} (h : s.MemWf) : (issueVector op c w x4 s).MemWf := by
  grind [issueVector, memWf_faultCore, memWf_holdFor, memWf_countOperand, memWf_vecExec, memWf_stepPc, memWf_State_setCore]

theorem memWf_refill {s : State} {c} {ch} (h : s.MemWf) : (refill s c ch).MemWf := by
  grind [refill, memWf_begin', memWf_faultCore, memWf_consumeAt, memWf_State_setCore]

theorem memWf_placeElastic {s : State} {c} {ch} {t} (h : s.MemWf) : (placeElastic s c ch t).MemWf := by
  grind [placeElastic, memWf_refill, memWf_creditBack, memWf_State_setCore, memWf_faultCore, memWf_begin', memWf_writeAt]

theorem memWf_arrive {s : State} {c} {port} {vc} {parityError} (h : s.MemWf) : (arrive s c port vc parityError).MemWf := by
  grind [arrive, memWf_State_setCore, memWf_faultCore, memWf_runRecvs, memWf_placeElastic]

theorem memWf_creditArrive {s : State} {c} {ch} (h : s.MemWf) : (creditArrive s c ch).MemWf := by
  grind [creditArrive, memWf_State_setCore, memWf_pumpChannel]

theorem memWf_forwardRoute {s : State} {c} {r} (h : s.MemWf) : (forwardRoute s c r).MemWf := by
  grind [forwardRoute, memWf_arrive, memWf_putWire, memWf_State_setCore]

theorem memWf_setUnit {s : State} {c} {u} {x} (h : s.MemWf) : (setUnit s c u x).MemWf := by
  grind [setUnit, memWf_State_setCore]

theorem memWf_steerFault {s : State} {c} {u} {ch} (h : s.MemWf) : (steerFault s c u ch).MemWf := by
  grind [steerFault, memWf_faultCore, memWf_setUnit]

theorem memWf_moveFire {s : State} {c} {u} (h : s.MemWf) : (moveFire s c u).MemWf := by
  grind [moveFire, memWf_steerFault, memWf_chSend, memWf_chPop]

theorem memWf_mergeEnd {s : State} {c} (h : s.MemWf) : (mergeEnd s c).MemWf := by
  grind [mergeEnd, memWf_setUnit, memWf_chPop]

theorem memWf_mergeStep {s : State} {c} (h : s.MemWf) : (mergeStep s c).MemWf := by
  grind [mergeStep, memWf_mergeEnd, memWf_steerFault, memWf_chSend, memWf_chPop, memWf_setUnit]

theorem memWf_repeatStep {s : State} {c} (h : s.MemWf) : (repeatStep s c).MemWf := by
  grind [repeatStep, memWf_steerFault, memWf_chPop, memWf_chSend, memWf_setUnit]

theorem memWf_mergeOut {s : State} {c} (h : s.MemWf) : (mergeOut s c).MemWf := by
  grind [mergeOut, memWf_chSend, memWf_setUnit]

theorem memWf_sendAll {c} {chs} {t} {s : State} (h : s.MemWf) : (sendAll c chs t s).MemWf := by
  grind [State.MemWf, memWf_foldl, sendAll, memWf_chSend]

theorem memWf_popAll {c} {chs} {s : State} (h : s.MemWf) : (popAll c chs s).MemWf := by
  grind [State.MemWf, memWf_foldl, popAll, memWf_chPop]

theorem memWf_endPass {s : State} {c} {u} (h : s.MemWf) : (endPass s c u).MemWf := by
  grind [State.MemWf, memWf_foldl, endPass, memWf_mergeOut, memWf_sendAll, memWf_popAll, memWf_mergeEnd, memWf_steerFault]

theorem memWf_deadlock {s : State} (h : s.MemWf) : (deadlock s).MemWf := by
  grind [State.MemWf, memWf_foldl, deadlock, memWf_State_fresh, memWf_bbAppend, memWf_raiseFault]

theorem memWf_coreFault {s : State} {c} {status} {i} (h : s.MemWf) : (coreFault s c status i).MemWf := by
  grind [coreFault, memWf_raiseFault]

theorem memWf_applyHeld {s : State} (h : s.MemWf) : (applyHeld s).MemWf := by
  grind [State.MemWf, memWf_foldl, applyHeld, memWf_keyApply]

theorem memWf_dropDone {s : State} {c} (h : s.MemWf) : (dropDone s c).MemWf := by
  grind [State.MemWf, memWf_foldl, dropDone, memWf_chPop]

theorem memWf_joinFlags {s : State} (h : s.MemWf) : (joinFlags s).MemWf := by
  grind [State.MemWf, memWf_foldl, joinFlags, memWf_State_setCore, memWf_State_setCtx]

theorem memWf_collectFlags {s : State} (h : s.MemWf) : (collectFlags s).MemWf := by
  grind [State.MemWf, memWf_foldl, collectFlags, memWf_dropDone, memWf_State_setCore, memWf_joinFlags]

theorem memWf_readyFrom {x1} {s : State} (h : s.MemWf) : (readyFrom x1 s).2.MemWf := by
  fun_induction readyFrom x1 s <;> grind [memWf_beginRun]

theorem memWf_idleGrid {s : State} (h : s.MemWf) : (idleGrid s).MemWf := by
  grind [State.MemWf, idleGrid]

theorem memWf_chooseNext {s : State} {c} (h : s.MemWf) : (chooseNext s c).MemWf := by
  grind [chooseNext, memWf_readyFrom, memWf_loadSection, memWf_idleGrid]

theorem memWf_afterHinge {s : State} {c} (h : s.MemWf) : (afterHinge s c).MemWf := by
  grind [afterHinge, memWf_readyFrom, memWf_loadSection, memWf_chooseNext]

theorem memWf_settleRun {s : State} {c} (h : s.MemWf) : (settleRun s c).MemWf := by
  grind [settleRun, memWf_finishRun]

theorem memWf_hinge {s : State} (h : s.MemWf) : (hinge s).MemWf := by
  grind [hinge, memWf_coreFault, memWf_applyHeld, memWf_collectFlags, memWf_State_setRun, memWf_afterHinge, memWf_settleRun]

theorem memWf_freeSpill {s : State} {c} (h : s.MemWf) : (freeSpill s c).MemWf := by
  grind [State.MemWf, memWf_foldl, freeSpill, memWf_State_fresh, memWf_rawPut]

theorem memWf_preloadImages {ctx} {next} {hdr} {x4} {s : State} (h : s.MemWf) : (preloadImages ctx next hdr x4 s).MemWf := by
  induction x4 generalizing s <;>
    grind [preloadImages, memWf_fetchImage, memWf_placeImage, memWf_State_setCore, State.MemWf]

theorem memWf_startSection {s : State} (h : s.MemWf) : (startSection s).MemWf := by
  grind [State.MemWf, memWf_foldl, startSection, memWf_State_setRun, memWf_State_setCore, memWf_freeSpill, memWf_accessRead,
    memWf_preloadImages]

theorem memWf_refuseReq {s : State} {r} {st} (h : s.MemWf) : (refuseReq s r st).MemWf := by
  grind [refuseReq, memWf_State_answer, memWf_faultIssuer]

theorem memWf_bankRequest {s : State} {b} {r} (h : s.MemWf) : (bankRequest s b r).MemWf := by
  grind [bankRequest, memWf_serveReq, memWf_State_setBank, memWf_refuseReq, memWf_lateWake]

theorem memWf_meshRequest {s : State} {r} (h : s.MemWf) : (meshRequest s r).MemWf := by
  unfold meshRequest
  dsimp only
  refine iteInduction (fun _ => memWf_refuseReq h) fun _ => ?_
  split
  · exact memWf_refuseReq h
  · exact memWf_refuseReq h
  · exact memWf_bankRequest h
  · exact memWf_serveReq h
  refine iteInduction (fun _ => memWf_refuseReq h) fun _ => ?_
  split
  · exact memWf_serveReq h
  · exact iteInduction (fun _ => memWf_refuseReq h) fun _ => memWf_serveReq h
  · exact memWf_State_answer h
  · exact memWf_State_answer h

theorem memWf_engineRequest {s : State} {c} {x3} {p} {f} {n} {r} (h : s.MemWf) : (engineRequest s c x3 p f n r).MemWf := by
  grind [engineRequest, memWf_State_answer, memWf_faultCtx, memWf_meshRequest, memWf_begin']

theorem memWf_onSlotBucket {s : State} {v} {f} (h : s.MemWf) : (onSlotBucket s v f).MemWf := by
  grind [onSlotBucket, memWf_State_setColl]

theorem memWf_granuleOut {s : State} {key} {st} {n} {vals} (h : s.MemWf) : (granuleOut s key st n vals).2.MemWf := by
  grind [granuleOut, memWf_State_fresh, memWf_rawPut]

/-- The state that a granule leaves stands in its form. -/
def GranuleStep.MemWf : GranuleStep → Prop
  | .skipped => True
  | .poisoned _ => True
  | .written _ s => s.MemWf

theorem memWf_granule {s : State} {d key n} (h : s.MemWf) : GranuleStep.MemWf (granule s d key n) := by
  unfold granule
  grind [GranuleStep.MemWf, memWf_granuleOut, memWf_foldl_snd, memWf_wordPut]

theorem memWf_granules {d key n m x} (h : x.2.2.2.2.MemWf) : (granules d key n m x).2.2.2.2.MemWf := by
  induction n generalizing m x with
  | zero => exact h
  | succ n ih =>
    obtain ⟨fl, wr, sk, b, s⟩ := x
    have g : GranuleStep.MemWf (granule s d key m) := memWf_granule h
    grind [granules, GranuleStep.MemWf]

theorem memWf_putUflags {s : State} {v} {fl} (h : s.MemWf) : (putUflags s v fl).MemWf := by
  grind [putUflags, memWf_setRecord]

theorem memWf_fwModify {s : State} {a} {f} (h : s.MemWf) : (fwModify s a f).MemWf := by
  grind [fwModify, memWf_writeRow]

theorem memWf_updateStart {s : State} {e} (h : s.MemWf) : (updateStart s e).MemWf := by
  unfold updateStart
  dsimp only
  split
  · exact h
  · exact h
  next i q _ _ =>
  have hs : (s.setEngine (updEngine e) { s.engine (updEngine e) with updateQ := q }).MemWf := memWf_State_setEngine h
  split
  · exact memWf_raiseFault hs
  split
  · exact memWf_slotNotice (memWf_onSlotBucket hs)
  split
  · split
    · exact memWf_raiseFault hs
    · exact memWf_slotNotice (memWf_onSlotBucket hs)
  split
  · exact memWf_slotNotice (memWf_onSlotBucket hs)
  split
  · exact memWf_slotNotice (memWf_onSlotBucket (memWf_fwWrite hs))
  split
  · exact memWf_slotNotice (memWf_onSlotBucket hs)
  have hg := fun a r d key n => memWf_granules (d := d) (key := key) (n := n) (m := 0)
    (x := (0, 0, 0, none, fwWrite _ a r)) (memWf_fwWrite hs)
  split
  · exact memWf_raiseFault (memWf_fwModify (memWf_putUflags (hg _ _ _ _ _)))
  · exact memWf_State_setEngine (memWf_putUflags (hg _ _ _ _ _))

theorem memWf_updateDone {s : State} {x2} (h : s.MemWf) : (updateDone s x2).MemWf := by
  grind [updateDone, memWf_State_setEngine, memWf_slotNotice, memWf_ctxModify]

theorem memWf_rowEvent {s : State} {code} {p} (h : s.MemWf) : (rowEvent s code p).MemWf := by
  unfold rowEvent
  grind [memWf_bbAppend, State.MemWf, memWf_foldl]

theorem memWf_remapRow {s : State} {p} {afterPoison} (h : s.MemWf) : (remapRow s p afterPoison).MemWf := by
  grind [State.MemWf, remapRow, memWf_rowEvent]

theorem memWf_scrubMeets {s : State} {k} {a} (h : s.MemWf) : (scrubMeets s k a).MemWf := by
  grind [State.MemWf, scrubMeets]

theorem memWf_scrubCore {s : State} {c} {b} {f} (h : s.MemWf) : (scrubCore s c b f).MemWf := by
  grind [State.MemWf, scrubCore, memWf_placeFinding, memWf_scrubMeets]

theorem memWf_scrubChip {s : State} {b} {f} (h : s.MemWf) : (scrubChip s b f).MemWf := by
  grind [State.MemWf, scrubChip, memWf_settleBank, memWf_placeFinding, memWf_scrubMeets]

theorem memWf_patrolTick {s : State} {fs} (h : s.MemWf) : (patrolTick s fs).MemWf := by
  grind [State.MemWf, memWf_foldl, patrolTick, memWf_channelFinding, memWf_scrubMeets, memWf_State_setChan]

theorem memWf_transferRetry {s : State} {a} {failures} {m} (h : s.MemWf) : (transferRetry s a failures m).MemWf := by
  grind [transferRetry, memWf_State_setChan, memWf_addPoison]

theorem memWf_loseMoves {p} {s : State} {c} (h : s.MemWf) : (loseMoves p s c).MemWf := by
  grind [State.MemWf, memWf_foldl, loseMoves, memWf_State_fresh, memWf_rawPut, memWf_coreFault]

theorem memWf_portDown {s : State} {p} (h : s.MemWf) : (portDown s p).MemWf := by
  grind [State.MemWf, memWf_foldl, portDown, memWf_loseMoves, memWf_State_setCxl]

theorem memWf_stagedBlocks {s : State} {x2} {j} {x4} (h : s.MemWf) : (stagedBlocks s x2 j x4).2.MemWf := by
  fun_induction stagedBlocks s x2 j x4 <;> grind [memWf_readRow]

theorem memWf_sendPart {s : State} {id} {k} (h : s.MemWf) : (sendPart s id k).MemWf := by
  unfold sendPart
  split
  · exact h
  dsimp only
  split
  · exact h
  split
  · exact h
  split
  · exact memWf_faultCtx (memWf_onBucket (by grind [memWf_stagedBlocks]))
  next s1 e =>
  have h1 : s1.MemWf := by grind [memWf_stagedBlocks]
  split
  · exact h1
  next e => exact memWf_onBucket (memWf_issueReq h1 e)

theorem memWf_sendBucket {s : State} {id} {k} (h : s.MemWf) : (sendBucket s id k).MemWf := by
  grind [State.MemWf, memWf_foldl, sendBucket, memWf_sendPart]

theorem memWf_updRecord {s : State} {c} {k} {f} (h : s.MemWf) : (updRecord s c k f).MemWf := by
  grind [updRecord, memWf_setRecord]

theorem memWf_readyPoll {s : State} {id} {k} (h : s.MemWf) : (readyPoll s id k).MemWf := by
  grind [readyPoll, memWf_sendBucket, memWf_updRecord, memWf_onBucket]

theorem memWf_pumpOwner {s : State} {id} {k} (h : s.MemWf) : (pumpOwner s id k).MemWf := by
  grind [pumpOwner, memWf_issueQueue, memWf_onBucket]

theorem memWf_distribute {s : State} {id} {k} (h : s.MemWf) : (distribute s id k).MemWf := by
  grind [State.MemWf, memWf_foldl, distribute, memWf_ctxWrite, memWf_pumpOwner, memWf_onBucket]

theorem memWf_wakeWaits {s : State} {id} {k} (h : s.MemWf) : (wakeWaits s id k).MemWf := by
  grind [State.MemWf, memWf_foldl, wakeWaits, memWf_State_finish]

theorem memWf_settleRecord {s : State} {id} {k} {v} (h : s.MemWf) : (settleRecord s id k v).MemWf := by
  grind [settleRecord, memWf_wakeWaits, memWf_updRecord]

theorem memWf_sendNotices {s : State} {id} {k} {code} {gen} (h : s.MemWf) : (sendNotices s id k code gen).MemWf := by
  grind [sendNotices, memWf_pumpOwner, memWf_onBucket]

theorem memWf_raiseScales {s : State} {c} {x3} (h : s.MemWf) : (raiseScales s c x3).MemWf := by
  grind [State.MemWf, memWf_foldl, raiseScales, memWf_ctxModify]

theorem memWf_memberRescale {s : State} {id} {k} (h : s.MemWf) : (memberRescale s id k).MemWf := by
  grind [memberRescale, memWf_raiseScales, memWf_updRecord, memWf_onBucket, memWf_entryWord]

theorem memWf_rearm {s : State} {id} {k} (h : s.MemWf) : (rearm s id k).MemWf := by
  grind [State.MemWf, memWf_foldl, rearm, memWf_entryWord, memWf_zeroSum, memWf_State_setEngine]

theorem memWf_noticePoll {s : State} {id} {k} (h : s.MemWf) : (noticePoll s id k).MemWf := by
  grind [noticePoll, memWf_onBucket, memWf_distribute, memWf_settleRecord, memWf_sendNotices, memWf_memberRescale, memWf_rearm]

theorem memWf_distributionDone {s : State} {id} {k} (h : s.MemWf) : (distributionDone s id k).MemWf := by
  grind [distributionDone, memWf_pumpOwner, memWf_onBucket]

theorem memWf_accRetry {s : State} {tag} (h : s.MemWf) : (accRetry s tag).MemWf := by
  grind [State.MemWf, accRetry, memWf_dispatchPacket]

theorem memWf_epochAhead {s : State} {tag} (h : s.MemWf) : (epochAhead s tag).MemWf := by
  grind [State.MemWf, epochAhead, memWf_raiseFault, memWf_onBucket]

theorem memWf_abandonBucket {s : State} {id} {k} (h : s.MemWf) : (abandonBucket s id k).MemWf := by
  grind [abandonBucket, memWf_onBucket, memWf_updRecord]

theorem memWf_waitFault {s : State} {c} {d} (h : s.MemWf) : (waitFault s c d).MemWf := by
  grind [waitFault, memWf_faultCmd, memWf_State_finish, memWf_raiseFault]

theorem memWf_collWaitExpired {s : State} {id} {k} {w} (h : s.MemWf) : (collWaitExpired s id k w).MemWf := by
  unfold collWaitExpired
  grind [memWf_abandonBucket, memWf_bucketWait, memWf_dropRetries, memWf_faultCmd, memWf_onBucket, memWf_raiseFault,
    memWf_releaseSlots, memWf_waitFault, State.MemWf, memWf_foldl]

theorem memWf_faultEntry {s : State} {c} {x3} {f} (h : s.MemWf) : (faultEntry s c x3 f).MemWf := by
  grind [faultEntry, memWf_raiseFault]

theorem memWf_onGroup {s : State} {c} {g} {f} (h : s.MemWf) : (onGroup s c g f).MemWf := by
  grind [onGroup, memWf_State_setRun]

theorem memWf_onPiece {s : State} {c} {g} {p} {f} (h : s.MemWf) : (onPiece s c g p f).MemWf := by
  grind [onPiece, memWf_onGroup]

theorem memWf_askHeader {s : State} {c} {g} {p} (h : s.MemWf) : (askHeader s c g p).MemWf := by
  grind [askHeader, memWf_issueReq, memWf_onPiece]

theorem memWf_gatherStart {s : State} {c} (h : s.MemWf) : (gatherStart s c).MemWf := by
  grind [State.MemWf, memWf_foldl, gatherStart, memWf_accessRead, memWf_faultEntry, memWf_State_setRun, memWf_State_setKey,
    memWf_askHeader]

theorem memWf_headerRetry {s : State} {c} {x3} (h : s.MemWf) : (headerRetry s c x3).MemWf := by
  unfold headerRetry
  grind [memWf_issueReq, memWf_onPiece, State.MemWf, memWf_foldl]

theorem memWf_gatherTimeout {s : State} {c} {x3} (h : s.MemWf) : (gatherTimeout s c x3).MemWf := by
  grind [gatherTimeout, memWf_faultEntry]

theorem memWf_releaseReads {s : State} (h : s.MemWf) : (releaseReads s).MemWf := by
  grind [State.MemWf, memWf_foldl, releaseReads, memWf_readDone]

theorem memWf_entryReleased {s : State} {c} (h : s.MemWf) : (entryReleased s c).MemWf := by
  grind [State.MemWf, memWf_foldl, entryReleased, memWf_settleRun, memWf_pumpTile, memWf_releaseReads]

theorem memWf_gatherComplete {s : State} {c} {g} (h : s.MemWf) : (gatherComplete s c g).MemWf := by
  grind [gatherComplete, memWf_State_setKey, memWf_entryReleased, memWf_onGroup]

theorem memWf_readTable {s : State} {c} {x3} {o} {n} (h : s.MemWf) : (readTable s c x3 o n).2.MemWf := by
  grind [readTable, memWf_accessRead]

theorem memWf_readDesc {s : State} {c} {x} (h : s.MemWf) : (readDesc s c x).2.MemWf := by
  grind [readDesc, memWf_begin', memWf_accessRead]

theorem memWf_readOrigins {s : State} {c} {d} {x4} (h : s.MemWf) : (readOrigins s c d x4).2.MemWf := by
  fun_induction readOrigins s c d x4 <;> grind [memWf_readTable]

theorem memWf_exchCheck {s : State} {c} {x3} (h : s.MemWf) : (exchCheck s c x3).2.MemWf := by
  grind [exchCheck, memWf_readTable, memWf_readOrigins]

theorem memWf_setExchState {s : State} {c} {x} {f} (h : s.MemWf) : (setExchState s c x f).MemWf := by
  grind [setExchState, memWf_ctxModify]

theorem memWf_onExch {s : State} {c} {i} {f} (h : s.MemWf) : (onExch s c i f).MemWf := by
  grind [onExch, memWf_State_setRun]

theorem memWf_settleRows {s : State} {c} {x} (h : s.MemWf) : (settleRows s c x).MemWf := by
  grind [settleRows, memWf_accessWrite, memWf_faultEntry, memWf_entryReleased, memWf_onExch]

theorem memWf_recordDispatch {s : State} {c} {x} (h : s.MemWf) : (recordDispatch s c x).MemWf := by
  grind [recordDispatch, memWf_setExchState, memWf_onExch]

theorem memWf_settleExch {s : State} {c} {i} (h : s.MemWf) : (settleExch s c i).MemWf := by
  grind [settleExch, memWf_settleRows, memWf_recordDispatch]

theorem memWf_pumpExch {s : State} {c} {i} (h : s.MemWf) : (pumpExch s c i).MemWf := by
  grind [pumpExch, memWf_issueQueue, memWf_onExch]

theorem memWf_sendExch {s : State} {c} {i} {ps} (h : s.MemWf) : (sendExch s c i ps).MemWf := by
  grind [sendExch, memWf_pumpExch, memWf_onExch]

theorem memWf_sendCounts {s : State} {c} {x} {round} {l} (h : s.MemWf) : (sendCounts s c x round l).MemWf := by
  grind [sendCounts, memWf_sendExch, memWf_onExch]

theorem memWf_startDispatch {s : State} {c} {i} {x} {d} (h : s.MemWf) : (startDispatch s c i x d).MemWf := by
  grind [startDispatch, memWf_setExchState, memWf_settleExch, memWf_sendCounts, memWf_State_setRun]

theorem memWf_zeroFill {s : State} {c} {x} {d} (h : s.MemWf) : (zeroFill s c x d).2.MemWf := by
  unfold zeroFill
  exact memWf_foldl_snd h fun y a hy => by grind [memWf_accessWrite]

theorem memWf_startReturn {s : State} {c} {i} {x} {d} (h : s.MemWf) : (startReturn s c i x d).MemWf := by
  grind [startReturn, memWf_State_setRun, memWf_zeroFill, memWf_faultEntry, memWf_settleExch, memWf_sendExch]

theorem memWf_exchStart {s : State} {c} (h : s.MemWf) : (exchStart s c).MemWf := by
  unfold exchStart
  split
  · exact h
  dsimp only
  split
  · exact h
  split
  · exact memWf_faultEntry (by grind [memWf_readTable])
  next s1 e =>
  have h1 : s1.MemWf := by grind [memWf_readTable]
  clear e
  split
  · exact memWf_faultEntry h1
  split
  · exact h1
  split
  · exact h1
  split
  · exact memWf_faultEntry (by grind [memWf_readDesc, memWf_entryWord])
  next s2 e =>
  have h2 : s2.MemWf := by grind [memWf_readDesc, memWf_entryWord]
  clear e
  split
  · exact memWf_faultEntry (by grind [memWf_exchCheck])
  next s3 e =>
  have h3 : s3.MemWf := by grind [memWf_exchCheck]
  split
  · exact memWf_startDispatch h3
  · exact memWf_startReturn h3

theorem memWf_faultExch {s : State} {c} {x} {i} {st} (h : s.MemWf) : (faultExch s c x i st).MemWf := by
  grind [faultExch, memWf_faultEntry]

theorem memWf_sendGrants {s : State} {c} {x} {round} (h : s.MemWf) : (sendGrants s c x round).MemWf := by
  grind [sendGrants, memWf_settleExch, memWf_sendExch, memWf_onExch]

theorem memWf_exchGrant {s : State} {c} {i} (h : s.MemWf) : (exchGrant s c i).MemWf := by
  grind [State.MemWf, exchGrant, memWf_faultEntry, memWf_faultExch, memWf_setExchState, memWf_sendGrants]

theorem memWf_readPayload {c} {x} {ms} {x4} {s : State} (h : s.MemWf) : (readPayload c x ms x4 s).2.MemWf := by
  fun_induction readPayload c x ms x4 s <;> grind [memWf_accessRead]

theorem memWf_sendPayload {s : State} {c} {x} {ms} {l} (h : s.MemWf) : (sendPayload s c x ms l).MemWf := by
  grind [sendPayload, memWf_readPayload, memWf_faultEntry, memWf_sendExch]

theorem memWf_dispatchSend {s : State} {c} {x} (h : s.MemWf) : (dispatchSend s c x).MemWf := by
  grind [dispatchSend, memWf_faultEntry, memWf_sendCounts, memWf_setExchState, memWf_sendPayload, memWf_onExch]

theorem memWf_returnSend {s : State} {c} {x} (h : s.MemWf) : (returnSend s c x).MemWf := by
  grind [State.MemWf, returnSend, memWf_sendPayload, memWf_onExch]

theorem memWf_exchSend {s : State} {c} {i} (h : s.MemWf) : (exchSend s c i).MemWf := by
  grind [exchSend, memWf_dispatchSend, memWf_returnSend]

theorem memWf_exchComplete {s : State} {c} {i} (h : s.MemWf) : (exchComplete s c i).MemWf := by
  grind [exchComplete, memWf_entryReleased, memWf_onExch]

theorem memWf_groupWaitExpired {s : State} {n} (h : s.MemWf) : (groupWaitExpired s n).MemWf := by
  grind [groupWaitExpired, memWf_faultCmd, memWf_clearEntered]

theorem memWf_askRows {c} {g} {p} {x4} {s : State} (h : s.MemWf) : (askRows c g p x4 s).MemWf := by
  fun_induction askRows c g p x4 s <;> grind [memWf_issueReq, memWf_onPiece]

theorem memWf_pumpPiece {s : State} {c} {g} {p} (h : s.MemWf) : (pumpPiece s c g p).MemWf := by
  grind [pumpPiece, memWf_askRows, memWf_askHeader]

theorem memWf_resumeIssuers {s : State} (h : s.MemWf) : (resumeIssuers s).MemWf := by
  grind [State.MemWf, memWf_foldl, resumeIssuers, memWf_pumpOwner, memWf_sendBucket, memWf_pumpPiece, memWf_pumpExch,
    memWf_pumpCmd, memWf_pumpGroup]

theorem memWf_tagEnded {s : State} {tag} (h : s.MemWf) : (tagEnded s tag).MemWf := by
  grind [State.MemWf, memWf_foldl, tagEnded, memWf_settleTags, memWf_State_updCmd, memWf_resumeIssuers]

theorem memWf_distributionFailed {s : State} {id} {k} {q} {st} {status} {detail} (h : s.MemWf) : (distributionFailed s id k q st
    status detail).MemWf := by
  grind [distributionFailed, memWf_updRecord, memWf_raiseFault, memWf_onBucket]

theorem memWf_broadcastAnswer {s : State} {q} {c} {bad} (h : s.MemWf) : (broadcastAnswer s q c bad).MemWf := by
  grind [broadcastAnswer, memWf_settleTags, memWf_pumpCmd, memWf_State_updCmd]

theorem memWf_cmdTimeout {s : State} {q} {r} (h : s.MemWf) : (cmdTimeout s q r).MemWf := by
  grind [cmdTimeout, memWf_State_finishSt, memWf_clearEntered, memWf_broadcastAnswer]

theorem memWf_timedOut {s : State} {q} (h : s.MemWf) : (timedOut s q).MemWf := by
  grind [timedOut, memWf_raiseFault, memWf_onBucket, memWf_distributionFailed, memWf_faultEntry, memWf_cmdTimeout]

theorem memWf_dropReq {s : State} {tag} (h : s.MemWf) : (dropReq s tag).MemWf := by
  grind [State.MemWf, dropReq]

theorem memWf_remoteTimeout {s : State} {tag} (h : s.MemWf) : (remoteTimeout s tag).MemWf := by
  grind [remoteTimeout, memWf_tagEnded, memWf_timedOut, memWf_dropReq]

theorem memWf_consumeRx {s : State} {l} {lane} {n} {freed} (h : s.MemWf) : (consumeRx s l lane n freed).MemWf := by
  grind [consumeRx, memWf_State_pump, memWf_State_setLink]

theorem memWf_dropPacket {s : State} {via} {p} {kept} (h : s.MemWf) : (dropPacket s via p kept).MemWf := by
  unfold dropPacket
  grind [memWf_consumeRx, State.MemWf, memWf_foldl]

theorem memWf_takePacket {s : State} {via} {p} {kept} {t : State} (h : s.MemWf) (e : takePacket s via p kept = some t) : t.MemWf
    := by
  grind [takePacket, memWf_dropPacket]

theorem memWf_packetArrives {s : State} {via} {p} {t} {f} (h : s.MemWf) (hf : ∀ t, t.MemWf → (f t).MemWf) :
    (packetArrives s via p t f).MemWf := by
  grind [packetArrives, memWf_takePacket, memWf_countDrop]

theorem memWf_setActive {s : State} {w} {f} (h : s.MemWf) : (setActive s w f).MemWf := by
  grind [setActive, memWf_State_setWindow]

theorem memWf_answerPacket {s : State} {p} {status} {detail} {word'} {rows} {poison} (h : s.MemWf) : (answerPacket s p status
    detail word' rows poison).MemWf := by
  grind [answerPacket, memWf_dispatchResp]

theorem memWf_countClosed {s : State} {w} (h : s.MemWf) : (countClosed s w).MemWf := by
  grind [countClosed, memWf_State_setWindow]

theorem memWf_request {s : State} {p} {serve} (h : s.MemWf) (hf : ∀ e t, t.MemWf → (serve e t).MemWf) :
    (request s p serve).MemWf := by
  grind [request, memWf_setActive, memWf_answerPacket, memWf_countClosed]

theorem memWf_windowWrite {x1} {x2} {x3} {s : State} (h : s.MemWf) : (windowWrite x1 x2 x3 s).2.MemWf := by
  fun_induction windowWrite x1 x2 x3 s <;> grind [memWf_writeRow]

theorem memWf_retire {s : State} {p} {status} {detail} {word'} {rows} {poison} (h : s.MemWf) : (retire s p status detail word'
    rows poison).MemWf := by
  grind [retire, memWf_dispatchResp]

theorem memWf_serveWrite {p} {x2} {s : State} (h : s.MemWf) : (serveWrite p x2 s).MemWf := by
  grind [serveWrite, memWf_windowWrite, memWf_retire]

theorem memWf_accRow {s : State} {x2} {bs} (h : s.MemWf) : (accRow s x2 bs).2.MemWf := by
  unfold accRow
  grind [memWf_accServe, memWf_reachBank, State.MemWf, memWf_foldl]

theorem memWf_serveAccumulate {p} {x2} {s : State} (h : s.MemWf) : (serveAccumulate p x2 s).MemWf := by
  grind [serveAccumulate, memWf_accRow, memWf_retire]

theorem memWf_collAccumulate {p} {x2} {s : State} (h : s.MemWf) : (collAccumulate p x2 s).MemWf := by
  grind [collAccumulate, memWf_retire, memWf_serveAccumulate]

theorem memWf_windowRead {x1} {x2} {x3} {s : State} (h : s.MemWf) : (windowRead x1 x2 x3 s).2.MemWf := by
  fun_induction windowRead x1 x2 x3 s <;> grind [memWf_readRow]

theorem memWf_serveRead {p} {x2} {s : State} (h : s.MemWf) : (serveRead p x2 s).MemWf := by
  grind [serveRead, memWf_windowRead, memWf_retire]

theorem memWf_bucketAnswer {s : State} {q} {id} {k} {status} {detail} (h : s.MemWf) : (bucketAnswer s q id k status detail).MemWf
    := by
  grind [State.MemWf, bucketAnswer, memWf_onBucket, memWf_sendBucket, memWf_raiseFault]

theorem memWf_scaleAnswer {s : State} {q} {id} {k} {status} {detail} (h : s.MemWf) : (scaleAnswer s q id k status detail).MemWf
    := by
  grind [scaleAnswer, memWf_distributionFailed, memWf_pumpOwner, memWf_onBucket]

theorem memWf_noticeAnswer {s : State} {q} {id} {k} {status} {detail} (h : s.MemWf) : (noticeAnswer s q id k status detail).MemWf
    := by
  grind [noticeAnswer, memWf_onBucket, memWf_pumpOwner, memWf_raiseFault]

theorem memWf_headerAnswer {s : State} {q} {c} {g} {p} {a} (h : s.MemWf) : (headerAnswer s q c g p a).MemWf := by
  grind [headerAnswer, memWf_onPiece, memWf_faultEntry, memWf_pumpPiece]

theorem memWf_rowAnswer {s : State} {q} {c} {g} {p} {row} {a} (h : s.MemWf) : (rowAnswer s q c g p row a).MemWf := by
  grind [rowAnswer, memWf_onPiece, memWf_faultEntry, memWf_accessWrite, memWf_pumpPiece]

theorem memWf_exchAnswer {s : State} {q} {c} {i} {status} {detail} (h : s.MemWf) : (exchAnswer s q c i status detail).MemWf := by
  grind [exchAnswer, memWf_onExch, memWf_faultEntry, memWf_pumpExch]

theorem memWf_barrierAnswer {s : State} {q} {c} {status} {detail} (h : s.MemWf) : (barrierAnswer s q c status detail).MemWf := by
  grind [barrierAnswer, memWf_State_updCmd, memWf_State_finishSt, memWf_clearEntered, memWf_faultCmd]

theorem memWf_remoteDone {s : State} {c} {q} (h : s.MemWf) : (remoteDone s c q).MemWf := by
  grind [remoteDone, memWf_State_finish, memWf_readDone, memWf_State_updCmd, memWf_State_finishSt]

theorem memWf_cmdAnswer {s : State} {q} {r} {a} (h : s.MemWf) : (cmdAnswer s q r a).MemWf := by
  grind [cmdAnswer, memWf_barrierAnswer, memWf_broadcastAnswer, memWf_remoteDone]

theorem memWf_answer {s : State} {q} {a} (h : s.MemWf) : (answer s q a).MemWf := by
  grind [answer, memWf_bucketAnswer, memWf_scaleAnswer, memWf_noticeAnswer, memWf_headerAnswer, memWf_rowAnswer,
    memWf_exchAnswer, memWf_cmdAnswer, memWf_raiseFault]

theorem memWf_respArrives {s : State} {via} {p} (h : s.MemWf) : (respArrives s via p).MemWf := by
  grind [State.MemWf, respArrives, memWf_packetArrives, memWf_tagEnded, memWf_answer, memWf_dropReq]

theorem memWf_serveFetchAdd {p} {x2} {s : State} (h : s.MemWf) : (serveFetchAdd p x2 s).MemWf := by
  grind [serveFetchAdd, memWf_faddRow, memWf_retire]

theorem memWf_writeOrigin {s : State} {c} {x} {p} (h : s.MemWf) : (writeOrigin s c x p).MemWf := by
  grind [writeOrigin, memWf_writeBytes, memWf_faultEntry]

theorem memWf_noteExchange {s : State} {p} (h : s.MemWf) : (noteExchange s p).MemWf := by
  grind [State.MemWf, noteExchange, memWf_settleExch, memWf_onExch, memWf_writeOrigin]

theorem memWf_serveExchange {p} {x2} {s : State} (h : s.MemWf) : (serveExchange p x2 s).MemWf := by
  grind [serveExchange, memWf_windowWrite, memWf_retire, memWf_noteExchange]

theorem memWf_takeNotice {s : State} {p} {act} (h : s.MemWf) (ha : (act s).MemWf) : (takeNotice s p act).MemWf := by
  grind [takeNotice, memWf_answerPacket]

theorem memWf_barrierArrives {s : State} {via} {p} (h : s.MemWf) : (barrierArrives s via p).MemWf := by
  grind [barrierArrives, memWf_packetArrives, memWf_takeNotice, memWf_takeArrival]

theorem memWf_releaseArrives {s : State} {via} {p} (h : s.MemWf) : (releaseArrives s via p).MemWf := by
  grind [releaseArrives, memWf_packetArrives, memWf_takeNotice, memWf_applyRelease]

theorem memWf_readyArrives {s : State} {via} {p} (h : s.MemWf) : (readyArrives s via p).MemWf := by
  grind [State.MemWf, readyArrives, memWf_packetArrives, memWf_takeNotice]

theorem memWf_verdictArrives {s : State} {via} {p} {code} {v} (h : s.MemWf) : (verdictArrives s via p code v).MemWf := by
  grind [verdictArrives, memWf_packetArrives, memWf_takeNotice, memWf_settleRecord]

theorem memWf_rescaleArrives {s : State} {via} {p} (h : s.MemWf) : (rescaleArrives s via p).MemWf := by
  grind [rescaleArrives, memWf_packetArrives, memWf_takeNotice, memWf_memberRescale]

theorem memWf_packetForward {s : State} {via} {p} (h : s.MemWf) : (packetForward s via p).MemWf := by
  grind [packetForward, memWf_takePacket, memWf_dispatchPacket]

theorem memWf_wakeStream {s : State} {n} (h : s.MemWf) : (wakeStream s n).MemWf := by
  grind [wakeStream, memWf_pumpChannel, memWf_runRecvs]

theorem memWf_streamPush {s : State} {n} {t} (h : s.MemWf) : (streamPush s n t).MemWf := by
  grind [streamPush, memWf_State_setStream, memWf_faultCtx, memWf_fwWrite]

theorem memWf_deliver {s : State} {n} {r} (h : s.MemWf) : (deliver s n r).MemWf := by
  unfold deliver
  grind [memWf_State_setStream, memWf_streamPush, State.MemWf, memWf_foldl]

theorem memWf_streamTake {s : State} {via} {n} {body} (h : s.MemWf) : (streamTake s via n body).MemWf := by
  grind [State.MemWf, memWf_foldl, streamTake, memWf_countLinkDrop, memWf_wakeStream, memWf_deliver, memWf_State_setStream]

theorem memWf_streamFlit {s : State} {via} {n} {payload} (h : s.MemWf) : (streamFlit s via n payload).MemWf := by
  grind [streamFlit, memWf_consumeRx, memWf_countLinkDrop, memWf_streamTake, memWf_pushFlits]

theorem memWf_streamCreditSend {s : State} {n} (h : s.MemWf) : (streamCreditSend s n).MemWf := by
  grind [streamCreditSend, memWf_streamCredit]

theorem memWf_flitReceive {s : State} {l} {b} {clean} (h : s.MemWf) : (flitReceive s l b clean).MemWf := by
  grind [flitReceive, memWf_State_pump, memWf_State_setLink]

theorem memWf_retrainLink {s : State} {l} (h : s.MemWf) : (retrainLink s l).MemWf := by
  grind [retrainLink, memWf_State_setLink]

theorem memWf_ackTimeout {s : State} {l} (h : s.MemWf) : (ackTimeout s l).MemWf := by
  grind [ackTimeout, memWf_retrainLink]

theorem memWf_linkDown {s : State} {l} (h : s.MemWf) : (linkDown s l).MemWf := by
  grind [State.MemWf, memWf_foldl, linkDown, memWf_bbAppend, memWf_State_setLink, memWf_countDrop, memWf_flitGone,
    memWf_dispatchPacket]

theorem memWf_retrainTimeout {s : State} {l} (h : s.MemWf) : (retrainTimeout s l).MemWf := by
  grind [retrainTimeout, memWf_linkDown]

theorem memWf_linkLoss {s : State} {l} (h : s.MemWf) : (linkLoss s l).MemWf := by
  grind [linkLoss, memWf_linkDown, memWf_State_setLink]

theorem memWf_trainAttempt {s : State} {l} (h : s.MemWf) : (trainAttempt s l).MemWf := by
  grind [trainAttempt, memWf_State_setLink]

theorem memWf_linkTrained {s : State} {l} {failing} (h : s.MemWf) : (linkTrained s l failing).MemWf := by
  grind [linkTrained, memWf_State_setLink, memWf_sendControl]

theorem memWf_consumeControl {s : State} {l} (h : s.MemWf) : (consumeControl s l).MemWf := by
  grind [consumeControl, memWf_consumeRx]

theorem memWf_hello {s : State} {l} {m} (h : s.MemWf) : (hello s l m).MemWf := by
  grind [hello, memWf_consumeControl, memWf_sendControl, memWf_State_setLink]

theorem memWf_helloAck {s : State} {l} {m} (h : s.MemWf) : (helloAck s l m).MemWf := by
  grind [helloAck, memWf_consumeControl, memWf_State_setLink, memWf_sendControl]

theorem memWf_peerState {s : State} {l} {m} (h : s.MemWf) : (peerState s l m).MemWf := by
  grind [State.MemWf, peerState, memWf_consumeControl, memWf_State_setLink]

theorem memWf_retrainMsg {s : State} {l} {m} (h : s.MemWf) : (retrainMsg s l m).MemWf := by
  grind [retrainMsg, memWf_consumeControl, memWf_retrainLink]

theorem memWf_sectionExpired {s : State} (h : s.MemWf) : (sectionExpired s).MemWf := by
  grind [sectionExpired, memWf_triggerEngine, memWf_raiseFault]

theorem memWf_coreExpired {s : State} {c} (h : s.MemWf) : (coreExpired s c).MemWf := by
  grind [coreExpired, memWf_triggerEngine]

theorem memWf_contextStop {s : State} {c} (h : s.MemWf) : (contextStop s c).MemWf := by
  grind [State.MemWf, memWf_foldl, contextStop, memWf_State_setCore, memWf_abandonRun]

theorem memWf_clearGrid {s : State} (h : s.MemWf) : (clearGrid s).MemWf := by
  grind [State.MemWf, clearGrid, memWf_clearCores]

theorem memWf_contextDrained {s : State} {c} (h : s.MemWf) : (contextDrained s c).MemWf := by
  grind [State.MemWf, contextDrained, memWf_joinFlags, memWf_finishRun, memWf_clearGrid, memWf_State_setCtx, memWf_applyHeld,
    memWf_chooseNext]

theorem memWf_drainExpired {s : State} (h : s.MemWf) : (drainExpired s).MemWf := by
  grind [drainExpired, memWf_triggerEngine]

theorem memWf_setDevState {s : State} {d} (h : s.MemWf) : (setDevState s d).MemWf := by
  grind [State.MemWf, setDevState, memWf_pulseAlert, memWf_fireVector]

theorem memWf_changeState {s : State} {d} (h : s.MemWf) : (changeState s d).MemWf := by
  grind [changeState, memWf_setDevState, memWf_sendPeerStates]

theorem memWf_holdGrid {s : State} (h : s.MemWf) : (holdGrid s).MemWf := by
  grind [State.MemWf, memWf_foldl, holdGrid, memWf_State_setCore]

theorem memWf_dropReplay {s : State} (h : s.MemWf) : (dropReplay s).MemWf := by
  grind [dropReplay, memWf_abandonRun, memWf_State_setCtx]

theorem memWf_stopSender {s : State} {c} (h : s.MemWf) : (stopSender s c).MemWf := by
  grind [State.MemWf, stopSender, memWf_dropRetries]

theorem memWf_suspectRun {s : State} {c} (h : s.MemWf) : (suspectRun s c).MemWf := by
  grind [suspectRun, memWf_stopSender, memWf_abandonRun, memWf_settleBinding, memWf_State_updCmd, memWf_State_setCtx,
    memWf_State_setRst, memWf_State_finish]

theorem memWf_engineStart {s : State} (h : s.MemWf) : (engineStart s).MemWf := by
  grind [State.MemWf, memWf_foldl, engineStart, memWf_bbFreeze, memWf_bbAppend, memWf_changeState, memWf_applyHeld,
    memWf_holdGrid, memWf_dropReplay, memWf_State_setRst, memWf_fenceOn, memWf_releaseReads, memWf_suspectRun, memWf_joinFlags]

theorem memWf_engineEdge {s : State} (h : s.MemWf) : (engineEdge s).MemWf := by
  grind [State.MemWf, memWf_foldl, engineEdge, memWf_clearCores, memWf_State_setCore]

theorem memWf_endCmds {s : State} {st} {p} (h : s.MemWf) : (endCmds s st p).MemWf := by
  grind [State.MemWf, memWf_foldl, endCmds, memWf_endCmd]

theorem memWf_enterDeadbolt {s : State} {keep} (h : s.MemWf) : (enterDeadbolt s keep).MemWf := by
  grind [State.MemWf, enterDeadbolt, memWf_State_setRst, memWf_bbFreeze, memWf_bbAppend, memWf_changeState, memWf_endCmds]

theorem memWf_engineDone {s : State} (h : s.MemWf) : (engineDone s).MemWf := by
  grind [State.MemWf, memWf_foldl, engineDone, memWf_changeState, memWf_settleNext, memWf_settleSuspect, memWf_State_setRst,
    memWf_resetEnded, memWf_enterDeadbolt]

theorem memWf_engineTimeout {s : State} (h : s.MemWf) : (engineTimeout s).MemWf := by
  grind [engineTimeout, memWf_State_setRst]

theorem memWf_replayStart {s : State} (h : s.MemWf) : (replayStart s).MemWf := by
  grind [State.MemWf, replayStart, memWf_settleNext, memWf_State_setRst, memWf_State_setCtx, memWf_loadSection]

theorem memWf_replayEnd {s : State} (h : s.MemWf) : (replayEnd s).MemWf := by
  grind [replayEnd, memWf_settleNext, memWf_settleSuspect, memWf_State_setRst]

theorem memWf_replayExpired {s : State} (h : s.MemWf) : (replayExpired s).MemWf := by
  grind [replayExpired, memWf_triggerEngine]

theorem memWf_applyRemaps {s : State} (h : s.MemWf) : (applyRemaps s).MemWf := by
  grind [applyRemaps, memWf_State_setPower]

theorem memWf_restartClocks {s : State} (h : s.MemWf) : (restartClocks s).MemWf := by
  grind [restartClocks, memWf_applyRemaps, memWf_State_setPower]

theorem memWf_resetDomains {s : State} (h : s.MemWf) : (resetDomains s).MemWf :=
  memWf_restartClocks (Mem.wf_filter _ h)

theorem memWf_deviceStart {s : State} (h : s.MemWf) : (deviceStart s).MemWf := by
  grind [State.MemWf, memWf_foldl, deviceStart, memWf_bbFreeze, memWf_bbAppend, memWf_setDevState, memWf_settleBinding,
    memWf_joinFlags, memWf_endCmds, memWf_State_setRst, memWf_resetDomains]

theorem memWf_trainingFailed {s : State} {c} (h : s.MemWf) : (trainingFailed s c).MemWf := by
  grind [trainingFailed, memWf_bbFreeze, memWf_bbAppend, memWf_State_setRst]

theorem memWf_portClocks {s : State} (h : s.MemWf) : (portClocks s).MemWf := by
  grind [portClocks, memWf_State_setPower]

theorem memWf_applyTraining {s : State} {k} {t} (h : s.MemWf) : (applyTraining s k t).MemWf := by
  grind [State.MemWf, applyTraining, memWf_portClocks]

theorem memWf_endDevCmd {s : State} {r} {st} (h : s.MemWf) : (endDevCmd s r st).MemWf := by
  grind [endDevCmd, memWf_endAudit, memWf_State_finishSt]

theorem memWf_releaseDevCmd {s : State} {st} (h : s.MemWf) : (releaseDevCmd s st).MemWf := by
  grind [releaseDevCmd, memWf_State_setRst, memWf_endDevCmd]

theorem memWf_deviceDone {s : State} {t} (h : s.MemWf) : (deviceDone s t).MemWf := by
  grind [State.MemWf, deviceDone, memWf_trainingFailed, memWf_applyTraining, memWf_enterDeadbolt, memWf_changeState,
    memWf_releaseDevCmd]

theorem memWf_deviceTimeout {s : State} (h : s.MemWf) : (deviceTimeout s).MemWf := by
  grind [State.MemWf, deviceTimeout, memWf_changeState, memWf_releaseDevCmd]

theorem memWf_domainFailure {s : State} {memory} (h : s.MemWf) : (domainFailure s memory).MemWf := by
  grind [domainFailure, memWf_State_setRst]

theorem memWf_State_setIsland {s : State} {i} {x} (h : s.MemWf) : (State.setIsland s i x).MemWf := by
  grind [State.setIsland, memWf_State_setPower]

theorem memWf_newTarget {s : State} {i} {f} (h : s.MemWf) : (newTarget s i f).MemWf := by
  grind [newTarget, memWf_State_setIsland]

theorem memWf_retarget {s : State} (h : s.MemWf) : (retarget s).MemWf := by
  grind [State.MemWf, memWf_foldl, retarget, memWf_newTarget]

theorem memWf_capLoop {s : State} {q} (h : s.MemWf) : (capLoop s q).MemWf := by
  grind [capLoop, memWf_State_fresh, memWf_retarget, memWf_State_setPower]

theorem memWf_calibrate {s : State} {die} {measured} {estimated} (h : s.MemWf) : (calibrate s die measured estimated).MemWf := by
  grind [calibrate, memWf_State_fresh, memWf_State_setPower]

theorem memWf_frequencyStep {s : State} {i} (h : s.MemWf) : (frequencyStep s i).MemWf := by
  grind [frequencyStep, memWf_State_setIsland]

theorem memWf_droopIsland {s : State} {i} {limit} (h : s.MemWf) : (droopIsland s i limit).MemWf := by
  grind [droopIsland, memWf_State_setIsland]

theorem memWf_droop {s : State} {i} {cause} (h : s.MemWf) : (droop s i cause).MemWf := by
  unfold droop
  grind [memWf_droopIsland, State.MemWf, memWf_foldl]

theorem memWf_droopStepDown {s : State} {i} (h : s.MemWf) : (droopStepDown s i).MemWf := by
  grind [droopStepDown, memWf_State_setIsland]

theorem memWf_droopClear {s : State} {i} {limit} (h : s.MemWf) : (droopClear s i limit).MemWf := by
  grind [droopClear, memWf_State_setIsland]

theorem memWf_droopRecovered {s : State} {i} (h : s.MemWf) : (droopRecovered s i).MemWf := by
  grind [droopRecovered, memWf_State_setIsland]

theorem memWf_thermalRead {s : State} {cores} {dieW} {dieE} (h : s.MemWf) : (thermalRead s cores dieW dieE).MemWf := by
  grind [thermalRead, memWf_State_setPower, memWf_retarget]

theorem memWf_resetAll {s : State} {box} {challenges} (h : s.MemWf) : (resetAll s box challenges).MemWf :=
  Mem.wf_filter _ h

theorem memWf_State_setMod {s : State} {m} (h : s.MemWf) : (State.setMod s m).MemWf := by
  grind [State.MemWf, State.setMod]

theorem memWf_powerOff {s : State} (h : s.MemWf) : (powerOff s).MemWf := by
  grind [powerOff, memWf_resetAll, memWf_State_setMod]

theorem memWf_endCopy {s : State} (h : s.MemWf) : (endCopy s).MemWf := by
  grind [State.MemWf, endCopy]

theorem memWf_tripRecord {s : State} {sensor} {temp} (h : s.MemWf) : (tripRecord s sensor temp).MemWf := by
  grind [tripRecord, memWf_bbFreeze, memWf_bbAppend, memWf_State_fresh, memWf_endCopy]

theorem memWf_thermtrip {s : State} {sensor} {temp} (h : s.MemWf) : (thermtrip s sensor temp).MemWf := by
  grind [thermtrip, memWf_powerOff, memWf_tripRecord, memWf_State_setMod]

theorem memWf_queueRemap {s : State} {c} {new} (h : s.MemWf) : (queueRemap s c new).MemWf := by
  grind [queueRemap, memWf_noteSpareless, memWf_coreEvent, memWf_State_setPower]

theorem memWf_ageing {s : State} {c} {measured} (h : s.MemWf) : (ageing s c measured).MemWf := by
  grind [ageing, memWf_State_setIsland, memWf_State_setPower, memWf_queueRemap, memWf_newTarget]

theorem memWf_setRecordAt {s : State} {i} {r} (h : s.MemWf) : (setRecordAt s i r).MemWf := by
  grind [State.MemWf, setRecordAt]

theorem memWf_dieRecord {s : State} {east} (h : s.MemWf) : (dieRecord s east).2.MemWf := by
  grind [dieRecord, memWf_State_fresh]

theorem memWf_channelRecord {s : State} {c} (h : s.MemWf) : (channelRecord s c).2.MemWf := by
  grind [channelRecord, memWf_State_fresh]

theorem memWf_telemetrySample {s : State} {p1} {p100} {energy} (h : s.MemWf) : (telemetrySample s p1 p100 energy).MemWf := by
  grind [State.MemWf, memWf_foldl, telemetrySample, memWf_setRecordAt, memWf_dieRecord, memWf_channelRecord]

theorem memWf_wearStep {s : State} (h : s.MemWf) : (wearStep s).MemWf := by
  grind [State.MemWf, wearStep]

theorem memWf_copyDone {s : State} (h : s.MemWf) : (copyDone s).MemWf := by
  grind [copyDone, memWf_endCopy]

theorem memWf_writeAudit {s : State} {r} (h : s.MemWf) : (writeAudit s r).MemWf := by
  grind [writeAudit, memWf_State_setSec, memWf_State_setMeas]

theorem memWf_loseRole {s : State} (h : s.MemWf) : (loseRole s).MemWf := by
  grind [loseRole, memWf_State_setSec]

theorem memWf_grantRole {s : State} {c} (h : s.MemWf) : (grantRole s c).MemWf := by
  grind [grantRole, memWf_State_setSec]

theorem memWf_auditDone {s : State} {kind} {c} (h : s.MemWf) : (auditDone s kind c).MemWf := by
  grind [auditDone, memWf_State_setPhase, memWf_grantRole]

theorem memWf_auditWritten {s : State} {r} {c} (h : s.MemWf) : (auditWritten s r c).MemWf := by
  unfold auditWritten
  grind [memWf_auditDone, memWf_loseRole, memWf_writeAudit, State.MemWf, memWf_foldl]

theorem memWf_auditFailed {s : State} {kind} {c} (h : s.MemWf) : (auditFailed s kind c).MemWf := by
  grind [auditFailed, memWf_State_setPhase]

theorem memWf_auditLost {s : State} {r} {c} (h : s.MemWf) : (auditLost s r c).MemWf := by
  grind [auditLost, memWf_bbAppend]

theorem memWf_auditDurable {s : State} {written} (h : s.MemWf) : (auditDurable s written).MemWf := by
  grind [auditDurable, memWf_State_setSec, memWf_auditWritten, memWf_auditFailed, memWf_auditLost]

theorem memWf_roleLapse {s : State} (h : s.MemWf) : (roleLapse s).MemWf := by
  grind [roleLapse, memWf_endRole]

theorem memWf_sideband {s : State} {a} (h : s.MemWf) : (sideband s a).MemWf := by
  grind [State.MemWf, sideband]

theorem memWf_perstAssert {s : State} (h : s.MemWf) : (perstAssert s).MemWf := by
  grind [perstAssert, memWf_State_setMod, memWf_resetAll]

theorem memWf_perstDeassert {s : State} {sel} {addr} (h : s.MemWf) : (perstDeassert s sel addr).MemWf := by
  grind [perstDeassert, memWf_State_setMod]

theorem memWf_deriveKey {s : State} (h : s.MemWf) : (deriveKey s).MemWf := by
  grind [deriveKey, memWf_State_setSec]

theorem memWf_measureBoot {s : State} {tried} {ds} (h : s.MemWf) : (measureBoot s tried ds).MemWf := by
  unfold measureBoot
  grind [memWf_State_setSec, memWf_extend, memWf_measureFuses, memWf_measureSettings, State.MemWf, memWf_foldl]

theorem memWf_resumeCopies {s : State} (h : s.MemWf) : (resumeCopies s).MemWf := by
  grind [State.MemWf, resumeCopies, memWf_bbFreeze]

theorem memWf_startDomains {s : State} (h : s.MemWf) : (startDomains s).MemWf := by
  grind [State.MemWf, startDomains, memWf_restartClocks]

theorem memWf_runImage {s : State} {slot} {svn} {ds} (h : s.MemWf) : (runImage s slot svn ds).MemWf := by
  grind [State.MemWf, runImage, memWf_writeActive, memWf_measureBoot, memWf_State_setSec, memWf_resumeCopies, memWf_pulseAlert,
    memWf_bbAppend, memWf_startDomains, memWf_queueAudit]

theorem memWf_boot {s : State} (h : s.MemWf) : (boot s).MemWf := by
  grind [State.MemWf, boot, memWf_deriveKey, memWf_runImage, memWf_setDevState]

theorem memWf_powerUp {s : State} (h : s.MemWf) : (powerUp s).MemWf := by
  grind [powerUp, memWf_State_setMod, memWf_resetAll]

theorem memWf_powerUpTimeout {s : State} (h : s.MemWf) : (powerUpTimeout s).MemWf := by
  grind [powerUpTimeout, memWf_changeState, memWf_State_setRst, memWf_State_setMod]

theorem memWf_modEnFall {s : State} (h : s.MemWf) : (modEnFall s).MemWf := by
  grind [modEnFall, memWf_powerOff, memWf_auditDurable, memWf_State_setMod]

theorem memWf_lossOfInput {s : State} (h : s.MemWf) : (lossOfInput s).MemWf := by
  grind [lossOfInput, memWf_powerOff, memWf_State_setMod]

theorem memWf_overVoltage {s : State} (h : s.MemWf) : (overVoltage s).MemWf := by
  grind [overVoltage, memWf_powerOff, memWf_State_setMod]

theorem memWf_moduleFailure {s : State} (h : s.MemWf) : (moduleFailure s).MemWf := by
  grind [moduleFailure, memWf_State_setMod]

theorem memWf_sequencerError {s : State} (h : s.MemWf) : (sequencerError s).MemWf := by
  grind [sequencerError, memWf_triggerEngine]

theorem memWf_powerUpReady {s : State} {t} (h : s.MemWf) : (powerUpReady s t).MemWf := by
  grind [powerUpReady, memWf_trainingFailed, memWf_changeState, memWf_applyTraining]

theorem memWf_stashDone {s : State} {c} (h : s.MemWf) : (stashDone s c).MemWf := by
  grind [stashDone, memWf_State_setCore]

theorem memWf_malformedArrives {s : State} {via} {p} (h : s.MemWf) : (malformedArrives s via p).MemWf := by
  grind [malformedArrives, memWf_packetArrives, memWf_answerPacket]

theorem memWf_alertEnd {s : State} (h : s.MemWf) : (alertEnd s).MemWf := by
  grind [alertEnd, memWf_State_setMod]

theorem memWf_standbyLoss {s : State} (h : s.MemWf) : (standbyLoss s).MemWf := by
  grind [standbyLoss, memWf_lossOfInput, memWf_State_setMod]

end Sys2Proof.Machine
end

section
/-!
LEMMA. Every instruction keeps the memory in its one form (O59).
-/
namespace Sys2Proof.Machine

theorem memWf_ite {p : Prop} [Decidable p] {s t : State} (hs : s.MemWf) (ht : t.MemWf) : (if p then s else t).MemWf := by
  split <;> assumption

/-- Where a step has a next state, its memory stands in its form. -/
def OutcomeMemWf : Host.Outcome State Fault Refusal → Prop
  | .next t => t.MemWf
  | _ => True

theorem memWf_exec (i : Instr) {s : State} (h : s.MemWf) : OutcomeMemWf (exec i s) := by
  cases i with
  | doorbell => exact memWf_State_hosted h (memWf_doorbell h)
  | cqDoorbell => exact memWf_State_hosted h (memWf_cqDoorbell h)
  | sqEnable => exact memWf_State_hosted h (memWf_sqCtrl h)
  | sqDisable => exact memWf_State_hosted h (memWf_sqCtrl h)
  | cqEnable => exact memWf_State_hosted h (memWf_cqCtrl h)
  | cqDisable => exact memWf_State_hosted h (memWf_cqCtrl h)
  | cqDisableTakesEffect => exact memWf_State_hosted h (memWf_cqDisabled h)
  | irqPendingClear => exact memWf_State_hosted h (memWf_irqClear h)
  | registerWrite => exact memWf_State_hosted h (memWf_writeReg h)
  | entryFetch => exact memWf_entryFetch h
  | completionCommit => exact memWf_State_hosted h (memWf_commit h)
  | irqCoalesceDelayExpiry => exact memWf_State_hosted h (memWf_coalesceExpired h)
  | protocolOpen => exact memWf_protocolOpen h
  | nop => exact memWf_nop h
  | abort => exact memWf_abort h
  | contextOpen => exact memWf_contextOpen h
  | contextClose => exact memWf_contextClose h
  | keyringWrite => exact memWf_keyringWrite h
  | gddrLayout => exact memWf_gddrLayout h
  | dataPut => exact memWf_dataPut h
  | dataGet => exact memWf_dataGet h
  | run => exact memWf_startRun h
  | deviceIdSet => exact memWf_deviceIdSet h
  | routeWrite => exact memWf_routeWrite h
  | windowOpen => exact memWf_windowOpen h
  | windowClose => exact memWf_windowClose h
  | haspComplete => exact memWf_haspComplete h
  | windowStatus => exact memWf_windowStatus h
  | remoteWrite => exact memWf_remoteWrite h
  | remoteRead => exact memWf_remoteRead h
  | remoteFetchAdd => exact memWf_remoteFetchAdd h
  | collectiveOpen => exact memWf_collectiveOpen h
  | collectiveClose => exact memWf_collectiveClose h
  | bucketArm => exact memWf_bucketArm h
  | bucketWait => exact memWf_bucketWait h
  | layoutSwitch => exact memWf_layoutSwitch h
  | layoutSwitchEffect => exact memWf_layoutEffect h
  | jobOpen => exact memWf_jobOpen h
  | jobClose => exact memWf_jobClose h
  | barrierEnter => exact memWf_barrierEnter h
  | groupBroadcast => exact memWf_groupBroadcast h
  | streamBind => exact memWf_streamBind h
  | telemetryRead => exact memWf_telemetryRead h
  | blackboxRead => exact memWf_blackboxRead h
  | auditRead => exact memWf_auditRead h
  | engineReset => exact memWf_engineReset h
  | deviceReset => exact memWf_deviceReset h
  | peerNotice => exact memWf_peerNotice h
  | jobFence => exact memWf_jobFence h
  | roleChallenge => exact memWf_roleChallenge h
  | roleResponse => exact memWf_roleResponse h
  | roleDrop => exact memWf_roleDrop h
  | spdmMessage => exact memWf_spdmMessage h
  | powerSet => exact memWf_powerSet h
  | resetLimitsSet => exact memWf_resetLimits h
  | linkConfigSet => exact memWf_linkConfigSet h
  | routeDefaultsWrite => exact memWf_routeDefaults h
  | firmwareStage => exact memWf_firmwareStage h
  | firmwareActivate => exact memWf_firmware h (fun _ => memWf_activateSlot h) (fun _ => memWf_activateDone h)
  | firmwareCommit => exact memWf_firmware h (fun _ => memWf_commitImage h) (fun _ => h)
  | deadboltClear => exact memWf_deadboltClear h
  | remapCommit => exact memWf_remapCommit h
  | fuseProgram => exact memWf_fuseProgram h
  | debugUnlock => exact memWf_debugUnlock h
  | sload => exact memWf_issueWord h fun _ _ _ e => memWf_pushArray h e
  | sloadSetValid => exact memWf_ite (memWf_pumpTile (memWf_completeLoad h)) h
  | mmul => exact memWf_issueWord h fun _ _ _ e => memWf_pushArray h e
  | vectorIssue => exact memWf_ite (memWf_pumpTile (memWf_issueNext h)) h
  | accumulatorCommit => exact memWf_ite (memWf_pumpTile (memWf_commitChecked h)) h
  | rmov => exact memWf_issueWord h fun _ _ _ e => memWf_rmovWord h e
  | rmovComplete => exact memWf_moveDone h
  | kset => exact memWf_issueWord h fun _ _ _ e => memWf_ksetWord h e
  | tile => exact memWf_issueWord h fun _ _ _ e => memWf_tileWord h e
  | tileEpilogue => exact memWf_tileEpilogue h
  | tileShip => exact memWf_tileShip h
  | tileComplete => exact memWf_tileEnd h
  | wclaim => exact memWf_issueWord h fun _ _ _ e => memWf_wclaimWord h e
  | csend => exact memWf_issueWord h fun _ _ _ e => memWf_csend h e
  | crecv => exact memWf_issueWord h fun _ _ _ e => memWf_crecv h e
  | ctok => exact memWf_issueWord h fun _ _ _ e => memWf_ctok h e
  | ctake => exact memWf_issueWord h fun _ _ _ e => memWf_ctake h e
  | wqueue => exact memWf_issueWord h fun _ _ _ e => memWf_wqueue h e
  | wfence => exact memWf_issueWord h fun _ _ _ e => memWf_wfence h e
  | stash => exact memWf_issueWord h fun _ _ _ e => memWf_stashWord h e
  | seqj => exact memWf_issueWord h fun _ _ _ e => memWf_seqjWord h e
  | deferredWorkStart => exact memWf_deferredStart h
  | deferredWorkSuspend => exact memWf_deferredSuspend h
  | vnop => exact memWf_issueVector h
  | viadd => exact memWf_issueVector h
  | visub => exact memWf_issueVector h
  | vimul => exact memWf_issueVector h
  | viadds => exact memWf_issueVector h
  | visubs => exact memWf_issueVector h
  | vimin => exact memWf_issueVector h
  | vimax => exact memWf_issueVector h
  | vand => exact memWf_issueVector h
  | vor => exact memWf_issueVector h
  | vxor => exact memWf_issueVector h
  | vshl => exact memWf_issueVector h
  | vshra => exact memWf_issueVector h
  | vshrl => exact memWf_issueVector h
  | vadd => exact memWf_issueVector h
  | vsub => exact memWf_issueVector h
  | vmul => exact memWf_issueVector h
  | vfma => exact memWf_issueVector h
  | vmin => exact memWf_issueVector h
  | vmax => exact memWf_issueVector h
  | vabs => exact memWf_issueVector h
  | vneg => exact memWf_issueVector h
  | vcmpeq => exact memWf_issueVector h
  | vcmplt => exact memWf_issueVector h
  | vcmple => exact memWf_issueVector h
  | vcmpun => exact memWf_issueVector h
  | vmset => exact memWf_issueVector h
  | vmand => exact memWf_issueVector h
  | vmor => exact memWf_issueVector h
  | vmxor => exact memWf_issueVector h
  | vmnot => exact memWf_issueVector h
  | vexp2 => exact memWf_issueVector h
  | vlog2 => exact memWf_issueVector h
  | vrcp => exact memWf_issueVector h
  | vrsqrt => exact memWf_issueVector h
  | vtanh => exact memWf_issueVector h
  | vrsum => exact memWf_issueVector h
  | vrmax => exact memWf_issueVector h
  | vsmx => exact memWf_issueVector h
  | vrot => exact memWf_issueVector h
  | vmov => exact memWf_issueVector h
  | vcvt => exact memWf_issueVector h
  | vqsi => exact memWf_issueVector h
  | vdqsi => exact memWf_issueVector h
  | vld => exact memWf_issueVector h
  | vst => exact memWf_issueVector h
  | vrnd => exact memWf_issueVector h
  | vflagrd => exact memWf_issueVector h
  | vflagclr => exact memWf_issueVector h
  | tokenArrival => exact memWf_ite (memWf_arrive h) h
  | spillRefill => exact memWf_ite (memWf_runRecvs (memWf_refill h)) h
  | creditReturn => exact memWf_ite (memWf_creditArrive h) h
  | routeForward => exact memWf_ite (memWf_forwardRoute h) h
  | selectFire => exact memWf_moveFire h
  | routeFire => exact memWf_moveFire h
  | mergeFire => exact memWf_mergeStep h
  | repeatFire => exact memWf_repeatStep h
  | steerEndPass => exact memWf_endPass h
  | streamDeadlock => exact memWf_deadlock h
  | hingeBegin => exact memWf_hinge h
  | sectionStart => exact memWf_startSection h
  | gateRequestEffect => exact memWf_gateDone h
  | bankWakeDone => exact memWf_wakeDone h
  | memoryMeshRowRead => exact memWf_meshRequest h
  | memoryMeshRowWrite => exact memWf_meshRequest h
  | accSi24 => exact memWf_engineRequest h
  | fadd32 => exact memWf_ite (memWf_State_answer h) (memWf_engineRequest h)
  | wordWrite => exact memWf_meshRequest h
  | update => exact memWf_updateStart h
  | updateProgramComplete => exact memWf_updateDone h
  | rowRemap => exact memWf_remapRow h
  | coreMemoryScrub => exact memWf_scrubCore h
  | chipMemoryScrub => exact memWf_scrubChip h
  | patrolScrubTick => exact memWf_patrolTick h
  | gddrRetraining => exact memWf_State_setChan h
  | gddrTransferRetry => exact memWf_transferRetry h
  | cxlPortDown => exact memWf_portDown h
  | readyWordPoll => exact memWf_readyPoll h
  | noticeWordPoll => exact memWf_noticePoll h
  | scaleDistributionDone => exact memWf_distributionDone h
  | accumulateRetry => exact memWf_accRetry h
  | epochAhead => exact memWf_epochAhead h
  | collectiveWaitTimeout => exact memWf_collWaitExpired h
  | gatherGroupStart => exact memWf_gatherStart h
  | gatherHeaderRetry => exact memWf_headerRetry h
  | gatherTimeout => exact memWf_gatherTimeout h
  | gatherGroupComplete => exact memWf_gatherComplete h
  | exchangeEntryStart => exact memWf_exchStart h
  | exchangeGrant => exact memWf_exchGrant h
  | exchangePayloadSend => exact memWf_exchSend h
  | exchangeEntryComplete => exact memWf_exchComplete h
  | groupWaitTimeout => exact memWf_groupWaitExpired h
  | remoteTimeout => exact memWf_remoteTimeout h
  | write => exact memWf_packetArrives h fun _ h => memWf_request h fun _ _ h => memWf_serveWrite h
  | accumulate => exact memWf_packetArrives h fun _ h => memWf_request h fun _ _ h => memWf_collAccumulate h
  | read => exact memWf_packetArrives h fun _ h => memWf_request h fun _ _ h => memWf_serveRead h
  | readResp => exact memWf_respArrives h
  | fetchAdd => exact memWf_packetArrives h fun _ h => memWf_request h fun _ _ h => memWf_serveFetchAdd h
  | exchange => exact memWf_packetArrives h fun _ h => memWf_request h fun _ _ h => memWf_serveExchange h
  | barrier => exact memWf_barrierArrives h
  | barrierRelease => exact memWf_releaseArrives h
  | exchangeReady => exact memWf_readyArrives h
  | verdictClean => exact memWf_verdictArrives h
  | rescale => exact memWf_rescaleArrives h
  | verdictWardExhausted => exact memWf_verdictArrives h
  | verdictNonfinite => exact memWf_verdictArrives h
  | packetForward => exact memWf_packetForward h
  | streamFlit => exact memWf_streamFlit h
  | streamCreditSend => exact memWf_streamCreditSend h
  | flitReceive => exact memWf_flitReceive h
  | ackTimeoutRetrain => exact memWf_ackTimeout h
  | retrainTimeout => exact memWf_retrainTimeout h
  | linkLoss => exact memWf_linkLoss h
  | linkTrainAttempt => exact memWf_trainAttempt h
  | linkTrained => exact memWf_linkTrained h
  | hello => exact memWf_hello h
  | helloAck => exact memWf_helloAck h
  | peerState => exact memWf_peerState h
  | retrain => exact memWf_retrainMsg h
  | sectionTimeout => exact memWf_sectionExpired h
  | coreProgressTimeout => exact memWf_coreExpired h
  | contextStop => exact memWf_contextStop h
  | contextStopDrained => exact memWf_fenceOn (memWf_releaseReads (memWf_contextDrained h))
  | drainBoundExpiry => exact memWf_drainExpired h
  | engineResetStart => exact memWf_engineStart h
  | engineResetEdgeClosed => exact memWf_engineEdge h
  | engineResetDone => exact memWf_engineDone h
  | engineResetTimeout => exact memWf_engineTimeout h
  | suspectReplayStart => exact memWf_replayStart h
  | suspectReplayEnd => exact memWf_replayEnd h
  | replayWatchdogExpiry => exact memWf_replayExpired h
  | deviceResetStart => exact memWf_deviceStart h
  | deviceResetDone => exact memWf_deviceDone h
  | deviceResetTimeout => exact memWf_deviceTimeout h
  | linkDomainFailure => exact memWf_domainFailure h
  | capLoopPeriod => exact memWf_capLoop h
  | gainCalibration => exact memWf_calibrate h
  | frequencyStep => exact memWf_frequencyStep h
  | droop => exact memWf_droop h
  | droopStepDown => exact memWf_droopStepDown h
  | droopClear => exact memWf_droopClear h
  | droopRecoveryWaitEnd => exact memWf_droopRecovered h
  | thermalRead => exact memWf_thermalRead h
  | thermtrip => exact memWf_thermtrip h
  | ageingMeasurement => exact memWf_ageing h
  | telemetrySample => exact memWf_telemetrySample h
  | wearLevelling => exact memWf_wearStep h
  | freezeCopyDone => exact memWf_copyDone h
  | auditRecordDurable => exact memWf_auditDurable h
  | roleLapse => exact memWf_roleLapse h
  | mctpControl => exact memWf_sideband h
  | mctpSpdm => exact memWf_sideband h
  | sbTelemetryRead => exact memWf_sideband h
  | sbBlackboxRead => exact memWf_sideband h
  | sbAuditRead => exact memWf_sideband h
  | perstAssert => exact memWf_perstAssert h
  | perstDeassert => exact memWf_perstDeassert h
  | boot => exact memWf_boot h
  | powerUp => exact memWf_powerUp h
  | powerUpTimeout => exact memWf_powerUpTimeout h
  | modEnFall => exact memWf_modEnFall h
  | lossOfInput => exact memWf_lossOfInput h
  | overVoltage => exact memWf_overVoltage h
  | moduleFailure => exact memWf_moduleFailure h
  | phyLockLoss => exact memWf_retrainLink h
  | sequencerUncorrectableError => exact memWf_sequencerError h
  | powerUpReady => exact memWf_powerUpReady h
  | stashComplete => exact memWf_stashDone h
  | malformedPacket => exact memWf_malformedArrives h
  | sbUnsupportedMessage => exact memWf_sideband h
  | alertPulseEnd => exact memWf_alertEnd h
  | standbySupplyLoss => exact memWf_standbyLoss h
theorem memWf_step {s : State} (h : s.MemWf) : OutcomeMemWf (step s) := by
  unfold step
  split
  · exact memWf_exec _ h
  · unfold tickIdle
    split <;> exact h

/-- Settles O59: the memory of a state changes only through rows that are set, cleared or filtered, and each of these keeps its form;
one lemma for each function of the model says so of the state that it leaves. -/
theorem memoryStaysCanonical : Obligations.MemoryStaysCanonical := by
  unfold Obligations.MemoryStaysCanonical
  intro s t h e
  have hs : OutcomeMemWf (step s) := memWf_step h
  rw [e] at hs
  exact hs

end Sys2Proof.Machine
end

section
/-!
LEMMA. The steps of the block (O1, O2), and what the host's register writes do (O3, O4).
-/
namespace Sys2Proof.Machine

theorem next_congr {s t : State} (h : s = t) : (.next s : Host.Outcome State Fault Refusal) = .next t := congrArg _ h

/-- Settles O1: a step is defined so. -/
theorem stepRunsFront : Obligations.StepRunsFront := by
  unfold Obligations.StepRunsFront
  intro c q s
  rfl

/-- Settles O2, by the two cases of the management domain. -/
theorem idleStep : Obligations.IdleStep := by
  unfold Obligations.IdleStep
  intro s hq
  simp only [step, hq, tickIdle]
  constructor <;> intro hm <;> simp [hm]

/-- While the management domain runs, the host's accesses reach it (R402). -/
theorem State.hosted_up {s : State} (f : State → State) (h : s.mgmtUp = true) : s.hosted f = f s := by
  simp [State.hosted, h]

theorem doorbell_within {s : State} {v : Word} (he : (s.ring (Fin.ofNat 8 (fld v 0 3))).enable = true)
    (ht : fld v 4 12 < 2 ^ (s.ring (Fin.ofNat 8 (fld v 0 3))).size.toNat) :
    doorbell s v = s.setRing (Fin.ofNat 8 (fld v 0 3)) { s.ring (Fin.ofNat 8 (fld v 0 3)) with tail := BitVec.ofNat 12 (fld v 4 12) } := by
  simp only [doorbell, he, ht, and_self, if_true]

theorem doorbell_ignored {s : State} {v : Word} (h : (s.ring (Fin.ofNat 8 (fld v 0 3))).enable = false ∨
    2 ^ (s.ring (Fin.ofNat 8 (fld v 0 3))).size.toNat ≤ fld v 4 12) : doorbell s v = s := by
  unfold doorbell
  dsimp only
  rw [if_neg]
  rintro ⟨he, ht⟩
  rcases h with h | h
  · exact absurd (h.symm.trans he) (by decide)
  · omega

/-- The commands of a submission ring (R405, R406). -/
theorem submissionRings (s : State) (c : CtxId) (n : BitVec 4) :
    ((s.ring c).enable = false →
      (4 ≤ n.toNat → n.toNat ≤ 12 → sqCtrl s c n true =
        s.setRing c { base := (s.ring c).base, size := n, enable := true, head := 0, tail := 0, expect := none }) ∧
      (n.toNat < 4 ∨ 12 < n.toNat → sqCtrl s c n true = s.setRing c { s.ring c with size := n })) ∧
    ((s.ring c).enable = true → sqCtrl s c n true = s.setRing c { s.ring c with size := n }) ∧
    sqCtrl s c n false = s.setRing c { s.ring c with size := n, enable := false } := by
  refine ⟨fun he => ⟨fun h1 h2 => ?_, fun h => ?_⟩, fun he => ?_, ?_⟩
  · simp [sqCtrl, he, h1, h2]
  · have hn : ¬ (4 ≤ n.toNat ∧ n.toNat ≤ 12) := by omega
    simp [sqCtrl, he, hn]
  · simp [sqCtrl, he]
  · simp [sqCtrl]

theorem cqCtrl_enable {s : State} {n : BitVec 4} (he : s.host.cqEnable = false) :
    cqCtrl s n true = if 4 ≤ n.toNat ∧ n.toNat ≤ 14 then { s with host := { s.host with
       cqSize := n, cqEnable := true, cqDisabling := false, cqTail := 0, cqPhase := true, cqHead := 0 } }
      else { s with host := { s.host with cqSize := n } } := by
  simp [cqCtrl, he, State.setHost]

theorem cqCtrl_disable {s : State} (n : BitVec 4) (he : s.host.cqEnable = true) :
    cqCtrl s n false = { s with host := { s.host with cqDisabling := true } } := by
  simp [cqCtrl, he, State.setHost]

/-- An acceptance that is being stopped fetches nothing (R409). -/
theorem mayFetch_disabling {s : State} (c : CtxId) (h : s.host.cqDisabling = true) : mayFetch s c = false := by
  simp [mayFetch, h]

/-- Settles O3, one register at a time. -/
theorem hostRings : Obligations.HostRings := by
  unfold Obligations.HostRings
  refine ⟨⟨fun s v hm => ⟨fun he ht => ?_, fun h => ?_⟩, fun s c n hm he => ⟨fun h1 h2 => ?_, fun h => ?_⟩, fun s c n hm he => ?_,
    fun s c n hm => ?_⟩, fun s n hm he => ⟨fun h1 h2 => ?_, fun h => ?_⟩, fun s n hm he => ?_, fun s c e hd => ?_,
    fun s hm hd => ⟨fun hc => ?_, fun hc => ?_⟩, fun s v hm he hv => ?_⟩
  · exact congrArg _ ((State.hosted_up _ hm).trans (doorbell_within he ht))
  · exact congrArg _ ((State.hosted_up _ hm).trans (doorbell_ignored h))
  · exact congrArg _ ((State.hosted_up _ hm).trans (((submissionRings s c n).1 he).1 h1 h2))
  · exact congrArg _ ((State.hosted_up _ hm).trans (((submissionRings s c n).1 he).2 h))
  · exact congrArg _ ((State.hosted_up _ hm).trans ((submissionRings s c n).2.1 he))
  · exact congrArg _ ((State.hosted_up _ hm).trans (submissionRings s c n).2.2)
  · exact congrArg _ ((State.hosted_up _ hm).trans ((cqCtrl_enable he).trans (if_pos ⟨h1, h2⟩)))
  · exact congrArg _ ((State.hosted_up _ hm).trans ((cqCtrl_enable he).trans (if_neg (by omega))))
  · exact congrArg _ ((State.hosted_up _ hm).trans (cqCtrl_disable n he))
  · change Host.Outcome.next (entryFetch s c e) = _
    simp [entryFetch, mayFetch_disabling c hd]
  · exact congrArg _ ((State.hosted_up _ hm).trans (by simp [cqDisabled, hd, hc, State.setHost]))
  · exact congrArg _ ((State.hosted_up _ hm).trans (by simp [cqDisabled, hd, hc]))
  · exact congrArg _ ((State.hosted_up _ hm).trans (by simp [cqDoorbell, he, Nat.mod_eq_of_lt hv, State.setHost]))

/-- The upper half of a base completes it (R403): the two halves, the low 12 bits zero. -/
theorem baseOf_eq (s : State) (off : Nat) (v : Word) :
    baseOf s off v = (v ++ Tab.get 0 s.host.halves (off - 4) &&& 0xFFFFFFFFFFFFF000) := by
  unfold baseOf
  generalize Tab.get 0 s.host.halves (off - 4) = h
  have hlt : v.toNat <<< 32 ||| h.toNat < 2 ^ 64 := by
    have := (v ++ h).isLt
    rwa [BitVec.toNat_append] at this
  have hm : (0xFFFFFFFFFFFFF000 : BitVec 64) = ~~~(BitVec.ofNat 64 (2 ^ 12 - 1)) := by decide
  rw [show (4096 : Nat) = 2 ^ 12 from rfl, ← Nat.shiftRight_eq_div_pow, ← Nat.shiftLeft_eq, hm]
  apply BitVec.eq_of_getElem_eq
  intro i hi
  have e : (v ++ h).getLsbD i = (v.toNat <<< 32 ||| h.toNat).testBit i := by
    rw [← BitVec.toNat_append]; rfl
  rw [BitVec.getElem_and, BitVec.getElem_not, ← BitVec.getLsbD_eq_getElem, ← BitVec.getLsbD_eq_getElem, ← BitVec.getLsbD_eq_getElem, e]
  simp only [BitVec.getLsbD_ofNat, hi, decide_true, Bool.true_and, Nat.testBit_shiftLeft, Nat.testBit_shiftRight,
    Nat.testBit_two_pow_sub_one]
  by_cases h12 : 12 ≤ i
  · rw [Nat.add_sub_cancel' h12]
    simp [h12, Nat.not_lt.mpr h12]
  · simp [h12, Nat.lt_of_not_le h12]

theorem exec_registerWrite {s : State} (off : BitVec 16) (n : Nat) (v : Dword) (hm : s.mgmtUp = true) :
    exec (.registerWrite off n v) s = .next (writeReg s off.toNat n v) := by
  change Host.Outcome.next (s.hosted fun s => writeReg s off.toNat n v) = _
  rw [State.hosted_up _ hm]

/-- A 32-bit access acts on its register. -/
theorem registerWrite_word {s : State} {off : BitVec 16} {v : Dword} (hm : s.mgmtUp = true) (ho : off.toNat % 4 = 0) :
    exec (.registerWrite off 4 v) s = .next (write32 s off.toNat (BitVec.ofNat 32 v.toNat)) := by
  rw [exec_registerWrite _ _ _ hm, writeReg, if_pos ⟨rfl, ho⟩]

theorem write32_sqBase (s : State) (c : CtxId) (v : Word) :
    write32 s (0x104 + 0x20 * c.val) v = s.setRing c { s.ring c with base := baseOf s (0x104 + 0x20 * c.val) v } := by
  have hc := c.isLt
  have h1 : (0x104 + 0x20 * c.val - 0x100) / 0x20 = c.val := by omega
  have h2 : (0x104 + 0x20 * c.val - 0x100) % 0x20 = 4 := by omega
  have h3 : Fin.ofNat 8 c.val = c := Fin.ext (Nat.mod_eq_of_lt hc)
  unfold write32
  rw [if_neg (by omega), if_neg (by omega), if_neg (by omega), if_neg (by omega), if_neg (by omega), if_pos (by omega)]
  simp only [h1, h2, h3]

theorem write32_msix {s : State} {n : Nat} (v : Word) (hn : n < 16) :
    write32 s (0x300C + 16 * n) v = msixWrite s (4 * n + 3) v := by
  unfold write32
  rw [if_neg (by omega), if_neg (by omega), if_neg (by omega), if_neg (by omega), if_neg (by omega), if_neg (by omega),
    if_neg (by omega), if_neg (by omega), if_pos (by omega), show (0x300C + 16 * n - 0x3000) / 4 = 4 * n + 3 by omega]

/-- A write that unmasks a vector sends the message that was pending (log 5). -/
theorem msixWrite_unmasks {s : State} {n : Nat} {v : Word} (hv : bit v 0 = false) (hp : bit s.host.msixPending n = true) :
    msixWrite s (4 * n + 3) v = { s with
      host := { s.host with msix := Tab.set (msixReset (4 * n + 3)) s.host.msix (4 * n + 3) v, msixPending := put s.host.msixPending n 1 0 }
      hostOut := s.hostOut ++ [.msix (BitVec.ofNat 4 n)] } := by
  have h1 : (4 * n + 3) % 4 = 3 := by omega
  have h2 : (4 * n + 3) / 4 = n := by omega
  simp only [msixWrite, State.setHost, h1, h2, hv, hp, and_self, if_true]

/-- The low 24 bits of a word are kept by the mask of IRQ_COALESCE. -/
theorem coalesce_kept (v : Word) : BitVec.ofNat 32 (v.toNat % 2 ^ 24) = v &&& 0x00FFFFFF := by
  apply BitVec.eq_of_toNat_eq
  have h : v.toNat % 2 ^ 24 < 2 ^ 32 := lt_of_lt_of_le (Nat.mod_lt _ (by decide)) (by decide)
  rw [BitVec.toNat_ofNat, Nat.mod_eq_of_lt h, BitVec.toNat_and, show (0x00FFFFFF : Word).toNat = 2 ^ 24 - 1 from rfl,
    Nat.and_two_pow_sub_one_eq_mod]

/-- Settles O4, one register at a time. -/
theorem registerWrites : Obligations.RegisterWrites := by
  unfold Obligations.RegisterWrites
  refine ⟨fun s v hm he => ?_, fun s v hm he => ?_, fun s v hm he => ⟨?_, ?_⟩, fun s c v hm => ?_, fun s v hm => ?_, fun s v hm => ?_,
    fun s n v hm hn hv hp => ?_, fun s off n v hm h4 h8 => ?_⟩
  · rw [registerWrite_word hm rfl]
    simp [write32, he, holdHalf, State.setHost]
  · rw [registerWrite_word hm rfl]
    simp [write32, he, State.setHost, baseOf_eq]
  · rw [registerWrite_word hm rfl]
    simp [write32, he]
  · rw [registerWrite_word hm rfl]
    simp [write32, he]
  · have hc := c.isLt
    have ho : (BitVec.ofNat 16 (0x104 + 0x20 * c.val)).toNat = 0x104 + 0x20 * c.val := by
      rw [BitVec.toNat_ofNat]; omega
    rw [registerWrite_word hm (by omega), ho, write32_sqBase, baseOf_eq, show 0x104 + 0x20 * c.val - 4 = 0x100 + 0x20 * c.val by omega]
  · rw [registerWrite_word hm rfl]
    change Host.Outcome.next (s.setHost { s.host with irqCoalesce := BitVec.ofNat 32 ((BitVec.ofNat 32 v.toNat).toNat % 2 ^ 24) }) = _
    rw [coalesce_kept]
    rfl
  · exact congrArg _ ((State.hosted_up _ hm).trans rfl)
  · have ho : (BitVec.ofNat 16 (0x300C + 16 * n)).toNat = 0x300C + 16 * n := by
      rw [BitVec.toNat_ofNat]; omega
    rw [registerWrite_word hm (by omega), ho, write32_msix _ hn, msixWrite_unmasks _ hp]
    simpa [bit] using hv
  · rw [exec_registerWrite _ _ _ hm, writeReg, if_neg h4, if_neg h8]

end Sys2Proof.Machine
end

section
/-!
LEMMA. Fetching an entry and the order of its checks (O5), the completion writer and coalescing (O6), the record of a command (O7), and
opening and closing a context (O8).
-/
namespace Sys2Proof.Machine

/-! ### Fetching (R405 to R413) -/

/-- When the next entry of a ring is accepted, in the conditions of R405, R406, R408 and R409. -/
theorem mayFetch_iff (s : State) (c : CtxId) : mayFetch s c = true ↔
    s.fetching = true ∧ (s.ring c).enable = true ∧ (s.ring c).head ≠ (s.ring c).tail ∧ s.host.cqEnable = true ∧
    s.host.cqDisabling = false ∧ s.cmds.length < cqFree s ∧ (s.cmds.filter fun d => decide (d.ring = c)).length < 64 := by
  simp only [mayFetch, State.inflight, Bool.and_eq_true, decide_eq_true_eq, Bool.not_eq_true', bne_iff_ne]
  exact ⟨fun ⟨⟨⟨⟨⟨⟨h1, h2⟩, h3⟩, h4⟩, h5⟩, h6⟩, h7⟩ => ⟨h1, h4, h5, h2, h3, h6, of_decide_eq_true h7⟩,
    fun ⟨h1, h4, h5, h2, h3, h6, h7⟩ => ⟨⟨⟨⟨⟨⟨h1, h2⟩, h3⟩, h4⟩, h5⟩, h6⟩, decide_eq_true h7⟩⟩

/-- An entry of the ring's context and of a known opcode whose SEQ is in order goes on to the checks of the protocol and after. -/
theorem entryCheck_known {s : State} {c : CtxId} {e : BitVec 512} (hc : EN.ctx e = c.val) (ho : opcodeKnown (EN.opcode e) = true) :
    entryCheck s c true e =
      ((protocolOk s e).or <| (payloadCheck (EN.opcode e) (EN.plen e) (EN.payload e)).or <| (roleCheck s (EN.opcode e)).or <|
        (readyCheck s (EN.opcode e)).or <| (openCheck s c (EN.opcode e)).or <| (fenceCheck s (EN.opcode e)).or <|
        if checkDown s (EN.opcode e) (EN.payload e) then refuse St.cxlPortDown else ownCheck s c (EN.opcode e) (EN.payload e)) := by
  simp [entryCheck, hc, ho]

theorem protocolOk_passes {s : State} {e : BitVec 512} (hp : s.host.protoOpen = true) (h1 : EN.vmajor e = s.host.major.toNat)
    (h2 : EN.vminor e = s.host.minor.toNat) : protocolOk s e = none := by
  simp [protocolOk, hp, h1, h2]

theorem payloadCheck_passes {op n : Nat} {p : BitVec 384} (ho : op ≠ 0x0905) (hn : n = 48) (hp : payloadInRange op p = true) :
    payloadCheck op n p = none := by
  simp [payloadCheck, ho, hn, hp]

theorem readyCheck_deadbolt {s : State} {op : Nat} (hj : jobOps.contains op = true) (h : s.host.state = .deadbolt) :
    readyCheck s op = some { status := St.deadbolt } := by
  rw [readyCheck, hj, h]
  rfl

theorem readyCheck_notReady {s : State} {op : Nat} (hj : jobOps.contains op = true) (hr : s.host.state ≠ .ready)
    (hd : s.host.state ≠ .deadbolt) : readyCheck s op = some { status := St.deviceNotReady } := by
  rw [readyCheck, hj, beq_false_of_ne hr]
  exact if_neg hd

/-- Settles O5: the first part by the cases of what the entry's checks answer, the second check by check. -/
theorem entryFetching : Obligations.EntryFetching := by
  unfold Obligations.EntryFetching
  refine ⟨fun s c e => ?_, fun s c e => ⟨rfl, fun hc => ?_, fun hc ho => ?_, fun hc ho h1 => ⟨fun hp => ?_, fun hp hv => ?_,
    fun hp hmj hmn h5 => ⟨fun h => ?_, fun hl hr h => ?_, fun hl hr hrole => ⟨fun hj hd => ?_, fun hj hs hd => ?_, fun hready hx hopen => ?_⟩⟩⟩⟩⟩
  · have hexec : exec (.entryFetch c e) s = .next (if mayFetch s c then accept s c e else s) := rfl
    dsimp only
    rw [← mayFetch_iff, hexec]
    refine ⟨fun hm hc => ?_, fun hm x hc hx => ?_, fun hm x hc hx => ?_, fun hm => ?_⟩
    · simp only [hm, if_true, accept, hc]
      rfl
    · simp only [hm, if_true, accept, hc, hx, if_false]
      rfl
    · simp only [hm, if_true, accept, hc, hx]
      rfl
    · simp only [hm, Bool.false_eq_true, if_false]
  · simp [entryCheck, hc, refuse]
  · simp [entryCheck, hc, ho, refuse]
  · rw [entryCheck_known hc ho]
    simp [protocolOk, h1, hp, refuse]
  · rw [entryCheck_known hc ho]
    simp [protocolOk, h1, hp, hv, refuse]
  all_goals rw [entryCheck_known hc ho, protocolOk_passes hp hmj hmn, Option.none_or]
  · simp [payloadCheck, h5, h, refuse]
  all_goals rw [payloadCheck_passes h5 hl hr, Option.none_or]
  · rw [show roleCheck s (EN.opcode e) = some (roleDenied 1) from if_pos h, Option.some_or]
  all_goals rw [hrole, Option.none_or]
  · rw [readyCheck_deadbolt hj hd, Option.some_or]
  · rw [readyCheck_notReady hj hs hd, Option.some_or]
  · rw [hready, Option.none_or, show openCheck s c (EN.opcode e) = refuse St.contextInvalid from if_pos ⟨hx, hopen⟩]
    rfl

/-! ### The completion writer (R407, R410, R411, R417) -/

/-- Removing the element that is found takes one from the list. -/
theorem dropFirst_length {α : Type} {p : α → Bool} {l : List α} {x : α} (h : l.find? p = some x) :
    (dropFirst p l).length + 1 = l.length := by
  induction l with
  | nil => cases h
  | cons a t ih =>
    by_cases ha : p a = true
    · simp [dropFirst, ha]
    · simp only [List.find?_cons, ha] at h
      simp [dropFirst, ha, ih h]

/-- The command of a reference that has a record is the first one to commit. -/
theorem find_done {s : State} {r : CmdRef} {c : Cmd} (h : s.cmd? r = some c) (hd : c.isDone = true) :
    (s.cmds.find? fun d => Cmd.is r d && d.isDone) = some c := by
  unfold State.cmd? at h
  generalize s.cmds = l at h
  induction l with
  | nil => cases h
  | cons a t ih =>
    by_cases ha : Cmd.is r a = true
    · rw [List.find?_cons_of_pos ha] at h
      cases h
      exact List.find?_cons_of_pos (by simp [ha, hd])
    · rw [List.find?_cons_of_neg ha] at h
      rw [List.find?_cons_of_neg (by simp [ha])]
      exact ih h

/-- With no coalescing delay a record fires its vector at once (R410). -/
theorem signalRecord_undelayed {s : State} {c : CtxId} (h : fld s.host.irqCoalesce 8 16 = 0) :
    signalRecord s c = fireContext (s.setHost { s.host with uncounted := Tab.set 0 s.host.uncounted c.val (Tab.get 0 s.host.uncounted c.val + 1) }) c := by
  simp [signalRecord, coalesceDelay, State.setHost, h]

/-- What the message of a vector changes: what was sent, and the host interface, of which the ring's index and PHASE stay. -/
theorem fireVector_eq (s : State) (v : Nat) : ∃ h : HostIf,
    fireVector s v = { s with host := h, hostOut := s.hostOut ++ (if msixMasked s.host v then [] else [.msix (BitVec.ofNat 4 v)]) } ∧
    h.cqTail = s.host.cqTail ∧ h.cqPhase = s.host.cqPhase ∧ h.irqPending = s.host.irqPending ||| BitVec.ofNat 16 (2 ^ v) := by
  unfold fireVector
  by_cases hm : msixMasked s.host v = true
  · exact ⟨{ s.host with irqPending := s.host.irqPending ||| BitVec.ofNat 16 (2 ^ v)
                         msixPending := s.host.msixPending ||| BitVec.ofNat 16 (2 ^ v) }, by simp [hm], rfl, rfl, rfl⟩
  · exact ⟨{ s.host with irqPending := s.host.irqPending ||| BitVec.ofNat 16 (2 ^ v) }, by simp [hm], rfl, rfl, rfl⟩

/-- Where the completion ring stands after an entry (R407). -/
def HostIf.advanced (h : HostIf) : HostIf :=
  { h with cqTail := if h.cqTail.toNat + 1 = 2 ^ h.cqSize.toNat then 0 else h.cqTail + 1
           cqPhase := if h.cqTail.toNat + 1 = 2 ^ h.cqSize.toNat then !h.cqPhase else h.cqPhase }

/-- The entry is sent before its vector's message (R407); stated with coalescing off. -/
theorem writeEntry_eq {s : State} (c : Cmd) (x : Record) (h : fld s.host.irqCoalesce 8 16 = 0) : ∃ k : HostIf,
    writeEntry s c x = { s with host := k, hostOut := s.hostOut ++ [.completion s.host.cqTail (completionEntry c x s.host.cqPhase)] ++
      (if msixMasked s.host c.ring.val then [] else [.msix (BitVec.ofNat 4 c.ring.val)]) } ∧
    k.cqTail = s.host.advanced.cqTail ∧ k.cqPhase = s.host.advanced.cqPhase ∧
    k.irqPending = s.host.irqPending ||| BitVec.ofNat 16 (2 ^ c.ring.val) := by
  let t : State := { s with
    hostOut := s.hostOut ++ [.completion s.host.cqTail (completionEntry c x s.host.cqPhase)]
    host := s.host.advanced }
  have hw : writeEntry s c x = signalRecord t c.ring := rfl
  rw [hw, signalRecord_undelayed (show fld t.host.irqCoalesce 8 16 = 0 from h)]
  obtain ⟨k, e, h1, h2, h3⟩ := fireVector_eq ((t.setHost { t.host with
    uncounted := Tab.set 0 t.host.uncounted c.ring.val (Tab.get 0 t.host.uncounted c.ring.val + 1) }).setHost { t.host with
    uncounted := Tab.set 0 (Tab.set 0 t.host.uncounted c.ring.val (Tab.get 0 t.host.uncounted c.ring.val + 1)) c.ring.val 0 }) c.ring.val
  exact ⟨k, e, h1, h2, h3⟩

theorem reportFault_none {s : State} {c : Cmd} (x : Record) (h : (s.ctx c.ring).unreported = none) : reportFault s c x = (x, s) := by
  simp [reportFault, h]

/-- A completed POWER_SET changes what waits for the cap loop alone (R464). -/
theorem applySetting_eq (s : State) (c : Cmd) (x : Record) : ∃ p, applySetting s c x = { s with power := p } := by
  unfold applySetting
  split
  · exact ⟨_, rfl⟩
  · exact ⟨s.power, rfl⟩

/-- Committing a finished command that bound no update, in a context with no unreported fault. -/
theorem commit_done {s : State} {r : CmdRef} {c : Cmd} {x : Record} (h : s.cmd? r = some c) (hx : c.phase = .done x) (hb : c.bound = false)
    (hu : (s.ctx c.ring).unreported = none) : commit s r =
      releaseAborts (writeEntry (applySetting { s with cmds := dropFirst (fun d => Cmd.is r d && d.isDone) s.cmds } c x) c x) r := by
  unfold commit
  rw [find_done h (by simp [Cmd.isDone, hx])]
  simp only [hx, hb, Bool.false_eq_true, if_false]
  rw [reportFault_none x (s := { s with cmds := dropFirst (fun d => Cmd.is r d && d.isDone) s.cmds }) hu]

/-- Settles O6: the completion writer step by step, and the two cases of a masked vector. -/
theorem completions : Obligations.Completions := by
  unfold Obligations.Completions
  refine ⟨fun s r c x hm hr hx hb hu hd => ?_, fun s c hm hn => ?_⟩
  · have he : exec (.completionCommit r) s = .next (commit s r) := congrArg _ (State.hosted_up _ hm)
    rw [he, commit_done hr hx hb hu]
    obtain ⟨p, hp⟩ := applySetting_eq { s with cmds := dropFirst (fun d => Cmd.is r d && d.isDone) s.cmds } c x
    rw [hp]
    obtain ⟨k, e, h1, h2, h3⟩ := writeEntry_eq (s := { s with cmds := dropFirst (fun d => Cmd.is r d && d.isDone) s.cmds, power := p }) c x hd
    refine ⟨_, rfl, ?_, ?_, ?_, ?_, ?_, ?_, ?_, ?_, ?_, ?_⟩
    all_goals rw [e]
    · rfl
    · exact h1
    · exact h2
    · exact h3
    · simpa [releaseAborts] using dropFirst_length (find_done hr (by simp [Cmd.isDone, hx]))
    all_goals rfl
  · have he : exec (.irqCoalesceDelayExpiry c) s = .next (fireContext s c) := by
      refine congrArg _ ((State.hosted_up _ hm).trans ?_)
      simp [coalesceExpired, hn]
    have hmask : msixMasked { s.host with uncounted := Tab.set 0 s.host.uncounted c.val 0 } c.val = msixMasked s.host c.val := rfl
    rw [he]
    constructor <;> intro hk <;> simp [fireContext, fireVector, State.setHost, hmask, hk]

/-! ### How a command ends (R417) -/

theorem settled_done {x : Record} {c : Cmd} (h : c.isDone = true) : settled x c = c := by
  simp [settled, h]

/-- Settles O7, from the rules of finishing a command. -/
theorem recordsSettleOnce : Obligations.RecordsSettleOnce := by
  unfold Obligations.RecordsSettleOnce
  intro s r c x y hr
  refine ⟨fun hd => ?_, fun hp => ?_, fun q hq => State.cmd_finish_ne s x hq, ?_⟩
  · rw [State.cmd_finish_same x hr]
    simp [settled, hd]
  · rw [State.finish_eq]
    exact State.updCmd_self hr (settled_done (by simp [Cmd.isDone, hp]))
  · rw [State.finish_eq]
    exact ⟨_, rfl, updFirst_length _ _ _⟩

/-! ### Protocol and contexts (R415, R421, R426) -/

/-- Settles O8: each command is taken up, and does what its meaning says. -/
theorem contextCommands : Obligations.ContextCommands := by
  unfold Obligations.ContextCommands
  refine ⟨fun s r c => ⟨fun h => ?_, fun h => ?_, fun h => ?_⟩, fun s r c h he => ⟨fun ho => ?_, fun ho => ?_⟩⟩
  · exact congrArg _ (State.take_start _ h)
  · exact congrArg _ (State.take_start _ h)
  · exact congrArg _ (State.take_start _ h)
  · have hc : contextClose s r = s.finish r { status := St.contextBusy } := by
      rw [contextClose, State.take_start _ h]
      simp [he, ho, State.finishSt]
    exact congrArg _ hc
  · have hc : contextClose s r = ({ s.setCtx r.ctx {} with
        keys := dropMask s.keys r.ctx
        grid := { s.grid with last := if s.grid.last = some r.ctx then none else s.grid.last } } : State).finish r {} := by
      rw [contextClose, State.take_start _ h]
      simp [he, ho, State.finishSt]
    refine ⟨_, congrArg _ hc, State.ctx_setCtx_same s r.ctx {}, fun d hd => State.ctx_setCtx_ne s r.ctx d {} hd,
      fun i => get_dropMask s.keys r.ctx i, rfl, rfl, rfl, rfl, rfl, rfl, rfl⟩

end Sys2Proof.Machine
end

section
/-!
LEMMA. The rows of an entry in GDDR7, read and written through the access check (O10), and the commands of memory and of the keyring (O9).
-/
namespace Sys2Proof.Machine

/-! ### Several rows written -/

/-- Memory with rows written in order, row j at the address that the j-th has. -/
def Mem.setRows (m : Memory) (at' : Nat → Nat) : List Row → Memory
  | [] => m
  | r :: t => Mem.setRows (Mem.setRow m (at' 0) r) (fun j => at' (j + 1)) t

theorem Mem.row_setRows_apart {m : Memory} {at' : Nat → Nat} {rs : List Row} {b : Nat}
    (h : ∀ j, j < rs.length → b + 512 ≤ at' j ∨ at' j + 512 ≤ b) : Mem.row (Mem.setRows m at' rs) b = Mem.row m b := by
  induction rs generalizing m at' with
  | nil => rfl
  | cons r t ih =>
    rw [Mem.setRows, ih fun j hj => h (j + 1) (by simpa using hj), Mem.row_setRow_ne _ _ (h 0 (by simp))]

theorem Mem.row_setRows {m : Memory} {at' : Nat → Nat} {rs : List Row}
    (h : ∀ i j, i < j → j < rs.length → at' i + 512 ≤ at' j ∨ at' j + 512 ≤ at' i) {j : Nat} (hj : j < rs.length) :
    Mem.row (Mem.setRows m at' rs) (at' j) = rs.getD j 0 := by
  induction rs generalizing m at' j with
  | nil => simp at hj
  | cons r t ih =>
    cases j with
    | zero =>
      rw [Mem.setRows, Mem.row_setRows_apart fun j hj => h 0 (j + 1) (by omega) (by simpa using hj), Mem.row_setRow_same]
      rfl
    | succ j =>
      rw [Mem.setRows, ih (at' := fun j => at' (j + 1)) (fun i j hij hj => h (i + 1) (j + 1) (by omega) (by simpa using hj))
        (by simpa using hj)]
      rfl

theorem Mem.byte_setRows_apart {m : Memory} {at' : Nat → Nat} {rs : List Row} {x : Nat}
    (h : ∀ j, j < rs.length → x < at' j ∨ at' j + 512 ≤ x) : Mem.byte (Mem.setRows m at' rs) x = Mem.byte m x := by
  induction rs generalizing m at' with
  | nil => rfl
  | cons r t ih =>
    have h0 := h 0 (by simp)
    rw [Mem.setRows, ih fun j hj => h (j + 1) (by simpa using hj), Mem.byte_setRow, if_neg (by omega)]

theorem Mem.wf_setRows {m : Memory} (at' : Nat → Nat) (rs : List Row) (h : Mem.wf m = true) : Mem.wf (Mem.setRows m at' rs) = true := by
  induction rs generalizing m at' with
  | nil => exact h
  | cons r t ih => exact ih _ (Mem.wf_setRow _ _ h)

/-- Rows written in order through an entry whose rows lie in GDDR7 (R93). -/
theorem putRows_gddr {k : Cap} {rs : List (Row × BitVec 16)} {o : Nat} {s : State} {at' : Nat → Nat}
    (h : ∀ j, j < rs.length → k.addr (o + j) = some (at' j) ∧ at' j < gddrBytes) : ∃ l ch b, putRows k o rs s =
      (none, { s with ms := { s.ms with mem := Mem.setRows s.ms.mem at' (rs.map (·.1)), poison := l, chans := ch }, bb := b }) := by
  induction rs generalizing o s at' with
  | nil => exact ⟨s.ms.poison, s.ms.chans, s.bb, rfl⟩
  | cons r t ih =>
    obtain ⟨ha, hg⟩ := h 0 (by simp)
    obtain ⟨l, ch, b, e⟩ := writeRow_gddr s r.1 r.2 hg
    have hw : writeAt s k o r.1 r.2 = (.ok (), { s with ms := { s.ms with
        mem := Mem.setRow s.ms.mem (at' 0) r.1, poison := l, chans := ch }, bb := b }) := by
      simp only [Nat.add_zero] at ha
      simp only [writeAt, ha, configRow_gddr s hg, Bool.false_eq_true, if_false, e]
    obtain ⟨l', ch', b', e'⟩ := ih (o := o + 1) (at' := fun j => at' (j + 1))
      (s := { s with ms := { s.ms with mem := Mem.setRow s.ms.mem (at' 0) r.1, poison := l, chans := ch }, bb := b }) fun j hj => by
        have := h (j + 1) (by simpa using hj)
        rwa [show o + 1 + j = o + (j + 1) by omega]
    exact ⟨l', ch', b', by simp only [putRows, hw, e']; rfl⟩

/-- Rows read in order through an entry whose rows lie in GDDR7, none of them poisoned (R93, R97). -/
theorem consumeRows_gddr {k : Cap} {n o : Nat} {s : State} {at' : Nat → Nat}
    (h : ∀ j, j < n → k.addr (o + j) = some (at' j) ∧ at' j < gddrBytes ∧ (s.chan (channelOf s (at' j)).1).poisoned = false ∧
      poisonMask s.ms.poison (at' j) = 0) :
    consumeRows k o n s = ((List.range n).map fun j => Mem.row s.ms.mem (at' j), none, s) := by
  induction n generalizing o at' with
  | zero => rfl
  | succ n ih =>
    obtain ⟨ha, hg, hc, hp⟩ := h 0 (by omega)
    have h0 : consumeAt s k o = (.ok (Mem.row s.ms.mem (at' 0)), s) := by
      simp only [Nat.add_zero] at ha
      simp [consumeAt, readAt, ha, readRow_gddr s hg, hc, hp]
    have ht := ih (o := o + 1) (at' := fun j => at' (j + 1)) fun j hj => by
      have := h (j + 1) (by omega)
      rwa [show o + 1 + j = o + (j + 1) by omega]
    simp only [consumeRows, h0, ht, List.range_succ_eq_map, List.map_cons, List.map_map]
    rfl

/-- The access marks leave memory and its channels. -/
theorem markSeen_ms (s : State) (c : Option CtxId) (k : Cap) (p : Nat) : (markSeen s c k p).ms = s.ms := by
  obtain ⟨x, e⟩ := markSeen_eq s c k p
  rw [e]

theorem begin'_refused {s : State} {c : Option CtxId} {k : Cap} {p : Nat} {f : Option Nat} {st : Half} (h : k.refuse c p f = some st) :
    begin' s c k p f = (some ⟨st, { handle := k.handle }⟩, s) := by
  simp only [begin', h]

theorem begin'_passes {s : State} {c : Option CtxId} {k : Cap} {p : Nat} {f : Option Nat} (h : k.refuse c p f = none) :
    begin' s c k p f = (none, markSeen s c k p) := by
  simp only [begin', h]

theorem accessRead_refused {s : State} {c : Option CtxId} {k : Cap} {f : Option Nat} {o n : Nat} {st : Half} (hn : 0 < n)
    (h : k.refuse c pRD f = some st) : accessRead s c k f o n = ([], some ⟨st, { handle := k.handle }⟩, s) := by
  simp only [accessRead, Nat.ne_of_gt hn, if_false, begin'_refused h]

theorem accessRead_passes {s : State} {c : Option CtxId} {k : Cap} {f : Option Nat} {o n : Nat} (hn : 0 < n) (h : k.refuse c pRD f = none) :
    accessRead s c k f o n = consumeRows k o n (markSeen s c k pRD) := by
  simp only [accessRead, Nat.ne_of_gt hn, if_false, begin'_passes h]

theorem accessWrite_passes {s : State} {c : Option CtxId} {k : Cap} {f : Option Nat} {o : Nat} {rs : List (Row × BitVec 16)} (hn : rs ≠ [])
    (h : k.refuse c pWR f = none) : accessWrite s c k f o rs = putRows k o rs (markSeen s c k pWR) := by
  simp only [accessWrite, List.isEmpty_eq_false_iff.2 hn, Bool.false_eq_true, if_false, begin'_passes h]

/-- A write through an entry whose rows lie in GDDR7: memory with the rows, the marks, and nothing else but poison. -/
theorem accessWrite_gddr {s : State} {c : Option CtxId} {k : Cap} {f : Option Nat} {o : Nat} {rs : List (Row × BitVec 16)} {at' : Nat → Nat}
    (hn : rs ≠ []) (hk : k.refuse c pWR f = none) (h : ∀ j, j < rs.length → k.addr (o + j) = some (at' j) ∧ at' j < gddrBytes) :
    ∃ x l ch b, accessWrite s c k f o rs = (none, { s with
      ctxs := x, ms := { s.ms with mem := Mem.setRows s.ms.mem at' (rs.map (·.1)), poison := l, chans := ch }, bb := b }) := by
  obtain ⟨x, hx⟩ := markSeen_eq s c k pWR
  obtain ⟨l, ch, b, e⟩ := putRows_gddr (s := { s with ctxs := x }) h
  exact ⟨x, l, ch, b, by rw [accessWrite_passes hn hk, hx, e]⟩

/-- Settles O10: the checks of R92 in their order, then the rows one by one. -/
theorem entryRows : Obligations.EntryRows := by
  unfold Obligations.EntryRows
  refine ⟨fun s c k f o n hn => ⟨fun hv => ?_, fun hv hc => ?_, fun hv hc hp => ?_, fun hv hc hp hf => ?_, fun hk ha => ?_⟩,
    fun s c k f o at' => ⟨fun n hn hk h => ?_, fun rs hn hk h hd => ?_⟩⟩
  · exact accessRead_refused hn (by simp [Cap.refuse, hv])
  · exact accessRead_refused hn (by simp [Cap.refuse, hv, hc])
  · exact accessRead_refused hn (by simp [Cap.refuse, hv, hc, hp])
  · exact accessRead_refused hn (by simp [Cap.refuse, hv, hc, hp, hf])
  · obtain ⟨n, rfl⟩ := Nat.exists_eq_succ_of_ne_zero (Nat.ne_of_gt hn)
    simp [accessRead_passes hn hk, consumeRows, consumeAt, readAt, ha]
  · rw [accessRead_passes hn hk, consumeRows_gddr (at' := at'), markSeen_ms]
    obtain ⟨x, hx⟩ := markSeen_eq s c k pRD
    rw [hx]
    exact h
  · obtain ⟨x, l, ch, b, e⟩ := accessWrite_gddr (s := s) (c := c) (f := f) (o := o) (rs := rs.map fun r => (r, 0)) (at' := at')
      (by simpa using hn) hk (by simpa using h)
    have hm : (rs.map fun r => (r, (0 : BitVec 16))).map (·.1) = rs := by
      rw [List.map_map]
      exact List.map_id rs
    rw [hm] at e
    exact ⟨_, e, fun j hj => Mem.row_setRows hd hj, fun a ha => Mem.byte_setRows_apart ha, fun hw => Mem.wf_setRows at' rs hw, rfl, rfl, rfl, rfl⟩

/-! ### GDDR_LAYOUT, DATA_PUT, DATA_GET and KEYRING_WRITE -/

/-- What is found under a reference is named by it. -/
theorem ref_of_cmd {s : State} {r : CmdRef} {c : Cmd} (h : s.cmd? r = some c) : c.ref = r :=
  (Cmd.is_ref r c).1 (List.find?_some h)

theorem Startable.ref {s : State} {r : CmdRef} {op : Nat} {c : Cmd} (h : Startable s r op c) : c.ref = r := ref_of_cmd h.1

/-- An entry's VALID is not reserved (R83). -/
theorem valid_keyMask (e : BitVec 256) : DE.valid (keyMask e) = DE.valid e := by
  unfold DE.valid bit keyMask
  rw [testBit_word]
  suffices fld e 0 19 % 2 = 1 ↔ e.toNat % 2 = 1 by simpa [keyFields, testBit_fld] using this
  rw [fld, Nat.shiftRight_zero]
  omega

/-- EPOCH and EPOCH_VALID stay where the write leaves VALID set and does not ask to set them (R87). -/
theorem epoch_newKey {s : State} {p : BitVec 384} (hv : DE.valid (KW.entry p) = true) (he : KW.setEpoch p = false) :
    DE.epochValid (newKey s p) = DE.epochValid (s.key (KW.index p)) ∧ DE.epoch (newKey s p) = DE.epoch (s.key (KW.index p)) := by
  have hn : newKey s p = put (put (keyMask (KW.entry p)) 144 1 (fld (s.key (KW.index p)) 144 1)) 160 32 (fld (s.key (KW.index p)) 160 32) := by
    simp [newKey, valid_keyMask, hv, he]
  rw [hn]
  constructor
  · unfold DE.epochValid
    rw [bit_put_apart _ _ _ _ _ (by omega), bit_put_same _ _ _ (by omega), testBit_fld]
    rfl
  · unfold DE.epoch
    rw [fld_put_same _ _ _ _ (by omega)]
    exact Nat.mod_mod _ _

theorem keyApply_refused {s : State} {c : Cmd} (h : keyRefusal s c.payload ≠ 0) :
    keyApply s c = s.finish c.ref { status := keyRefusal s c.payload } := by
  unfold keyApply
  split
  · exact absurd ‹_› h
  · rfl

theorem keyApply_writes {s : State} {c : Cmd} (h : keyRefusal s c.payload = 0) :
    keyApply s c = (s.setKey (KW.index c.payload) (newKey s c.payload)).finish c.ref {} := by
  unfold keyApply
  rw [h]
  rfl

/-- Settles O9: each command by what its transfer meets. -/
theorem memoryCommands : Obligations.MemoryCommands := by
  unfold Obligations.MemoryCommands
  refine ⟨fun s r c h => ⟨fun hd => ?_, fun hd => ?_⟩, fun s t r c e => ?_, fun s r c h => ⟨fun hr => ?_, fun hr hk => ?_, fun hr hk => ?_,
    fun hv he => epoch_newKey hv he⟩⟩
  · refine congrArg _ ((State.take_start _ h).trans ?_)
    dsimp only
    rw [if_pos hd]
    rfl
  · refine ⟨Mem.clear s.ms.mem 0 gddrBytes, congrArg _ ((State.take_start _ h).trans ?_), fun a ha => ?_⟩
    · dsimp only
      rw [if_neg hd]
      rfl
    · rw [Mem.byte_clear, if_neg (by omega)]
  · dsimp only
    intro hw
    refine ⟨fun host h => ⟨fun ha => ?_, fun ha => ?_⟩, fun h rows => ⟨fun ha => ?_, fun ha => ?_⟩⟩
    · refine congrArg _ ((State.take_start _ h).trans ?_)
      simp only [dataCap, hw, Bool.false_eq_true, if_false, ha]
      rfl
    · refine congrArg _ ((State.take_start _ h).trans ?_)
      simp only [dataCap, hw, Bool.false_eq_true, if_false, ha]
      rfl
    · refine congrArg _ ((State.take_start _ h).trans ?_)
      simp only [dataCap, hw, Bool.false_eq_true, if_false, ha, List.isEmpty_iff]
      rfl
    · refine congrArg _ ((State.take_start _ h).trans ?_)
      simp only [dataCap, hw, Bool.false_eq_true, if_false, ha, List.isEmpty_iff]
      rfl
  · refine congrArg _ ((State.take_start _ h).trans ?_)
    rw [if_pos (Or.inl hr), keyApply_refused hr, h.ref]
  · refine congrArg _ ((State.take_start _ h).trans ?_)
    rw [if_pos (Or.inr hk), keyApply_writes hr, h.ref]
  · refine congrArg _ ((State.take_start _ h).trans ?_)
    rw [if_neg (by simp [hr, hk])]

end Sys2Proof.Machine
end

section
/-!
LEMMA. Rows of the memory mesh and the requests that their target refuses (O12), and gating a bank and waking it (O13).
-/
namespace Sys2Proof.Machine

/-! ### Poison of a row -/

theorem foldl_or_testBit {α : Type} (l : List α) (p : α → Bool) (g : α → Nat) (acc i : Nat) :
    (l.foldl (fun m k => if p k then m ||| g k else m) acc).testBit i = (acc.testBit i || l.any fun k => p k && (g k).testBit i) := by
  induction l generalizing acc with
  | nil => simp
  | cons a l ih =>
    rw [List.foldl_cons, ih, List.any_cons]
    by_cases h : p a = true
    · simp [h, Nat.testBit_or, Bool.or_assoc]
    · simp [h]

/-- A sector of a row is poisoned where the list names it (R96). -/
theorem bit_poisonMask (l : List Nat) (a i : Nat) (hi : i < 16) : bit (poisonMask l a) i = decide (a / 32 + i ∈ l) := by
  unfold bit poisonMask
  have hf : ∀ (m : Nat) (k : Nat), (if a / 32 ≤ k ∧ k < a / 32 + 16 then m ||| 1 <<< (k - a / 32) else m) =
      if (decide (a / 32 ≤ k ∧ k < a / 32 + 16)) then m ||| 1 <<< (k - a / 32) else m := by
    intro m k
    simp
  simp only [hf]
  rw [BitVec.toNat_ofNat, Nat.testBit_mod_two_pow, foldl_or_testBit]
  simp only [hi, decide_true, Bool.true_and, Nat.zero_testBit, Bool.false_or]
  rw [Bool.eq_iff_iff, List.any_eq_true, decide_eq_true_iff]
  constructor
  · rintro ⟨k, hk, hb⟩
    rw [Bool.and_eq_true, decide_eq_true_iff, Nat.one_shiftLeft, Nat.testBit_two_pow, decide_eq_true_iff] at hb
    obtain ⟨⟨h1, -⟩, h2⟩ := hb
    rwa [← h2, Nat.add_sub_cancel' h1]
  · intro hk
    refine ⟨a / 32 + i, hk, ?_⟩
    rw [Bool.and_eq_true, decide_eq_true_iff, Nat.one_shiftLeft, Nat.testBit_two_pow, decide_eq_true_iff]
    omega

/-- The poison put for a row is the poison that it then has. -/
theorem poisonMask_setPoison (l : List Nat) (a : Nat) (m : BitVec 16) : poisonMask (setPoison l a m) a = m := by
  apply BitVec.eq_of_toNat_eq
  apply Nat.eq_of_testBit_eq
  intro i
  by_cases hi : i < 16
  · change bit (poisonMask (setPoison l a m) a) i = bit m i
    rw [bit_poisonMask _ _ _ hi, Bool.eq_iff_iff, decide_eq_true_iff, setPoison, List.mem_append, List.mem_append]
    have h1 : a / 32 + i ∉ l.filter fun k => decide (k < a / 32) := by simp
    have h2 : a / 32 + i ∉ l.filter fun k => decide (a / 32 + 16 ≤ k) := by
      simp only [List.mem_filter, decide_eq_true_eq, not_and]
      omega
    simp only [h1, h2, false_or, or_false, List.mem_filterMap, List.mem_range]
    constructor
    · rintro ⟨j, -, hj⟩
      split at hj
      next hb => rwa [← Nat.add_left_cancel (Option.some.inj hj)]
      · cases hj
    · intro hb
      exact ⟨i, hi, by simp [hb]⟩
  · rw [testBit_toNat_ge _ (by omega), testBit_toNat_ge _ (by omega)]

/-! ### Rows that their tier holds -/

/-- The tier of an address holds its row now, the power of its bank apart (R26, R265). -/
def Mapped (s : State) (a : Nat) : Prop :=
  region s a = .gddr ∨ region s a = .coreMem ∨ (region s a = .cxl ∧ (s.cxlPort (cxlPortOf s a)).down = false) ∨ region s a = .chip

theorem Served.mapped {s : State} {a : Nat} (h : Served s a) : Mapped s a := by
  obtain ⟨-, h | h | h | ⟨h, -⟩⟩ := h
  · exact .inl h
  · exact .inr (.inl h)
  · exact .inr (.inr (.inl h))
  · exact .inr (.inr (.inr h))

theorem rawPut_mapped {s : State} {a : Nat} (r : Row) (p : BitVec 16) (h : Mapped s a) :
    rawPut s a r p = ({ s with ms := { s.ms with mem := Mem.setRow s.ms.mem a r } } : State).putPoison a p := by
  unfold rawPut rawWrite
  rcases h with h | h | ⟨h, hd⟩ | h
  · simp only [h]
  · simp only [h]
  · simp only [h, hd, Bool.false_eq_true, if_false]
  · simp only [h]

theorem rawPut_mapped_eq {s : State} {a : Nat} (r : Row) (p : BitVec 16) (h : Mapped s a) : ∃ l ch b,
    rawPut s a r p = { s with ms := { s.ms with mem := Mem.setRow s.ms.mem a r, poison := l, chans := ch }, bb := b } := by
  rw [rawPut_mapped r p h]
  exact putPoison_eq { s with ms := { s.ms with mem := Mem.setRow s.ms.mem a r } } a p

theorem rawRead_mapped {s : State} {a : Nat} (h : Mapped s a) : rawRead s a = .ok (Mem.row s.ms.mem a,
    if region s a = .gddr ∧ (s.chan (channelOf s a).1).poisoned = true then 0xFFFF else poisonMask s.ms.poison a) := by
  unfold rawRead
  rcases h with h | h | ⟨h, hd⟩ | h
  · simp only [h, true_and]
  · simp [h]
  · simp [h, hd]
  · simp [h]

/-! ### What a read finds, and what becomes of a transfer (R95, R96, R98, R258) -/

theorem transitCount_eq (s : State) (x : Transit) : ∃ l, transitCount s x = { s with ms := { s.ms with linkCorrected := l } } := by
  unfold transitCount
  split
  · exact ⟨_, rfl⟩
  · exact ⟨s.ms.linkCorrected, rfl⟩

theorem addPoison_eq (s : State) (a : Nat) (m : BitVec 16) :
    ∃ l ch b, addPoison s a m = { s with ms := { s.ms with poison := l, chans := ch }, bb := b } := putPoison_eq s a _

/-- What a read finds changes counters, poison and the rows that are tracked for sparing. -/
theorem placeFinding_eq (s : State) (p : SparePlace) (f : Finding) : ∃ k l b ch er bb, placeFinding s p f =
    { s with cores := k, ms := { s.ms with poison := l, banks := b, chans := ch, errRows := er }, bb := bb } := by
  cases f with
  | clean => exact ⟨s.cores, s.ms.poison, s.ms.banks, s.ms.chans, s.ms.errRows, s.bb, rfl⟩
  | corrected =>
    cases p with
    | core c a b => exact ⟨_, s.ms.poison, s.ms.banks, s.ms.chans, _, s.bb, rfl⟩
    | chip b n => exact ⟨s.cores, s.ms.poison, _, s.ms.chans, _, s.bb, rfl⟩
  | uncorrectable m =>
    cases p with
    | core c a b =>
      obtain ⟨l, ch, bb, e⟩ := addPoison_eq s (placeAddr (.core c a b)) m
      exact ⟨s.cores, l, s.ms.banks, ch, s.ms.errRows, bb, e⟩
    | chip b n =>
      obtain ⟨l, ch, bb, e⟩ := addPoison_eq (s.setBank b.val { s.bank b.val with uncorrected := countErr (s.bank b.val).uncorrected })
        (placeAddr (.chip b n)) m
      exact ⟨s.cores, l, _, ch, s.ms.errRows, bb, e⟩

theorem channelFinding_eq (s : State) (c a : Nat) (f : Finding) :
    ∃ l ch bb, channelFinding s c a f = { s with ms := { s.ms with poison := l, chans := ch }, bb := bb } := by
  cases f with
  | clean => exact ⟨s.ms.poison, s.ms.chans, s.bb, rfl⟩
  | corrected => exact ⟨s.ms.poison, _, s.bb, rfl⟩
  | uncorrectable m =>
    obtain ⟨l, ch, bb, e⟩ := addPoison_eq (s.setChan c { s.chan c with uncorrected := countErr (s.chan c).uncorrected }) a m
    exact ⟨l, ch, bb, e⟩

theorem rowFinding_eq (s : State) (a : Nat) (f : Finding) : ∃ k l b ch er bb, rowFinding s a f =
    { s with cores := k, ms := { s.ms with poison := l, banks := b, chans := ch, errRows := er }, bb := bb } := by
  unfold rowFinding
  split
  · exact placeFinding_eq s _ _
  · obtain ⟨l, ch, bb, e⟩ := channelFinding_eq s (channelOf s a).1 a _
    exact ⟨s.cores, l, s.ms.banks, ch, s.ms.errRows, bb, e⟩
  · obtain ⟨l, ch, bb, e⟩ := addPoison_eq s a _
    exact ⟨s.cores, l, s.ms.banks, ch, s.ms.errRows, bb, e⟩
  · exact ⟨s.cores, s.ms.poison, s.ms.banks, s.ms.chans, s.ms.errRows, s.bb, rfl⟩

/-! ### Requests of the mesh -/

/-- An aligned request of a row that its tier serves at once is served, but for a write into a configuration. -/
theorem meshRequest_served {s : State} {r : BankReq} (hw : r.ofWord = false) (h : Served s r.addr.toNat)
    (hr : (∃ c a f x, r = .read c a f x) ∨ (∃ c a d p x, r = .write c a d p x ∧ configRow s a.toNat = false)) :
    ∃ b, meshRequest s r = serveReq s b r := by
  obtain ⟨ha, h⟩ := h
  have hal : ¬ r.addr.toNat % (if r.ofWord then 4 else 512) ≠ 0 := by simp [hw, ha]
  unfold meshRequest
  dsimp only
  rw [if_neg hal]
  rcases h with h | h | ⟨h, hd⟩ | ⟨h, hp, hq⟩
  · exact ⟨512 + (channelOf s r.addr.toNat).1, by simp only [h]⟩
  · refine ⟨0, ?_⟩
    rcases hr with ⟨c, a, f, x, rfl⟩ | ⟨c, a, d, p, x, rfl, hc⟩
    · simp [h]
    · simp [h, hc]
  · refine ⟨0, ?_⟩
    rcases hr with ⟨c, a, f, x, rfl⟩ | ⟨c, a, d, p, x, rfl, hc⟩
    · simp [h, hd]
    · simp [h, hd, hc]
  · exact ⟨bankOf r.addr.toNat, by simp only [h, bankRequest, hp, hq]; rfl⟩

/-- A row read once it is served: the row, the poison, what was found (R80, R95, R96). -/
theorem serveReq_read {s : State} {c : Option CtxId} {a : BitVec 52} (b : Nat) (f : Finding) (x : Transit) (h : Mapped s a.toNat) :
    let u := transitCount (rowFinding s a.toNat f) x
    let m : BitVec 16 := if region s a.toNat = .gddr ∧ (u.chan (channelOf s a.toNat).1).poisoned = true then 0xFFFF
      else poisonMask u.ms.poison a.toNat
    serveReq s b (.read c a f x) = (countCxlPoison u a.toNat m).answer (.row a (Mem.row s.ms.mem a.toNat) (m ||| transitPoison x)) := by
  obtain ⟨k, l, bk, ch, er, bb, e⟩ := rowFinding_eq s a.toNat f
  obtain ⟨lc, e'⟩ := transitCount_eq (rowFinding s a.toNat f) x
  rw [e] at e'
  have hu : Mapped (transitCount (rowFinding s a.toNat f) x) a.toNat := by
    rw [e, e']
    exact h
  have hreg : region (transitCount (rowFinding s a.toNat f) x) a.toNat = region s a.toNat := by
    rw [e, e']
    rfl
  have hrow : Mem.row (transitCount (rowFinding s a.toNat f) x).ms.mem a.toNat = Mem.row s.ms.mem a.toNat := by
    rw [e, e']
  have hch : channelOf (transitCount (rowFinding s a.toNat f) x) a.toNat = channelOf s a.toNat := by
    rw [e, e']
    rfl
  dsimp only
  simp only [serveReq, rawRead_mapped hu, hrow, hreg, hch]

/-- In chip and core memory a row's poison is what was put for it (R96). -/
theorem poisonMask_putPoison {s : State} {a : Nat} {m : BitVec 16} (hg : region s a ≠ .gddr) (hx : region s a ≠ .cxl) :
    poisonMask (s.putPoison a m).ms.poison a = m := by
  unfold State.putPoison
  split
  · exact absurd ‹_› hg
  · exact absurd ‹_› hx
  · exact poisonMask_setPoison _ _ _

/-- A row written once it is served. -/
theorem serveReq_write {s : State} {c : Option CtxId} {a : BitVec 52} (b : Nat) (r : Row) (p : BitVec 16) (x : Transit)
    (h : Mapped s a.toNat) : ∃ l ch bb lc, serveReq s b (.write c a r p x) =
      ({ s with ms := { s.ms with mem := Mem.setRow s.ms.mem a.toNat r, poison := l, chans := ch, linkCorrected := lc }, bb := bb } : State).answer
        (.acked a) ∧
      (region s a.toNat ≠ .gddr → region s a.toNat ≠ .cxl → poisonMask l a.toNat = p ||| transitPoison x) := by
  obtain ⟨lc, e⟩ := transitCount_eq s x
  have hu : Mapped { s with ms := { s.ms with linkCorrected := lc } } a.toNat := h
  obtain ⟨l, ch, bb, ep⟩ := rawPut_mapped_eq r (p ||| transitPoison x) hu
  refine ⟨l, ch, bb, lc, ?_, fun hg hx => ?_⟩
  · change (rawPut (transitCount s x) a.toNat r (p ||| transitPoison x)).answer (.acked a) = _
    rw [e, ep]
  · rw [rawPut_mapped r (p ||| transitPoison x) hu] at ep
    rw [show l = _ from congrArg (fun t : State => t.ms.poison) ep.symm]
    exact poisonMask_putPoison hg hx

/-- A request that is not aligned, or of no mapped address, is refused (R27, R31; log 126). -/
theorem meshRequest_unmapped {s : State} {r : BankReq} (hw : r.ofWord = false)
    (h : r.addr.toNat % 512 ≠ 0 ∨ region s r.addr.toNat = .unmapped ∨ region s r.addr.toNat = .config) :
    meshRequest s r = refuseReq s r St.addressUnmapped := by
  unfold meshRequest
  simp only [hw, Bool.false_eq_true, if_false]
  rcases h with h | h | h
  · rw [if_pos h]
  · simp only [h, ite_self]
  · simp only [h, ite_self]

theorem meshRequest_portDown {s : State} {r : BankReq} (hw : r.ofWord = false) (ha : r.addr.toNat % 512 = 0)
    (h : region s r.addr.toNat = .cxl) (hd : (s.cxlPort (cxlPortOf s r.addr.toNat)).down = true) :
    meshRequest s r = refuseReq s r St.cxlPortDown := by
  simp [meshRequest, hw, ha, h, hd]

theorem meshRequest_gated {s : State} {r : BankReq} (hw : r.ofWord = false) (ha : r.addr.toNat % 512 = 0)
    (h : region s r.addr.toNat = .chip) (hg : (s.bank (bankOf r.addr.toNat)).power = .gated) :
    meshRequest s r = if r.isRead then refuseReq s r St.bankGatedRead else lateWake s (bankOf r.addr.toNat) [r] := by
  simp [meshRequest, hw, ha, h, bankRequest, hg]

theorem meshRequest_config {s : State} {c : Option CtxId} {a : BitVec 52} {r : Row} {p : BitVec 16} {x : Transit} (ha : a.toNat % 512 = 0)
    (h : region s a.toNat = .coreMem) (hc : configRow s a.toNat = true) :
    meshRequest s (.write c a r p x) = refuseReq s (.write c a r p x) St.configOverwrite := by
  simp [meshRequest, BankReq.ofWord, BankReq.addr, ha, h, hc]

/-- Settles O12: a request is served where its tier serves it at once, and the other cases are refused one by one. -/
theorem meshRows : Obligations.MeshRows := by
  unfold Obligations.MeshRows
  refine ⟨fun s c a h => ⟨fun f x => ?_, fun r p x hc => ?_⟩, fun s c a f x r p => ⟨fun h => ⟨?_, ?_⟩, fun ha h hd => ⟨?_, ?_⟩,
    fun ha h hg => ?_, fun ha h hc => ?_⟩⟩
  · obtain ⟨b, e⟩ := meshRequest_served (r := .read c a f x) rfl h (.inl ⟨c, a, f, x, rfl⟩)
    exact congrArg _ (e.trans (serveReq_read b f x h.mapped))
  · obtain ⟨b, e⟩ := meshRequest_served (r := .write c a r p x) rfl h (.inr ⟨c, a, r, p, x, rfl, hc⟩)
    obtain ⟨l, ch, bb, lc, e', hl⟩ := serveReq_write (c := c) b r p x h.mapped
    refine ⟨_, next_congr (e.trans e'), Mem.row_setRow_same _ _ _, fun y hy => ?_, fun hw => Mem.wf_setRow _ _ hw, hl, rfl, rfl, rfl, rfl, rfl⟩
    exact (Mem.byte_setRow _ _ _ _).trans (if_neg (by omega))
  · exact congrArg _ (meshRequest_unmapped (r := .read (some c) a f x) rfl h)
  · exact congrArg _ (meshRequest_unmapped (r := .write (some c) a r p x) rfl h)
  · exact congrArg _ (meshRequest_portDown (r := .read (some c) a f x) rfl ha h hd)
  · exact congrArg _ (meshRequest_portDown (r := .write (some c) a r p x) rfl ha h hd)
  · exact congrArg _ (meshRequest_gated (r := .read (some c) a f x) rfl ha h hg)
  · exact congrArg _ (meshRequest_config ha h hc)

/-! ### Gating -/

/-- Serving a queue of one request at a bank with power. -/
theorem serveQueue_one {s : State} {b : Nat} {r : BankReq} (h : (s.bank b).power ≠ .gated) :
    serveQueue b [r] s = (serveReq s b r).setBank b { (serveReq s b r).bank b with queue := [] } := by
  simp [serveQueue, h]

theorem gateBank_mem (s : State) (b : Nat) : (gateBank s b).ms.mem = Mem.clear s.ms.mem (chipBase + b * 0x80000) 0x80000 := rfl

theorem gateBank_banks (s : State) (b : Nat) : (gateBank s b).ms.banks = Tab.set {} s.ms.banks b { s.bank b with power := .gated } := rfl

/-- Gating changes memory and the hinge's waits alone. -/
theorem gateBank_rest (s : State) (b : Nat) :
    (gateBank s b).cores = s.cores ∧ (gateBank s b).engines = s.engines ∧ (gateBank s b).ctxs = s.ctxs := ⟨rfl, rfl, rfl⟩

theorem gateBank_bank_same (s : State) (b : Nat) : (gateBank s b).bank b = { s.bank b with power := .gated } := by
  rw [State.bank, gateBank_banks, Tab.get_set_same]

theorem gateBank_bank_ne {s : State} {b d : Nat} (h : d ≠ b) : (gateBank s b).bank d = s.bank d := by
  rw [State.bank, gateBank_banks, Tab.get_set_ne _ _ _ h]
  rfl

/-- Settles O13: the one request in the queue is served, or starts the wake. -/
theorem bankGating : Obligations.BankGating := by
  unfold Obligations.BankGating
  refine ⟨fun s b hp hq => ?_, fun s c a r p x ha h hg => ?_, fun s b c a r p x h hb hp hq => ?_⟩
  · have hs : ((s.setBank b.val { s.bank b.val with queue := [] }).bank b.val).power ≠ .gated := by simp [hp]
    have e : gateDone s b.val = serveQueue b.val [.gate] (s.setBank b.val { s.bank b.val with queue := [] }) := by
      simp only [gateDone, hp, hq]
    rw [serveQueue_one hs, show serveReq _ b.val .gate = gateBank _ b.val from rfl] at e
    obtain ⟨h1, h2, h3⟩ := gateBank_rest (s.setBank b.val { s.bank b.val with queue := [] }) b.val
    refine ⟨_, next_congr e, ?_, ?_, fun y hy => ?_, fun d hd => ?_, h1, h2, h3⟩
    · rw [State.bank_setBank_same, gateBank_bank_same]
    · rw [State.bank_setBank_same]
    · rw [State.setBank_mem, gateBank_mem, State.setBank_mem, Mem.byte_clear, if_neg (by omega)]
    · rw [State.bank_setBank_ne _ _ _ _ hd, gateBank_bank_ne hd, State.bank_setBank_ne _ _ _ _ hd]
  · exact congrArg _ (meshRequest_gated (r := .write c a r p x) rfl ha h hg)
  · let s1 := requestDone (s.setBank b.val { s.bank b.val with power := .awake, queue := [] }) b.val
    have hs : (s1.bank b.val).power ≠ .gated := by
      have : s1.bank b.val = { s.bank b.val with power := .awake, queue := [] } := State.bank_setBank_same _ _ _
      simp [this]
    have hm : Mapped s1 a.toNat := .inr (.inr (.inr h))
    have e : wakeDone s b.val = serveQueue b.val [.write c a r p x] s1 := by
      simp only [wakeDone, hp, hq]
      rfl
    obtain ⟨l, ch, bb, lc, e', -⟩ := serveReq_write (c := c) b.val r p x hm
    refine ⟨_, next_congr (e.trans (serveQueue_one hs)), ?_, ?_, ?_, ?_, fun y hy => ?_⟩
    all_goals rw [e']
    · rw [State.bank_setBank_same]
      simp [s1, requestDone, State.answer, State.bank, State.setBank]
    · rw [State.bank_setBank_same]
    · exact Mem.row_setRow_same _ _ _
    · rfl
    · exact (Mem.byte_setRow _ _ _ _).trans (if_neg (by omega))

end Sys2Proof.Machine
end

section
/-!
LEMMA. The operations of the memory-side engines: word claims and word writes (O14), and the accumulate (O15).
-/
namespace Sys2Proof.Machine

/-! ### Requests through an entry -/

/-- An engine operation that the entry's checks refuse (R92). -/
theorem engineRequest_refused {s : State} {c : Option CtxId} {d : Half} {p : Nat} {f : Option Nat} {n : Nat} {r : BankReq} {st : Half}
    (hc : c.isSome = true) (h : (capture s none d).refuse c p f = some st) :
    engineRequest s c d p f n r = (faultCtx s c ⟨st, { handle := d }⟩).answer (.failed r.addr st) := by
  obtain ⟨x, rfl⟩ := Option.isSome_iff_exists.1 hc
  simp only [engineRequest, begin'_refused h, Option.isNone_some, Bool.false_eq_true, if_false]

/-- An engine operation goes to the mesh, its entry marked, where its issuer is of the memory side or its entry passes and holds the rows
(R92, R269, R273). -/
theorem engineRequest_passes {s : State} {c : Option CtxId} {d : Half} {p : Nat} {f : Option Nat} {n : Nat} {r : BankReq}
    (h : c.isSome = true → (capture s none d).refuse c p f = none ∧ (f.any fun x => (capture s none d).format != x) = false ∧
      ((entryRowAt (capture s none d).parent (r.addr.toNat / 512 * 512)).any fun j =>
        decide (j + n ≤ DE.rows (capture s none d).parent)) = true) :
    engineRequest s c d p f n r = meshRequest (markSeen s c (capture s none d) p) r := by
  cases c with
  | none => rfl
  | some c =>
    obtain ⟨hr, hf, hj⟩ := h rfl
    simp only [engineRequest, begin'_passes hr, Option.isNone_some, Bool.false_eq_true, if_false, hf, hj, if_true]

/-- A request of a word, or an accumulate, at a tier with engines is served at once where its row is (R105, R266). -/
theorem meshRequest_engine {s : State} {r : BankReq} {e : Nat} (ha : r.addr.toNat % (if r.ofWord then 4 else 512) = 0)
    (h : (region s r.addr.toNat = .gddr ∧ e = 512 + (channelOf s r.addr.toNat).1) ∨ (region s r.addr.toNat = .chip ∧
      e = bankOf r.addr.toNat ∧ (s.bank e).power = .awake ∧ (s.bank e).queue = [])) : meshRequest s r = serveReq s e r := by
  have hal : ¬ r.addr.toNat % (if r.ofWord then 4 else 512) ≠ 0 := by simp [ha]
  unfold meshRequest
  dsimp only
  rw [if_neg hal]
  rcases h with ⟨h, rfl⟩ | ⟨h, rfl, hp, hq⟩
  · simp only [h]
  · simp only [h, bankRequest, hp, hq]
    rfl

/-! ### One word of a row -/

/-- A word rewritten in its row leaves every other byte, memory being in its form. -/
theorem byte_setRow_setWord {m : Memory} (hm : Mem.wf m = true) {a : Nat} (ha : a % 4 = 0) (x : Word) {y : Nat} (hy : y < a ∨ a + 4 ≤ y) :
    Mem.byte (Mem.setRow m (a / 512 * 512) (Mem.setWord (Mem.row m (a / 512 * 512)) (a % 512 / 4) x)) y = Mem.byte m y := by
  rw [Mem.byte_setRow]
  split
  next h =>
    rw [Mem.rowByte_setWord_ne _ _ _ _ (by omega), Mem.rowByte_row hm _ _ (by omega), Nat.add_sub_cancel' h.1]
  · rfl

/-- What a row write through its tier leaves, a word of the row having been rewritten. -/
theorem rawPut_word {s : State} {a : Nat} (hm : Mem.wf s.ms.mem = true) (ha : a % 4 = 0) (h : Mapped s (a / 512 * 512)) (x : Word) (p : BitVec 16) :
    ∃ mem l ch b, rawPut s (a / 512 * 512) (Mem.setWord (Mem.row s.ms.mem (a / 512 * 512)) (a % 512 / 4) x) p =
        { s with ms := { s.ms with mem := mem, poison := l, chans := ch }, bb := b } ∧
      Mem.rowWord (Mem.row mem (a / 512 * 512)) (a % 512 / 4) = x ∧
      ∀ y, y < a ∨ a + 4 ≤ y → Mem.byte mem y = Mem.byte s.ms.mem y := by
  obtain ⟨l, ch, b, e⟩ := rawPut_mapped_eq (Mem.setWord (Mem.row s.ms.mem (a / 512 * 512)) (a % 512 / 4) x) p h
  exact ⟨_, l, ch, b, e, by rw [Mem.row_setRow_same, Mem.rowWord_setWord_same _ _ _ (by omega)],
    fun y hy => byte_setRow_setWord hm ha x hy⟩

theorem replayClaim_eq (s : State) (a w n : Nat) : ∃ co, replayClaim s a w n = { s with colls := co } := by
  unfold replayClaim
  split
  · exact ⟨s.colls, rfl⟩
  · exact ⟨_, rfl⟩

/-- A claim of a word that is not poisoned, at its engine (R185). -/
theorem serveReq_fadd {s : State} {a : BitVec 52} {d l : Word} (c : Option CtxId) (e : Nat) (hm : Mem.wf s.ms.mem = true)
    (ha : a.toNat % 4 = 0) (h : Mapped s (a.toNat / 512 * 512)) (hp : poisonMask s.ms.poison (a.toNat / 512 * 512) = 0)
    (hc : region s (a.toNat / 512 * 512) = .gddr → (s.chan (channelOf s (a.toNat / 512 * 512)).1).poisoned = false) :
    let old := Mem.rowWord (Mem.row s.ms.mem (a.toNat / 512 * 512)) (a.toNat % 512 / 4)
    ∃ mem po ch b co, serveReq s e (.fadd c a d l) =
        ({ s with ms := { s.ms with mem := mem, poison := po, chans := ch }, bb := b, colls := co } : State).answer
          (.value a (if l.toNat ≤ old.toNat then 0xFFFFFFFF else old)) ∧
      Mem.rowWord (Mem.row mem (a.toNat / 512 * 512)) (a.toNat % 512 / 4) =
        (if l.toNat ≤ old.toNat then old else BitVec.ofNat 32 (min (old.toNat + d.toNat) l.toNat)) ∧
      ∀ y, y < a.toNat ∨ a.toNat + 4 ≤ y → Mem.byte mem y = Mem.byte s.ms.mem y := by
  dsimp only
  set old := Mem.rowWord (Mem.row s.ms.mem (a.toNat / 512 * 512)) (a.toNat % 512 / 4)
  have hmask : (if region s (a.toNat / 512 * 512) = .gddr ∧ (s.chan (channelOf s (a.toNat / 512 * 512)).1).poisoned = true
      then 0xFFFF else poisonMask s.ms.poison (a.toNat / 512 * 512) : BitVec 16) = 0 := by
    rw [hp, if_neg]
    rintro ⟨hg, hb⟩
    exact absurd (hb.symm.trans (hc hg)) (by decide)
  have hnew : BitVec.ofNat 32 (claim old.toNat d.toNat l.toNat).1 =
      if l.toNat ≤ old.toNat then old else BitVec.ofNat 32 (min (old.toNat + d.toNat) l.toNat) := by
    unfold claim
    split
    · exact BitVec.ofNat_toNat _ _ |>.trans (BitVec.setWidth_eq _)
    · rfl
  have hret : BitVec.ofNat 32 (claim old.toNat d.toNat l.toNat).2 = if l.toNat ≤ old.toNat then 0xFFFFFFFF else old := by
    unfold claim
    split
    · rfl
    · exact BitVec.ofNat_toNat _ _ |>.trans (BitVec.setWidth_eq _)
  obtain ⟨mem, po, ch, b, ep, hw, hy⟩ := rawPut_word hm ha h (BitVec.ofNat 32 (claim old.toNat d.toNat l.toNat).1) 0
  have hf : faddAt s (a.toNat / 512 * 512) (a.toNat % 512 / 4) d.toNat l.toNat = (some (claim old.toNat d.toNat l.toNat).2,
      { s with ms := { s.ms with mem := mem, poison := po, chans := ch }, bb := b }) := by
    simp only [faddAt, rawRead_mapped h, hmask]
    rw [← ep]
    simp [bit, old]
  have hs : ∃ co, serveReq s e (.fadd c a d l) =
      ({ s with ms := { s.ms with mem := mem, poison := po, chans := ch }, bb := b, colls := co } : State).answer
        (.value a (BitVec.ofNat 32 (claim old.toNat d.toNat l.toNat).2)) := by
    simp only [serveReq, hf]
    split
    · obtain ⟨co, e⟩ := replayClaim_eq _ _ _ _
      exact ⟨co, by rw [e]⟩
    · exact ⟨s.colls, rfl⟩
  obtain ⟨co, hs⟩ := hs
  exact ⟨mem, po, ch, b, co, by rw [hs, hret], by rw [hw, hnew], hy⟩

/-- A word written at its engine (R267). -/
theorem serveReq_word {s : State} {a : BitVec 52} {d : Word} (e : Nat) (hm : Mem.wf s.ms.mem = true) (ha : a.toNat % 4 = 0)
    (h : Mapped s (a.toNat / 512 * 512)) : ∃ mem po ch b, serveReq s e (.word a d) =
        ({ s with ms := { s.ms with mem := mem, poison := po, chans := ch }, bb := b } : State).answer (.acked a) ∧
      Mem.rowWord (Mem.row mem (a.toNat / 512 * 512)) (a.toNat % 512 / 4) = d ∧
      ∀ y, y < a.toNat ∨ a.toNat + 4 ≤ y → Mem.byte mem y = Mem.byte s.ms.mem y := by
  obtain ⟨mem, po, ch, b, ep, hw, hy⟩ := rawPut_word hm ha h d
    (if region s (a.toNat / 512 * 512) = .gddr ∧ (s.chan (channelOf s (a.toNat / 512 * 512)).1).poisoned = true
      then 0xFFFF else poisonMask s.ms.poison (a.toNat / 512 * 512))
  exact ⟨mem, po, ch, b, by simp only [serveReq, wordPut, rawRead_mapped h, ep], hw, hy⟩

/-- An entry's row at an address is one of its rows (R84). -/
theorem entryRowAt_lt {e : BitVec 256} {a j : Nat} (h : entryRowAt e a = some j) : j < DE.rows e := by
  simp only [entryRowAt, Option.ite_none_right_eq_some, Option.some.injEq] at h
  exact h.2 ▸ h.1.1

/-- Settles O14: the request reaches the engine of its row, which serves the claim or the word. -/
theorem wordOperations : Obligations.WordOperations := by
  unfold Obligations.WordOperations
  intro s c e a d l
  dsimp only
  refine ⟨fun st hc hd hr => ?_, fun hm ha hsv hreg hbank htier hp hch => ⟨fun hd hk => ?_, ?_⟩⟩
  · exact next_congr ((if_neg hd).trans (engineRequest_refused hc hr))
  all_goals
    have hplace : ∃ n, (region s a.toNat = .gddr ∧ n = 512 + (channelOf s a.toNat).1) ∨
        (region s a.toNat = .chip ∧ n = bankOf a.toNat ∧ (s.bank n).power = .awake ∧ (s.bank n).queue = []) := by
      rcases htier with h | h
      · obtain ⟨-, h' | h' | ⟨h', -⟩ | ⟨-, hq⟩⟩ := hsv
        · exact absurd (h.symm.trans (hreg.trans h')) (by decide)
        · exact absurd (h.symm.trans (hreg.trans h')) (by decide)
        · exact absurd (h.symm.trans (hreg.trans h')) (by decide)
        · exact ⟨_, .inr ⟨h, hbank.symm, hq⟩⟩
      · exact ⟨_, .inl ⟨h, rfl⟩⟩
    obtain ⟨n, hn⟩ := hplace
  · obtain ⟨x, hx⟩ := markSeen_eq s c (capture s none e) pFADD
    have he : engineRequest s c e pFADD none 1 (.fadd c a d l) = serveReq { s with ctxs := x } n (.fadd c a d l) := by
      rw [engineRequest_passes fun hc => ?_, hx]
      · exact meshRequest_engine (r := .fadd c a d l) ha hn
      · obtain ⟨h1, h2⟩ := hk hc
        refine ⟨h1, rfl, ?_⟩
        obtain ⟨j, hj⟩ := Option.isSome_iff_exists.1 h2
        simp only [BankReq.addr, hj, Option.any_some]
        exact decide_eq_true (entryRowAt_lt hj)
    obtain ⟨mem, po, ch, b, co, e', hw, hy⟩ := serveReq_fadd (s := { s with ctxs := x }) (d := d) (l := l) c n hm ha hsv.mapped hp
      fun hg => hch (hreg.trans hg)
    refine ⟨_, next_congr ((if_neg hd).trans (he.trans e')), rfl, hw, hy, rfl, ?_⟩
    rw [hx]
    rfl
  · obtain ⟨mem, po, ch, b, e', hw, hy⟩ := serveReq_word (d := d) n hm ha hsv.mapped
    exact ⟨_, next_congr ((meshRequest_engine (r := .word a d) ha hn).trans e'), rfl, hw, hy, rfl, rfl⟩

/-! ### ACC_SI24 -/

theorem accServe_notArmed {s : State} {e : Nat} {h : GradHdr} (bs : List (Nat × BitVec 3104)) (hf : (s.engine e).findSlot h = none) :
    accServe s e h bs = (accNotArmed, s) := by
  simp only [accServe, hf]

theorem accServe_over {s : State} {e i : Nat} {h : GradHdr} {bs : List (Nat × BitVec 3104)} (hf : (s.engine e).findSlot h = some i)
    (hm : matchSlot ((s.engine e).slot i) h bs.length = accOver) :
    accServe s e h bs = (accOver, s.setEngine e { s.engine e with overCount := countErr (s.engine e).overCount }) := by
  simp only [accServe, hf, hm, if_true]

/-- Blocks that their slot takes as one unit, none of whose sums is poisoned, are added and counted (R269, R271). -/
theorem accServe_ok {s : State} {e i : Nat} {h : GradHdr} {bs : List (Nat × BitVec 3104)} (hf : (s.engine e).findSlot h = some i)
    (hm : matchSlot ((s.engine e).slot i) h bs.length = accOk) (hp : (bs.any fun b => blockPoisoned s b.1) = false) :
    accServe s e h bs = (accOk, countSlot (bs.foldl (fun t b => addBlock t e b.1 b.2) s) e i bs.length
      (bs.any fun b => blockMismatch s b.1 b.2 || (si24Word b.2).testBit 16) (bs.any fun b => (si24Word b.2).testBit 17)) := by
  simp only [accServe, hf, hm, hp]
  rfl

/-- A read of a row does not look at the contexts. -/
theorem rawRead_ctxs (s : State) (x : Tab Context) (a : Nat) : rawRead { s with ctxs := x } a = rawRead s a := rfl

/-- Settles O15: the request reaches the engine, whose slot decides. -/
theorem engineAccumulates : Obligations.EngineAccumulates := by
  unfold Obligations.EngineAccumulates
  intro s c d a h b e
  dsimp only
  obtain ⟨x, hx⟩ := markSeen_eq s c (capture s none d) pACC
  refine ⟨fun st hc hr => next_congr (engineRequest_refused hc hr), fun ha hn hk => ?_⟩
  have he : exec (.accSi24 ⟨c, d⟩ a h b) s = .next (serveReq (markSeen s c (capture s none d) pACC) e (.acc c a h b)) := by
    refine next_congr ((engineRequest_passes fun hc => ?_).trans ?_)
    · obtain ⟨h1, h2, h3⟩ := hk hc
      have ha' : a.toNat / 512 * 512 = a.toNat := by omega
      refine ⟨h1, ?_, ?_⟩
      · simp [h2]
      · rw [show (BankReq.acc c a h b).addr = a from rfl, ha']
        exact h3
    · rw [hx]
      exact meshRequest_engine (r := .acc c a h b) ha hn
  have hres : ∀ n t, accServe (markSeen s c (capture s none d) pACC) e (gradHdr h) [(a.toNat, b)] = (n, t) → n ≠ accPoisoned →
      serveReq (markSeen s c (capture s none d) pACC) e (.acc c a h b) = t.answer (.accResult a (BitVec.ofNat 8 n)) := by
    intro n t e hn
    simp only [serveReq, e, hn, if_false]
  have heng : (markSeen s c (capture s none d) pACC).engine e = s.engine e := by
    rw [hx]
    rfl
  refine ⟨fun hf => ?_, fun i hf => ⟨fun hm => ?_, fun hm hp => ?_⟩⟩
  · rw [he, hres _ _ (accServe_notArmed _ (by rw [heng, hf])) (by decide)]
  · rw [he, hres _ _ (accServe_over (by rw [heng, hf]) (by rw [heng]; exact hm)) (by decide), heng]
  · have hp' : blockPoisoned (markSeen s c (capture s none d) pACC) a.toNat = false := by
      rw [hx, ← hp]
      simp only [blockPoisoned, rawRead_ctxs]
    have hmis : blockMismatch (markSeen s c (capture s none d) pACC) a.toNat b = blockMismatch s a.toNat b := by
      rw [hx]
      simp only [blockMismatch, rawRead_ctxs]
    rw [he, hres _ _ (accServe_ok (by rw [heng, hf]) (by rw [heng]; exact hm) (by simp [hp'])) (by decide)]
    simp [hmis]

end Sys2Proof.Machine
end

section
/-!
LEMMA. A new request's TAG (O22), flits received and acknowledged (O23), and the life of a window (O17).
-/
namespace Sys2Proof.Machine

/-! ### TAGs (R298) -/

/-- Where one of the TAGs that are tried is free, a free one is given. -/
theorem freeTag_of_free {used : List Nat} {n t : Nat} (h : ∃ i < n, (t + i) % 2 ^ 24 ∉ used) :
    used.contains (freeTag used n t) = false ∧ freeTag used n t < 2 ^ 24 := by
  induction n generalizing t with
  | zero => obtain ⟨i, hi, -⟩ := h; omega
  | succ n ih =>
    simp only [freeTag]
    split
    next hc =>
      apply ih
      obtain ⟨i, hi, hf⟩ := h
      cases i with
      | zero => exact absurd (List.contains_iff_mem.1 hc) hf
      | succ i => exact ⟨i, by omega, by rwa [show t + 1 + i = t + (i + 1) by omega]⟩
    next hc => exact ⟨by simpa using hc, Nat.mod_lt _ (by decide)⟩

/-- Of 16,384 TAGs in a row, fewer than 16,384 used ones leave one free. -/
theorem exists_free_tag {used : List Nat} (t : Nat) (h : used.length < 16384) : ∃ i < 16384, (t + i) % 2 ^ 24 ∉ used := by
  by_contra hn
  have hall : ∀ i < 16384, (t + i) % 2 ^ 24 ∈ used := fun i hi => by
    by_contra hm
    exact hn ⟨i, hi, hm⟩
  have hinj : Set.InjOn (fun i => (t + i) % 2 ^ 24) (Finset.range 16384 : Set Nat) := by
    intro i hi j hj hij
    simp only [Finset.coe_range, Set.mem_Iio] at hi hj
    dsimp only at hij
    omega
  have hsub : (Finset.range 16384).image (fun i => (t + i) % 2 ^ 24) ⊆ used.toFinset := by
    intro x hx
    obtain ⟨i, hi, rfl⟩ := Finset.mem_image.1 hx
    exact List.mem_toFinset.2 (hall i (Finset.mem_range.1 hi))
  have hcard := Finset.card_le_card hsub
  rw [Finset.card_image_of_injOn hinj, Finset.card_range] at hcard
  exact absurd (hcard.trans (List.toFinset_card_le used)) (by omega)

/-- Settles O22, by counting. -/
theorem tagsAreFresh : Obligations.TagsAreFresh := by
  unfold Obligations.TagsAreFresh
  exact fun used t h => freeTag_of_free (exists_free_tag t h)

/-! ### Flits (R285 to R287) -/

/-- Settles O23: what a flit is decides how it is taken, and an acknowledgement keeps what is later. -/
theorem flitExchange : Obligations.FlitExchange := by
  unfold Obligations.FlitExchange
  refine ⟨⟨fun s l b hx => ⟨fun clean h => ?_, fun hc h0 => ?_, fun hc h0 hs => ?_, fun hc h0 hs => ?_⟩, fun x q hn => ?_, fun x hn => ?_⟩,
    fun x ack => ⟨List.filter_sublist, fun f hf => (List.mem_filter.1 hf).2, fun f hf h => List.mem_filter.2 ⟨hf, h⟩, rfl, rfl, rfl⟩⟩
  · have hbad : (!(clean && crcGood b)) = true := by rcases h with h | h <;> simp [h]
    refine next_congr ?_
    simp only [flitReceive, hx, hbad, if_true, Bool.not_true, Bool.false_eq_true, if_false]
  · refine next_congr ?_
    simp only [flitReceive, hx, hc, h0, Bool.and_self, Bool.not_true, Bool.false_eq_true, if_false, if_true]
  · refine next_congr ?_
    simp only [flitReceive, hx, hc, h0, hs, Bool.and_self, Bool.not_true, Bool.false_eq_true, if_false, if_true]
  · refine next_congr ?_
    simp only [flitReceive, hx, hc, h0, hs, Bool.and_self, Bool.not_true, Bool.false_eq_true, if_false]
  · simp [discardFlit, hn]
  · simp [discardFlit, hn]

/-! ### Windows (R304, R305, R308) -/

/-- Writing a window and the copy of its generation. -/
theorem setGen_window (s : State) (i : Nat) (x : Window) : (setGen s i x).window i = x ∧ ∀ j, j ≠ i → (setGen s i x).window j = s.window j :=
  ⟨State.window_setWindow_same s i x, fun j hj => State.window_setWindow_ne s i j x hj⟩

/-- Settles O17: each command is taken up, and writes its window or its record. -/
theorem windowLife : Obligations.WindowLife := by
  unfold Obligations.WindowLife
  intro s r c
  dsimp only
  refine ⟨fun h => ?_, fun h hw => ?_, fun h hw => ?_, fun h => ?_, fun v hc ha => ?_⟩
  · obtain ⟨h1, h2⟩ := setGen_window s (WP.window c.payload) { s.window (WP.window c.payload) with
      state := .opened, ops := WP.ops c.payload, ctx := BitVec.ofNat 8 r.ctx.val
      gen := if WP.genSet c.payload then WP.gen c.payload else (s.window (WP.window c.payload)).gen, handle := WP.handle c.payload
      service := if WP.genSet c.payload then WP.gen c.payload else (s.window (WP.window c.payload)).gen }
    exact ⟨_, next_congr (State.take_start _ h), h1, h2, rfl, rfl, rfl, rfl, rfl⟩
  · obtain ⟨h1, h2⟩ := setGen_window s (WP.window c.payload) { s.window (WP.window c.payload) with
      state := .closing, gen := (s.window (WP.window c.payload)).gen + 1 }
    refine ⟨_, next_congr ((State.take_start _ h).trans ?_), h1, h2, rfl, rfl, rfl⟩
    simp only [windowCloseCheck, hw, if_true]
  · refine next_congr ((State.take_start _ h).trans ?_)
    simp only [windowCloseCheck, hw, if_false]
  · exact next_congr (State.take_start _ h)
  · refine ⟨_, next_congr ?_, rfl⟩
    simp only [haspComplete, hc, ha]
    rfl

end Sys2Proof.Machine
end

section
/-!
LEMMA. Requests served at a window (O19), responses and timeouts (O21), and a counterexample to the statement of DEVICE_ID_SET (O18).
-/
namespace Sys2Proof.Machine

/-! ### What traffic on the links can change -/

/-- Two states that differ in the links, the windows, this device's own packets and its count of drops alone. -/
def LinkTraffic (s t : State) : Prop := ∃ l w p d, t = { s with fab := { s.fab with links := l, windows := w, loop := p, localDropped := d } }

namespace LinkTraffic

theorem refl (s : State) : LinkTraffic s s := ⟨s.fab.links, s.fab.windows, s.fab.loop, s.fab.localDropped, rfl⟩

theorem trans {s t u : State} (h : LinkTraffic s t) (k : LinkTraffic t u) : LinkTraffic s u := by
  obtain ⟨l, w, p, d, rfl⟩ := h
  obtain ⟨l', w', p', d', rfl⟩ := k
  exact ⟨l', w', p', d', rfl⟩

theorem setLink (s : State) (l : LinkId) (x : Link) : LinkTraffic s (s.setLink l x) := ⟨_, s.fab.windows, s.fab.loop, s.fab.localDropped, rfl⟩

theorem setWindow (s : State) (i : Nat) (x : Window) : LinkTraffic s (s.setWindow i x) := ⟨s.fab.links, _, s.fab.loop, s.fab.localDropped, rfl⟩

theorem ownPackets (s : State) (q : List Packet) : LinkTraffic s { s with fab := { s.fab with loop := q } } :=
  ⟨s.fab.links, s.fab.windows, q, s.fab.localDropped, rfl⟩

theorem idle (s : State) (l : LinkId) : LinkTraffic s (s.idle l) := setLink s l _

theorem flitGone (s : State) (f : Flit) : LinkTraffic s (flitGone s f) := by
  unfold Machine.flitGone
  have h : LinkTraffic s (match f.via with
      | some m => (s.setLink m (freeFlits (s.link m) f.lane 1)).idle m
      | none => s) := by
    split
    · exact (setLink s _ _).trans (idle _ _)
    · exact refl s
  dsimp only
  split
  · exact h.trans (setWindow _ _ _)
  · exact h

theorem foldl {α : Type} {f : State → α → State} (hf : ∀ s a, LinkTraffic s (f s a)) (l : List α) (s : State) : LinkTraffic s (l.foldl f s) := by
  induction l generalizing s with
  | nil => exact refl s
  | cons a l ih => exact (hf s a).trans (ih _)

theorem pump (s : State) (l : LinkId) : LinkTraffic s (s.pump l) :=
  ((setLink s l _).trans (foldl flitGone _ _)).trans (idle _ l)

theorem pushFlits (s : State) (l : LinkId) (fs : List Flit) : LinkTraffic s (pushFlits s l fs) := (setLink s l _).trans (pump _ l)

theorem countDrop (s : State) (via : Option LinkId) : LinkTraffic s (countDrop s via) := by
  cases via with
  | some l => exact setLink s l _
  | none => exact ⟨s.fab.links, s.fab.windows, s.fab.loop, _, rfl⟩

theorem packetGone (s : State) (via : Option LinkId) (p : Packet) (w : Option Nat) : LinkTraffic s (packetGone s via p w) := foldl flitGone _ _

theorem dispatchResp (s : State) (via : Option LinkId) (p : Packet) (w : Option Nat) : LinkTraffic s (dispatchResp s via p w) := by
  unfold Machine.dispatchResp
  split
  · exact (packetGone s via p w).trans (countDrop _ via)
  · split
    · exact (ownPackets s _).trans (packetGone _ via p w)
    · split
      · exact (packetGone s via p w).trans (countDrop _ via)
      · split
        · exact (packetGone s via p w).trans (countDrop _ via)
        · exact pushFlits s _ _

theorem retire (s : State) (p : Packet) (st d : Nat) (w : Word) (rows : List Row) (m : BitVec 128) :
    LinkTraffic s (retire s p st d w rows m) := dispatchResp s none _ _

theorem arrived (s : State) (via : Option LinkId) (p : Packet) : LinkTraffic s (arrived s via p) := by
  cases via with
  | none => exact ownPackets s _
  | some l => exact (setLink s l _).trans (pump _ l)

/-- What traffic on the links leaves. -/
theorem rest {s t : State} (h : LinkTraffic s t) :
    t.ms = s.ms ∧ t.cores = s.cores ∧ t.ctxs = s.ctxs ∧ t.cmds = s.cmds ∧ t.keys = s.keys ∧ t.fab.reqs = s.fab.reqs := by
  obtain ⟨l, w, p, d, rfl⟩ := h
  exact ⟨rfl, rfl, rfl, rfl, rfl, rfl⟩

end LinkTraffic

/-! ### A packet arrives -/

theorem packetArrives_takes {s : State} {via : Option LinkId} {p : Packet} {t : BitVec 4} {f : State → State} (ht : p.ptype = t)
    (hn : packetNext s via p = true) : packetArrives s via p t f = if (arrived s via p).fab.devId.isNone then countDrop (arrived s via p) via
      else if (arrived s via p).ownId p.dst then f (arrived s via p) else s := by
  simp only [packetArrives, ht, takePacket, hn, ne_eq, not_true_eq_false, if_false, if_true]
  rfl

/-- A packet for this device is taken and served. -/
theorem packetArrives_own {s : State} {via : Option LinkId} {p : Packet} {t : BitVec 4} {f : State → State} (h : Arrives s via p t) :
    packetArrives s via p t f = f (arrived s via p) := by
  obtain ⟨ht, hn, ho⟩ := h
  have hd : (arrived s via p).fab.devId = some p.dst := by simpa [State.ownId] using ho
  rw [packetArrives_takes ht hn, ho, hd]
  rfl

theorem request_refused {s : State} {p : Packet} {serve : BitVec 256 → State → State} (h0 : requestStatus s p ≠ 0) (h1 : requestStatus s p ≠ 1) :
    request s p serve = answerPacket s p (requestStatus s p) 0 := by
  unfold request
  dsimp only
  split
  · exact absurd ‹_› h0
  · exact absurd ‹_› h1
  · rfl

theorem request_closed {s : State} {p : Packet} {serve : BitVec 256 → State → State} (h : requestStatus s p = 1) :
    request s p serve = answerPacket (countClosed s p.window.toNat) p 1 0 := by
  simp only [request, h]

theorem request_accepted {s : State} {p : Packet} {serve : BitVec 256 → State → State} (h : requestStatus s p = 0) :
    request s p serve = serve (s.devEntry (s.window p.window.toNat).handle) (setActive s p.window.toNat (· + 1)) := by
  simp only [request, h]

/-! ### Rows through a window in GDDR7 -/

/-- The rows of an entry that does not interleave lie one after another (R84). -/
theorem devRowAddr_gddr {e : BitVec 256} (ht : DE.tier e = 2) (j : Nat) : devRowAddr e j = DE.base e + j * 512 := by
  simp [devRowAddr, ht]

theorem windowWrite_gddr {e : BitVec 256} {rs : List Row} {o : Nat} {s : State} (h : ∀ j, j < rs.length → devRowAddr e (o + j) < gddrBytes) :
    ∃ l ch b, windowWrite e o rs s = (0, { s with
      ms := { s.ms with mem := Mem.setRows s.ms.mem (fun j => devRowAddr e (o + j)) rs, poison := l, chans := ch }, bb := b }) := by
  induction rs generalizing o s with
  | nil => exact ⟨s.ms.poison, s.ms.chans, s.bb, rfl⟩
  | cons r t ih =>
    obtain ⟨l, ch, b, e1⟩ := writeRow_gddr s r 0 (h 0 (by simp))
    obtain ⟨l', ch', b', e2⟩ := ih (o := o + 1) (s := { s with
      ms := { s.ms with mem := Mem.setRow s.ms.mem (devRowAddr e o) r, poison := l, chans := ch }, bb := b }) fun j hj => by
        have := h (j + 1) (by simpa using hj)
        rwa [show o + 1 + j = o + (j + 1) by omega]
    refine ⟨l', ch', b', ?_⟩
    rw [Nat.add_zero] at e1
    have hadd : (fun j => devRowAddr e (o + 1 + j)) = fun j => devRowAddr e (o + (j + 1)) := by
      funext j
      rw [show o + 1 + j = o + (j + 1) by omega]
    rw [hadd] at e2
    simp only [windowWrite, e1, e2, Mem.setRows, Nat.add_zero]

theorem windowRead_gddr {e : BitVec 256} {n o : Nat} {s : State} (h : ∀ j, j < n → devRowAddr e (o + j) < gddrBytes ∧
      (s.chan (channelOf s (devRowAddr e (o + j))).1).poisoned = false) :
    windowRead e o n s = (.ok ((List.range n).map fun j =>
      (Mem.row s.ms.mem (devRowAddr e (o + j)), poisonMask s.ms.poison (devRowAddr e (o + j)))), s) := by
  induction n generalizing o with
  | zero => rfl
  | succ n ih =>
    obtain ⟨hg, hc⟩ := h 0 (by omega)
    have ht := ih (o := o + 1) fun j hj => by
      have := h (j + 1) (by omega)
      rwa [show o + 1 + j = o + (j + 1) by omega]
    have hadd : ∀ j, o + 1 + j = o + (j + 1) := fun j => by omega
    rw [Nat.add_zero] at hg hc
    simp only [windowRead, readRow_gddr s hg, hc, ht, List.range_succ_eq_map, List.map_cons, List.map_map, Nat.add_zero, hadd]
    rfl

/-- An accepted WRITE at an entry in GDDR7: its rows are in memory, and its answer is on its way. -/
theorem serveWrite_gddr {e : BitVec 256} (p : Packet) (s : State) (ht : DE.tier e = 2)
    (hb : DE.base e + (PX.offset p / 512 + p.rows.length) * 512 ≤ gddrBytes) : ∃ t, serveWrite p e s = t ∧
      (∀ j, j < p.rows.length → Mem.row t.ms.mem (devRowAddr e (PX.offset p / 512 + j)) = p.rows.getD j 0) ∧
      (∀ a, a < devRowAddr e (PX.offset p / 512) ∨ devRowAddr e (PX.offset p / 512) + 512 * p.rows.length ≤ a →
        Mem.byte t.ms.mem a = Mem.byte s.ms.mem a) ∧ t.cores = s.cores ∧ t.ctxs = s.ctxs ∧ t.cmds = s.cmds := by
  have hin : ∀ j, j < p.rows.length → devRowAddr e (PX.offset p / 512 + j) < gddrBytes := fun j hj => by
    rw [devRowAddr_gddr ht]
    omega
  have hapart : ∀ i j, i < j → devRowAddr e (PX.offset p / 512 + i) + 512 ≤ devRowAddr e (PX.offset p / 512 + j) := fun i j hij => by
    rw [devRowAddr_gddr ht, devRowAddr_gddr ht]
    omega
  have hout : ∀ a j, (a < devRowAddr e (PX.offset p / 512) ∨ devRowAddr e (PX.offset p / 512) + 512 * p.rows.length ≤ a) → j < p.rows.length →
      a < devRowAddr e (PX.offset p / 512 + j) ∨ devRowAddr e (PX.offset p / 512 + j) + 512 ≤ a := fun a j ha hj => by
    simp only [devRowAddr_gddr ht] at ha ⊢
    rcases ha with ha | ha
    · exact .inl (by linarith)
    · exact .inr (by linarith)
  obtain ⟨l, ch, b, ew⟩ := windowWrite_gddr (s := s) hin
  refine ⟨retire _ p 0 0, by rw [serveWrite, ew], ?_⟩
  obtain ⟨hms, hk, hc, hq, -, -⟩ := (LinkTraffic.retire { s with ms := { s.ms with
    mem := Mem.setRows s.ms.mem (fun j => devRowAddr e (PX.offset p / 512 + j)) p.rows, poison := l, chans := ch }, bb := b } p 0 0 0 [] 0).rest
  refine ⟨fun j hj => ?_, fun a ha => ?_, hk, hc, hq⟩
  · rw [hms]
    exact Mem.row_setRows (at' := fun j => devRowAddr e (PX.offset p / 512 + j)) (fun i j hij _ => .inl (hapart i j hij)) hj
  · rw [hms]
    exact Mem.byte_setRows_apart fun j hj => hout a j ha hj

/-- The requests that a window serves: what each arm does on arrival. -/
theorem exec_request {via : Option LinkId} {p : Packet} {x : Instr} {t : BitVec 4}
    (h : (x = .write via p ∧ t = ptWrite) ∨ (x = .read via p ∧ t = ptRead) ∨ (x = .accumulate via p ∧ t = ptAccumulate) ∨
      (x = .fetchAdd via p ∧ t = ptFetchAdd)) :
    ∃ serve, ∀ s, exec x s = .next (packetArrives s via p t fun s => request s p serve) := by
  rcases h with ⟨rfl, rfl⟩ | ⟨rfl, rfl⟩ | ⟨rfl, rfl⟩ | ⟨rfl, rfl⟩
  · exact ⟨serveWrite p, fun _ => rfl⟩
  · exact ⟨serveRead p, fun _ => rfl⟩
  · exact ⟨collAccumulate p, fun _ => rfl⟩
  · exact ⟨serveFetchAdd p, fun _ => rfl⟩

/-- Settles O19: the checks in their order, then the rows of the window's entry one by one. -/
theorem requestsServed : Obligations.RequestsServed := by
  unfold Obligations.RequestsServed
  refine ⟨fun s p => ?_, fun s via p => ?_⟩
  · dsimp only
    refine ⟨fun h => ?_, fun h1 h2 => ?_, fun ⟨h1, h2⟩ h3 => ?_, fun ⟨⟨h1, h2⟩, h3, h4⟩ h5 => ?_, fun ⟨⟨h1, h2⟩, h3, h4⟩ h5 h6 => ?_,
      fun ⟨⟨h1, h2⟩, h3, h4⟩ h5 h6 => ?_⟩
    · simp [requestStatus, h]
    · simp [requestStatus, h1, h2]
    · simp [requestStatus, h1, h2, h3]
    · simp [requestStatus, h1, h2, h3, h4, h5]
    · simp [requestStatus, h1, h2, h3, h4, h5, h6]
    · simp [requestStatus, h1, h2, h3, h4, h5, h6]
  · dsimp only
    refine ⟨fun x t hx => ?_, fun h h0 ht hb => ?_, fun h h0 ht hb hc => ?_⟩
    · obtain ⟨serve, he⟩ := exec_request hx
      refine ⟨fun hp hn hd => ?_, fun h h0 h1 => ?_, fun h h1 => ?_⟩
      · rw [he, packetArrives_takes hp hn, hd]
        rfl
      · rw [he, packetArrives_own h, request_refused h0 h1]
      · rw [he, packetArrives_own h, request_closed h1]
    · obtain ⟨hms, hk, hc, hq, -, -⟩ := ((LinkTraffic.arrived s via p).trans (LinkTraffic.setWindow _ p.window.toNat _)).rest
      obtain ⟨t, et, hrows, hbytes, tk, tc, tq⟩ := serveWrite_gddr p (setActive (arrived s via p) p.window.toNat (· + 1)) ht hb
      refine ⟨t, next_congr ((packetArrives_own h).trans ((request_accepted h0).trans et)), hrows, fun a ha => ?_, tk.trans hk, tc.trans hc,
        tq.trans hq⟩
      rw [hbytes a ha, setActive, hms]
    · have hrow : ∀ j, devRowAddr ((arrived s via p).devEntry ((arrived s via p).window p.window.toNat).handle) j = _ := devRowAddr_gddr ht
      have e := windowRead_gddr (e := (arrived s via p).devEntry ((arrived s via p).window p.window.toNat).handle) (n := p.nrows.toNat)
        (o := PX.offset p / 512) (s := setActive (arrived s via p) p.window.toNat (· + 1)) fun j hj => ⟨by rw [hrow]; omega, hc j hj⟩
      refine next_congr ((packetArrives_own h).trans ((request_accepted h0).trans ?_))
      simp only [serveRead, e]
      rfl

/-! ### Responses and timeouts -/

/-- An answer to a running remote command that names the request. -/
theorem cmdAnswer_remote {s : State} {q : Req} {r : CmdRef} {c : Cmd} {a : Packet} (hc : s.cmd? r = some c) (hp : c.phase = .running)
    (ht : c.tags.contains q.tag = true) (ho : c.opcode = 0x0306 ∨ c.opcode = 0x0307 ∨ c.opcode = 0x0308) :
    cmdAnswer s q r a = remoteDone s c a := by
  have h3 : c.opcode ≠ 0x0503 := by omega
  have h4 : c.opcode ≠ 0x0504 := by omega
  simp only [cmdAnswer, hc, hp, ht, h3, h4]
  simp

/-- A response finds its request and is answered for. -/
theorem respArrives_found {s : State} {via : Option LinkId} {p : Packet} {q : Req} {r : CmdRef} {c : Cmd} (h : Arrives s via p ptResp)
    (hf : (arrived s via p).fab.reqs.find? (fun x => x.tag == p.tag.toNat && !x.retry) = some q) (hi : q.issuer = .cmd r)
    (hc : (arrived s via p).cmd? r = some c) (hp : c.phase = .running) (ht : c.tags.contains q.tag = true)
    (ho : c.opcode = 0x0306 ∨ c.opcode = 0x0307 ∨ c.opcode = 0x0308) :
    respArrives s via p = tagEnded (remoteDone (dropReq (arrived s via p) q.tag) c p) q.tag := by
  rw [respArrives, packetArrives_own h]
  simp only [hf, answer, hi]
  rw [cmdAnswer_remote (s := dropReq (arrived s via p) q.tag) hc hp ht ho]

theorem remoteDone_refused {s : State} {c : Cmd} {q : Packet} (h : q.status ≠ 0) : remoteDone s c q =
    s.finish c.ref { status := St.remoteRefused, detail := word 32 [(0, 8, q.status.toNat), (8, 8, fld q.ext1 32 8)] } := by
  simp only [remoteDone, h, ne_eq, not_false_eq_true, if_true]

/-- The rows of a READ wait while its entry is being filled. -/
theorem readDone_waits {s : State} {r : CmdRef} {c : Cmd} (hc : s.cmd? r = some c) (hw : capWaits s (capture s none (RP.handle c.payload)) = true) :
    readDone s r = s := by
  unfold readDone
  rw [hc]
  dsimp only
  split
  · rfl
  · simp [hw]

/-- The rows of a READ are written through its entry, and its command completes (R424). -/
theorem readDone_writes {s t : State} {r : CmdRef} {c : Cmd} {q : Packet} (hc : s.cmd? r = some c) (hq : c.resp = some q)
    (hp : c.phase = .running) (hw : capWaits s (capture s none (RP.handle c.payload)) = false)
    (ha : accessWrite (s.updCmd r fun x => { x with resp := none }) (some c.ring) (capture s none (RP.handle c.payload)) none
      (RP.row c.payload) (respRows q) = (none, t)) : readDone s r = t.finish r {} := by
  unfold readDone
  rw [hc]
  simp only [hq, hp, hw, ha]
  simp only [ne_eq, not_true_eq_false, Bool.false_eq_true, or_self, if_false]
  rfl

/-- Settles O21: the request is found, and its command's opcode and the response's STATUS decide. -/
theorem responsesSettle : Obligations.ResponsesSettle := by
  unfold Obligations.ResponsesSettle
  intro s via p q r c
  dsimp only
  refine ⟨fun h => ⟨fun hnone => ?_, fun hf hi hc hp ht => ?_⟩, fun tag hf hi hc hp ht h3 h4 => ?_⟩
  · refine next_congr ((packetArrives_own h).trans ?_)
    have hn : (arrived s via p).fab.reqs.find? (fun x => x.tag == p.tag.toNat && !x.retry) = none := by
      rw [List.find?_eq_none]
      intro x hx
      simp [hnone x hx]
    simp only [hn]
  · have hr : c.ref = r := ref_of_cmd hc
    have hring : c.ring = r.ctx := congrArg CmdRef.ctx hr
    refine ⟨fun ho h0 => ?_, fun ho h0 => ?_, fun ho h0 => ?_, fun ho h0 => ?_⟩
    · refine next_congr ((respArrives_found h hf hi hc hp ht (.inl ho)).trans ?_)
      simp [remoteDone, h0, ho, hr, State.finishSt]
    · refine next_congr ((respArrives_found h hf hi hc hp ht (.inr (.inr ho))).trans ?_)
      simp [remoteDone, h0, ho, hr]
    · let d := (dropReq (arrived s via p) q.tag).updCmd r fun x => { x with tags := [], resp := some p }
      have hd : d.cmd? r = some { c with tags := [], resp := some p } := by
        have hc' : (dropReq (arrived s via p) q.tag).cmd? r = some c := hc
        exact (State.cmd_updCmd_same _ r (fun x : Cmd => { x with tags := [], resp := some p }) fun _ => rfl).trans
          (congrArg (Option.map fun x : Cmd => { x with tags := [], resp := some p }) hc')
      have hdone : remoteDone (dropReq (arrived s via p) q.tag) c p = readDone d r := by
        simp [remoteDone, h0, ho, hr, d]
      have he := respArrives_found h hf hi hc hp ht (.inr (.inl ho))
      rw [hdone] at he
      refine ⟨fun hw => ?_, fun t hw ha => ?_⟩
      · refine next_congr (he.trans ?_)
        rw [readDone_waits hd hw]
      · rw [← hring] at ha
        refine next_congr (he.trans ?_)
        rw [readDone_writes hd rfl hp hw ha]
    · refine next_congr ((respArrives_found h hf hi hc hp ht ho).trans ?_)
      rw [remoteDone_refused h0, hr]
  · refine next_congr ?_
    have hc' : (dropReq s tag.toNat).cmd? r = some c := hc
    simp only [remoteTimeout, hf, timedOut, hi, cmdTimeout, hc', hp, ht, h3, h4]
    simp [State.finishSt]

/-! ### DEVICE_ID_SET -/

/-- A device with DEVICE_ID_SET waiting and link 0 up, on which a flit waits that ends the answer to a request of window 5. -/
def answerWaiting : State := { State.reset with
  cmds := [{ ring := 0, seq := 0, nth := 0, entry := 0x0301, phase := .waiting }]
  fab := { State.reset.fab with links := [(0, { state := .up, credits := [(3, 2)], tx := [{ lane := 3, bits := 0, retire := some 5 }] })] } }

/-- Refutes O18: PEER_STATE goes out on link 0 behind the flit that waits there, with which the request of window 5 retires, so that the
windows do not stay as they were. -/
theorem not_routesAndRemotes : ¬ Obligations.RoutesAndRemotes := by
  unfold Obligations.RoutesAndRemotes
  intro h
  obtain ⟨t, e, -, -, -, hw, -⟩ := (h.1 answerWaiting ⟨0, 0, 0⟩ { ring := 0, seq := 0, nth := 0, entry := 0x0301, phase := .waiting }).1
    (by unfold Startable; decide +kernel)
  have ht : (deviceIdSet answerWaiting ⟨0, 0, 0⟩).fab.windows = t.fab.windows := by
    have : deviceIdSet answerWaiting ⟨0, 0, 0⟩ = t.finish ⟨0, 0, 0⟩ {} := Host.Outcome.next.inj e
    rw [this]
    rfl
  rw [hw] at ht
  revert ht
  decide +kernel

end Sys2Proof.Machine
end

section
/-!
LEMMA. Packets served at a window's engine, and packets that go on (O20); links that train, agree and go down (O24).
-/
namespace Sys2Proof.Machine

/-! ### Requests served by an engine in GDDR7 -/

theorem rawRead_gddr {s : State} {a : Nat} (h : a < gddrBytes) (hc : (s.chan (channelOf s a).1).poisoned = false) :
    rawRead s a = .ok (Mem.row s.ms.mem a, poisonMask s.ms.poison a) := by
  simp only [rawRead, region_gddr s h, hc]
  rfl

/-- A claim of a word in GDDR7: the word is raised, or its sector is poisoned and it stays (R97, R185). -/
theorem faddRow_gddr {s : State} {a w d l : Nat} (h : a < gddrBytes) (hc : (s.chan (channelOf s a).1).poisoned = false) :
    faddRow s a w d l = if bit (poisonMask s.ms.poison a) (w / 8) then (none, s)
      else (some (claim (Mem.rowWord (Mem.row s.ms.mem a) w).toNat d l).2, rawPut s a
        (Mem.setWord (Mem.row s.ms.mem a) w (BitVec.ofNat 32 (claim (Mem.rowWord (Mem.row s.ms.mem a) w).toNat d l).1))
        (poisonMask s.ms.poison a)) := by
  simp only [faddRow, reachBank_gddr s true h, faddAt, rawRead_gddr h hc]

theorem packetBlocks_length (p : Packet) (e : BitVec 256) : (packetBlocks p e).length = p.blocks.length := by
  simp [packetBlocks]

/-- The first block of an ACCUMULATE lies at its offset (R294). -/
theorem packetBlocks_cons {p : Packet} (e : BitVec 256) (h : p.blocks ≠ []) :
    ∃ b t, packetBlocks p e = (devRowAddr e (PX.offset p / 512), b) :: t := by
  obtain ⟨b, t, hb⟩ := List.exists_cons_of_ne_nil h
  exact ⟨b, _, by simp only [packetBlocks, hb, List.zipIdx_cons, List.map_cons]; rfl⟩

/-- Blocks at an entry in GDDR7 that their slot takes are added there and counted (R269, R271, R327). -/
theorem accRow_gddr {s : State} {h : GradHdr} {p : Packet} {e : BitVec 256} {k : Nat} (ha : devRowAddr e (PX.offset p / 512) < gddrBytes)
    (hb : p.blocks ≠ []) (hf : (s.engine (512 + (channelOf s (devRowAddr e (PX.offset p / 512))).1)).findSlot h = some k)
    (hm : matchSlot ((s.engine (512 + (channelOf s (devRowAddr e (PX.offset p / 512))).1)).slot k) h p.blocks.length = accOk)
    (hp : ∀ b ∈ packetBlocks p e, blockPoisoned s b.1 = false) :
    accRow s h (packetBlocks p e) = (accOk,
      countSlot ((packetBlocks p e).foldl (fun t b => addBlock t (512 + (channelOf s (devRowAddr e (PX.offset p / 512))).1) b.1 b.2) s)
        (512 + (channelOf s (devRowAddr e (PX.offset p / 512))).1) k p.blocks.length
        ((packetBlocks p e).any fun b => blockMismatch s b.1 b.2 || (si24Word b.2).testBit 16)
        ((packetBlocks p e).any fun b => (si24Word b.2).testBit 17)) := by
  have hany : ((packetBlocks p e).any fun b => blockPoisoned s b.1) = false := by simpa using fun a b h => hp (a, b) h
  have hok := accServe_ok hf (by rw [packetBlocks_length]; exact hm) hany
  rw [packetBlocks_length] at hok
  rw [← hok]
  obtain ⟨b, t, hbs⟩ := packetBlocks_cons e hb
  simp only [hbs, accRow, engineOf, region_gddr s ha, reachBank_gddr s true ha]

/-- A request counted at its window leaves memory and engines. -/
theorem setActive_engine (s : State) (w : Nat) (f : BitVec 24 → BitVec 24) (e : Nat) : (setActive s w f).engine e = s.engine e := rfl

theorem setActive_channelOf (s : State) (w : Nat) (f : BitVec 24 → BitVec 24) (a : Nat) : channelOf (setActive s w f) a = channelOf s a := rfl

theorem setActive_blockPoisoned (s : State) (w : Nat) (f : BitVec 24 → BitVec 24) (a : Nat) :
    blockPoisoned (setActive s w f) a = blockPoisoned s a := by
  have h : ∀ x, rawRead (setActive s w f) x = rawRead s x := fun _ => rfl
  simp only [blockPoisoned, h]

/-! ### Packets that go on -/

theorem dropPacket_devId (s : State) (via : Option LinkId) (p : Packet) (n : Nat) : (dropPacket s via p n).fab.devId = s.fab.devId := by
  have h : LinkTraffic s (dropPacket s via p n) := by
    cases via with
    | none => exact .ownPackets s _
    | some l => exact (LinkTraffic.setLink s l _).trans (.pump _ l)
  obtain ⟨l, w, q, d, e⟩ := h
  rw [e]

theorem exec_packetForward {s : State} {via : Option LinkId} {p : Packet} (hn : packetNext s via p = true) (ho : s.ownId p.dst = false) :
    exec (.packetForward via p) s = .next (dispatchPacket (dropPacket s via p (packetFlits p none).length) via p) := by
  refine next_congr ?_
  simp only [packetForward, ho, takePacket, hn]
  rfl

/-- A response goes on by its link, or is dropped and counted (R301). -/
theorem dispatchResp_away {s : State} {own : BitVec 20} {p : Packet} (via : Option LinkId) (hd : s.fab.devId = some own) (ho : p.dst ≠ own) :
    dispatchResp s via p = if s.outOfService p.dst then countDrop (packetGone s via p) via
      else (s.packetLink p.dst).elim (countDrop (packetGone s via p) via) fun l => pushFlits s l (packetFlits p via) := by
  simp only [dispatchResp, hd, ho, if_false]
  cases s.packetLink p.dst <;> rfl

/-- A request for another device goes on by its link, or is answered (R301, R302, R313). -/
theorem dispatchPacket_away {s : State} {own : BitVec 20} {p : Packet} (via : Option LinkId) (hd : s.fab.devId = some own) (ho : p.dst ≠ own)
    (hp : p.ptype ≠ ptResp) : dispatchPacket s via p =
      if s.outOfService p.dst then dispatchResp (packetGone s via p) none (response own p 7 0)
      else (s.packetLink p.dst).elim (dispatchResp (packetGone s via p) none (response own p 6 0)) fun l =>
        pushFlits s l (packetFlits p via) := by
  simp only [dispatchPacket, hd, ho, hp, if_false]
  cases s.packetLink p.dst <;> rfl

theorem dispatchPacket_resp {s : State} {own : BitVec 20} {p : Packet} (via : Option LinkId) (hd : s.fab.devId = some own)
    (hp : p.ptype = ptResp) : dispatchPacket s via p = dispatchResp s via p := by
  simp only [dispatchPacket, hd, hp, if_true]

/-- The links of a route (R301). -/
theorem packetLink_route {s : State} {d : BitVec 20} {e : Half} (h : s.route d = some e) : s.packetLink d =
    if (s.link (linkOfNat (fld e 1 5))).usable then some (linkOfNat (fld e 1 5))
    else if bit e 11 ∧ (s.link (linkOfNat (fld e 6 5))).usable = true then some (linkOfNat (fld e 6 5)) else none := by
  simp only [State.packetLink, h]

/-- Settles O20: each packet is taken, and its window's engine, its route or its form decides. -/
theorem packetsServed : Obligations.PacketsServed := by
  unfold Obligations.PacketsServed
  refine ⟨fun s via p => ?_, fun s via p hn => ?_⟩
  · dsimp only
    intro h0 ht ha hc
    refine ⟨fun h => ?_, fun c k h hcoll hep hb hf hm hp => ?_⟩
    · have hrow := faddRow_gddr (s := setActive (arrived s via p) p.window.toNat (· + 1)) (w := PX.offset p % 512 / 4) (d := PX.addend p)
        (l := PX.limit p) ha hc
      have he : exec (.fetchAdd via p) s = .next (serveFetchAdd p ((arrived s via p).devEntry ((arrived s via p).window p.window.toNat).handle)
          (setActive (arrived s via p) p.window.toNat (· + 1))) := next_congr ((packetArrives_own h).trans (request_accepted h0))
      refine ⟨fun hbit => ?_, fun hbit => ?_⟩
      · rw [he]
        simp only [serveFetchAdd, hrow.trans (if_neg fun h => absurd (hbit.symm.trans h) Bool.false_ne_true)]
        rfl
      · rw [he]
        simp only [serveFetchAdd, hrow.trans (if_pos hbit)]
    · have hacc := accRow_gddr (s := setActive (arrived s via p) p.window.toNat (· + 1)) (h := gradHdr p.ext2) ha hb
        (by rw [setActive_channelOf, setActive_engine]; exact hf) (by rw [setActive_channelOf, setActive_engine]; exact hm)
        fun b h => (setActive_blockPoisoned _ _ _ _).trans (hp b h)
      have he : exec (.accumulate via p) s = .next (collAccumulate p ((arrived s via p).devEntry ((arrived s via p).window p.window.toNat).handle)
          (setActive (arrived s via p) p.window.toNat (· + 1))) := next_congr ((packetArrives_own h).trans (request_accepted h0))
      have hcoll' : (setActive (arrived s via p) p.window.toNat (· + 1)).coll (gradHdr p.ext2).coll = some c := hcoll
      rw [he]
      simp only [collAccumulate, hcoll', hep, ne_eq, not_true_eq_false, if_false, serveAccumulate, hacc, if_true]
      rfl
  · dsimp only
    have hd := dropPacket_devId s via p (packetFlits p none).length
    refine ⟨fun e he => ?_, fun he => ?_, fun ho h => ?_, fun own h hne ho hs => ?_, fun own h hne ho hs => ?_, fun hm ho => ?_⟩
    · rw [packetLink_route he]
      refine ⟨fun h1 => ?_, fun h1 h2 h3 => ?_, fun h1 h2 => ?_⟩
      · simp [h1]
      · simp [h1, h2, h3]
      · rcases h2 with h2 | h2 <;> simp [h1, h2]
    · simp only [State.packetLink, he]
    · rw [exec_packetForward hn ho]
      simp only [dispatchPacket, h]
    · rw [exec_packetForward hn ho]
      refine ⟨fun l hl => ?_, fun hl hp => ?_, fun hl hp => ?_⟩
      · by_cases hp : p.ptype = ptResp
        · simp [dispatchPacket_resp via h hp, dispatchResp_away via h hne, hs, hl]
        · simp [dispatchPacket_away via h hne hp, hs, hl]
      · simp [dispatchPacket_away via h hne hp, hs, hl]
      · simp [dispatchPacket_resp via h hp, dispatchResp_away via h hne, hs, hl]
    · rw [exec_packetForward hn ho]
      refine ⟨fun hp => ?_, fun hp => ?_⟩
      · simp [dispatchPacket_away via h hne hp, hs]
      · simp [dispatchPacket_resp via h hp, dispatchResp_away via h hne, hs]
    · refine next_congr ?_
      simp only [malformedArrives, hm, if_true]
      exact packetArrives_own ⟨rfl, hn, ho⟩

/-! ### Links -/

/-- The width that the clean halves leave (R282, R284). -/
theorem reachedWidth_whole {s : State} {l : LinkId} (f : Byte) (h : bit s.fab.cfg.split (l.val / 2) = false) :
    reachedWidth s l f = if fld f 0 4 = 0 then (if fld f 4 4 = 0 then 3 else 1) else if fld f 4 4 = 0 then 2 else 0 := by
  by_cases h1 : fld f 0 4 = 0 <;> by_cases h2 : fld f 4 4 = 0 <;> simp [reachedWidth, h, h1, h2]

theorem reachedWidth_half {s : State} {l : LinkId} (f : Byte) (h : bit s.fab.cfg.split (l.val / 2) = true) :
    reachedWidth s l f = if l.val % 2 = 0 then (if fld f 0 4 = 0 then 1 else 0) else if fld f 4 4 = 0 then 2 else 0 := by
  by_cases h1 : fld f 0 4 = 0 <;> by_cases h2 : fld f 4 4 = 0 <;> simp [reachedWidth, h, h1, h2]

/-- With nothing in the receive buffer, a control message takes nothing from it. -/
theorem consumeControl_empty {s : State} {l : LinkId} (h : Tab.get [] (s.link l).rx 3 = []) : consumeControl s l = s := by
  simp [consumeControl, h]

theorem retrainLink_up {s : State} {l : LinkId} (h : (s.link l).up = true) :
    retrainLink s l = s.setLink l { s.link l with state := .retraining } := by
  simp only [retrainLink, h, if_true]

/-- A link with nothing left to send goes down: one record, its counters kept (R312). -/
theorem linkDown_idle {s : State} {l : LinkId} (h : (s.link l).tx = []) : linkDown s l =
    (bbAppend s 7 none (word 384 [(208, 32, l.val), (256, 20, peerOrNone (s.link l))])).setLink l
      { freshLink (s.link l) with downEvents := countErr (s.link l).downEvents, rx := (s.link l).rx } := by
  simp only [linkDown, h]
  rfl

/-- Settles O24: each event of a link, read off its state. -/
theorem linkStates : Obligations.LinkStates := by
  unfold Obligations.LinkStates
  refine ⟨fun s l f m => ?_, fun s l => ?_⟩
  · dsimp only
    refine ⟨fun hs => ?_, fun hs => ?_, fun hu hp hx => next_congr ?_, fun hw hx h0 => next_congr ?_, fun hw hx h0 => next_congr ?_, fun hr hx => ?_⟩
    · rw [reachedWidth_whole f hs]
      exact ⟨fun h1 h2 => by simp [h1, h2], fun h1 h2 => by simp [h1, h2], fun h1 h2 => by simp [h1, h2], fun h1 h2 => by simp [h1, h2]⟩
    · rw [reachedWidth_half f hs]
      refine ⟨fun h => ⟨fun h1 => by simp [h, h1], fun h1 => by simp [h, h1]⟩, fun h => ⟨fun h1 => ?_, fun h1 => ?_⟩⟩
      · rw [if_neg (by omega), if_pos h1]
      · rw [if_neg (by omega), if_neg h1]
    · have hx' : ((s.link l).state == .down || (s.link l).state == .mismatch) = true := by simpa using hx
      simp only [trainAttempt, hu, hp, hx', Bool.and_self, if_true]
    · simp only [linkTrained, hx, h0, hw, ne_eq, not_true_eq_false, if_false, if_true]
    · simp only [linkTrained, hx, h0, hw, ne_eq, not_true_eq_false, if_false]
    · have hc := consumeControl_empty hr
      refine ⟨fun hm => next_congr ?_, fun hm hv => next_congr ?_, fun hm hv hn => next_congr ?_, fun hm => ?_, fun hm hn => next_congr ?_⟩
      · simp [hello, hc, hx, hm]
      · simp [helloAck, hc, hx, hm, hv]
      · simp [helloAck, hc, hx, hm, hv, hn]
      · have he : exec (.peerState l m) s = .next (if MG.state m = 0 then
            { s.setLink l (notePeer (s.link l) m) with fab := { (s.setLink l (notePeer (s.link l) m)).fab with
              marks := s.fab.marks.filter fun d => d != (MG.device m).toNat } } else s.setLink l (notePeer (s.link l) m)) := by
          refine next_congr ?_
          simp only [peerState, hc, hx, hm]
          rfl
        refine ⟨_, he, ?_, ?_⟩
        · split <;> exact State.link_setLink_same s l _
        · split <;> rfl
      · simp only [retrainMsg, hc, hm, if_true, retrainLink_up hn]
  · dsimp only
    refine ⟨fun h => next_congr (retrainLink_up h), fun h hr => next_congr ?_, fun hr => next_congr ?_, fun ht i hi => ?_⟩
    · simp [ackTimeout, hr, retrainLink_up h]
    · simp [ackTimeout, hr]
    · have he : exec i s = .next (linkDown s l) := by
        rcases hi with ⟨rfl, h⟩ | ⟨rfl, h⟩
        · exact next_congr (by simp only [linkLoss, h, if_true])
        · exact next_congr (by simp only [retrainTimeout, h, if_true])
      obtain ⟨b, hb⟩ := bbAppend_eq s 7 none (word 384 [(208, 32, l.val), (256, 20, peerOrNone (s.link l))])
      have htot := bbAppend_total s 7 none (word 384 [(208, 32, l.val), (256, 20, peerOrNone (s.link l))])
      rw [he, linkDown_idle ht]
      refine ⟨_, rfl, State.link_setLink_same _ l _, fun k hk => ?_, htot, ?_⟩
      · rw [State.link_setLink_ne _ _ _ _ hk, hb]
        rfl
      · rw [hb]
        exact ⟨rfl, rfl, rfl⟩

end Sys2Proof.Machine
end

section
/-!
LEMMA. The module's power and pins (O57), PERST# and boot (O56), and the machine right after reset (O58).
-/
namespace Sys2Proof.Machine

/-! ### Reset of all four domains -/

/-- What the memory domain keeps: the bytes of the CXL tier (R534). -/
theorem byte_keptMem (m : MemSys) (a : Nat) :
    Mem.byte (keptMem m).mem a = if cxlBase ≤ a ∧ a < chipBase then Mem.byte m.mem a else 0 := by
  refine (Mem.get_filter m.mem (fun k => decide (cxlBase ≤ k) && decide (k < chipBase)) a).trans ?_
  by_cases h : cxlBase ≤ a ∧ a < chipBase
  · simp [h, Mem.byte]
  · rw [if_neg h, if_neg (by simpa using h)]

/-- Power off: the four domains at reset, and the stages off (R528, R531). -/
theorem powerOff_powered {s : State} (h : s.mod.powered = true) : powerOff s = { resetAll s (coldBox s.bb) 0 with
    mod := { s.mod with powered := false, pwrGood := false, booted := false, coldBoot := true, fault := false, alert := false } } := by
  simp only [powerOff, h]
  rfl

/-- A state once the stages are off, and what flash, fuses and the expander keep (R477, R528, R534). -/
def StagesOff (s t : State) : Prop :=
  t.mod.powered = false ∧ t.mod.pwrGood = false ∧ t.mod.booted = false ∧ t.cmds = [] ∧ t.ctxs = [] ∧ t.cores = [] ∧
    t.bb.recs = [] ∧ t.bb.boot = s.bb.boot ∧ t.sec.fuses = s.sec.fuses ∧ t.sec.slotA = s.sec.slotA ∧ t.sec.role = .operator ∧
    t.rst.deadbolt = s.rst.deadbolt ∧ ∀ a, Mem.byte t.ms.mem a = if cxlBase ≤ a ∧ a < chipBase then Mem.byte s.ms.mem a else 0

theorem stagesOff_powerOff {s : State} (h : s.mod.powered = true) (m : Module) (hp : m.powered = false) (hg : m.pwrGood = false)
    (hb : m.booted = false) : StagesOff s ((powerOff s).setMod m) := by
  rw [powerOff_powered h]
  exact ⟨hp, hg, hb, rfl, rfl, rfl, rfl, rfl, rfl, rfl, rfl, rfl, byte_keptMem s.ms⟩

theorem powerOff_mod {s : State} (h : s.mod.powered = true) : (powerOff s).mod = { s.mod with
    powered := false, pwrGood := false, booted := false, coldBoot := true, fault := false, alert := false } := by
  rw [powerOff_powered h]

theorem endCopy_eq (s : State) : ∃ b, endCopy s = { s with bb := b } ∧ b.boot = s.bb.boot := by
  unfold endCopy
  split
  · exact ⟨s.bb, rfl, rfl⟩
  · dsimp only
    split
    · exact ⟨_, rfl, rfl⟩
    · exact ⟨_, rfl, rfl⟩

theorem bbFreeze_eq (s : State) : ∃ b, bbFreeze s = { s with bb := b, mod := { s.mod with alert := true } } ∧ b.boot = s.bb.boot ∧
    b.seq = s.bb.seq := by
  unfold bbFreeze
  dsimp only
  split
  · exact ⟨_, rfl, rfl, rfl⟩
  · exact ⟨_, rfl, rfl, rfl⟩

theorem bbAppend_boot (s : State) (k : Nat) (c : Option CtxId) (p : BitVec 384) :
    ∃ b, bbAppend s k c p = { s with bb := b } ∧ b.boot = s.bb.boot ∧ b.seq = s.bb.seq + 1 := by
  unfold bbAppend
  dsimp only
  split
  · exact ⟨_, rfl, rfl, rfl⟩
  · split <;> exact ⟨_, rfl, rfl, rfl⟩

/-- A trip's record and freeze touch the black box, ALERT# and the free values alone (R474). -/
theorem tripRecord_eq (s : State) (sensor : Option CoreId) (temp : Int) : ∃ b f a,
    tripRecord s sensor temp = { s with bb := b, free := f, mod := { s.mod with alert := a } } ∧ b.boot = s.bb.boot := by
  unfold tripRecord
  split
  · exact ⟨s.bb, s.free, s.mod.alert, rfl, rfl⟩
  · dsimp only
    obtain ⟨b1, e1, h1, -⟩ := bbAppend_boot s 0xE none (word 384 [(208, 32, (sensor.map (·.val)).getD 0xFFFFFFFF), (240, 16, tempBits temp)])
    obtain ⟨b2, e2, h2, -⟩ := bbFreeze_eq (bbAppend s 0xE none (word 384 [(208, 32, (sensor.map (·.val)).getD 0xFFFFFFFF), (240, 16, tempBits temp)]))
    rw [e2, e1]
    rw [e1] at h2
    split
    · obtain ⟨b3, e3, h3⟩ := endCopy_eq (State.fresh { s with bb := b2, mod := { s.mod with alert := true } } 1).2
      exact ⟨b3, s.free + 1, true, e3, h3.trans (h2.trans h1)⟩
    · exact ⟨b2, s.free + 1, true, rfl, h2.trans h1⟩

/-- Settles O57: every way off goes through one reset of the four domains. -/
theorem modulePower : Obligations.ModulePower := by
  unfold Obligations.ModulePower
  intro s core temp f
  dsimp only
  refine ⟨fun hp ht ho => ?_, fun hp h => next_congr ?_, fun hp hq => ?_, fun hp => ⟨fun h => ?_, fun h => next_congr ?_⟩, fun hs => next_congr ?_, rfl⟩
  · refine ⟨{ resetAll (s.setMod { s.mod with standby := true, modEn := true }) (coldBox { s.bb with boot := s.bb.boot + 1 }) 0 with
      mod := { s.mod with standby := true, modEn := true, powered := true, pwrGood := true, booted := false, coldBoot := true } },
      next_congr ?_, rfl, rfl, rfl⟩
    simp only [powerUp, State.setMod, hp, ht, ho]
    rfl
  · simp only [powerUp, State.setMod, hp]
    rcases h with h | h <;> simp [h]
  · have ea : auditDurable s true = s := by simp only [auditDurable, hq]
    have hm := powerOff_mod hp
    have hoff : ∀ m : Module, m.powered = (powerOff s).mod.powered → m.pwrGood = (powerOff s).mod.pwrGood →
        m.booted = (powerOff s).mod.booted → StagesOff s ((powerOff s).setMod m) := fun m h1 h2 h3 =>
      stagesOff_powerOff hp m (by rw [h1, hm]) (by rw [h2, hm]) (by rw [h3, hm])
    refine ⟨⟨(powerOff s).setMod { (powerOff s).mod with modEn := false, fault := false, faultOv := false },
        next_congr (by simp only [modEnFall, hp, if_true, ea]), hoff _ rfl rfl rfl, rfl, rfl, rfl⟩,
      ⟨_, next_congr rfl, hoff _ rfl rfl rfl, rfl, ?_⟩, ⟨_, next_congr rfl, hoff _ rfl rfl rfl, rfl⟩,
      ⟨_, next_congr rfl, hoff _ rfl rfl rfl, rfl, rfl, rfl⟩⟩
    exact show (powerOff s).mod.faultOv = s.mod.faultOv by rw [hm]
  · obtain ⟨b, n, a, et, hb⟩ := tripRecord_eq s core temp
    have hc : ¬ (s.mod.powered = false ∨ temp < degrees 120) := by
      rintro (h' | h')
      · exact absurd (hp.symm.trans h') (by decide)
      · exact absurd h' (Int.not_lt.2 h)
    have hm := powerOff_mod (s := { s with bb := b, free := n, mod := { s.mod with alert := a } }) hp
    obtain ⟨h1, h2, h3, h4, h5, h6, h7, h8, h9⟩ := stagesOff_powerOff (s := { s with bb := b, free := n, mod := { s.mod with alert := a } }) hp
      { (powerOff { s with bb := b, free := n, mod := { s.mod with alert := a } }).mod with thermtrip := true } (by rw [hm]) (by rw [hm]) (by rw [hm])
    exact ⟨_, next_congr (by simp only [thermtrip, if_neg hc, et]), ⟨h1, h2, h3, h4, h5, h6, h7, h8.trans hb, h9⟩, rfl⟩
  · exact if_pos (.inr h)
  · simp only [moduleFailure, hs, if_true]
    rfl

/-- Settles O58: every field at the value of its structure. -/
theorem resetIsCanonical : Obligations.ResetIsCanonical := by
  unfold Obligations.ResetIsCanonical
  exact ⟨rfl, rfl, rfl, fun c => ⟨rfl, rfl, rfl⟩, fun _ => show DE.valid 0 = false by decide, fun w => rfl, fun b => rfl, rfl, rfl, rfl, rfl, rfl, rfl, rfl, rfl, rfl, rfl, rfl, rfl⟩

/-! ### Boot -/

/-- What every listed value and the default satisfy, every value read satisfies. -/
theorem tab_get_of_forall {α : Type} {P : α → Prop} {d : α} {t : Tab α} (hd : P d) (h : ∀ p ∈ t, P p.2) (i : Nat) : P (Tab.get d t i) := by
  induction t with
  | nil => exact hd
  | cons p t ih =>
    rw [Tab.get]
    split
    · exact h p (by simp)
    · exact ih fun q hq => h q (by simp [hq])

theorem closedWindows_closed (g : Nat → Half) (w : Nat) : (Tab.get {} (closedWindows g) w).state = .closed := by
  refine tab_get_of_forall (P := fun x : Window => x.state = .closed) rfl (fun p hp => ?_) w
  simp only [closedWindows, List.mem_filterMap, Option.ite_none_left_eq_some, Option.some.injEq] at hp
  obtain ⟨k, -, -, rfl⟩ := hp
  rfl

theorem startDomains_closed (s : State) (w : Nat) : ((startDomains s).window w).state = .closed := by
  simp only [startDomains, restartClocks, applyRemaps, State.setPower, State.window]
  exact closedWindows_closed _ w

/-- An extension changes its own register alone (R482). -/
theorem meas_extend_same (s : State) (i : Nat) (d : BitVec 512) : (extend s i d).meas i = extended (s.meas i) d :=
  Tab.get_set_same _ _ _ _

theorem meas_extend_ne (s : State) {i j : Nat} (d : BitVec 512) (h : j ≠ i) : (extend s i d).meas j = s.meas j :=
  Tab.get_set_ne _ _ _ h

theorem meas_foldl_extend {i j : Nat} (h : j ≠ i) (l : List (BitVec 512)) (s : State) :
    (l.foldl (fun s d => extend s i d) s).meas j = s.meas j := by
  induction l generalizing s with
  | nil => rfl
  | cons d t ih => rw [List.foldl_cons, ih, meas_extend_ne s d h]

/-- States that differ in the measurements alone. -/
def SameButMeas (s t : State) : Prop := ∃ m, t = s.setSec { s.sec with meas := m }

theorem SameButMeas.trans {s t u : State} (h : SameButMeas s t) (k : SameButMeas t u) : SameButMeas s u := by
  obtain ⟨m, rfl⟩ := h
  obtain ⟨n, rfl⟩ := k
  exact ⟨n, rfl⟩

theorem sameButMeas_extend (s : State) (i : Nat) (d : BitVec 512) : SameButMeas s (extend s i d) := ⟨_, rfl⟩

theorem sameButMeas_foldl (i : Nat) (l : List (BitVec 512)) (s : State) : SameButMeas s (l.foldl (fun s d => extend s i d) s) := by
  induction l generalizing s with
  | nil => exact ⟨s.sec.meas, rfl⟩
  | cons d t ih => exact (sameButMeas_extend s i d).trans (ih _)

/-- The registers once the ROM and what it tried first are measured (R482). -/
def measuredRom (s : State) (tried : Option (BitVec 512)) : State :=
  match tried with
  | some d => extend (extend (s.setSec { s.sec with meas := [] }) 1 Config.romMeasurement) 2 d
  | none => extend (s.setSec { s.sec with meas := [] }) 1 Config.romMeasurement

theorem measureBoot_eq (s : State) (tried : Option (BitVec 512)) (ds : List (BitVec 512)) : measureBoot s tried ds =
    measureFuses (measureSettings ((ds.drop 2).foldl (fun s d => extend s 4 d)
      (extend (extend (measuredRom s tried) 2 (ds.getD 0 0)) 3 (ds.getD 1 0)))) false := by
  cases tried <;> rfl

theorem sameButMeas_measuredRom (s : State) (tried : Option (BitVec 512)) : SameButMeas s (measuredRom s tried) := by
  cases tried <;> exact ⟨_, rfl⟩

theorem sameButMeas_measureBoot (s : State) (tried : Option (BitVec 512)) (ds : List (BitVec 512)) :
    SameButMeas s (measureBoot s tried ds) := by
  rw [measureBoot_eq]
  exact (((((sameButMeas_measuredRom s tried).trans (sameButMeas_extend _ _ _)).trans (sameButMeas_extend _ _ _)).trans
    (sameButMeas_foldl 4 _ _)).trans (sameButMeas_extend _ _ _)).trans (sameButMeas_extend _ _ _)

/-- Stages 1 and 2 are in their own registers (R482). -/
theorem meas_measureBoot (s : State) (tried : Option (BitVec 512)) (ds : List (BitVec 512)) :
    (measureBoot s tried ds).meas 2 = extended (match tried with
      | some d => extended 0 d
      | none => 0) (ds.getD 0 0) ∧ (measureBoot s tried ds).meas 3 = extended 0 (ds.getD 1 0) := by
  have h2 : (measuredRom s tried).meas 2 = match tried with
      | some d => extended 0 d
      | none => 0 := by
    cases tried with
    | none => exact meas_extend_ne _ _ (by decide)
    | some d => exact (meas_extend_same _ _ _).trans (congrArg (extended · d) (meas_extend_ne _ _ (by decide)))
  have h3 : (measuredRom s tried).meas 3 = 0 := by
    cases tried with
    | none => exact meas_extend_ne _ _ (by decide)
    | some d => exact (meas_extend_ne _ _ (by decide)).trans (meas_extend_ne _ _ (by decide))
  rw [measureBoot_eq, measureFuses, measureSettings]
  constructor
  · rw [meas_extend_ne _ _ (by decide), meas_extend_ne _ _ (by decide), meas_foldl_extend (by decide), meas_extend_ne _ _ (by decide),
      meas_extend_same, h2]
  · rw [meas_extend_ne _ _ (by decide), meas_extend_ne _ _ (by decide), meas_foldl_extend (by decide), meas_extend_same,
      meas_extend_ne _ _ (by decide), h3]

/-- Copies resumed at a boot touch the slots of the black box, and may pulse ALERT# (R517). -/
theorem resumeCopies_eq (s : State) : ∃ b a, resumeCopies s = { s with bb := b, mod := { s.mod with alert := a } } ∧
    b.seq = s.bb.seq ∧ (s.mod.alert = true → a = true) := by
  have hseq : ∀ (l : List Nat) (b : BlackBox), (l.foldl copySpan b).seq = b.seq := by
    intro l
    induction l with
    | nil => exact fun _ => rfl
    | cons k t ih => exact fun b => ih _
  unfold resumeCopies
  dsimp only
  split
  · exact ⟨_, s.mod.alert, rfl, hseq _ _, id⟩
  · obtain ⟨b, e, -, h⟩ := bbFreeze_eq { s with bb := { (s.bb.copying.toList ++ s.bb.waiting).foldl copySpan s.bb with copying := none, waiting := [] } }
    exact ⟨b, true, e, h.trans (hseq _ _), fun _ => rfl⟩

/-- A boot that takes another slot than the record names writes the record alone (R481). -/
theorem writeActive_eq (s : State) (b : Bool) : ∃ r q, writeActive s b = s.setSec { s.sec with rec0 := r, rec1 := q } := by
  unfold writeActive
  split
  · exact ⟨s.sec.rec0, _, rfl⟩
  · exact ⟨_, s.sec.rec1, rfl⟩

/-- A verified image runs: what it leaves of the state (R300, R309, R461, R464, R482). -/
theorem runImage_eq (s : State) (b : Bool) (n : Nat) (ds : List (BitVec 512)) : ∃ (u : State) (m : Tab (BitVec 512)) (r q : SlotRecord) (x : BlackBox) (a : BitVec 2048),
    runImage s b n ds = startDomains { s with
      sec := { s.sec with rec0 := r, rec1 := q, meas := m, running := some b, runningSvn := n, auditQ := s.sec.auditQ ++ [(a, none)] }
      mod := { s.mod with booted := true, alert := true }, bb := x } ∧
    x.seq = s.bb.seq + 1 ∧
    ∀ i, Tab.get 0 m i = (measureBoot u (if b = activeSlot s.sec then none else firstStage s (getSlot s !b)) ds).meas i := by
  have hw : ∃ r q, (if b = activeSlot s.sec then s else writeActive s b) = s.setSec { s.sec with rec0 := r, rec1 := q } := by
    split
    · exact ⟨s.sec.rec0, s.sec.rec1, rfl⟩
    · exact writeActive_eq s b
  obtain ⟨r, q, ew⟩ := hw
  obtain ⟨m, em⟩ := sameButMeas_measureBoot (s.setSec { s.sec with rec0 := r, rec1 := q })
    (if b = activeSlot s.sec then none else firstStage s (getSlot s !b)) ds
  obtain ⟨x, a, ex, hx, ha⟩ := resumeCopies_eq { s with
    sec := { s.sec with rec0 := r, rec1 := q, meas := m, running := some b, runningSvn := n }, mod := { s.mod with booted := true, alert := true } }
  obtain rfl := ha rfl
  obtain ⟨y, ey, -, hy⟩ := bbAppend_boot { s with
    sec := { s.sec with rec0 := r, rec1 := q, meas := m, running := some b, runningSvn := n }, mod := { s.mod with booted := true, alert := true }, bb := x }
    0xF none (word 384 [(0, 16, if s.mod.coldBoot then 0 else 1), (208, 32, b2n b), (240, 16, n)])
  have he : ∃ a, runImage s b n ds = startDomains { s with
      sec := { s.sec with rec0 := r, rec1 := q, meas := m, running := some b, runningSvn := n, auditQ := s.sec.auditQ ++ [(a, none)] }
      mod := { s.mod with booted := true, alert := true }, bb := y } := by
    unfold runImage
    dsimp only
    rw [ew, em]
    generalize hX : resumeCopies _ = X
    obtain rfl := hX.symm.trans ex
    generalize hY : bbAppend _ _ _ _ = Y
    obtain rfl := hY.symm.trans ey
    exact ⟨_, rfl⟩
  obtain ⟨a, he⟩ := he
  exact ⟨s.setSec { s.sec with rec0 := r, rec1 := q }, m, r, q, y, a, he, hy.trans (congrArg (· + 1) hx), fun i => by rw [em]; rfl⟩

/-- The boot looks at no identity key. -/
theorem bootSlot_deriveKey (s : State) : bootSlot (deriveKey s) = bootSlot s := rfl

/-- Settles O56: PERST# goes through one reset of the four domains; the boot runs the image of the slot that verifies. -/
theorem perstAndBoot : Obligations.PerstAndBoot := by
  unfold Obligations.PerstAndBoot
  refine ⟨fun s sel addr => ⟨fun hp hw => ?_, fun hp hw => next_congr ?_, fun hp => next_congr ?_, fun hp => next_congr ?_, fun hp => next_congr ?_⟩,
    fun s k x => ⟨fun hm hb hh => ⟨fun h => next_congr ?_, fun b n l h => ?_⟩, fun hr => ⟨fun hf => next_congr ?_, fun hf hx => ⟨?_, next_congr ?_⟩,
      fun hf hx hc => next_congr ?_, fun hf hx hc => next_congr ?_, next_congr ?_⟩⟩⟩
  · have e : perstAssert s = { resetAll s (perstBox s.bb) s.sec.challenges with
        mod := { s.mod with perst := true, booted := false, coldBoot := false, fault := false, alert := false } } :=
      (if_neg (by simp [hp])).trans (if_neg (by simp [hw]))
    exact ⟨_, next_congr e, rfl, rfl, rfl, rfl, rfl, rfl, rfl, rfl, rfl, rfl, rfl, rfl, rfl, rfl, byte_keptMem s.ms, rfl, rfl, rfl, rfl, rfl, rfl,
      rfl, rfl, rfl, rfl, rfl, rfl⟩
  · exact (if_neg (by simp [hp])).trans (if_pos (by simp [hw]))
  · exact if_pos hp
  · exact if_neg (by simp [hp])
  · exact if_pos hp
  · have hg : ¬ (!s.mgmtUp || s.mod.booted || s.host.state != .booting) = true := by simp [hm, hb, hh]
    refine (if_neg hg).trans ?_
    dsimp only
    rw [bootSlot_deriveKey, h]
    rfl
  · have hg : ¬ (!s.mgmtUp || s.mod.booted || s.host.state != .booting) = true := by simp [hm, hb, hh]
    obtain ⟨u, m, r, q, y, a, e, hy, hmeas⟩ := runImage_eq (deriveKey s) b n l
    obtain ⟨h2, h3⟩ := meas_measureBoot u (if b = activeSlot (deriveKey s).sec then none else firstStage (deriveKey s) (getSlot (deriveKey s) !b)) l
    have eb : boot s = runImage (deriveKey s) b n l := by
      refine (if_neg hg).trans ?_
      dsimp only
      rw [bootSlot_deriveKey, h]
    refine ⟨_, next_congr (eb.trans e), rfl, rfl, rfl, rfl, rfl, (hmeas 2).trans h2, (hmeas 3).trans h3, ?_, rfl, rfl, rfl, rfl, rfl, hy, fun w => ?_,
      rfl, rfl, hh⟩
    · show (s.sec.auditQ ++ [(a, none)]).length = _
      simp
    · exact startDomains_closed _ w
  · exact if_pos (by simp [hf])
  · obtain ⟨b, e, -⟩ := bbFreeze_eq (bbAppend (s.setRst { s.rst with failed := true }) 0xB none (word 384 [(208, 32, x.failing.val)]))
    obtain ⟨c, e', -⟩ := bbAppend_boot (s.setRst { s.rst with failed := true }) 0xB none (word 384 [(208, 32, x.failing.val)])
    rw [trainingFailed, e, e']
    rfl
  · refine (if_neg (by simp [hr, hf])).trans ?_
    rw [hx]
  · refine (if_neg (by simp [hr, hf])).trans ?_
    rw [hx]
    exact if_pos (by simpa [rateAllowed] using hc)
  · refine (if_neg (by simp [hr, hf])).trans ?_
    rw [hx]
    exact if_neg (by simpa [rateAllowed] using hc)
  · exact if_pos hr

end Sys2Proof.Machine
end

section
/-!
LEMMA. Floating-point vector instructions in FP32 (O28), and comparisons and masks (O29).
-/
namespace Sys2Proof.Machine

/-! ### Lane words -/

/-- A row holds each lane word modulo 2^32 (R137). -/
theorem rowOfLanes_mod (l : List Nat) : rowOfLanes (l.map (· % 2 ^ 32)) = rowOfLanes l := by
  simp only [rowOfLanes, List.zipIdx_map, List.foldl_map, Prod.map_fst, Prod.map_snd, id, Nat.mod_mod]

theorem mergeLanes_mod (old : List Nat) (new : List (Option Nat)) :
    mergeLanes old (new.map (Option.map (· % 2 ^ 32))) = mergeLanes old new := by
  rw [mergeLanes, mergeLanes, ← rowOfLanes_mod, ← rowOfLanes_mod (List.map _ (old.zip new)), List.zip_map_right, List.map_map, List.map_map,
    List.map_map]
  refine congrArg rowOfLanes (List.map_congr_left fun p _ => ?_)
  obtain ⟨x, y⟩ := p
  cases y <;> simp

/-- The destination takes each word modulo 2^32. -/
theorem putDest_mod (k : Core) (i : VIns) (new : List (Option Nat)) : putDest k i (new.map (Option.map (· % 2 ^ 32))) = putDest k i new := by
  simp only [putDest, mergeLanes_mod]

/-- What a source supplies in FP32 are lane words (R141 to R143). -/
theorem source_lt {s t : State} {c : CoreId} {i : VIns} {kind f : Nat} {a : List Nat} (h : source s c i kind f = (.ok a, t)) (hf : i.fmt = 0)
    (hw : f < 2 ^ 16) : ∀ x ∈ a, x < 2 ^ 32 := by
  have hlanes : ∀ r : Row, ∀ x ∈ lanesOf r, x < 2 ^ 32 := fun r x hx => by
    obtain ⟨l, -, rfl⟩ := List.mem_map.1 hx
    exact Nat.mod_lt _ (Nat.two_pow_pos 32)
  have hrep : ∀ y, y < 2 ^ 32 → ∀ x ∈ List.replicate 128 y, x < 2 ^ 32 := fun y hy x hx => (List.eq_of_mem_replicate hx) ▸ hy
  unfold source at h
  dsimp only at h
  split at h
  · obtain rfl : _ = a := by simpa using congrArg Prod.fst h
    exact hlanes _
  · obtain rfl : _ = a := by simpa using congrArg Prod.fst h
    exact hlanes _
  · split at h
    · split at h
      · cases congrArg Prod.fst h
      · split at h
        · obtain rfl : _ = a := by simpa using congrArg Prod.fst h
          exact hrep _ (BitVec.isLt _)
        · cases congrArg Prod.fst h
        · obtain rfl : _ = a := by simpa using congrArg Prod.fst h
          exact hrep _ (by decide)
    · obtain rfl : _ = a := by simpa using congrArg Prod.fst h
      exact hrep _ (Core.lane_lt _ _ _)
  · obtain rfl : _ = a := by simpa using congrArg Prod.fst h
    refine hrep _ ?_
    simp only [hf, immWord, Nat.shiftLeft_eq]
    omega

theorem source1_lt {s t : State} {c : CoreId} {w : BitVec 64} {a : List Nat} (h : source1 s c (vdecode w) = (.ok a, t))
    (hf : (vdecode w).fmt = 0) (l : Nat) : a.getD l 0 < 2 ^ 32 := by
  by_cases hl : l < a.length
  · rw [List.getD_eq_getElem _ _ hl]
    exact source_lt h hf (Nat.mod_lt _ (Nat.two_pow_pos 16)) _ (List.getElem_mem hl)
  · simp [hl]

theorem source2_lt {s t : State} {c : CoreId} {w : BitVec 64} {b : List Nat} (h : source2 s c (vdecode w) = (.ok b, t))
    (hf : (vdecode w).fmt = 0) (l : Nat) : b.getD l 0 < 2 ^ 32 := by
  by_cases hl : l < b.length
  · rw [List.getD_eq_getElem _ _ hl]
    exact source_lt h hf (Nat.mod_lt _ (Nat.two_pow_pos 16)) _ (List.getElem_mem hl)
  · simp [hl]

theorem destLanes_lt (k : Core) (i : VIns) (l : Nat) : (destLanes k i).getD l 0 < 2 ^ 32 := by
  by_cases hl : l < 128
  · simp only [destLanes, lanesOf, List.getD_eq_getElem?_getD, List.getElem?_map, List.getElem?_range hl, Option.map_some, Option.getD_some]
    exact Nat.mod_lt _ (Nat.two_pow_pos 32)
  · simp [destLanes, lanesOf, hl]

theorem getD_zeros_lt (l : Nat) : (List.replicate 128 0).getD l 0 < 2 ^ 32 := by
  rw [List.getD_eq_getElem?_getD, List.getElem?_getD_replicate_default_eq]
  decide

/-! ### An element-wise instruction in a format of 32 bits -/

/-- A lane of 32 bits is its one element. -/
theorem laneMap_word (g : Nat → Nat → Nat → Nat → Nat × Nat) {a b d : Nat} (ha : a < 2 ^ 32) (hb : b < 2 ^ 32) (hd : d < 2 ^ 32) :
    laneMap 32 g a b d = ((g 0 a b d).1 % 2 ^ 32, (g 0 a b d).2) := by
  have hm {x : Nat} (hx : x < 2 ^ 32) : x % 4294967296 = x := Nat.mod_eq_of_lt hx
  simp [laneMap, List.range_one, hm ha, hm hb, hm hd]

/-- What an operation writes into each active lane, and raises there. -/
def wordResults (k : Core) (i : VIns) (a b d : List Nat) (g : Nat → Nat → Nat → Nat) : List (Option Nat) :=
  (List.range 128).map fun l => if (activeLanes k i).getD l false then some (g (a.getD l 0) (b.getD l 0) (d.getD l 0)) else none

def wordFlags (k : Core) (i : VIns) (a b d : List Nat) (g : Nat → Nat → Nat → Nat) : List Nat :=
  (List.range 128).map fun l => if (activeLanes k i).getD l false then g (a.getD l 0) (b.getD l 0) (d.getD l 0) else 0

/-- An element-wise instruction of lane words that rounds none at random: one operation on the words of each active lane (R137, R146). -/
theorem elementwise_word {s t u : State} {c : CoreId} {i : VIns} {a b : List Nat} {two acc rnd : Bool} {g : Rnd → Nat → Nat → Nat → Nat × Nat}
    (hsrc1 : source1 s c i = (.ok a, t)) (hsrc2 : (if two then source2 t c i else (.ok (List.replicate 128 0), t)) = (.ok b, u))
    (ha : a.length = 128) (hb : b.length = 128) (hfmt : i.fmt = 0) (hla : ∀ l, a.getD l 0 < 2 ^ 32) (hlb : ∀ l, b.getD l 0 < 2 ^ 32) :
    let d := if acc then destLanes (u.core c) i else List.replicate 128 0
    elementwise s c i two acc rnd g = (none, u.setCore c (raiseLanes
      (putDest (u.core c) i (wordResults (u.core c) i a b d fun x y z => (g .rne x y z).1))
      (wordFlags (u.core c) i a b d fun x y z => (g .rne x y z).2))) := by
  intro d
  have hd : d.length = 128 := by
    simp only [d]
    split <;> simp [destLanes, lanesOf]
  have hld : ∀ l, d.getD l 0 < 2 ^ 32 := fun l => by
    simp only [d]
    split
    · exact destLanes_lt _ _ _
    · exact getD_zeros_lt l
  have hst : (rnd && i.stoch && i.fmt == 1) = false := by simp [hfmt]
  have hg : ∀ x y z : Nat, laneMap (fmtWidth i.fmt) (fun _ x y z => g .rne x y z) x y z =
      laneMap 32 (fun _ x y z => g .rne x y z) x y z := fun _ _ _ => by simp [fmtWidth, hfmt]
  simp only [elementwise, hsrc1, hsrc2, hst, drawLanes_false, rndOf, Bool.false_eq_true, if_false, hg]
  rw [map_zip_lanes _ _ (fun p q r => laneMap 32 (fun _ x y z => g .rne x y z) p q r) (by simp [activeLanes_length]) ha hb hd]
  have hres : ∀ l, laneMap 32 (fun _ x y z => g .rne x y z) (a.getD l 0) (b.getD l 0) (d.getD l 0) =
      ((g .rne (a.getD l 0) (b.getD l 0) (d.getD l 0)).1 % 2 ^ 32, (g .rne (a.getD l 0) (b.getD l 0) (d.getD l 0)).2) := fun l =>
    laneMap_word _ (hla l) (hlb l) (hld l)
  rw [← putDest_mod _ _ (wordResults _ _ _ _ _ _)]
  simp only [hres, wordResults, wordFlags, List.map_map, Function.comp_def, apply_ite (Option.map _), apply_ite (Option.getD · 0),
    Option.map_some, Option.map_none, Option.getD_some, Option.getD_none]

theorem vecRun_fp (s : State) (c : CoreId) {i : VIns} (h : 0x20 ≤ i.op ∧ i.op ≤ 0x25) : vecRun s c i = vecFp s c i := by
  rw [vecRun, if_neg (by omega), if_neg (by omega), if_pos h.2]

theorem vecRun_sign (s : State) (c : CoreId) {i : VIns} (h : 0x26 ≤ i.op ∧ i.op ≤ 0x27) : vecRun s c i = vecSign s c i := by
  rw [vecRun, if_neg (by omega), if_neg (by omega), if_neg (by omega), if_pos h.2]

theorem vecRun_special (s : State) (c : CoreId) {i : VIns} (h : 0x40 ≤ i.op ∧ i.op ≤ 0x44) : vecRun s c i = vecSpecial s c i := by
  rw [vecRun, if_neg (by omega), if_neg (by omega), if_neg (by omega), if_neg (by omega), if_neg (by omega), if_neg (by omega), if_pos h.2]

theorem vecRun_mov (s : State) (c : CoreId) {i : VIns} (h : i.op = 0x60) : vecRun s c i = vecMov s c i := by
  simp [vecRun, h]

section
variable {s t u : State} {c : CoreId} {w : BitVec 64} {a b : List Nat} {op : Nat}

/-- Every floating-point instruction of two sources in FP32: the operation of its opcode on the words of each active lane. -/
theorem issueVector_fp (h : VectorReady s c w) (hf : (vdecode w).fmt = 0) (hsrc1 : source1 s c (vdecode w) = (.ok a, t))
    (hsrc2 : source2 t c (vdecode w) = (.ok b, u)) (ha : a.length = 128) (hb : b.length = 128) (hrange : 0x20 ≤ op ∧ op ≤ 0x25)
    (hop : fld w 0 8 = op) {g : Nat → Nat → Nat → Nat × Nat}
    (hg : ∀ x y z, fpOp op .fp32 .rne (vdecode w).sat x y z = g x y z) (hd : op ≠ 0x23 → ∀ x y z z', g x y z = g x y z') :
    issueVector op c w .clean s = vectorDone u c (raiseLanes
      (putDest (u.core c) (vdecode w) (wordResults (u.core c) (vdecode w) a b (destLanes (u.core c) (vdecode w)) fun x y z => (g x y z).1))
      (wordFlags (u.core c) (vdecode w) a b (destLanes (u.core c) (vdecode w)) fun x y z => (g x y z).2)) := by
  have hdecode : (vdecode w).op = op := hop
  refine issueVector_done h hop ?_
  rw [vecRun_fp s c (hdecode ▸ hrange), vecFp, elementwise_word (two := true) (u := u) hsrc1 hsrc2 ha hb hf (source1_lt hsrc1 hf)
    (source2_lt hsrc2 hf)]
  have hg' : ∀ x y z, fpOp (vdecode w).op (fpFmt (vdecode w).fmt) .rne (vdecode w).sat x y z = g x y z := by
    rw [hdecode, hf]
    exact hg
  simp only [hg']
  by_cases hacc : op = 0x23
  · rw [if_pos (by simp [hdecode, hacc])]
  · have hz := hd hacc
    simp only [wordResults, wordFlags, hz _ _ _ 0]

/-- Every instruction of one source in FP32: its operation on the word of each active lane. -/
theorem issueVector_unary {rnd : Bool} {g : Rnd → Nat → Nat → Nat → Nat × Nat} {f : Nat → Nat × Nat} (h : VectorReady s c w)
    (hf : (vdecode w).fmt = 0) (hsrc1 : source1 s c (vdecode w) = (.ok a, t)) (ha : a.length = 128) (hop : fld w 0 8 = op)
    (hrun : vecRun s c (vdecode w) = elementwise s c (vdecode w) false false rnd g) (hg : ∀ x y z, x < 2 ^ 32 → g .rne x y z = f x) :
    issueVector op c w .clean s = vectorDone t c (raiseLanes
      (putDest (t.core c) (vdecode w) ((List.range 128).map fun l =>
        if (activeLanes (t.core c) (vdecode w)).getD l false then some (f (a.getD l 0)).1 else none))
      ((List.range 128).map fun l => if (activeLanes (t.core c) (vdecode w)).getD l false then (f (a.getD l 0)).2 else 0)) := by
  refine issueVector_done h hop ?_
  have hz : ∀ l, (List.replicate 128 0).getD l 0 < 2 ^ 32 := getD_zeros_lt
  have hla := source1_lt hsrc1 hf
  rw [hrun, elementwise_word (b := List.replicate 128 0) (u := t) hsrc1 rfl ha (by simp) hf hla hz]
  simp only [wordResults, wordFlags, hg _ _ _ (hla _)]

/-- One that raises nothing. -/
theorem issueVector_unary_quiet {rnd : Bool} {g : Rnd → Nat → Nat → Nat → Nat × Nat} {f : Nat → Nat} (h : VectorReady s c w)
    (hf : (vdecode w).fmt = 0) (hsrc1 : source1 s c (vdecode w) = (.ok a, t)) (ha : a.length = 128) (hop : fld w 0 8 = op)
    (hrun : vecRun s c (vdecode w) = elementwise s c (vdecode w) false false rnd g) (hg : ∀ x y z, x < 2 ^ 32 → g .rne x y z = (f x, 0)) :
    issueVector op c w .clean s = vectorDone t c
      (putDest (t.core c) (vdecode w) ((List.range 128).map fun l =>
        if (activeLanes (t.core c) (vdecode w)).getD l false then some (f (a.getD l 0)) else none)) := by
  rw [issueVector_unary (f := fun x => (f x, 0)) h hf hsrc1 ha hop hrun hg]
  refine congrArg (vectorDone t c) (raiseLanes_zero _ _ fun x hx => ?_)
  obtain ⟨l, -, rfl⟩ := List.mem_map.1 hx
  simp

end

theorem fpOp_add (f : Fmt) (r : Rnd) (sat : Bool) (x y z : Nat) : fpOp 0x20 f r sat x y z = fpAdd f r sat x y := rfl
theorem fpOp_sub (f : Fmt) (r : Rnd) (sat : Bool) (x y z : Nat) : fpOp 0x21 f r sat x y z = fpSub f r sat x y := rfl
theorem fpOp_mul (f : Fmt) (r : Rnd) (sat : Bool) (x y z : Nat) : fpOp 0x22 f r sat x y z = fpMul f r sat x y := rfl
theorem fpOp_fma (f : Fmt) (r : Rnd) (sat : Bool) (x y z : Nat) : fpOp 0x23 f r sat x y z = fpFma f r sat x y z := rfl
theorem fpOp_min (f : Fmt) (r : Rnd) (sat : Bool) (x y z : Nat) : fpOp 0x24 f r sat x y z = fpMin f x y := rfl
theorem fpOp_max (f : Fmt) (r : Rnd) (sat : Bool) (x y z : Nat) : fpOp 0x25 f r sat x y z = fpMax f x y := rfl

/-- VNEG inverts the sign bit (R144). -/
theorem xor_signBit {x : Nat} (h : x < 2 ^ 32) : x ^^^ 2 ^ 31 = if x < 2 ^ 31 then x + 2 ^ 31 else x - 2 ^ 31 := by
  have hdiv : (x ^^^ 2 ^ 31) / 2 ^ 31 = x / 2 ^ 31 ^^^ 1 := Nat.xor_div_two_pow
  have hmod : (x ^^^ 2 ^ 31) % 2 ^ 31 = x % 2 ^ 31 := by rw [Nat.xor_mod_two_pow, Nat.mod_self, Nat.xor_zero]
  have hsplit := Nat.div_add_mod (x ^^^ 2 ^ 31) (2 ^ 31)
  rw [hdiv, hmod] at hsplit
  rw [← hsplit]
  split
  next hx => rw [Nat.div_eq_of_lt hx, Nat.mod_eq_of_lt hx, Nat.zero_xor, Nat.mul_one, Nat.add_comm]
  next hx =>
    have hq : x / 2 ^ 31 = 1 := by omega
    rw [hq, Nat.xor_self, Nat.mul_zero, Nat.zero_add]
    omega

/-- Settles O28: one operation on the words of each active lane, by opcode. -/
theorem floatLanes : Obligations.FloatLanes := by
  constructor
  case left =>
    intro s t u c w a b h i hf hsrc1 hsrc2 ha hb d gives
    have writes {x : Instr} {op : Nat} {g : Nat → Nat → Nat → Nat × Nat} (hx : exec x s = .next (issueVector op c w .clean s))
        (hrange : 0x20 ≤ op ∧ op ≤ 0x25) (hg : ∀ x y z, fpOp op .fp32 .rne i.sat x y z = g x y z)
        (hd : op ≠ 0x23 → ∀ x y z z', g x y z = g x y z') (hop : fld w 0 8 = op) : gives x g :=
      hx.trans (congrArg Host.Outcome.next (issueVector_fp h hf hsrc1 hsrc2 ha hb hrange hop hg hd))
    exact ⟨writes (op := 0x20) (g := fun x y _ => fpAdd .fp32 .rne i.sat x y) rfl (by decide) (fun _ _ _ => fpOp_add ..) fun _ _ _ _ _ => rfl,
      writes (op := 0x21) (g := fun x y _ => fpSub .fp32 .rne i.sat x y) rfl (by decide) (fun _ _ _ => fpOp_sub ..) fun _ _ _ _ _ => rfl,
      writes (op := 0x22) (g := fun x y _ => fpMul .fp32 .rne i.sat x y) rfl (by decide) (fun _ _ _ => fpOp_mul ..) fun _ _ _ _ _ => rfl,
      writes (op := 0x23) (g := fun x y z => fpFma .fp32 .rne i.sat x y z) rfl (by decide) (fun _ _ _ => fpOp_fma ..) fun h => absurd rfl h,
      writes (op := 0x24) (g := fun x y _ => fpMin .fp32 x y) rfl (by decide) (fun _ _ _ => fpOp_min ..) fun _ _ _ _ _ => rfl,
      writes (op := 0x25) (g := fun x y _ => fpMax .fp32 x y) rfl (by decide) (fun _ _ _ => fpOp_max ..) fun _ _ _ _ _ => rfl⟩
  case right =>
    intro s t c w a h i hsrc1 ha hf active moves gives
    have writes {x : Instr} {op : Nat} {rnd : Bool} {g : Rnd → Nat → Nat → Nat → Nat × Nat} {f : Nat → Nat}
        (hx : exec x s = .next (issueVector op c w .clean s)) (hop : fld w 0 8 = op)
        (hrun : vecRun s c i = elementwise s c i false false rnd g) (hg : ∀ x y z, x < 2 ^ 32 → g .rne x y z = (f x, 0)) : moves x f :=
      hx.trans (congrArg Host.Outcome.next (issueVector_unary_quiet h hf hsrc1 ha hop hrun hg))
    have evaluates {x : Instr} {op : Nat} {fn : Bool → Word → Nat × Nat} (hx : exec x s = .next (issueVector op c w .clean s))
        (hrange : 0x40 ≤ op ∧ op ≤ 0x44) (hfn : specialFn op = fn) (hop : fld w 0 8 = op) : gives x fn :=
      hx.trans (congrArg Host.Outcome.next (issueVector_unary (f := fun x => fn i.sat (BitVec.ofNat 32 x)) h hf hsrc1 ha hop
        (vecRun_special s c (show 0x40 ≤ (vdecode w).op ∧ (vdecode w).op ≤ 0x44 by rw [show (vdecode w).op = op from hop]; exact hrange)) fun x y z _ => by
          have hop' : (vdecode w).op = op := hop
          simp [special, hop', hfn, i, show (vdecode w).fmt = 0 from hf]))
    have hi {op : Nat} (hop : fld w 0 8 = op) : i.op = op := hop
    refine ⟨fun hop => ?_, fun hop => ?_, fun hop => ?_, evaluates rfl (by decide) rfl, evaluates rfl (by decide) rfl,
      evaluates rfl (by decide) rfl, evaluates rfl (by decide) rfl, evaluates rfl (by decide) rfl⟩
    · refine writes (op := 0x26) (f := fun x => x % 2 ^ 31) rfl hop (vecRun_sign s c (by rw [hi hop]; decide)) fun x y z _ => ?_
      rw [hi hop, hf]
      rfl
    · refine writes (op := 0x27) (f := fun x => if x < 2 ^ 31 then x + 2 ^ 31 else x - 2 ^ 31) rfl hop
        (vecRun_sign s c (by rw [hi hop]; decide)) fun x y z hx => ?_
      rw [hi hop, hf]
      exact congrArg (·, 0) (xor_signBit hx)
    · exact writes (op := 0x60) (f := fun x => x) rfl hop (vecRun_mov s c hop) fun _ _ _ _ => rfl

/-! ### Mask registers -/

/-- A mask register written where lanes are active (R138). -/
theorem bit_putMask (k : Core) (i : VIns) {act new : List Bool} (ha : act.length = 128) (hn : new.length = 128) {l : Nat} (hl : l < 128) :
    bit ((putMask k i act new).maskReg (i.dst % 8)) l =
      if act.getD l false then new.getD l false else bit (k.maskReg (i.dst % 8)) l := by
  have hreg : (putMask k i act new).maskReg (i.dst % 8) = BitVec.ofNat 128 (((act.zip new).zipIdx).foldl
      (fun a p => if (if p.1.1 then p.1.2 else bit (k.maskReg (i.dst % 8)) p.2) then a ||| (1 <<< p.2) else a) 0) :=
    Tab.get_set_same ..
  have hbit : ∀ v : BitVec 128, bit v l = v.toNat.testBit l := fun _ => rfl
  rw [hreg, hbit, BitVec.toNat_ofNat, Nat.testBit_mod_two_pow,
    foldl_or_testBit _ (fun p : (Bool × Bool) × Nat => if p.1.1 then p.1.2 else bit (k.maskReg (i.dst % 8)) p.2) (fun p => 1 <<< p.2)]
  simp only [hl, decide_true, Bool.true_and, Nat.zero_testBit, Bool.false_or]
  have hact : act.getD l false = act[l]'(by omega) := List.getD_eq_getElem ..
  have hnew : new.getD l false = new[l]'(by omega) := List.getD_eq_getElem ..
  rw [Bool.eq_iff_iff, List.any_eq_true, hact, hnew]
  constructor
  · rintro ⟨⟨⟨x, y⟩, n⟩, hp, hb⟩
    obtain ⟨hn', hxy⟩ := List.mk_mem_zipIdx_iff_getElem?.1 hp |> List.getElem?_eq_some_iff.1
    rw [Bool.and_eq_true, Nat.one_shiftLeft, Nat.testBit_two_pow, decide_eq_true_iff] at hb
    obtain ⟨hb, rfl⟩ := hb
    rw [List.getElem_zip, Prod.mk.injEq] at hxy
    obtain ⟨rfl, rfl⟩ := hxy
    exact hb
  · intro hb
    refine ⟨((act[l]'(by omega), new[l]'(by omega)), l), List.mk_mem_zipIdx_iff_getElem?.2 ?_, ?_⟩
    · rw [List.getElem?_eq_some_iff]
      exact ⟨by simp [ha, hn, hl], List.getElem_zip⟩
    · rw [Bool.and_eq_true, Nat.one_shiftLeft, Nat.testBit_two_pow, decide_eq_true_iff]
      exact ⟨hb, rfl⟩

theorem maskReg_putMask_ne (k : Core) (i : VIns) (act new : List Bool) {r : Nat} (h : r ≠ i.dst % 8) :
    (putMask k i act new).maskReg r = k.maskReg r := Tab.get_set_ne _ _ _ h

theorem vecRun_mask (s : State) (c : CoreId) {i : VIns} (h : 0x38 ≤ i.op ∧ i.op ≤ 0x3C) : vecRun s c i = vecMask s c i := by
  rw [vecRun, if_neg (by omega), if_neg (by omega), if_neg (by omega), if_neg (by omega), if_neg (by omega), if_pos h.2]

theorem vecRun_compare (s : State) (c : CoreId) {i : VIns} (h : 0x30 ≤ i.op ∧ i.op ≤ 0x33) : vecRun s c i = vecCompare s c i := by
  rw [vecRun, if_neg (by omega), if_neg (by omega), if_neg (by omega), if_neg (by omega), if_pos h.2]

/-- The core after an instruction that writes bits of a mask register, where it is of the frame and the bits that O29 speaks of. -/
theorem issueVector_putMask {s u : State} {c : CoreId} {w : BitVec 64} {op : Nat} {new : List Bool} {bits : Nat → Bool} (h : VectorReady s c w)
    (hop : fld w 0 8 = op)
    (hrun : vecRun s c (vdecode w) = (none, u.setCore c (putMask (u.core c) (vdecode w) (activeLanes (u.core c) (vdecode w)) new)))
    (hn : new.length = 128) (hb : ∀ l, l < 128 → new.getD l false = bits l) :
    ∃ k : Core, issueVector op c w .clean s = vectorDone u c k ∧ k = { u.core c with masks := k.masks } ∧
      (∀ r, r ≠ (vdecode w).dst % 8 → k.maskReg r = (u.core c).maskReg r) ∧
      ∀ l, l < 128 → bit (k.maskReg ((vdecode w).dst % 8)) l =
        if (activeLanes (u.core c) (vdecode w)).getD l false then bits l else bit ((u.core c).maskReg ((vdecode w).dst % 8)) l :=
  ⟨_, issueVector_done h hop hrun, rfl, fun _ hr => maskReg_putMask_ne _ _ _ _ hr, fun l hl => by
    rw [bit_putMask _ _ (activeLanes_length _ _) hn hl, hb l hl]⟩

/-! ### Comparison of FP32 words (R146) -/

/-- Exponent and significand of a finite magnitude, the exponent counted from that of the smallest. -/
def magExp (p : Nat) : Nat := p / 2 ^ 23 - 1
def magSig (p : Nat) : Nat := if p / 2 ^ 23 = 0 then p else 2 ^ 23 + p % 2 ^ 23

/-- The signed magnitude of a word. -/
def wordVal (x : Nat) : Int := if x < 2 ^ 31 then (x : Int) else -((x - 2 ^ 31 : Nat) : Int)

/-- What an FP32 word is: its sign, and its magnitude as NaN, infinity or significand and exponent (R36). -/
theorem fdecode_word {x : Nat} (hx : x < 2 ^ 32) : fdecode .fp32 x =
    if 0x7F800000 < x % 2 ^ 31 then .nan
    else if x % 2 ^ 31 = 0x7F800000 then .inf (decide (2 ^ 31 ≤ x))
    else .fin (decide (2 ^ 31 ≤ x)) (magSig (x % 2 ^ 31)) (magExp (x % 2 ^ 31) - 149) := by
  have hsign : x.testBit 31 = decide (2 ^ 31 ≤ x) := by
    rw [Nat.testBit_eq_decide_div_mod_eq]
    congr 1
    rw [eq_iff_iff]
    omega
  have hexp : (x >>> 23) % 2 ^ 8 = x % 2 ^ 31 / 2 ^ 23 := by
    rw [Nat.shiftRight_eq_div_pow]
    omega
  have hfrac : x % 2 ^ 23 = x % 2 ^ 31 % 2 ^ 23 := by omega
  generalize hp : x % 2 ^ 31 = p at *
  have hpl : p < 2 ^ 31 := by omega
  simp only [fdecode, Fmt.fp32, Fmt.emin, hsign, hexp, hfrac, true_and, reduceCtorEq, false_and, if_false]
  by_cases htop : p / 2 ^ 23 = 255
  · have hbeq : (p / 2 ^ 23 == 2 ^ 8 - 1) = true := by
      rw [beq_iff_eq]
      exact htop
    rw [hbeq, if_pos rfl]
    by_cases hzero : p % 2 ^ 23 = 0
    · rw [if_pos hzero, if_neg (by omega), if_pos (by omega)]
    · rw [if_neg hzero, if_pos (by omega)]
  · have hne : ¬ 0x7F800000 < p := by omega
    have hne' : ¬ p = 0x7F800000 := by omega
    have hbeq : (p / 2 ^ 23 == 2 ^ 8 - 1) = false := by
      rw [beq_eq_false_iff_ne]
      exact htop
    rw [hbeq, if_neg hne, if_neg hne', if_neg (by decide)]
    by_cases hz : p / 2 ^ 23 = 0
    · have hlow : p % 2 ^ 23 = p := by omega
      rw [if_pos hz, magSig, if_pos hz, magExp, hz, hlow]
      rfl
    · rw [if_neg hz, magSig, if_neg hz, magExp]
      congr 1
      omega

/-- A greater magnitude is a greater value. -/
theorem magSig_mul_lt {p q : Nat} (h : p < q) : magSig p * 2 ^ magExp p < magSig q * 2 ^ magExp q := by
  rcases Nat.lt_or_ge (magExp p) (magExp q) with he | he
  · have hp : magSig p < 2 ^ 24 := by
      unfold magSig
      split <;> omega
    have hq : 2 ^ 23 ≤ magSig q := by
      have : q / 2 ^ 23 ≠ 0 := by
        unfold magExp at he
        omega
      rw [magSig, if_neg this]
      omega
    obtain ⟨d, hd⟩ := Nat.exists_eq_add_of_lt he
    calc magSig p * 2 ^ magExp p < 2 ^ 24 * 2 ^ magExp p := Nat.mul_lt_mul_of_pos_right hp (Nat.two_pow_pos _)
      _ ≤ 2 ^ 23 * 2 ^ (magExp p + d + 1) := by
        rw [← Nat.pow_add, ← Nat.pow_add]
        exact Nat.pow_le_pow_right (by decide) (by omega)
      _ ≤ magSig q * 2 ^ magExp q := by
        rw [hd]
        exact Nat.mul_le_mul_right _ hq
  · have heq : magExp p = magExp q := by
      unfold magExp at *
      omega
    rw [heq]
    refine Nat.mul_lt_mul_of_pos_right ?_ (Nat.two_pow_pos _)
    unfold magSig magExp at *
    split <;> split <;> omega

theorem magSig_mul_lt_iff (p q : Nat) : magSig p * 2 ^ magExp p < magSig q * 2 ^ magExp q ↔ p < q := by
  constructor
  · intro h
    rcases Nat.lt_trichotomy p q with hlt | heq | hgt
    · exact hlt
    · subst heq
      exact absurd h (Nat.lt_irrefl _)
    · exact absurd (magSig_mul_lt hgt) (by omega)
  · exact magSig_mul_lt

/-- Magnitudes on a common exponent compare as they are. -/
theorem magSig_shift_lt_iff (p q : Nat) :
    magSig p <<< (((magExp p : Int) - 149) - min ((magExp p : Int) - 149) ((magExp q : Int) - 149)).toNat <
      magSig q <<< (((magExp q : Int) - 149) - min ((magExp p : Int) - 149) ((magExp q : Int) - 149)).toNat ↔ p < q := by
  have hp : (((magExp p : Int) - 149) - min ((magExp p : Int) - 149) ((magExp q : Int) - 149)).toNat + min (magExp p) (magExp q) = magExp p := by
    omega
  have hq : (((magExp q : Int) - 149) - min ((magExp p : Int) - 149) ((magExp q : Int) - 149)).toNat + min (magExp p) (magExp q) = magExp q := by
    omega
  rw [← magSig_mul_lt_iff p q, Nat.shiftLeft_eq, Nat.shiftLeft_eq,
    ← Nat.mul_lt_mul_right (a := 2 ^ min (magExp p) (magExp q)) (Nat.two_pow_pos _), Nat.mul_assoc, Nat.mul_assoc, ← Nat.pow_add, ← Nat.pow_add, hp, hq]

theorem magSig_shift_pos (p n : Nat) : 0 < magSig p <<< n ↔ 0 < p := by
  have h : 0 < magSig p ↔ 0 < p := by
    unfold magSig
    split <;> omega
  rw [Nat.shiftLeft_eq, ← h]
  exact Nat.mul_pos_iff_of_pos_right (Nat.two_pow_pos n)

/-- Words that are not NaN compare as their signed magnitudes. -/
theorem fltVal_word {x y : Nat} (hx : x < 2 ^ 32) (hy : y < 2 ^ 32) (nx : ¬ 0x7F800000 < x % 2 ^ 31) (ny : ¬ 0x7F800000 < y % 2 ^ 31) :
    fltVal false (fdecode .fp32 x) (fdecode .fp32 y) = decide (wordVal x < wordVal y) := by
  rw [fdecode_word hx, fdecode_word hy, if_neg nx, if_neg ny, Bool.eq_iff_iff, decide_eq_true_iff]
  unfold wordVal
  by_cases ix : x % 2 ^ 31 = 0x7F800000
  · by_cases iy : y % 2 ^ 31 = 0x7F800000
    · rw [if_pos ix, if_pos iy]
      simp only [fltVal, Bool.and_eq_true, decide_eq_true_eq, Bool.not_eq_true', decide_eq_false_iff_not]
      split <;> split <;> omega
    · rw [if_pos ix, if_neg iy]
      simp only [fltVal, decide_eq_true_eq]
      split <;> split <;> omega
  · by_cases iy : y % 2 ^ 31 = 0x7F800000
    · rw [if_neg ix, if_pos iy]
      simp only [fltVal, Bool.not_eq_true', decide_eq_false_iff_not]
      split <;> split <;> omega
    · rw [if_neg ix, if_neg iy]
      simp only [fltVal, Bool.false_and, Bool.or_false, decide_eq_true_eq]
      have h1 := magSig_shift_lt_iff (x % 2 ^ 31) (y % 2 ^ 31)
      have h2 := magSig_shift_lt_iff (y % 2 ^ 31) (x % 2 ^ 31)
      have h3 := magSig_shift_pos (x % 2 ^ 31)
        (((magExp (x % 2 ^ 31) : Int) - 149) - min ((magExp (x % 2 ^ 31) : Int) - 149) ((magExp (y % 2 ^ 31) : Int) - 149)).toNat
      have h4 := magSig_shift_pos (y % 2 ^ 31)
        (((magExp (y % 2 ^ 31) : Int) - 149) - min ((magExp (x % 2 ^ 31) : Int) - 149) ((magExp (y % 2 ^ 31) : Int) - 149)).toNat
      rw [min_comm] at h2
      generalize magSig (x % 2 ^ 31) <<< _ = P at *
      generalize magSig (y % 2 ^ 31) <<< _ = Q at *
      split <;> split <;> split <;> split <;> omega

/-- Settles O29: bit by bit of the mask register; FP32 words compare as their signed magnitudes. -/
theorem comparisons : Obligations.Comparisons := by
  constructor
  case left =>
    intro s c w h i writes m
    have hi {op : Nat} (hop : fld w 0 8 = op) : (vdecode w).op = op := hop
    have masks {x : Instr} {op : Nat} {bits : Nat → Bool} (hx : exec x s = .next (issueVector op c w .clean s)) (hop : fld w 0 8 = op)
        (hrange : 0x38 ≤ op ∧ op ≤ 0x3C) (hb : ∀ l, (if op = 0x38 then
            (if i.src1.testBit 8 then decide (i.src1 % 256 ≤ l) else decide (l < i.src1 % 256))
          else if op = 0x39 then m i.src1 l && m i.src2 l else if op = 0x3A then m i.src1 l || m i.src2 l
          else if op = 0x3B then m i.src1 l != m i.src2 l else !m i.src1 l) = bits l) : writes x s bits := by
      have hrun := vecRun_mask s c (i := vdecode w) (by rw [hi hop]; exact hrange)
      simp only [vecMask, hi hop] at hrun
      obtain ⟨k, e, hk⟩ := issueVector_putMask (bits := bits) h hop hrun (by simp) fun l hl => by
        rw [← hb l]
        simp [hl, m, i]
      exact ⟨k, hx.trans (congrArg Host.Outcome.next e), hk⟩
    refine ⟨fun hop => masks rfl hop (by decide) fun l => rfl, fun hop => masks rfl hop (by decide) fun l => rfl,
      fun hop => masks rfl hop (by decide) fun l => rfl, fun hop => masks rfl hop (by decide) fun l => rfl,
      fun hop => masks rfl hop (by decide) fun l => rfl, ?_⟩
    intro t u a b hsrc1 hsrc2 ha hb x y
    have compares {v : Instr} {op : Nat} {bits : Nat → Bool} {f : Nat → Nat → Bool} (hx : exec v s = .next (issueVector op c w .clean s))
        (hop : fld w 0 8 = op) (hrange : 0x30 ≤ op ∧ op ≤ 0x33)
        (hf : (i.fmt = 2 ∧ f = intCmp (cmpOf op)) ∨ (i.fmt = 0 ∧ f = fpCmp (cmpOf op) .fp32))
        (hb' : ∀ l, f (x l) (y l) = bits l) : writes v u bits := by
      have hrun : vecRun s c (vdecode w) = (none, u.setCore c (putMask (u.core c) i (activeLanes (u.core c) i)
          ((a.zip b).map fun p => f p.1 p.2))) := by
        rw [vecRun_compare s c (by rw [hi hop]; exact hrange)]
        rcases hf with ⟨hfmt, rfl⟩ | ⟨hfmt, rfl⟩
        · simp [vecCompare, hsrc1, hsrc2, hi hop, show (vdecode w).fmt = 2 from hfmt, i]
        · simp [vecCompare, hsrc1, hsrc2, hi hop, show (vdecode w).fmt = 0 from hfmt, i]
      obtain ⟨k, e, hk⟩ := issueVector_putMask (bits := bits) h hop hrun (by simp [ha, hb]) fun l hl => by
        rw [← hb' l]
        simp [ha, hb, hl, x, y]
      exact ⟨k, hx.trans (congrArg Host.Outcome.next e), hk⟩
    refine ⟨fun hf => ⟨fun hop => compares rfl hop (by decide) (.inl ⟨hf, rfl⟩) fun l => rfl,
      fun hop => compares rfl hop (by decide) (.inl ⟨hf, rfl⟩) fun l => rfl,
      fun hop => compares rfl hop (by decide) (.inl ⟨hf, rfl⟩) fun l => rfl,
      fun hop => compares rfl hop (by decide) (.inl ⟨hf, rfl⟩) fun l => rfl⟩,
      fun hf => ⟨fun hop => compares rfl hop (by decide) (.inr ⟨hf, rfl⟩) fun l => rfl,
      fun hop => compares rfl hop (by decide) (.inr ⟨hf, rfl⟩) fun l => rfl,
      fun hop => compares rfl hop (by decide) (.inr ⟨hf, rfl⟩) fun l => rfl,
      fun hop => compares rfl hop (by decide) (.inr ⟨hf, rfl⟩) fun l => rfl⟩⟩
  case right =>
    intro a b ha hb nan val
    have hnan : ∀ {x : Nat}, x < 2 ^ 32 → (fdecode .fp32 x).isNan = decide (nan x) := fun {x} hx => by
      rw [fdecode_word hx]
      split
      next h => simp only [FVal.isNan, nan, h, decide_true]
      next h =>
        simp only [nan, h, decide_false]
        split <;> rfl
    have hval : ∀ x, val x = wordVal x := fun _ => rfl
    refine ⟨fun h => ?_, fun na nb => ?_⟩
    · have hor : ((fdecode .fp32 a).isNan || (fdecode .fp32 b).isNan) = true := by
        rw [hnan ha, hnan hb]
        simpa using h
      simp only [fpCmp, hor, if_true]
      decide
    · have hor : ((fdecode .fp32 a).isNan || (fdecode .fp32 b).isNan) = false := by
        rw [hnan ha, hnan hb]
        simpa using ⟨na, nb⟩
      have h1 := fltVal_word ha hb na nb
      have h2 := fltVal_word hb ha nb na
      simp only [fpCmp, hor, Bool.false_eq_true, if_false, h1, h2, hval, true_and, Bool.and_eq_true, Bool.not_eq_true', decide_eq_false_iff_not,
        decide_eq_true_eq, not_lt, and_self, and_true]
      omega

end Sys2Proof.Machine
end

section
/-!
LEMMA. Conversions, row moves, lane generators and flags of the vector engine (O31).
-/
namespace Sys2Proof.Machine

/-! ### Lists of lanes -/

/-- What an operation makes of each active lane, given with its number. -/
theorem map_lanes {α : Type} (k : Core) (i : VIns) (f : Nat → α) :
    ((activeLanes k i).zipIdx).map (fun p => if p.1 then some (f p.2) else none) =
      (List.range 128).map fun l => if (activeLanes k i).getD l false then some (f l) else none := by
  have hact := activeLanes_length k i
  refine List.ext_getElem (by simp [hact]) fun l _ hl => ?_
  have hl : l < 128 := by simpa using hl
  simp [hact, hl]

/-- The same beside a list of generator words that are not used. -/
theorem map_zip_zipIdx {α : Type} (k : Core) (i : VIns) (f : Nat → α) {ws : List Nat} (hws : ws.length = 128) :
    (((activeLanes k i).zip ws).zipIdx).map (fun p => if p.1.1 then some (f p.2) else none) =
      (List.range 128).map fun l => if (activeLanes k i).getD l false then some (f l) else none := by
  have hact := activeLanes_length k i
  refine List.ext_getElem (by simp [hact, hws]) fun l _ hl => ?_
  have hl : l < 128 := by simpa using hl
  simp [hact, hws, hl]

/-- What an operation makes of each active lane's source word. -/
theorem map_zip_source {α : Type} (k : Core) (i : VIns) (f : Nat → α) {ws a : List Nat} (hws : ws.length = 128) (ha : a.length = 128) :
    (((activeLanes k i).zip ws).zip a).map (fun p => if p.1.1 then some (f p.2) else none) =
      (List.range 128).map fun l => if (activeLanes k i).getD l false then some (f (a.getD l 0)) else none := by
  have hact := activeLanes_length k i
  refine List.ext_getElem (by simp [hact, hws, ha]) fun l _ hl => ?_
  have hl : l < 128 := by simpa using hl
  simp [hact, hws, ha, hl]

/-- What an operation makes of each active lane of a list of 128. -/
theorem map_zip_lane {α : Type} (k : Core) (i : VIns) {v : List α} (d : α) (hv : v.length = 128) :
    ((activeLanes k i).zip v).map (fun p => if p.1 then some p.2 else none) =
      (List.range 128).map fun l => if (activeLanes k i).getD l false then some (v.getD l d) else none := by
  have hact := activeLanes_length k i
  refine List.ext_getElem (by simp [hact, hv]) fun l _ hl => ?_
  have hl : l < 128 := by simpa using hl
  simp [hact, hv, hl]

/-- The values and the flags of results by lane. -/
theorem fst_lanes (p : Nat → Bool) (v : Nat → Nat × Nat) :
    (((List.range 128).map fun l => if p l then some (v l) else none).map (·.map (·.1))) =
      (List.range 128).map fun l => if p l then some (v l).1 else none := by
  simp only [List.map_map, Function.comp_def, apply_ite (Option.map _), Option.map_some, Option.map_none]

theorem snd_lanes (p : Nat → Bool) (v : Nat → Nat × Nat) :
    (((List.range 128).map fun l => if p l then some (v l) else none).map fun r => (r.map (·.2)).getD 0) =
      (List.range 128).map fun l => if p l then (v l).2 else 0 := by
  simp only [List.map_map, Function.comp_def, apply_ite (Option.map _), apply_ite (Option.getD · 0), Option.map_some, Option.map_none,
    Option.getD_some, Option.getD_none]

/-! ### Conversions (R152 to R155) -/

section
variable {s t u : State} {c : CoreId} {i : VIns} {a b : List Nat}

theorem vecConvert_widen (hsrc : source1 s c i = (.ok a, t)) (hst : i.stoch = false) (hw : cvWiden i = true) (hm : isMx (cvCode i) = false) :
    let v := fun l => widenElem i.fmt (cvCode i) .rne i.sat (fld ((t.core c).vreg (i.src1 % 64)) (partBit (cvCode i) (cvPart i) l) (codeWidth (cvCode i)))
    vecConvert s c i = (none, t.setCore c (raiseLanes
      (putDest (t.core c) i ((List.range 128).map fun l => if (activeLanes (t.core c) i).getD l false then some (v l).1 else none))
      ((List.range 128).map fun l => if (activeLanes (t.core c) i).getD l false then (v l).2 else 0))) := by
  intro v
  simp only [vecConvert, hsrc, hst, Bool.false_and, drawLanes_false, hw, if_true, hm, rndOf, Bool.false_eq_true, if_false]
  rw [map_zip_zipIdx (t.core c) i v (by simp [activeLanes_length]), fst_lanes, snd_lanes]

theorem vecConvert_narrow (hsrc : source1 s c i = (.ok a, t)) (ha : a.length = 128) (hst : i.stoch = false) (hw : cvWiden i = false)
    (hm : isMx (cvCode i) = false) :
    let v := fun l => narrowElem i.fmt (cvCode i) .rne i.sat (a.getD l 0)
    vecConvert s c i = (none, t.setCore c (raiseLanes
      ((t.core c).setVreg i.dreg (putElems ((t.core c).vreg i.dreg) (cvCode i) (cvPart i)
        ((List.range 128).map fun l => if (activeLanes (t.core c) i).getD l false then some (v l).1 else none)))
      ((List.range 128).map fun l => if (activeLanes (t.core c) i).getD l false then (v l).2 else 0))) := by
  intro v
  simp only [vecConvert, hsrc, hst, Bool.false_and, drawLanes_false, hw, hm, rndOf, Bool.false_eq_true, if_false]
  rw [map_zip_source (t.core c) i (fun x => narrowElem i.fmt (cvCode i) .rne i.sat x) (by simp [activeLanes_length]) ha, fst_lanes, snd_lanes]

theorem vecQuantize_eq (hsrc : source1 s c i = (.ok a, t)) (ha : a.length = 128) (hst : i.stoch = false)
    (hb : (if i.k2 = 3 then (.ok [i.src2], t) else source2 t c i) = (.ok b, u)) :
    let q := si24Quantize (b.headD 0 % 256) ((List.range 128).map fun l =>
      if (activeLanes (u.core c) i).getD l false then some (fdecode .fp32 (a.getD l 0), Rnd.rne) else none)
    vecQuantize s c i = (none, u.setCore c (raiseLanes ((u.core c).setVreg i.dreg (BitVec.ofNat 4096 q.1)) q.2)) := by
  intro q
  simp only [vecQuantize, hsrc, hb, hst, drawLanes_false, rndOf, Bool.false_eq_true, if_false]
  rw [map_zip_source (u.core c) i (fun x => (fdecode .fp32 x, Rnd.rne)) (by simp [activeLanes_length]) ha]

theorem vecDequantize_eq : 
    let v := fun l => (dequantize (i.src2 % 2 == 1) ((s.core c).vreg (i.src1 % 64)) ((s.core c).vreg (i.src1 % 64 + 1)) i.sat).getD l (0, 0)
    vecDequantize s c i = (none, s.setCore c (raiseLanes
      (putDest (s.core c) i ((List.range 128).map fun l => if (activeLanes (s.core c) i).getD l false then some (v l).1 else none))
      ((List.range 128).map fun l => if (activeLanes (s.core c) i).getD l false then (v l).2 else 0))) := by
  intro v
  simp only [vecDequantize]
  rw [map_zip_lane (s.core c) i (0, 0) (by simp [dequantize]), fst_lanes _ v, snd_lanes _ v]

end

/-! ### Rows and flags (R156, R160) -/

theorem vecRow_plain {s : State} {c : CoreId} {i : VIns} (hv : (capture s (some c) (BitVec.ofNat 16 i.src1)).valid = true)
    (ho : ownEntry c (capture s (some c) (BitVec.ofNat 16 i.src1)) = true)
    (hb : blocksPerRow (capture s (some c) (BitVec.ofNat 16 i.src1)).format = 0) :
    (∀ r t, i.op = 0x70 → accessRead s s.grid.ctx (capture s (some c) (BitVec.ofNat 16 i.src1)) none (rowOperand (s.core c) i) 1 = ([r], none, t) →
      vecRow s c i = (none, t.setCore c ((t.core c).setVreg i.dreg r))) ∧
    (∀ t, i.op ≠ 0x70 → accessWrite s s.grid.ctx (capture s (some c) (BitVec.ofNat 16 i.src1)) none (rowOperand (s.core c) i)
        [((s.core c).vreg i.dreg, 0)] = (none, t) → vecRow s c i = (none, t)) := by
  refine ⟨fun r t hop h => ?_, fun t hop h => ?_⟩
  · simp [vecRow, hv, ho, hb, hop, h]
  · simp only [vecRow, hv, ho, hb, hop, h, if_true, if_false, bne_self_eq_false, Bool.false_and, Bool.not_true, Bool.or_self, Bool.and_false,
      Bool.false_eq_true]

/-- A table whose values of the active lanes are replaced. -/
theorem get_foldl_lanes {β : Type} [DecidableEq β] (d : β) (g : β → β) (act : List Bool) (n : Nat) (t : Tab β) (l : Nat) :
    Tab.get d ((act.zipIdx n).foldl (fun t p => if p.1 then Tab.set d t p.2 (g (Tab.get d t p.2)) else t) t) l =
      if n ≤ l ∧ act.getD (l - n) false = true then g (Tab.get d t l) else Tab.get d t l := by
  induction act generalizing n t with
  | nil => simp
  | cons x act ih =>
    rw [List.zipIdx_cons, List.foldl_cons, ih]
    rcases Nat.lt_trichotomy l n with hl | rfl | hl
    · have h1 : ¬ n + 1 ≤ l := by omega
      have h2 : ¬ n ≤ l := by omega
      simp only [h1, h2, false_and, if_false]
      split
      · rw [Tab.get_set_ne _ _ _ (by omega)]
      · rfl
    · have h1 : ¬ l + 1 ≤ l := by omega
      simp only [h1, false_and, if_false, le_refl, true_and, Nat.sub_self, List.getD_cons_zero]
      split
      · rw [Tab.get_set_same]
      · rfl
    · have hsub : l - n = (l - (n + 1)) + 1 := by omega
      have h1 : n + 1 ≤ l := hl
      have h2 : n ≤ l := by omega
      have hx : Tab.get d (if x then Tab.set d t n (g (Tab.get d t n)) else t) l = Tab.get d t l := by
        split
        · rw [Tab.get_set_ne _ _ _ (by omega)]
        · rfl
      simp only [hx, h1, h2, true_and, hsub, List.getD_cons_succ]

theorem get_clearFlags (t : Tab Byte) (k : Core) (i : VIns) (bits : Byte) (l : Nat) :
    Tab.get 0 (clearFlags t (activeLanes k i) bits) l =
      if (activeLanes k i).getD l false then Tab.get 0 t l &&& ~~~bits else Tab.get 0 t l := by
  refine (get_foldl_lanes 0 (fun x => x &&& ~~~bits) (activeLanes k i) 0 t l).trans ?_
  simp only [Nat.zero_le, true_and, Nat.sub_zero]

/-- VFLAGCLR: the columns' flags where SRC1 says so, else the lanes' (R160). -/
theorem vecFlagClear_eq (s : State) (c : CoreId) (i : VIns) : ∃ n : Core, vecFlagClear s c i = (none, s.setCore c n) ∧
    n = { s.core c with laneFlags := n.laneFlags, colFlags := n.colFlags } ∧
    n.laneFlags = (if i.src1.testBit 8 then (s.core c).laneFlags
      else clearFlags (s.core c).laneFlags (activeLanes (s.core c) i) (BitVec.ofNat 8 (i.src1 % 128))) ∧
    n.colFlags = (if i.src1.testBit 8 then clearFlags (s.core c).colFlags (activeLanes (s.core c) i) (BitVec.ofNat 8 (i.src1 % 128))
      else (s.core c).colFlags) := by
  refine ⟨_, rfl, ?_, ?_, ?_⟩
  · split <;> rfl
  · split <;> rfl
  · split <;> rfl

/-! ### Lane generators (R161) -/

/-- The generators once each active lane has drawn. -/
def drawnGens (gens : Tab Gen) (act : List Bool) (n : Nat) : Tab Gen :=
  (act.zipIdx n).foldl (fun t p => if p.1 then Tab.set {} t p.2 (Tab.get {} t p.2).step.1 else t) gens

theorem laneStep_replay {s : State} {c : CoreId} (h : (s.core c).replayMode = true) (l : Nat) : laneStep c l s =
    ((Tab.get {} (s.core c).gens l).step.2, s.setCore c { s.core c with
      gens := Tab.set {} (s.core c).gens l (Tab.get {} (s.core c).gens l).step.1 }) := by
  simp only [laneStep, h, if_true]

/-- Each active lane draws one output of its own generator in replay mode (R62). -/
theorem drawLanes_replay {c : CoreId} (act : List Bool) (n : Nat) {s : State} (h : (s.core c).replayMode = true) :
    ∃ ws u, drawLanes c true (act.zipIdx n) s = (ws, u) ∧ u.core c = { s.core c with gens := drawnGens (s.core c).gens act n } ∧
      (∀ x, u.setCore c x = s.setCore c x) ∧
      ws.length = act.length ∧ ∀ j, act.getD j false = true → ws.getD j 0 = (Tab.get {} (s.core c).gens (n + j)).step.2.toNat := by
  induction act generalizing n s with
  | nil => exact ⟨[], s, rfl, rfl, fun _ => rfl, rfl, fun j hj => by simp at hj⟩
  | cons x act ih =>
    cases x with
    | false =>
      obtain ⟨ws, u, e, hu, hx, hl, hw⟩ := ih (n + 1) h
      refine ⟨0 :: ws, u, ?_, hu, hx, by simp [hl], fun j hj => ?_⟩
      · simp only [List.zipIdx_cons, drawLanes, e, Bool.and_false, Bool.false_eq_true, if_false]
      · cases j with
        | zero => simp at hj
        | succ j =>
          rw [List.getD_cons_succ] at hj ⊢
          rw [hw j hj, Nat.add_right_comm, Nat.add_assoc]
    | true =>
      have hs : ((s.setCore c { s.core c with gens := Tab.set {} (s.core c).gens n (Tab.get {} (s.core c).gens n).step.1 }).core c).replayMode = true := by
        rw [State.core_setCore_same]
        exact h
      obtain ⟨ws, u, e, hu, hx, hl, hw⟩ := ih (n + 1) hs
      rw [State.core_setCore_same] at hu hw
      refine ⟨(Tab.get {} (s.core c).gens n).step.2.toNat :: ws, u, ?_, hu, fun y => ?_, by simp [hl], fun j hj => ?_⟩
      · simp only [List.zipIdx_cons, drawLanes, laneStep_replay h, e, Bool.and_true, if_true]
      · rw [hx, State.setCore_setCore]
      · cases j with
        | zero => rw [List.getD_cons_zero, Nat.add_zero]
        | succ j =>
          rw [List.getD_cons_succ] at hj ⊢
          rw [hw j hj, Nat.add_right_comm, Nat.add_assoc, Tab.get_set_ne _ _ _ (by omega)]

/-- A lane of the destination register that is written with nothing. -/
theorem Core.lane_putDest_none {k : Core} {i : VIns} {new : List (Option Nat)} {l : Nat} (hdk : i.dk = false) (hl : l < 128)
    (hnew : new[l]? = some none) : (putDest k i new).lane i.dreg l = k.lane i.dreg l := by
  have hmerged : (((destLanes k i).zip new).map fun p => p.2.getD p.1)[l]? = some (k.lane i.dreg l) := by
    simp [List.getElem?_zip_eq_some, destLanes, lanesOf, hl, hnew, hdk, Core.lane]
  have hrow := fld_rowOfLanes hl hmerged
  rw [Nat.mod_eq_of_lt (k.lane_lt i.dreg l)] at hrow
  simp only [putDest, hdk, Bool.false_eq_true, if_false, lane, vreg_setVreg_same, mergeLanes]
  exact hrow

/-- VRND in replay mode: each active lane takes its generator's output and steps it, every other lane stays (R161). -/
theorem vecRandom_replay {s : State} {c : CoreId} {i : VIns} (h : (s.core c).replayMode = true) (hdk : i.dk = false) :
    ∃ n : Core, vecRandom s c i = (none, s.setCore c n) ∧ ∀ l, l < 128 →
      ((activeLanes (s.core c) i).getD l false = true →
        n.lane i.dreg l = (Tab.get {} (s.core c).gens l).step.2.toNat ∧ Tab.get {} n.gens l = (Tab.get {} (s.core c).gens l).step.1) ∧
      ((activeLanes (s.core c) i).getD l false = false →
        n.lane i.dreg l = (s.core c).lane i.dreg l ∧ Tab.get {} n.gens l = Tab.get {} (s.core c).gens l) := by
  obtain ⟨ws, u, e, hu, hx, hl, hw⟩ := drawLanes_replay (activeLanes (s.core c) i) 0 h
  rw [activeLanes_length] at hl
  have hact := activeLanes_length (s.core c) i
  have hgens : ∀ l, Tab.get {} (drawnGens (s.core c).gens (activeLanes (s.core c) i) 0) l =
      if (activeLanes (s.core c) i).getD l false then (Tab.get {} (s.core c).gens l).step.1 else Tab.get {} (s.core c).gens l := fun l => by
    refine (get_foldl_lanes {} (fun g => g.step.1) (activeLanes (s.core c) i) 0 (s.core c).gens l).trans ?_
    simp only [Nat.zero_le, true_and, Nat.sub_zero]
  refine ⟨putDest (u.core c) i (((activeLanes (s.core c) i).zip ws).map fun p => if p.1 then some p.2 else none), ?_, fun l hl' => ?_⟩
  · simp only [vecRandom, e, hx]
  · have hput : (putDest (u.core c) i (((activeLanes (s.core c) i).zip ws).map fun p => if p.1 then some p.2 else none)).gens = (u.core c).gens := by
      simp only [putDest, hdk]
      rfl
    have hget : (((activeLanes (s.core c) i).zip ws).map fun p => if p.1 then some p.2 else none)[l]? =
        some (if (activeLanes (s.core c) i).getD l false then some (ws.getD l 0) else none) := by
      simp [hact, hl, hl', List.getElem?_zip_eq_some]
    rw [hput, hu, hgens]
    refine ⟨fun ha => ⟨?_, if_pos ha⟩, fun ha => ⟨?_, if_neg (ne_true_of_eq_false ha)⟩⟩
    · rw [ha, if_pos rfl] at hget
      rw [Core.lane_putDest hdk hl' hget, hw l ha, Nat.zero_add, Nat.mod_eq_of_lt (BitVec.isLt _)]
    · rw [ha, if_neg (by decide)] at hget
      rw [Core.lane_putDest_none hdk hl' hget]
      rfl

theorem dk_of_vecOk_random {i : VIns} (hok : vecOk i = true) (hop : i.op = 0x78) : i.dk = false := by
  simp only [vecOk, vspec, hop] at hok
  simp at hok
  exact hok.1.1

/-- Settles O31: each instruction's effect by its opcode, lane by lane. -/
theorem conversionsAndRows : Obligations.ConversionsAndRows := by
  constructor
  case left =>
    intro s t u c w a b h i hsrc ha hst k active cc
    have hi {op : Nat} (hop : fld w 0 8 = op) : i.op = op := hop
    refine ⟨fun hop hw hm => ?_, fun hop hw hm => ?_, fun hop hk hsrc2 => ?_, fun hop hk => ?_, fun hop => ?_⟩
    · refine congrArg Host.Outcome.next (issueVector_done h hop ?_)
      rw [show vecRun s c (vdecode w) = vecConvert s c i by simp [vecRun, i, show (vdecode w).op = 0x61 from hop]]
      exact vecConvert_widen hsrc hst hw hm
    · refine congrArg Host.Outcome.next (issueVector_done h hop ?_)
      rw [show vecRun s c (vdecode w) = vecConvert s c i by simp [vecRun, i, show (vdecode w).op = 0x61 from hop]]
      exact vecConvert_narrow hsrc ha hst hw hm
    · refine congrArg Host.Outcome.next (issueVector_done h hop ?_)
      rw [show vecRun s c (vdecode w) = vecQuantize s c i by simp [vecRun, i, show (vdecode w).op = 0x62 from hop]]
      exact vecQuantize_eq hsrc ha hst (by rw [hk]; exact hsrc2)
    · refine congrArg Host.Outcome.next (issueVector_done h hop ?_)
      rw [show vecRun s c (vdecode w) = vecQuantize s c i by simp [vecRun, i, show (vdecode w).op = 0x62 from hop]]
      exact vecQuantize_eq (b := [i.src2]) hsrc ha hst (by rw [if_pos hk])
    · refine congrArg Host.Outcome.next (issueVector_done h hop ?_)
      rw [show vecRun s c (vdecode w) = vecDequantize s c i by simp [vecRun, i, show (vdecode w).op = 0x63 from hop]]
      exact vecDequantize_eq
  case right =>
    intro s t c w h i k cap active
    obtain ⟨-, -, hok, -, -⟩ := id h
    refine ⟨fun hop => ?_, fun r hop hv ho hb hr => ?_, fun hop hv ho hb hr => ?_, fun hop => ?_, fun hop => ?_, fun hop hrep => ?_⟩
    · refine congrArg Host.Outcome.next (issueVector_ok h hop ?_)
      simp [vecRun, show (vdecode w).op = 0 from hop]
    · refine congrArg Host.Outcome.next (issueVector_done h hop ?_)
      rw [show vecRun s c (vdecode w) = vecRow s c i by simp [vecRun, i, show (vdecode w).op = 0x70 from hop]]
      exact (vecRow_plain hv ho hb).1 r t hop hr
    · refine congrArg Host.Outcome.next (issueVector_ok h hop ?_)
      rw [show vecRun s c (vdecode w) = vecRow s c i by simp [vecRun, i, show (vdecode w).op = 0x71 from hop]]
      exact (vecRow_plain hv ho hb).2 t (by rw [show i.op = 0x71 from hop]; decide) hr
    · refine congrArg Host.Outcome.next (issueVector_done h hop ?_)
      rw [show vecRun s c (vdecode w) = vecFlagRead s c i by simp [vecRun, i, show (vdecode w).op = 0x79 from hop]]
      simp only [vecFlagRead]
      rw [map_lanes k i fun l => (Tab.get 0 (if i.src1.testBit 0 then k.colFlags else k.laneFlags) l).toNat]
    · have hrun : vecRun s c (vdecode w) = vecFlagClear s c i := by simp [vecRun, i, show (vdecode w).op = 0x7A from hop]
      obtain ⟨n, e, hn, hl, hcol⟩ := vecFlagClear_eq s c i
      refine ⟨n, congrArg Host.Outcome.next (issueVector_done h hop (hrun.trans e)), hn, fun l _ => ?_⟩
      intro cleared
      rw [hl, hcol]
      split
      · exact ⟨rfl, get_clearFlags ..⟩
      · exact ⟨get_clearFlags .., rfl⟩
    · obtain ⟨n, e, hn⟩ := vecRandom_replay (i := i) hrep (dk_of_vecOk_random hok hop)
      refine ⟨n, congrArg Host.Outcome.next (issueVector_done h hop ?_), hn⟩
      rw [show vecRun s c (vdecode w) = vecRandom s c i by simp [vecRun, i, show (vdecode w).op = 0x78 from hop]]
      exact e

end Sys2Proof.Machine
end

section
/-!
LEMMA. The checks of every vector instruction, and what each leaves besides its own effect (O26).
-/
namespace Sys2Proof.Machine

/-- The effect of an instruction whose checks before it passed: it faults its core, or it is counted and the program index moves on. -/
def runVector (s : State) (c : CoreId) (w : BitVec 64) : State :=
  match vecExec s c w with
  | (some f, t) => faultCore t c (w.setWidth 128) f
  | (none, t) => stepPc (t.setCore c { t.core c with vinstr := (t.core c).vinstr + 1 }) c 1

section
variable {s : State} {c : CoreId} {w : BitVec 64} {op : Nat}

/-- An instruction that fails a check of its form faults whatever the operand buffers hold (R145). -/
theorem issueVector_bad (e : OperandCheck) (hc : canIssue s c = true) (hf : fetchFault s c false = none) (hop : fld w 0 8 = op)
    (hok : vecOk (vdecode w) = false) :
    issueVector op c w e s = faultCore s c (w.setWidth 128) ⟨St.vectorInstructionInvalid, {}⟩ := by
  unfold issueVector
  rw [vectorWord_same hop]
  simp [hc, hf, hok, vecExec]

theorem issueVector_double (h : VectorReady s c w) (hop : fld w 0 8 = op) (hr : readsBuffer (vdecode w) = true) :
    issueVector op c w .double s = faultCore s c (w.setWidth 128) ⟨St.operandParity, {}⟩ := by
  obtain ⟨hc, hf, hok, hh, ha⟩ := h
  unfold issueVector
  rw [vectorWord_same hop]
  simp [hc, hf, hok, hh, ha, hr]

theorem issueVector_corrected (h : VectorReady s c w) (hop : fld w 0 8 = op) (hr : readsBuffer (vdecode w) = true) :
    issueVector op c w .corrected s = runVector (countOperand s c) c w := by
  obtain ⟨hc, hf, hok, hh, ha⟩ := h
  unfold issueVector runVector
  rw [vectorWord_same hop]
  simp [hc, hf, hok, hh, ha, hr] <;> rfl

theorem issueVector_clean (h : VectorReady s c w) (hop : fld w 0 8 = op) : issueVector op c w .clean s = runVector s c w := by
  obtain ⟨hc, hf, hok, hh, ha⟩ := h
  unfold issueVector runVector
  rw [vectorWord_same hop]
  simp [hc, hf, hok, hh, ha] <;> rfl

/-- An instruction that reads no operand buffer does not see an error there (R73). -/
theorem issueVector_unread (e : OperandCheck) (h : VectorReady s c w) (hop : fld w 0 8 = op) (hr : readsBuffer (vdecode w) = false) :
    issueVector op c w e s = runVector s c w := by
  obtain ⟨hc, hf, hok, hh, ha⟩ := h
  unfold issueVector runVector
  rw [vectorWord_same hop]
  simp [hc, hf, hok, hh, ha, hr] <;> rfl

/-- The count of corrected errors is no part of what the checks look at. -/
theorem vectorReady_countOperand (h : VectorReady s c w) : VectorReady (countOperand s c) c w := by
  have hcore : (countOperand s c).core c = { s.core c with obCorrected := countErr (s.core c).obCorrected } := State.core_setCore_same ..
  have hcap : ∀ x, capture (countOperand s c) (some c) x = capture s (some c) x := fun x => by
    simp only [capture, hcore]
    rfl
  have hwaits : ∀ x, handleWaits (countOperand s c) c x = handleWaits s c x := fun x => by
    simp only [handleWaits, scaleCap, hcap]
    rfl
  obtain ⟨hc, hf, hok, hh, ha⟩ := h
  refine ⟨?_, ?_, hok, ?_, ?_⟩
  · rw [← hc]
    simp only [canIssue, hcore]
    rfl
  · rw [← hf]
    simp only [fetchFault, hcore]
    rfl
  · rw [← hh]
    exact congrArg (List.any _) (funext hwaits)
  · rw [hcore, ← ha]
    rfl

end

/-- Each row's instruction is what its OPCODE decodes to, and runs as one of that OPCODE (R144). -/
theorem vectorRows_exec : ∀ p ∈ vectorRows, (∀ c w e s, exec (p.2 c ⟨w, e⟩) s = .next (issueVector p.1 c w e s)) ∧
    ∀ c w e, w.toNat % 256 = p.1 → decodeVector c w e = some (p.2 c ⟨w, e⟩) := by
  intro p hp
  simp only [vectorRows, List.mem_cons, List.not_mem_nil, or_false] at hp
  rcases hp with rfl | rfl | rfl | rfl | rfl | rfl | rfl | rfl | rfl | rfl | rfl | rfl | rfl | rfl | rfl | rfl | rfl | rfl | rfl | rfl | rfl |
    rfl | rfl | rfl | rfl | rfl | rfl | rfl | rfl | rfl | rfl | rfl | rfl | rfl | rfl | rfl | rfl | rfl | rfl | rfl | rfl | rfl | rfl | rfl |
    rfl | rfl | rfl | rfl | rfl <;>
  exact ⟨fun _ _ _ _ => rfl, fun c w e h => by simp only [decodeVector, h]⟩

/-- Settles O26: the checks in their order, the same for every OPCODE. -/
theorem vectorIssue : Obligations.VectorIssue := by
  constructor
  case left => exact fun s c k => ⟨State.core_setCore_same .., fun d hd => State.core_setCore_ne _ _ _ _ hd, rfl⟩
  case right =>
    intro p hp s c w e x
    obtain ⟨hexec, hdec⟩ := vectorRows_exec p hp
    have hx : ∀ e s, exec (x e) s = .next (issueVector p.1 c w e s) := fun e s => hexec c w e s
    refine ⟨fun hop => hdec c w e hop, fun hc => ?_, fun hc hf hop hok => ?_, fun h hop hr => ⟨?_, ?_⟩, fun h hop hr => ?_⟩
    · rw [hx, issueVector_held e hc]
    · rw [hx, issueVector_bad e hc hf hop hok]
      rfl
    · rw [hx, issueVector_double h hop hr]
      rfl
    · rw [hx, hx, issueVector_corrected h hop hr]
      exact congrArg Host.Outcome.next (issueVector_clean (vectorReady_countOperand h) hop).symm
    · rw [hx, hx, issueVector_unread e h hop hr, issueVector_unread .clean h hop hr]

end Sys2Proof.Machine
end

section
/-!
LEMMA. Words of the sequencer (O32), and the array's queue (O33).
-/
namespace Sys2Proof.Machine

/-! ### Issue of a word -/

/-- The OP of an instruction of the sequencer (R163). -/
def sequencerOp : Instr → Nat
  | .sload .. => 0x1
  | .mmul .. => 0x2
  | .rmov .. => 0x4
  | .kset .. => 0x5
  | .tile .. => 0x6
  | .wclaim .. => 0x7
  | .csend .. => 0x8
  | .crecv .. => 0x9
  | .ctok .. => 0xA
  | .ctake .. => 0xB
  | .wqueue .. => 0xC
  | .wfence .. => 0xD
  | .stash .. => 0xE
  | .seqj .. => 0xF
  | _ => 0

theorem sequencerOp_of_decode {c : CoreId} {w : BitVec 128} {i : Instr} (h : decodeSequencer c w = some i) : sequencerOp i = w.toNat % 16 := by
  unfold decodeSequencer at h
  split at h <;> simp only [Option.some.injEq, reduceCtorEq] at h <;> subst h <;> simp only [sequencerOp, *]

/-- Each row's instruction is what its OP decodes to, and is issued as a word of that OP (R163). -/
theorem sequencerRows_exec : ∀ p ∈ sequencerRows, (∀ c w, sequencerOp (p.2 c w) = p.1) ∧
    (∀ c w, w.toNat % 16 = p.1 → decodeSequencer c w = some (p.2 c w)) ∧
    ∀ c w s, ∃ act bad, exec (p.2 c w) s = .next (issueWord p.1 c w s act bad) := by
  intro p hp
  simp only [sequencerRows, List.mem_cons, List.not_mem_nil, or_false] at hp
  rcases hp with rfl | rfl | rfl | rfl | rfl | rfl | rfl | rfl | rfl | rfl | rfl | rfl | rfl | rfl <;>
  exact ⟨fun _ _ => rfl, fun c w h => by simp only [decodeSequencer, h], fun c w s => ⟨_, _, rfl⟩⟩

section
variable {s : State} {c : CoreId} {w : BitVec 128} {op : Nat} {act : BitVec 128 → State → Option (Option Flt × State)} {bad : BitVec 128 → State → Bool}

/-- A reserved OP faults as the word is decoded (R163). -/
theorem issueWord_reserved (hc : canIssue s c = true) (hf : fetchFault s c true = none) (hr : reservedOp w = true) :
    issueWord op c w s act bad = faultCore s c w seqInvalid := by
  unfold issueWord
  simp [hc, hf, hr]

theorem reservedOp_eq_false (h : SequencerReady s c op w) (hop : op ≠ 0) (hop' : op ≠ 3) : reservedOp w = false := by
  obtain ⟨-, -, hw, -⟩ := h
  simp [reservedOp, hw, hop, hop']

/-- A word whose field condition fails faults as it is decoded (R164). -/
theorem issueWord_bad (h : SequencerReady s c op w) (hr : reservedOp w = false) (hb : bad w s = true) :
    issueWord op c w s act bad = faultCore s c w seqInvalid := by
  obtain ⟨hc, hf, rfl, -⟩ := h
  unfold issueWord
  simp [hc, hf, hr, put_fld, hb]

/-- A word whose action faults. -/
theorem issueWord_faults {t : State} {f : Flt} (h : SequencerReady s c op w) (hr : reservedOp w = false) (hb : bad w s = false)
    (hx : act w s = some (some f, t)) : issueWord op c w s act bad = faultCore t c w f := by
  obtain ⟨hc, hf, rfl, hh⟩ := h
  unfold issueWord
  simp [hc, hf, hr, put_fld, hb, hh, hx]

/-- A word whose action faults nothing moves the program index past itself. -/
theorem issueWord_steps {t : State} (h : SequencerReady s c op w) (hr : reservedOp w = false) (hb : bad w s = false)
    (hx : act w s = some (none, t)) : issueWord op c w s act bad = stepPc t c 2 := by
  obtain ⟨hc, hf, rfl, hh⟩ := h
  unfold issueWord
  simp [hc, hf, hr, put_fld, hb, hh, hx]

end

/-! ### KSET (R168, R169) -/

/-- A core entry with its fields rewritten under the mask. -/
def ksetEntry (w e : BitVec 128) : BitVec 128 :=
  let e := if bit w 10 then put e 2 5 (fld w 16 5) else e
  let e := if bit w 11 then put e 7 7 (fld w 21 7) else e
  let e := if bit w 12 then put e 32 32 (if bit w 15 then CE.offset e + fld w 32 32 else fld w 32 32) else e
  let e := if bit w 13 then put e 64 32 (fld w 64 32) else e
  if bit w 14 then put e 96 16 (fld w 96 16) else e

/-- A field put under a condition, as it reads afterwards. -/
theorem fld_ite_put_same {e : BitVec 128} (p : Bool) (lo n x : Nat) (h : lo + n ≤ 128) :
    fld (if p then put e lo n x else e) lo n = if p then x % 2 ^ n else fld e lo n := by
  cases p
  · rfl
  · exact fld_put_same e lo n x h

theorem fld_ite_put_apart {e : BitVec 128} (p : Bool) {lo n lo' n' : Nat} (x : Nat) (h : lo' + n' ≤ lo ∨ lo + n ≤ lo') :
    fld (if p then put e lo n x else e) lo' n' = fld e lo' n' := by
  cases p
  · rfl
  · exact fld_put_apart e lo n lo' n' x h

/-- KSET rewrites the fields of its mask and no other bit. -/
theorem fld_ksetEntry (w e : BitVec 128) :
    fld (ksetEntry w e) 2 5 = (if bit w 10 then fld w 16 5 else fld e 2 5) ∧
    fld (ksetEntry w e) 7 7 = (if bit w 11 then fld w 21 7 else fld e 7 7) ∧
    fld (ksetEntry w e) 32 32 = (if bit w 12 then (if bit w 15 then (fld e 32 32 + fld w 32 32) % 2 ^ 32 else fld w 32 32) else fld e 32 32) ∧
    fld (ksetEntry w e) 64 32 = (if bit w 13 then fld w 64 32 else fld e 64 32) ∧
    fld (ksetEntry w e) 96 16 = (if bit w 14 then fld w 96 16 else fld e 96 16) ∧
    fld (ksetEntry w e) 0 2 = fld e 0 2 ∧ fld (ksetEntry w e) 14 18 = fld e 14 18 ∧ fld (ksetEntry w e) 112 16 = fld e 112 16 := by
  have hw : ∀ lo n, fld w lo n % 2 ^ n = fld w lo n := fun lo n => Nat.mod_mod ..
  unfold ksetEntry
  dsimp only
  refine ⟨?_, ?_, ?_, ?_, ?_, ?_, ?_, ?_⟩
  · rw [fld_ite_put_apart _ _ (by omega), fld_ite_put_apart _ _ (by omega), fld_ite_put_apart _ _ (by omega), fld_ite_put_apart _ _ (by omega),
      fld_ite_put_same _ _ _ _ (by omega), hw]
  · rw [fld_ite_put_apart _ _ (by omega), fld_ite_put_apart _ _ (by omega), fld_ite_put_apart _ _ (by omega),
      fld_ite_put_same _ _ _ _ (by omega), fld_ite_put_apart _ _ (by omega), hw]
  · rw [fld_ite_put_apart _ _ (by omega), fld_ite_put_apart _ _ (by omega), fld_ite_put_same _ _ _ _ (by omega), CE.offset,
      fld_ite_put_apart _ _ (by omega), fld_ite_put_apart _ _ (by omega)]
    by_cases h : bit w 15 = true
    · rw [if_pos h, if_pos h]
    · rw [if_neg h, if_neg h, hw]
  · rw [fld_ite_put_apart _ _ (by omega), fld_ite_put_same _ _ _ _ (by omega), fld_ite_put_apart _ _ (by omega), fld_ite_put_apart _ _ (by omega),
      fld_ite_put_apart _ _ (by omega), hw]
  · rw [fld_ite_put_same _ _ _ _ (by omega), fld_ite_put_apart _ _ (by omega), fld_ite_put_apart _ _ (by omega), fld_ite_put_apart _ _ (by omega),
      fld_ite_put_apart _ _ (by omega), hw]
  all_goals
    rw [fld_ite_put_apart _ _ (by omega), fld_ite_put_apart _ _ (by omega), fld_ite_put_apart _ _ (by omega), fld_ite_put_apart _ _ (by omega),
      fld_ite_put_apart _ _ (by omega)]

theorem ksetWord_eq {s : State} {c : CoreId} {w : BitVec 128} (hv : CE.valid (Tab.get 0 (s.core c).keys (fld w 4 6)) = true)
    (hf : bit w 10 = true → fld w 16 5 < 0x12) : ksetWord w s c = some (none, s.setCore c
      { s.core c with keys := Tab.set 0 (s.core c).keys (fld w 4 6) (ksetEntry w (Tab.get 0 (s.core c).keys (fld w 4 6))) }) := by
  have hc : ¬ (bit w 10 && decide (0x12 ≤ fld w 16 5)) = true := by
    rw [Bool.and_eq_true, decide_eq_true_iff]
    exact fun h => absurd (hf h.1) (by omega)
  have hv' : ¬ (!CE.valid (Tab.get 0 (s.core c).keys (fld w 4 6))) = true := by
    rw [hv]
    decide
  exact (if_neg hc).trans (if_neg hv')

/-! ### SEQJ (R230) -/

/-- The core after a counted jump. -/
theorem seqjWord_counts (s : State) (c : CoreId) {w : BitVec 128} (h : bit w 4 = false) :
    let k := s.core c
    let v := Tab.get 0 k.loops (fld w 5 2) + 1
    ∃ n : Core, seqjWord w s c = some (none, s.setCore c n) ∧
      n = { k with vregs := n.vregs, loops := n.loops, pc := n.pc } ∧
      n.pc + 2 = (if v.toNat < fld w 32 32 then BitVec.ofNat 16 (fld w 16 16) else k.pc + 2) ∧
      n.loops = Tab.set 0 k.loops (fld w 5 2) (if v.toNat < fld w 32 32 then v else 0) ∧
      n.vregs = (k.setLane (fld w 64 6) (fld w 70 7) v.toNat).vregs := by
  intro k v
  by_cases hv : v.toNat < fld w 32 32
  · refine ⟨{ k.setLane (fld w 64 6) (fld w 70 7) v.toNat with
      loops := Tab.set 0 k.loops (fld w 5 2) v, pc := BitVec.ofNat 16 (fld w 16 16) - 2 }, ?_, rfl, ?_, ?_, rfl⟩
    · exact (if_neg (by simp [h])).trans (if_pos hv)
    · rw [if_pos hv, BitVec.sub_add_cancel]
    · rw [if_pos hv]
  · refine ⟨{ k.setLane (fld w 64 6) (fld w 70 7) v.toNat with loops := Tab.set 0 k.loops (fld w 5 2) 0 }, ?_, rfl, ?_, ?_, rfl⟩
    · exact (if_neg (by simp [h])).trans (if_neg hv)
    · rw [if_neg hv]
      rfl
    · rw [if_neg hv]

/-! ### WCLAIM (R184, R185) -/

theorem wclaimWord_eq {s u : State} {c : CoreId} {w : BitVec 128} {a v : Nat} (hb : wclaimBad w s c = false)
    (hr : (capture s (some c) (BitVec.ofNat 16 (fld w 32 16))).refuse s.grid.ctx pFADD none = none)
    (ha : (capture s (some c) (BitVec.ofNat 16 (fld w 32 16))).addr (fld w 48 32 / 128) = some a)
    (h : claimRow (markSeen s s.grid.ctx (capture s (some c) (BitVec.ofNat 16 (fld w 32 16))) pFADD) a (fld w 48 32 % 128) (fld w 80 16)
      (fld w 96 32) = (some v, u)) :
    wclaimWord w s c = some (none, u.setCore c ((u.core c).setLane (fld w 4 6) (fld w 10 7) v)) := by
  simp only [wclaimWord, hb, Bool.false_eq_true, if_false, begin'_passes hr, ha, h]

/-- Settles O32: each word by its action; a reserved OP and a failing field condition fault before it. -/
theorem sequencerWords : Obligations.SequencerWords := by
  unfold Obligations.SequencerWords
  intro s u c w k
  refine ⟨fun p hp => ⟨fun h => ?_, fun h => ?_⟩, fun p hp hc hf hr => ?_, fun h => ?_, fun h h10 hfm => ?_, fun h hv hfm => ?_,
    fun h => ⟨fun h4 => ?_, fun h4 => ?_⟩, fun h => ?_, fun hm => next_congr (if_neg (Nat.ne_of_gt hm)), fun a v h => ?_, fun h => ?_⟩
  · obtain ⟨hop, -, -⟩ := sequencerRows_exec p hp
    exact (sequencerOp_of_decode h).symm.trans (hop c w)
  · obtain ⟨-, hdec, -⟩ := sequencerRows_exec p hp
    exact hdec c w h
  · obtain ⟨-, -, hexec⟩ := sequencerRows_exec p hp
    obtain ⟨act, bad, e⟩ := hexec c w s
    rw [e, issueWord_reserved hc hf (by simpa [reservedOp] using hr)]
    rfl
  · intro i e hv hf
    exact ⟨_, next_congr (issueWord_done h (reservedOp_eq_false h (by decide) (by decide)) rfl (ksetWord_eq hv hf)), fld_ksetEntry w e⟩
  · refine next_congr (issueWord_faults (f := seqInvalid) (t := s) h (reservedOp_eq_false h (by decide) (by decide)) rfl ?_)
    exact if_pos (by simp [h10, hfm])
  · refine next_congr (issueWord_faults (t := s) h (reservedOp_eq_false h (by decide) (by decide)) rfl ?_)
    refine (if_neg ?_).trans (if_pos (by rw [show CE.valid (Tab.get 0 (s.core c).keys (fld w 4 6)) = false from hv]; rfl))
    rw [Bool.and_eq_true, decide_eq_true_iff]
    exact fun h => absurd (hfm h.1) (by omega)
  · exact next_congr (issueWord_done h (reservedOp_eq_false h (by decide) (by decide)) rfl (if_pos h4))
  · intro v
    obtain ⟨n, e, hn, hpc, hl, hr⟩ := seqjWord_counts s c h4
    refine ⟨{ n with pc := n.pc + 2, stall := none, heldBy := [] },
      next_congr (issueWord_done h (reservedOp_eq_false h (by decide) (by decide)) rfl e), ?_, hpc, ?_, fun i hi => ?_, ?_, fun r l hl' hne => ?_⟩
    · rw [hn]
    · show Tab.get 0 n.loops (fld w 5 2) = _
      rw [hl, Tab.get_set_same]
    · show Tab.get 0 n.loops i = _
      rw [hl, Tab.get_set_ne _ _ _ hi]
    · show fld (Tab.get 0 n.vregs (fld w 64 6)) (32 * fld w 70 7) 32 = _
      rw [hr]
      refine (Core.lane_setLane_same k _ _ (Nat.mod_lt _ (by decide))).trans (Nat.mod_eq_of_lt (BitVec.isLt _))
    · show fld (Tab.get 0 n.vregs r) (32 * l) 32 = _
      rw [hr]
      exact Core.lane_setLane_ne k _ hne
  · intro b
    refine ⟨fun hm hcopy => next_congr (issueWord_done h (reservedOp_eq_false h (by decide) (by decide)) rfl ?_), fun hm =>
      next_congr (issueWord_stalls h (reservedOp_eq_false h (by decide) (by decide)) rfl (if_pos hm))⟩
    refine (if_neg (Nat.not_le.2 hm)).trans ?_
    dsimp only
    rw [hcopy]
  · intro cap i h1 h2 h3 h4 hr ha hv
    have hb : wclaimBad w s c = false := by
      have h3' : (capture s (some c) (BitVec.ofNat 16 (fld w 32 16))).isLocal = false := h3
      have h4' : (capture s (some c) (BitVec.ofNat 16 (fld w 32 16))).tier = 1 := h4
      simp [wclaimBad, h1, h2, h3', h4']
    exact next_congr (issueWord_done h (reservedOp_eq_false h (by decide) (by decide)) hb (wclaimWord_eq hb hr ha hv))
  · intro cap hbad
    refine next_congr (issueWord_bad (bad := fun w s => wclaimBad w s c) h (reservedOp_eq_false h (by decide) (by decide)) ?_)
    rcases hbad with hb | hb | ⟨hv, hb | hb⟩
    · simp [wclaimBad, hb]
    · simp [wclaimBad, hb]
    · simp [wclaimBad, show (capture s (some c) (BitVec.ofNat 16 (fld w 32 16))).valid = true from hv,
        show (capture s (some c) (BitVec.ofNat 16 (fld w 32 16))).isLocal = true from hb]
    · simp [wclaimBad, show (capture s (some c) (BitVec.ofNat 16 (fld w 32 16))).valid = true from hv,
        show (capture s (some c) (BitVec.ofNat 16 (fld w 32 16))).tier ≠ 1 from hb]

/-! ### The array's queue (R114 to R126) -/

section
variable {s u : State} {c : CoreId} {o : ArrayOp} {rest : List ArrayOp}

theorem pushArray_bad (h : arrayOk (s.core c) c o = false) : pushArray s c o = some (some ⟨St.arrayOperandInvalid, {}⟩, s) :=
  if_pos (by rw [h]; rfl)

theorem pushArray_full (h : arrayOk (s.core c) c o = true) (hn : ¬ (AW.op o.word = 2 ∧ AW.count o.word = 0)) (hf : 4 ≤ (s.core c).arrayQ.length) :
    pushArray s c o = none :=
  (if_neg (by rw [h]; decide)).trans ((if_neg hn).trans (if_pos hf))

theorem pushArray_joins (h : arrayOk (s.core c) c o = true) (hn : ¬ (AW.op o.word = 2 ∧ AW.count o.word = 0)) (hf : (s.core c).arrayQ.length < 4) :
    pushArray s c o = some (none, s.setCore c ((s.core c).push o)) :=
  (if_neg (by rw [h]; decide)).trans ((if_neg hn).trans (if_neg (Nat.not_le.2 hf)))

/-- An MMUL of no vectors does nothing (log 121). -/
theorem pushArray_none (h : arrayOk (s.core c) c o = true) (hn : AW.op o.word = 2 ∧ AW.count o.word = 0) : pushArray s c o = some (none, s) :=
  (if_neg (by rw [h]; decide)).trans (if_pos hn)

/-- The load at the head fills its set once nothing in flight names it (R115, R126). -/
theorem completeLoad_head {gs : List (List Nat × List Nat)} (hq : (s.core c).arrayQ = o :: rest) (hop : AW.op o.word = 1)
    (hf : ∀ f ∈ (s.core c).flight, f.set ≠ AW.set o.word)
    (hr : readSegs o (AW.len o.word) 0 (if AW.len o.word = 0 then 0 else AW.count o.word)
      (s.setCore c { ((s.core c).setStat (AW.set o.word) {}) with arrayQ := rest }) = (.ok gs, u)) :
    completeLoad s c = u.setCore c ((u.core c).setStat (AW.set o.word) (loadSet o gs)) := by
  have hfirst : splitFirst (fun o => AW.op o.word == 1) (s.core c).arrayQ = some ([], o, rest) := by
    rw [hq]
    exact splitFirst_cons_of_pos rest (by simp [hop])
  have hany : ((s.core c).flight.any fun f => f.set == AW.set o.word) = false := by simpa using hf
  simp only [completeLoad, hfirst, List.any_nil, hany, Bool.or_self, Bool.false_eq_true, if_false, List.nil_append, hr]

theorem completeLoad_waits (hq : (s.core c).arrayQ = o :: rest) (hop : AW.op o.word = 1)
    (hf : ∃ f ∈ (s.core c).flight, f.set = AW.set o.word) : completeLoad s c = s := by
  have hfirst : splitFirst (fun o => AW.op o.word == 1) (s.core c).arrayQ = some ([], o, rest) := by
    rw [hq]
    exact splitFirst_cons_of_pos rest (by simp [hop])
  have hany : ((s.core c).flight.any fun f => f.set == AW.set o.word) = true := by simpa using hf
  simp only [completeLoad, hfirst, hany, Bool.or_true, if_true]

theorem issueNext_head (hq : (s.core c).arrayQ = o :: rest) (hop : AW.op o.word = 2) (parity : Bool) : issueNext s c parity =
    if ((s.core c).statSet (AW.set o.word)).valid = false then s
    else if parity then faultCore s c o.word ⟨St.operandParity, {}⟩
    else
      match readSeg s o (o.first + o.issued * o.stride) (AW.len o.word) with
      | (.error f, t) => faultCore (commitAll t c) c o.word f
      | (.ok (el, sc, rows), t) => t.setCore c { t.core c with
          arrayQ := (if o.issued + 1 = AW.count o.word then rest else { o with issued := o.issued + 1, seen := rows } :: rest)
          flight := (if (AW.len o.word = 0 ∧ (AW.accMode o.word = 1 ∨ AW.accMode o.word = 3)) ∨ ((s.core c).statSet (AW.set o.word)).nv = 0
            then (t.core c).flight
            else (t.core c).flight ++ [{
              elems := packElems el, scales := packScales sc, set := AW.set o.word, accMode := AW.accMode o.word,
              entry := AW.accBase o.word + o.issued, len := AW.len o.word, fmt := BitVec.ofNat 5 (AW.fmt o.word),
              stat := (s.core c).statSet (AW.set o.word), cols := List.range ((s.core c).statSet (AW.set o.word)).nv }])
          vectors := (t.core c).vectors + 1 } := by
  have hfirst : splitFirst (fun o => AW.op o.word == 2) (s.core c).arrayQ = some ([], o, rest) := by
    rw [hq]
    exact splitFirst_cons_of_pos rest (by simp [hop])
  simp only [issueNext, hfirst, List.any_nil, Bool.false_or, List.nil_append, Bool.not_eq_true'] <;> rfl

end

/-- Settles O33: the word joins the queue after its checks; the head of the queue completes or issues. -/
theorem arrayQueues : Obligations.ArrayQueues := by
  unfold Obligations.ArrayQueues
  intro s u c w o rest k op
  refine ⟨fun h => ?_, fun h => ?_, fun hlive htile hq => ?_⟩
  · have hop : AW.op op.word = 1 := h.2.2.1
    have hn : ¬ (AW.op op.word = 2 ∧ AW.count op.word = 0) := by simp [hop]
    have hr := reservedOp_eq_false h (by decide) (by decide)
    refine ⟨fun hok hl => next_congr (issueWord_done h hr rfl ?_), fun hok hl => next_congr (issueWord_stalls h hr rfl (pushArray_full hok hn hl)),
      fun hok => next_congr (issueWord_faults h hr rfl (pushArray_bad hok))⟩
    rw [pushArray_joins hok hn hl, Core.push, if_pos hop]
    rfl
  · have hop : AW.op op.word = 2 := h.2.2.1
    have hr := reservedOp_eq_false h (by decide) (by decide)
    refine ⟨fun hok hc hl => next_congr (issueWord_done h hr rfl ?_),
      fun hok hc hl => next_congr (issueWord_stalls h hr rfl (pushArray_full hok (fun hx => hc hx.2) hl)),
      fun hok hc => next_congr (issueWord_steps h hr rfl (pushArray_none hok ⟨hop, hc⟩)),
      fun hok => next_congr (issueWord_faults h hr rfl (pushArray_bad hok))⟩
    rw [pushArray_joins hok (fun hx => hc hx.2) hl, Core.push, if_neg (by rw [hop]; decide)]
  · have hidle : pumpTile s c = s := pumpTile_of_idle htile
    refine ⟨fun gs hop hf hr ht => next_congr ?_, fun hop hf => next_congr ?_, fun hop hv parity => next_congr ?_, fun hop hv => ⟨next_congr ?_, ?_⟩⟩
    · refine (if_pos hlive).trans ?_
      rw [completeLoad_head hq hop hf hr]
      refine pumpTile_of_idle ?_
      rw [State.core_setCore_same, Core.setStat]
      split <;> exact ht
    · refine (if_pos hlive).trans ?_
      rw [completeLoad_waits hq hop hf, hidle]
    · refine (if_pos hlive).trans ?_
      rw [issueNext_head hq hop, if_pos hv, hidle]
    · refine (if_pos hlive).trans ?_
      rw [issueNext_head hq hop, if_neg (ne_false_of_eq_true hv), if_pos rfl]
    · intro el sc seen hr ht st
      refine next_congr ((if_pos hlive).trans ?_)
      rw [issueNext_head hq hop, if_neg (ne_false_of_eq_true hv), if_neg (by decide), hr]
      refine pumpTile_of_idle ?_
      rw [State.core_setCore_same]
      exact ht

end Sys2Proof.Machine
end

section
/-!
LEMMA. Channel words and the stash (O35).
-/
namespace Sys2Proof.Machine

/-! ### What traffic of streams and channels leaves of a core -/

namespace LinkTraffic

theorem flushStream (s : State) (n : Nat) : LinkTraffic (s.setStream n { s.stream n with out := [] }) (flushStream s n) := by
  unfold Machine.flushStream
  refine foldl (fun t bs => ?_) _ _
  dsimp only
  split
  · exact countDrop t none
  · split
    · exact countDrop t none
    · exact pushFlits t _ _

end LinkTraffic

theorem cores_streamRecords (s : State) (n : Nat) (bs : List Byte) : (streamRecords s n bs).cores = s.cores := by
  obtain ⟨-, h, -⟩ := (LinkTraffic.flushStream (s.setStream n { s.stream n with out := (s.stream n).out ++ bs }) n).rest
  exact h

theorem cores_streamPop (s : State) (n : Nat) : (streamPop s n).cores = s.cores := by
  unfold streamPop
  dsimp only
  split
  · unfold streamCredit
    dsimp only
    split
    · rfl
    · rw [cores_streamRecords]
      rfl
  · rfl

theorem core_creditBack (s : State) (c : CoreId) (p v : Nat) (d : CoreId) :
    ∃ cb, (creditBack s c p v).core d = { s.core d with creditsBack := cb } := by
  unfold creditBack
  split
  · exact ⟨(s.core d).creditsBack, rfl⟩
  next e ch h =>
    by_cases hd : d = e
    · subst hd
      exact ⟨_, State.core_setCore_same ..⟩
    · exact ⟨(s.core d).creditsBack, State.core_setCore_ne _ _ _ _ hd⟩

/-- A head that leaves its queue changes the queues and the credits on their way back, and nothing else of its core (R216). -/
theorem core_chPop (s : State) (c : CoreId) (ch : Nat) :
    ∃ rx cb, (chPop s c ch).core c = { s.core c with rxq := rx, creditsBack := cb } := by
  unfold chPop
  dsimp only
  split
  · refine ⟨(s.core c).rxq, (s.core c).creditsBack, ?_⟩
    rw [State.core, cores_streamPop]
    rfl
  · split
    · exact ⟨_, (s.core c).creditsBack, State.core_setCore_same ..⟩
    · obtain ⟨cb, h⟩ := core_creditBack (s.setCore c { s.core c with rxq := Tab.set [] (s.core c).rxq ch ((Tab.get [] (s.core c).rxq ch).drop 1) }) c
        (CH.port ((s.core c).chan ch)) (CH.vc ((s.core c).chan ch)) c
      rw [State.core_setCore_same] at h
      exact ⟨_, cb, h⟩

/-! ### Receives -/

/-- A core that may issue waits for nothing, and runs no deferred work (R242). -/
theorem canIssue_free {s : State} {c : CoreId} (h : canIssue s c = true) :
    (s.core c).waiting = 0 ∧ ((s.core c).tile.any fun t => t.deferred) = false := by
  simp only [canIssue, Bool.and_eq_true, beq_iff_eq] at h
  obtain ⟨⟨⟨⟨⟨-, -⟩, -⟩, hw⟩, -⟩, ht⟩ := h
  refine ⟨hw, ?_⟩
  cases htile : (s.core c).tile with
  | none => rfl
  | some t => simpa [htile] using ht

theorem endWait_free {k : Core} (h : k.waiting = 0) : endWait k = k := by
  simp [endWait, h]

/-- Tokens that a table of queues holds bound those of one queue. -/
theorem length_get_le_sum {α : Type} (t : Tab (List α)) (i : Nat) : (Tab.get [] t i).length ≤ (t.map fun q => q.2.length).sum := by
  induction t with
  | nil => simp [Tab.get]
  | cons p t ih =>
    rw [Tab.get, List.map_cons, List.sum_cons]
    split
    · omega
    · omega

theorem length_get_buf_le_sum (t : Tab Stream) (i : Nat) : (Tab.get {} t i).buf.length ≤ (t.map fun q => q.2.buf.length).sum := by
  induction t with
  | nil => simp [Tab.get]
  | cons p t ih =>
    rw [Tab.get, List.map_cons, List.sum_cons]
    split
    · omega
    · omega

/-- A channel with a token at its head has one among those held. -/
theorem held_of_chHead {s : State} {c : CoreId} {ch : Nat} {x : Token} (h : chHead s c ch = some x) :
    1 ≤ ((s.core c).rxq.map fun q => q.2.length).sum + (s.streams.map fun q => q.2.buf.length).sum := by
  unfold chHead at h
  dsimp only at h
  split at h
  · split at h
    · cases h
    · split at h
      · cases h
      next hb =>
        have hs := length_get_buf_le_sum s.streams (CH.stream ((s.core c).chan ch))
        have hb' : (s.stream (CH.stream ((s.core c).chan ch))).buf ≠ [] := by simpa using hb
        have := List.length_pos_iff.2 hb'
        rw [State.stream] at this
        omega
  · have hs := length_get_le_sum (s.core c).rxq ch
    have := List.length_pos_iff.2 (List.ne_nil_of_mem (List.mem_of_mem_head? h))
    omega

/-- The only receive of a core, whose channel holds nothing, stays outstanding. -/
theorem runRecvs_waits {s : State} {c : CoreId} {o : RecvOp} (hr : (s.core c).recvs = [o]) (hw : (s.core c).waiting = 0)
    (hn : recvStep s c o = .wait) : runRecvs s c = s.setCore c (s.core c) := by
  unfold runRecvs
  dsimp only
  rw [hr, List.length_singleton]
  generalize ((s.core c).rxq.map fun q => q.2.length).sum + (s.streams.map fun q => q.2.buf.length).sum = n
  have hlast : ∀ m, pumpRecvs c (m + 1) ([] ++ [o]) [] s = s.setCore c (s.core c) := fun m => by
    rw [pumpRecvs, List.nil_append, show ({ s.core c with recvs := [o] } : Core) = s.core c by rw [← hr], endWait_free hw]
  rw [pumpRecvs]
  split
  · exact hlast n
  · rw [hn]
    exact hlast n

/-- A receive of a register takes the two halves at the head of its channel at once (R200, R204). -/
theorem runRecvs_register {s : State} {c : CoreId} {o : RecvOp} {a b : Token} (hr : (s.core c).recvs = [o]) (hw : (s.core c).waiting = 0)
    (ht : ((s.core c).tile.any fun t => t.deferred) = false) (hrows : o.rows = 0) (hhalf : o.half = none)
    (hkind : CW.kind o.word = true) (heot : CW.eot o.word = false) (hcount : CW.count o.word = 1)
    (ha : chHead s c (CW.chan o.word) = some a) (hb : chHead (chPop s c (CW.chan o.word)) c (CW.chan o.word) = some b)
    (hda : a.isData = true) (hha : a.half = false) (hdb : b.isData = true) (hhb : b.half = true) :
    let v := chPop (chPop s c (CW.chan o.word)) c (CW.chan o.word)
    runRecvs s c = v.setCore c { (v.core c).setVreg (CW.row o.word % 64)
      (BitVec.ofNat 4096 (a.payload.toNat ||| (b.payload.toNat <<< 2048))) with recvs := [] } := by
  intro v
  obtain ⟨rx, cb, e1⟩ := core_chPop s c (CW.chan o.word)
  obtain ⟨rx', cb', e2⟩ := core_chPop (chPop s c (CW.chan o.word)) c (CW.chan o.word)
  rw [e1] at e2
  obtain ⟨m, hm⟩ := Nat.exists_eq_add_of_le (held_of_chHead ha)
  have hheld : ∀ (k : Core) (x : RecvOp), k.tile = (s.core c).tile → recvHeld k x = false := fun k x hk => by
    rw [recvHeld, hk, ht, Bool.and_false]
  have hnone : ∀ x : RecvOp, (([] : List RecvOp).any fun y => CW.chan y.word == CW.chan x.word) = false := fun _ => rfl
  have step1 : recvStep s c o = .go { o with half := some a.payload } (chPop s c (CW.chan o.word)) := by
    simp [recvStep, heot, hcount, hrows, hhalf, ha, hda, hha]
  have step2 : recvStep (chPop s c (CW.chan o.word)) c { o with half := some a.payload } = .complete (v.setCore c ((v.core c).setVreg
      (CW.row o.word % 64) (BitVec.ofNat 4096 (a.payload.toNat ||| (b.payload.toNat <<< 2048))))) := by
    simp [recvStep, recvRow, heot, hcount, hrows, hb, hdb, hhb, hkind, v]
  unfold runRecvs
  dsimp only
  rw [hr, List.length_singleton, hm, show 1 + m + 1 + 1 = m + 1 + 1 + 1 by omega, pumpRecvs, hheld _ _ rfl, hnone, if_neg (by decide), step1]
  dsimp only
  rw [pumpRecvs, hheld _ _ (by rw [e1]), hnone, if_neg (by decide), step2]
  dsimp only
  rw [pumpRecvs, State.core_setCore_same, State.setCore_setCore]
  refine congrArg (v.setCore c) (endWait_free ?_)
  show (v.core c).waiting = 0
  rw [e2]
  exact hw

/-! ### Channel words (R204 to R210) -/

theorem rowWordBad_false {s : State} {c : CoreId} {w : BitVec 128} {send : Bool} (hch : chanOk (s.core c) (CW.chan w) send = true)
    (hk : CW.kind w = true → CW.count w = 1)
    (hc : CW.kind w = false → (capture s (some c) (CW.handle w)).valid = true → ownEntry c (capture s (some c) (CW.handle w)) = true) :
    rowWordBad send w s c = false := by
  cases hkind : CW.kind w
  · cases hv : (capture s (some c) (CW.handle w)).valid
    · simp [rowWordBad, hch, hkind, hv]
    · simp [rowWordBad, hch, hkind, hc hkind hv]
  · simp [rowWordBad, hch, hkind, hk hkind]

theorem rowWordBad_chan {s : State} {c : CoreId} {w : BitVec 128} {send : Bool} (hch : chanOk (s.core c) (CW.chan w) send = false) :
    rowWordBad send w s c = true := by
  simp [rowWordBad, hch]

theorem rowTokens_ne_nil (tag : Nat) {rows : List Row} (h : rows ≠ []) :
    ((rows.zipIdx).flatMap fun r => rowTokens (tag + r.2) r.1).isEmpty = false := by
  obtain ⟨r, t, rfl⟩ := List.exists_cons_of_ne_nil h
  rfl

/-- The state after a channel word whose effect leaves the state t. -/
theorem stepPc_eq (t : State) (c : CoreId) : stepPc t c 2 = sequencerDone t c (t.core c) := rfl

theorem csend_rows {s u : State} {c : CoreId} {w : BitVec 128} {rows : List Row} (hb : rowWordBad true w s c = false)
    (hl : (s.core c).sends.length < 4) (ho : tileOwns (s.core c) (CW.chan w) = false) (hn : CW.count w ≠ 0) (hrows : rows ≠ [])
    (hk : CW.kind w = true → rows = [(s.core c).vreg (CW.row w % 64)] ∧ u = s)
    (hr : CW.kind w = false → accessRead s s.grid.ctx (capture s (some c) (CW.handle w)) none (CW.row w) (CW.count w) = (rows, none, u)) :
    let ts := (rows.zipIdx).flatMap fun r => rowTokens (CW.tag w + r.2) r.1
    let t := queueTokens (u.setCore c { u.core c with
      sends := (u.core c).sends ++ [(CW.chan w, foreignTokens (u.core c) (CW.chan w) + ts.length, CW.wait w)] }) c (CW.chan w) ts
    csend w s c = some (none, t.setCore c { t.core c with waiting := if (t.core c).sends.any (fun x => x.2.2) then 4 else (t.core c).waiting }) := by
  intro ts t
  have hts : ts.isEmpty = false := rowTokens_ne_nil _ hrows
  have hread : (if CW.kind w then ([(s.core c).vreg (CW.row w % 64)], none, s)
      else accessRead s s.grid.ctx (capture s (some c) (CW.handle w)) none (CW.row w) (CW.count w)) = (rows, none, u) := by
    cases hkind : CW.kind w
    · exact hr hkind
    · obtain ⟨rfl, rfl⟩ := hk hkind
      rfl
  have hstall : ¬ (4 ≤ (s.core c).sends.length ∨ tileOwns (s.core c) (CW.chan w) = true) := by
    rw [ho]
    simp [hl]
  simp only [csend, hb, Bool.false_eq_true, if_false, if_neg hstall, if_neg hn, hread]
  rw [show (List.flatMap (fun r => rowTokens (CW.tag w + r.2) r.1) rows.zipIdx) = ts from rfl, hts]
  rfl

/-! ### The stash (R245 to R249) -/

/-- What a STASH word may name: rows in a core's own or chip memory, a buffer beyond them, and a mode that the rows' format has. -/
theorem stashBad_eq_false_iff (w : BitVec 128) (s : State) (c : CoreId) :
    let a := capture s (some c) (SH.rowsHandle w)
    let b := capture s (some c) (SH.bufHandle w)
    stashBad w s c = false ↔ (a.valid = true → a.tier ≤ 1) ∧ (b.valid = true → b.isLocal = false ∧ 2 ≤ b.tier) ∧
      (SH.dirIn w = false → SH.mode w ≤ 5 ∧ (2 ≤ SH.mode w → a.valid = true → 1 ≤ a.format ∧ a.format ≤ 3)) := by
  intro a b
  simp only [stashBad, Bool.or_eq_false_iff, Bool.and_eq_false_imp, decide_eq_false_iff_not, decide_eq_true_eq, Bool.not_eq_true',
    Bool.not_eq_false', Bool.and_eq_true, not_lt, and_assoc, and_imp]
  exact Iff.rfl

theorem stashWord_done {s u : State} {c : CoreId} {w : BitVec 128} (hb : stashBad w s c = false) (hl : (s.core c).stashes < 4)
    (h : (if SH.dirIn w then stashIn s c w (capture s (some c) (SH.rowsHandle w)) (capture s (some c) (SH.bufHandle w))
      else stashOut s c w (capture s (some c) (SH.rowsHandle w)) (capture s (some c) (SH.bufHandle w))) = (none, u)) :
    stashWord w s c = some (none, u.setCore c { u.core c with
      stashes := (u.core c).stashes + 1, waiting := if SH.wait w then 2 else (u.core c).waiting }) := by
  simp only [stashWord, hb, Bool.false_eq_true, if_false, if_neg (Nat.not_le.2 hl), h]

/-- The bytes of a raw record: its header, its 512 bytes, and zeros to whole sectors (R246). -/
theorem rawRecord_eq (r : Row) : rawRecord r = toBytes (word 32 [(0, 10, 512), (10, 1, 1)]) 4 ++ (toBytes r 512 ++ List.replicate 28 0) := by
  simp only [rawRecord, stashRecord, toBytes_length, List.length_append, b2n, List.append_assoc]
  rfl

theorem rawRecord_header (r : Row) : fld (BitVec.ofNat 32 (ofBytes ((rawRecord r).take 4))) 0 11 = 1024 + 512 := by
  rw [rawRecord_eq, List.take_left' (toBytes_length _ _), ofNat_ofBytes_toBytes _ (by decide)]
  decide

theorem rawRecord_decodes (m f : Nat) (r : Row) : decodeRecord m f true ((rawRecord r).drop 4 |>.take 512) = some r := by
  rw [rawRecord_eq, List.drop_left' (toBytes_length _ _), List.take_left' (toBytes_length _ _)]
  simp only [decodeRecord, if_true, toBytes_length]
  rw [ofNat_ofBytes_toBytes _ (by decide)]

/-- Settles O35: each channel word by what stands at its channel; a stash by where its rows and buffer lie. -/
theorem channelsAndStash : Obligations.ChannelsAndStash := by
  constructor
  case left =>
    intro s u c w k ch cap invalid
    refine ⟨fun h => ?_, fun h => ?_, fun h => ?_, fun h => ?_⟩
    · have hr := reservedOp_eq_false h (by decide) (by decide)
      refine ⟨fun hch => next_congr (issueWord_faults (f := seqInvalid) h hr rfl (if_pos (by rw [hch]; rfl))),
        fun hch hq ho hc => next_congr ((issueWord_steps h hr rfl ?_).trans (stepPc_eq _ c))⟩
      have hgo : ¬ (!(Tab.get [] (s.core c).txq (CW.chan w)).isEmpty || tileOwns (s.core c) (CW.chan w) || !chCredit s c (CW.chan w)) = true := by
        rw [show Tab.get [] (s.core c).txq (CW.chan w) = [] from hq, show tileOwns (s.core c) (CW.chan w) = false from ho,
          show chCredit s c (CW.chan w) = true from hc]
        decide
      exact (if_neg (by rw [hch]; decide)).trans (if_neg hgo)
    · have hr := reservedOp_eq_false h (by decide) (by decide)
      refine ⟨fun hch => next_congr (issueWord_faults (f := seqInvalid) h hr rfl (if_pos (by rw [hch]; rfl))), fun hch hfree => ?_⟩
      have hany : ((s.core c).recvs.any fun o => CW.chan o.word == CW.chan w) = false := by simpa using hfree
      have htake : ctake w s c = match chHead s c (CW.chan w) with
          | none => none
          | some t => if (if fld w 5 2 = 3 then t.isDone else t.isControl && t.ckind == fld w 5 2) then
              some (none, (chPop s c (CW.chan w)).setCore c (((chPop s c (CW.chan w)).core c).setLane (fld w 32 6) (fld w 38 7)
                (if t.isDone then fld t.payload 0 16 else fld t.payload 0 32)))
            else some (some ⟨St.tokenMismatch, { index := CW.chan w }⟩, s) :=
        (if_neg (by rw [hch]; decide)).trans (if_neg (by rw [hany]; decide))
      refine ⟨fun hn => next_congr (issueWord_stalls h hr rfl (by rw [htake, show chHead s c (CW.chan w) = none from hn])), fun x hx => ?_⟩
      have hx' : chHead s c (CW.chan w) = some x := hx
      rw [hx'] at htake
      exact ⟨fun hw => next_congr (issueWord_done h hr rfl (htake.trans (if_pos hw))),
        fun hw => next_congr (issueWord_faults h hr rfl (htake.trans (if_neg (ne_true_of_eq_false hw))))⟩
    · have hr := reservedOp_eq_false h (by decide) (by decide)
      refine ⟨fun hch => next_congr (issueWord_bad (bad := fun w s => rowWordBad true w s c) h hr (rowWordBad_chan hch)), fun hch hk hc => ?_⟩
      have hb := rowWordBad_false hch hk hc
      refine ⟨fun hl => next_congr (issueWord_stalls h hr hb ?_), fun hl ho => ⟨fun hn => next_congr ((issueWord_steps h hr hb ?_).trans (stepPc_eq s c)),
        fun rows hn hrows hkind hread => next_congr (issueWord_done h hr hb (csend_rows hb hl ho hn hrows hkind hread))⟩⟩
      · exact (if_neg (by rw [hb]; decide)).trans (if_pos (.inl hl))
      · refine (if_neg (by rw [hb]; decide)).trans ((if_neg ?_).trans (if_pos hn))
        rw [show tileOwns (s.core c) (CW.chan w) = false from ho]
        exact fun hx => hx.elim (Nat.not_le.2 hl) (by decide)
    · have hr := reservedOp_eq_false h (by decide) (by decide)
      obtain ⟨hwait, htile⟩ := canIssue_free h.1
      refine ⟨fun hch => next_congr (issueWord_bad (bad := fun w s => rowWordBad false w s c) h hr (rowWordBad_chan hch)), fun hch hk hc => ?_⟩
      have hb := rowWordBad_false hch hk hc
      refine ⟨fun hl => next_congr (issueWord_stalls h hr hb ?_), fun hl hn => next_congr ((issueWord_steps h hr hb ?_).trans (stepPc_eq s c)),
        fun hl hn => ?_⟩
      · exact (if_neg (by rw [hb]; decide)).trans (if_pos hl)
      · exact (if_neg (by rw [hb]; decide)).trans ((if_neg (Nat.not_le.2 hl)).trans (if_pos hn))
      · intro q t
        have hqcore : q.core c = { k with recvs := k.recvs ++ [{ word := w, cap := cap }] } := State.core_setCore_same ..
        have hexec : exec (.crecv c w) s = .next (sequencerDone t c
            { t.core c with waiting := if (t.core c).recvs.any (fun o => CW.wait o.word) then 5 else (t.core c).waiting }) :=
          next_congr (issueWord_done h hr hb ((if_neg (by rw [hb]; decide)).trans ((if_neg (Nat.not_le.2 hl)).trans (if_neg hn))))
        clear_value q
        refine ⟨hexec, fun hnil hhead => ?_, fun a b hnil hkind heot ha hb' hda hha hdb hhb => ?_⟩
        · have hq : (q.core c).recvs = [{ word := w, cap := cap }] := by
            rw [hqcore, hnil]
            rfl
          have hw : (q.core c).waiting = 0 := by
            rw [hqcore]
            exact hwait
          have ht : t = q.setCore c (q.core c) := runRecvs_waits hq hw (by simp [recvStep, hn, show chHead q c (CW.chan w) = none from hhead])
          have htc : t.core c = q.core c := by
            rw [ht]
            exact State.core_setCore_same ..
          rw [hexec, htc, hq, hw, ht]
          simp only [sequencerDone, State.setCore_setCore, List.any_cons, List.any_nil, Bool.or_false]
        · have hq : (q.core c).recvs = [{ word := w, cap := cap }] := by
            rw [hqcore, hnil]
            rfl
          have hw : (q.core c).waiting = 0 := by
            rw [hqcore]
            exact hwait
          have htile' : ((q.core c).tile.any fun t => t.deferred) = false := by
            rw [hqcore]
            exact htile
          have ht := runRecvs_register (s := q) (o := { word := w, cap := cap }) hq hw htile' rfl rfl hkind heot (hk hkind) ha hb' hda hha hdb hhb
          intro v
          have htc : t.core c = { (v.core c).setVreg (CW.row w % 64) (BitVec.ofNat 4096 (a.payload.toNat ||| (b.payload.toNat <<< 2048))) with
              recvs := [] } :=
            (congrArg (fun x : State => x.core c) ht).trans (State.core_setCore_same ..)
          rw [hexec, htc, show t = _ from ht]
          simp only [sequencerDone, State.setCore_setCore, List.any_nil, Bool.false_eq_true, if_false]
          rfl
  case right =>
    refine ⟨fun s u c w => ?_, fun m f r => ⟨rawRecord_header r, rawRecord_decodes m f r⟩⟩
    intro k a b permitted after
    have hperm : stashBad w s c = false ↔ permitted := stashBad_eq_false_iff w s c
    refine ⟨fun h hp hl => ?_, fun h hp hl => ?_, fun h hp => ?_, fun hl => next_congr (if_neg (Nat.ne_of_gt hl))⟩
    · have hr := reservedOp_eq_false h (by decide) (by decide)
      have hb := hperm.2 hp
      refine ⟨fun hin hn => ?_, fun hin hx => ?_, fun hin hx => ?_⟩
      · exact next_congr (issueWord_done h hr hb (stashWord_done hb hl ((if_pos hin).trans (if_pos hn))))
      · exact next_congr (issueWord_done h hr hb (stashWord_done hb hl ((if_pos hin).trans hx)))
      · exact next_congr (issueWord_done h hr hb (stashWord_done hb hl ((if_neg (ne_true_of_eq_false hin)).trans hx)))
    · have hb := hperm.2 hp
      exact next_congr (issueWord_stalls h (reservedOp_eq_false h (by decide) (by decide)) hb
        ((if_neg (by rw [hb]; decide)).trans (if_pos hl)))
    · exact next_congr (issueWord_bad (bad := fun w s => stashBad w s c) h (reservedOp_eq_false h (by decide) (by decide))
        (eq_true_of_ne_false fun hb => hp (hperm.1 hb)))

end Sys2Proof.Machine
end

section
/-!
LEMMA. Tile runs and deferred work (06, 08): the lanes that an epilogue writes, and what each command of a run comes to.
-/
namespace Sys2Proof.Machine

/-! ### Epilogues (R178) -/

/-- An epilogue's lanes are the first eight of v63, in their order. -/
theorem core_epilogueLanes (s : State) (c : CoreId) (t : TileRun) (x : L0Tile) (slot buf : Nat) : ∃ l6 l7,
    (epilogueLanes s c t x slot buf).core c = ((((((((s.core c).setLane 63 0 x.t0.g).setLane 63 1 x.t0.m).setLane 63 2 x.t0.n).setLane 63 3
      (min x.t0.vm (t.m x.t0.g - x.t0.m))).setLane 63 4 x.t0.vn).setLane 63 5 (TD.accBase t.desc + slot * TD.ext t.desc 0 0)).setLane 63 6
      l6).setLane 63 7 l7 :=
  ⟨_, _, State.core_setCore_same ..⟩

theorem lanes_epilogueLanes (s : State) (c : CoreId) (t : TileRun) (x : L0Tile) (slot buf : Nat) :
    let v := (epilogueLanes s c t x slot buf).core c
    v.lane 63 0 = x.t0.g % 2 ^ 32 ∧ v.lane 63 1 = x.t0.m % 2 ^ 32 ∧ v.lane 63 2 = x.t0.n % 2 ^ 32 ∧
    v.lane 63 3 = min x.t0.vm (t.m x.t0.g - x.t0.m) % 2 ^ 32 ∧ v.lane 63 4 = x.t0.vn % 2 ^ 32 ∧
    v.lane 63 5 = (TD.accBase t.desc + slot * TD.ext t.desc 0 0) % 2 ^ 32 ∧
    ∀ r l, l < 128 → r ≠ 63 ∨ 8 ≤ l → v.lane r l = (s.core c).lane r l := by
  intro v
  obtain ⟨l6, l7, hv⟩ := core_epilogueLanes s c t x slot buf
  rw [show v = _ from hv]
  refine ⟨?_, ?_, ?_, ?_, ?_, ?_, fun r l _ h => ?_⟩
  case refine_7 =>
    have apart : ∀ i < 8, ¬ (r = 63 ∧ l = i) := fun i hi hx => by omega
    rw [Core.lane_setLane_ne _ _ (apart 7 (by decide)), Core.lane_setLane_ne _ _ (apart 6 (by decide)), Core.lane_setLane_ne _ _ (apart 5 (by decide)),
      Core.lane_setLane_ne _ _ (apart 4 (by decide)), Core.lane_setLane_ne _ _ (apart 3 (by decide)), Core.lane_setLane_ne _ _ (apart 2 (by decide)),
      Core.lane_setLane_ne _ _ (apart 1 (by decide)), Core.lane_setLane_ne _ _ (apart 0 (by decide))]
  all_goals simp [Core.lane_setLane_ne, Core.lane_setLane_same]

/-- An epilogue whose accumulator entries are settled, and whose output has room, runs its instructions. -/
theorem tileEpilogue_runs {s u : State} {c : CoreId} {t : TileRun} {x : L0Tile} {slot : Nat} {rest : List (L0Tile × Nat)}
    (hl : sectionLive s = true) (ht : (s.core c).tile = some t) (hx : t.epilogues = (x, slot) :: rest)
    (hfree : (((List.range x.t0.vm).flatMap fun i => if TD.comp t.desc then
        [TD.accBase t.desc + slot * TD.ext t.desc 0 0 + i, TD.accBase t.desc + slot * TD.ext t.desc 0 0 + i + 256]
      else [TD.accBase t.desc + slot * TD.ext t.desc 0 0 + i]) ++ epiEntries s c t.desc).any (accBusy (s.core c)) = false)
    (hroom : TD.outkind t.desc = 2 ∨ t.ships.length < TD.bufs t.desc 1)
    (hrun : runEpilogue c t.deferred (TD.epiLen t.desc) (TD.epiAddr t.desc)
      (epilogueLanes s c t x slot ((t.shipped + t.ships.length) % TD.bufs t.desc 1)) = (none, u)) :
    tileEpilogue s c = pumpTile (putTile u c (if !x.endL1 then { t with epilogues := rest }
      else if TD.outkind t.desc = 2 then { t with epilogues := rest, shipped := t.shipped + 1 }
      else { t with epilogues := rest, ships := t.ships ++
        [({ x.t1 with g := x.t0.g, vg := 1, vm := min x.t1.vm (t.m x.t0.g - x.t1.m) }, t.shipped + t.ships.length)] })) c := by
  have hgo : (TD.outkind t.desc != 2 && decide (TD.bufs t.desc 1 ≤ t.ships.length)) = false := by
    rcases hroom with h | h
    · rw [h]; rfl
    · rw [decide_eq_false (Nat.not_le.2 h), Bool.and_false]
  unfold tileEpilogue
  rw [ht]
  dsimp only
  rw [hx]
  dsimp only
  rw [hl, hfree, hgo, if_neg (by decide), hrun]
  rfl

/-! ### Shipments and the end (R179, R243) -/

theorem tileShip_ships {s u : State} {c : CoreId} {t : TileRun} {b : Box} {n : Nat} {rest : List (Box × Nat)}
    (hl : sectionLive s = true) (ht : (s.core c).tile = some t) (hx : t.ships = (b, n) :: rest)
    (hr : (let src := fun i => n % TD.bufs t.desc 1 * outRows t.desc (t.eC b.g) + i * (TD.ext t.desc 1 1 / t.eC b.g)
      if TD.outkind t.desc = 0 then copySegs t 2 (homeAt b.g 2) src
          (fun i => (t.first b.g 2 + (b.m + i) * TD.stride t.desc 2 + b.n) / t.eC b.g) (ceilDiv b.vn (t.eC b.g)) b.vm 0 s
        else shipTokens c (t.cap 2) (TD.outChannel t.desc)
          ((List.range b.vm).flatMap fun i => (List.range (ceilDiv b.vn (t.eC b.g))).map fun j => src i + j) s) = (none, u)) :
    tileShip s c = pumpTile (putTile u c { t with ships := rest, shipped := t.shipped + 1 }) c := by
  unfold tileShip
  rw [ht]
  dsimp only
  rw [hx]
  dsimp only
  rw [hl, if_neg (by decide)]
  dsimp only at hr
  rw [hr]

/-- A run with nothing left. -/
def TileRun.Finished (t : TileRun) (k : Core) : Prop :=
  t.work = [] ∧ t.claimsDone = true ∧ t.epilogues = [] ∧ t.ships = [] ∧ (TD.outkind t.desc = 1 → Tab.get [] k.txq (TD.outChannel t.desc) = [])

section
variable {s : State} {c : CoreId} {t : TileRun}

/-- A run with nothing left passes the checks of its end. -/
theorem TileRun.Finished.ends (h : t.Finished (s.core c)) (hl : sectionLive s = true) :
    (!sectionLive s || !t.work.isEmpty || !t.claimsDone || !t.epilogues.isEmpty || !t.ships.isEmpty ||
      (TD.outkind t.desc == 1 && !(Tab.get [] (s.core c).txq (TD.outChannel t.desc)).isEmpty)) = false := by
  obtain ⟨hw, hc, he, hs, hout⟩ := h
  rw [hl, hw, hc, he, hs]
  by_cases h1 : TD.outkind t.desc = 1
  case pos => simp [hout h1]
  case neg => rw [beq_false_of_ne h1]; rfl

theorem tileEnd_own (h : t.Finished (s.core c)) (hl : sectionLive s = true) (ht : (s.core c).tile = some t) (hd : t.deferred = false) :
    let v := s.setCore c { s.core c with tile := none, waiting := if (s.core c).waiting = 3 then 0 else (s.core c).waiting }
    tileEnd s c = if TD.doneEn t.desc then queueTokens v c (TD.doneChannel t.desc) [doneToken c] else v := by
  unfold tileEnd
  dsimp only
  rw [ht]
  dsimp only
  rw [h.ends hl, if_neg (by decide), hd]
  simp only [Bool.false_eq_true, if_false, and_true]

theorem tileEnd_deferred (h : t.Finished (s.core c)) (hl : sectionLive s = true) (ht : (s.core c).tile = some t) (hd : t.deferred = true) :
    tileEnd s c = runRecvs (s.setCore c { s.core c with
      tile := none
      set0 := {}
      set1 := {}
      deferred := (s.core c).deferred.drop 1
      fencing := (s.core c).fencing && !((s.core c).deferred.drop 1).isEmpty
      stall := if (s.core c).stall = some 0xC00 then none else (s.core c).stall }) c := by
  unfold tileEnd
  dsimp only
  rw [ht]
  dsimp only
  rw [h.ends hl, if_neg (by decide), hd]
  simp only [dropSets, Bool.true_eq_false, and_false, if_false, if_true]

/-! ### Deferred work (R240 to R244) -/

theorem deferredStart_may (hl : sectionLive s = true) (ha : (s.core c).active = true) (ht : (s.core c).tile = none)
    (hm : starved s c = true ∨ mustRun (s.core c) = true) :
    ¬ (!sectionLive s || !(s.core c).active || (s.core c).tile.isSome || !(starved s c || mustRun (s.core c))) = true := by
  rw [hl, ha, ht, Bool.or_eq_true_iff.2 hm]
  decide

theorem deferredSuspend_parks (hl : sectionLive s = true) (ht : (s.core c).tile = some t) (hb : t.atBoundary = true)
    (he : t.epilogues = []) (hs : t.ships = []) (hy : wouldYield s c = true) :
    deferredSuspend s c = runRecvs (s.setCore c { s.core c with set0 := {}, set1 := {}, tile := none, parked := some { t with held := none } }) c := by
  unfold deferredSuspend
  dsimp only
  rw [ht]
  dsimp only
  rw [hl, hb, he, hs, hy]
  rfl

end

/-- Settles O36: each word through the rule of its outcome; an epilogue's lanes through the order in which they are written; shipments,
ends and deferred starts through their one branch. -/
theorem tileWork : Obligations.TileWork := by
  unfold Obligations.TileWork
  refine ⟨fun s u c w t => ?_, fun s u c w t => ?_⟩
  case refine_1 =>
    intro k d
    refine ⟨fun h ht => ?_, fun h ht => ⟨fun hs hw => ?_, fun f hs => ?_⟩, fun hl ht => ⟨fun x slot rest hx hfree hroom => ?_, fun b n rest hx => ?_,
      fun hw hc he hs hout => ?_⟩⟩
    · have hr := reservedOp_eq_false h (by decide) (by decide)
      exact next_congr (issueWord_stalls h hr rfl (if_pos (Option.isSome_iff_ne_none.2 ht)))
    · have hr := reservedOp_eq_false h (by decide) (by decide)
      refine next_congr ((issueWord_steps h hr rfl ?_).trans (stepPc_eq _ c))
      unfold tileWord
      dsimp only
      rw [show (s.core c).tile = none from ht, hs, Option.isSome_none, if_neg (by decide)]
      exact if_neg (ne_true_of_eq_false hw)
    · refine next_congr (issueWord_faults h (reservedOp_eq_false h (by decide) (by decide)) rfl ?_)
      unfold tileWord
      dsimp only
      rw [show (s.core c).tile = none from ht, hs, Option.isSome_none, if_neg (by decide)]
    · intro n
      refine ⟨lanes_epilogueLanes .., fun hrun => ?_⟩
      have e := tileEpilogue_runs hl ht hx hfree hroom hrun
      refine ⟨fun hend => next_congr (e.trans ?_), fun hend hk => next_congr (e.trans ?_), fun hend hk => next_congr (e.trans ?_)⟩
      · rw [hend]
        rfl
      · rw [hend, if_neg (by decide), if_pos hk]
      · rw [hend, if_neg (by decide), if_neg hk]
    · exact ⟨fun hk hr => next_congr (tileShip_ships hl ht hx ((if_pos hk).trans hr)),
        fun hk hr => next_congr (tileShip_ships hl ht hx ((if_neg hk).trans hr))⟩
    · have hfin : t.Finished k := ⟨hw, hc, he, hs, hout⟩
      refine ⟨fun hd hn => next_congr ((tileEnd_own hfin hl ht hd).trans ?_), fun hd hn => next_congr ((tileEnd_own hfin hl ht hd).trans (if_pos hn)),
        fun hd => next_congr (tileEnd_deferred hfin hl ht hd)⟩
      exact if_neg (ne_true_of_eq_false hn)
  case refine_2 =>
    intro k
    refine ⟨fun h hl => ?_, fun h hl => ?_, fun h => ?_, fun hl ha ht hm => ⟨fun hp => ?_, fun shape rest hp hd => ⟨fun hs hw => ?_, fun f hs => ?_⟩⟩,
      fun hl ht hb he hs hy => next_congr (deferredSuspend_parks hl ht hb he hs hy)⟩
    · exact next_congr (issueWord_done h (reservedOp_eq_false h (by decide) (by decide)) rfl (if_neg (Nat.not_le.2 hl)))
    · exact next_congr (issueWord_stalls h (reservedOp_eq_false h (by decide) (by decide)) rfl (if_pos hl))
    · exact next_congr (issueWord_done h (reservedOp_eq_false h (by decide) (by decide)) rfl rfl)
    · refine next_congr ((if_neg (deferredStart_may hl ha ht hm)).trans ?_)
      rw [show (s.core c).parked = some t from hp]
    · refine next_congr ((if_neg (deferredStart_may hl ha ht hm)).trans ?_)
      rw [show (s.core c).parked = none from hp, show (s.core c).deferred = (w, shape) :: rest from hd]
      dsimp only
      rw [hs]
      exact if_neg (ne_true_of_eq_false hw)
    · refine next_congr ((if_neg (deferredStart_may hl ha ht hm)).trans ?_)
      rw [show (s.core c).parked = none from hp, show (s.core c).deferred = (w, shape) :: rest from hd]
      dsimp only
      rw [hs]

end Sys2Proof.Machine
end

section
/-!
LEMMA. The stream mesh (07): tokens as rows, what a wire receives, and the outcomes of an elastic channel.
-/
namespace Sys2Proof.Machine

/-! ### Tokens as rows (R200, R219) -/

/-- A row is its two halves. -/
theorem row_of_halves (r : Row) :
    BitVec.ofNat 4096 ((BitVec.ofNat 2048 (fld r 0 2048)).toNat ||| ((BitVec.ofNat 2048 (fld r 2048 2048)).toNat <<< 2048)) = r := by
  refine BitVec.eq_of_toNat_eq (Nat.eq_of_testBit_eq fun i => ?_)
  simp only [BitVec.toNat_ofNat, Nat.testBit_mod_two_pow, Nat.testBit_or, Nat.testBit_shiftLeft, testBit_fld, Nat.zero_add]
  by_cases hi : i < 4096
  case neg => simp [hi, testBit_toNat_ge r (Nat.not_lt.1 hi)]
  case pos =>
    by_cases hlo : i < 2048
    case pos => simp [hi, hlo, Nat.not_le.2 hlo]
    case neg =>
      have hge : 2048 ≤ i := Nat.not_lt.1 hlo
      simp [hi, hlo, hge, Nat.add_sub_cancel' hge, show i - 2048 < 2048 by omega]

/-- A data token comes back from the row that spills it. -/
theorem rowToken_dataToken (tag : Half) (p : BitVec 2048) : rowToken (tokenRow (dataToken tag p)) = dataToken tag p := by
  have hrow : ∀ i, (tokenRow (dataToken tag p)).toNat.testBit i =
      (decide (i < 4096) && (p.toNat.testBit i || (decide (2048 ≤ i) && tag.toNat.testBit (i - 2048)))) := fun i => by
    by_cases hi : i < 4096
    case pos => simp [tokenRow, dataToken, Token.isData, hi]
    case neg => simp [tokenRow, dataToken, Token.isData, hi, testBit_toNat_ge p (show 2048 ≤ i by omega)]
  have hkind : BitVec.ofNat 2 (fld (tokenRow (dataToken tag p)) 2064 2) = 0 := by
    refine BitVec.eq_of_toNat_eq (Nat.eq_of_testBit_eq fun i => ?_)
    rw [BitVec.toNat_ofNat, Nat.testBit_mod_two_pow, testBit_fld, hrow, testBit_toNat_ge p (by omega), testBit_toNat_ge tag (by omega)]
    simp
  have htag : BitVec.ofNat 16 (fld (tokenRow (dataToken tag p)) 2048 16) = tag := by
    refine BitVec.eq_of_toNat_eq (Nat.eq_of_testBit_eq fun i => ?_)
    rw [BitVec.toNat_ofNat, Nat.testBit_mod_two_pow, testBit_fld, hrow, testBit_toNat_ge p (by omega), Nat.add_sub_cancel_left]
    by_cases hi : i < 16
    case pos => simp [hi, show 2048 + i < 4096 by omega]
    case neg => simp [hi, testBit_toNat_ge tag (Nat.not_lt.1 hi)]
  have hpay : BitVec.ofNat 2048 (fld (tokenRow (dataToken tag p)) 0 2048) = p := by
    refine BitVec.eq_of_toNat_eq (Nat.eq_of_testBit_eq fun i => ?_)
    rw [BitVec.toNat_ofNat, Nat.testBit_mod_two_pow, testBit_fld, hrow, Nat.zero_add]
    by_cases hi : i < 2048
    case pos => simp [hi, Nat.not_le.2 hi, show i < 4096 by omega]
    case neg => simp [hi, testBit_toNat_ge p (Nat.not_lt.1 hi)]
  rw [rowToken, hkind, htag, hpay]
  rfl

theorem rowTokens_rejoin (tag : Nat) (r : Row) : ∃ a b : Token, rowTokens tag r = [a, b] ∧ a.isData = true ∧ b.isData = true ∧
    a.half = false ∧ b.half = true ∧ fld a.tag 0 15 = tag % 2 ^ 15 ∧ fld b.tag 0 15 = tag % 2 ^ 15 ∧
    BitVec.ofNat 4096 (a.payload.toNat ||| (b.payload.toNat <<< 2048)) = r := by
  have hlt : tag % 2 ^ 15 < 2 ^ 15 := Nat.mod_lt _ (by decide)
  refine ⟨_, _, rfl, rfl, rfl, ?_, ?_, ?_, ?_, row_of_halves r⟩
  all_goals simp only [dataToken, Token.half, bit, fld, BitVec.toNat_ofNat, Nat.shiftRight_zero]
  · rw [Nat.mod_eq_of_lt (by omega)]
    exact Nat.testBit_lt_two_pow hlt
  · rw [Nat.mod_eq_of_lt (by omega), Nat.testBit_eq_decide_div_mod_eq]
    exact decide_eq_true (by omega)
  · omega
  · omega

/-! ### Wires and the ends of a channel (R195, R216) -/

section
variable {s : State} {c : CoreId} {ch : Nat}

/-- A core whose wire a token reaches keeps everything but that wire, and every other core all it has. -/
theorem putWire_reaches {d : CoreId} {port vc : Nat} (t : Token) (h : neighbour c port = some d) :
    putWire s c port vc t = s.setCore d { s.core d with
      wire := Tab.set [] (s.core d).wire (pv (opposite port) vc) (Tab.get [] (s.core d).wire (pv (opposite port) vc) ++ [t]) } := by
  unfold putWire
  rw [h]

theorem chPop_mesh (h : CH.endpoint ((s.core c).chan ch) ≠ 1) :
    let popped := s.setCore c { s.core c with rxq := Tab.set [] (s.core c).rxq ch ((Tab.get [] (s.core c).rxq ch).drop 1) }
    chPop s c ch = if CH.elastic ((s.core c).chan ch) then popped
      else creditBack popped c (CH.port ((s.core c).chan ch)) (CH.vc ((s.core c).chan ch)) := if_neg h

/-- A core whose wires change, for what a second core receives from the first. -/
theorem sendOver {x : State} {k : Core} {d : CoreId} {port vc : Nat} (t : Token) (h : neighbour c port = some d)
    (hx : x = putWire (s.setCore c k) c port vc t) (hk : k.wire = (s.core c).wire) :
    (∃ w, x.core c = { k with wire := w }) ∧
    Tab.get [] (x.core d).wire (pv (opposite port) vc) = Tab.get [] (s.core d).wire (pv (opposite port) vc) ++ [t] ∧
    (∀ b, b ≠ c → b ≠ d → x.core b = s.core b) ∧ x.ms = s.ms ∧ x.streams = s.streams := by
  rw [hx, putWire_reaches t h]
  refine ⟨?_, ?_, fun b hc hd => ?_, rfl, rfl⟩
  · by_cases hcd : c = d
    case pos =>
      subst hcd
      exact ⟨_, by rw [State.core_setCore_same, State.core_setCore_same]⟩
    case neg => exact ⟨k.wire, by rw [State.core_setCore_ne _ _ _ _ hcd, State.core_setCore_same]⟩
  · rw [State.core_setCore_same]
    dsimp only
    rw [Tab.get_set_same]
    by_cases hcd : d = c
    case pos => rw [hcd, State.core_setCore_same, hk]
    case neg => rw [State.core_setCore_ne _ _ _ _ hcd]
  · rw [State.core_setCore_ne _ _ _ _ hd, State.core_setCore_ne _ _ _ _ hc]

/-! ### Elastic channels (R218 to R220) -/

/-- With nothing spilled, or a queue with no room, nothing is refilled. -/
theorem refill_kept (h : Tab.get [] (s.core c).spill ch = [] ∨ 12 ≤ (Tab.get [] (s.core c).rxq ch).length) : refill s c ch = s := by
  unfold refill
  dsimp only
  split
  case h_1 => rfl
  case h_2 heq =>
    refine if_pos (h.resolve_left fun hn => ?_)
    rw [hn] at heq
    cases heq

section
variable {t : Token}

theorem placeElastic_queued (hs : Tab.get [] (s.core c).spill ch = []) (hq : (Tab.get [] (s.core c).rxq ch).length < 12) :
    placeElastic s c ch t = creditBack (s.setCore c { s.core c with rxq := Tab.set [] (s.core c).rxq ch (Tab.get [] (s.core c).rxq ch ++ [t]) }) c
      (CH.port ((s.core c).chan ch)) (CH.vc ((s.core c).chan ch)) := by
  unfold placeElastic
  dsimp only
  rw [refill_kept (.inl hs), ite_self]
  exact if_pos ⟨by rw [hs]; rfl, hq⟩

theorem placeElastic_overflows (hq : 12 ≤ (Tab.get [] (s.core c).rxq ch).length)
    (hn : (Tab.get [] (s.core c).spill ch).length = CH.spillRows ((s.core c).chan ch)) :
    placeElastic s c ch t = faultCore s c 0 ⟨St.channelOverflow, { index := ch, aux := CH.spillRows ((s.core c).chan ch) }⟩ := by
  unfold placeElastic
  dsimp only
  rw [refill_kept (.inr hq), ite_self]
  exact (if_neg fun h => Nat.not_lt.2 hq h.2).trans (if_pos (Nat.le_of_eq hn.symm))

theorem placeElastic_spilled {u : State} (hs : Tab.get [] (s.core c).spill ch ≠ [] ∨ 12 ≤ (Tab.get [] (s.core c).rxq ch).length)
    (hn : (Tab.get [] (s.core c).spill ch).length < CH.spillRows ((s.core c).chan ch))
    (hcap : ((s.core c).spillCap ch).refuse s.grid.ctx pSPILL none = none)
    (hw : writeAt (markSeen s s.grid.ctx ((s.core c).spillCap ch) pSPILL) ((s.core c).spillCap ch)
      ((Tab.get 0 (s.core c).spillHead ch + (Tab.get [] (s.core c).spill ch).length) % max 1 (CH.spillRows ((s.core c).chan ch)))
      (tokenRow t) 0 = (.ok (), u)) :
    placeElastic s c ch t = creditBack (u.setCore c { u.core c with
      spill := Tab.set [] (u.core c).spill ch (Tab.get [] (s.core c).spill ch ++ [t]) }) c
      (CH.port ((s.core c).chan ch)) (CH.vc ((s.core c).chan ch)) := by
  unfold placeElastic
  dsimp only
  have hfull : ¬ ((Tab.get [] (s.core c).spill ch).isEmpty ∧ (Tab.get [] (s.core c).rxq ch).length < 12) := fun h =>
    hs.elim (fun hs => hs (List.isEmpty_iff.1 h.1)) fun hq => Nat.not_lt.2 hq h.2
  rw [if_neg (Nat.ne_of_lt hn), if_neg hfull, if_neg (Nat.not_le.2 hn), begin'_passes hcap]
  dsimp only
  rw [hw]

/-- A token at a receive entry. -/
theorem arrive_entry {port vc : Nat} {rest : List Token} (p : Bool) (hw : Tab.get [] (s.core c).wire (pv port vc) = t :: rest)
    (he : recvEntry (s.core c) port vc = some ch) :
    let taken := { s.core c with wire := Tab.set [] (s.core c).wire (pv port vc) rest }
    arrive s c port vc p = if p then faultCore (s.setCore c taken) c 0 ⟨St.operandParity, { index := ch }⟩
      else if CH.elastic ((s.core c).chan ch) then runRecvs (placeElastic (s.setCore c taken) c ch t) c
      else runRecvs (s.setCore c { taken with rxq := Tab.set [] (s.core c).rxq ch (Tab.get [] (s.core c).rxq ch ++ [t]) }) c := by
  unfold arrive
  dsimp only
  rw [hw]
  dsimp only
  rw [he]
  dsimp only
  rw [State.core_setCore_same, State.setCore_setCore]

/-- The spill head moves into a queue with room, unless its row cannot be read. -/
theorem refill_passes {rest : List Token} (hs : Tab.get [] (s.core c).spill ch = t :: rest) (hq : (Tab.get [] (s.core c).rxq ch).length < 12)
    (hcap : ((s.core c).spillCap ch).refuse s.grid.ctx pSPILL none = none) {e : Except Flt Row} {u : State}
    (hr : consumeAt (markSeen s s.grid.ctx ((s.core c).spillCap ch) pSPILL) ((s.core c).spillCap ch) (Tab.get 0 (s.core c).spillHead ch) = (e, u)) :
    (∀ r, e = .ok r → refill s c ch = u.setCore c { u.core c with
      rxq := Tab.set [] (u.core c).rxq ch (Tab.get [] (s.core c).rxq ch ++ [rowToken r])
      spill := Tab.set [] (u.core c).spill ch rest
      spillHead := Tab.set 0 (u.core c).spillHead ch
        ((Tab.get 0 (s.core c).spillHead ch + 1) % max 1 (CH.spillRows ((s.core c).chan ch))) }) ∧
    ∀ f, e = .error f → refill s c ch = faultCore u c 0 f := by
  unfold refill
  dsimp only
  rw [hs]
  dsimp only
  rw [if_neg (Nat.not_le.2 hq), begin'_passes hcap]
  dsimp only
  rw [hr]
  exact ⟨fun r he => by rw [he], fun f he => by rw [he]⟩

/-- A route passes on the token that its register holds. -/
theorem forwardRoute_held {r : Nat} (hv : RT.valid (Tab.get 0 (s.core c).routes r) = true) (ht : Tab.get [] (s.core c).routeReg r = [t]) :
    forwardRoute s c r = putWire (s.setCore c { s.core c with routeReg := Tab.set [] (s.core c).routeReg r [] }) c
      (RT.outPort (Tab.get 0 (s.core c).routes r)) (RT.outVc (Tab.get 0 (s.core c).routes r)) t := by
  unfold forwardRoute
  dsimp only
  rw [hv, ht, if_neg (by decide), List.isEmpty_cons, if_neg (by decide), ht]

end

end

/-- Settles O37: tokens and rows bit by bit; every other clause through the rule of its outcome at the wire, the queue, the spill or
the route. -/
theorem meshTraffic : Obligations.MeshTraffic := by
  unfold Obligations.MeshTraffic
  refine ⟨⟨fun s c ch t => ?_, rowTokens_rejoin, rowToken_dataToken⟩, fun s u c hl => ?_⟩
  case refine_1 =>
    intro k e he
    refine ⟨?_, if_neg he, fun d hd => ?_, fun hel => (chPop_mesh he).trans (if_pos hel),
      fun hel => (chPop_mesh he).trans (if_neg (ne_true_of_eq_false hel))⟩
    · rw [show chCredit s c ch = decide (0 < Tab.get 0 k.credits ch) from if_neg he]
      exact decide_eq_true_iff
    · intro x i
      obtain ⟨⟨w, hcore⟩, hwire, hrest⟩ := sendOver (x := x) (k := { k with credits := Tab.set 0 k.credits ch (Tab.get 0 k.credits ch - 1) }) t hd
        (if_neg he) rfl
      exact ⟨by rw [hcore]; exact Tab.get_set_same .., hwire, hrest⟩
  case refine_2 =>
    intro k
    refine ⟨fun port vc t rest ch hw he => ?_, fun ch t rest hs hq => ?_, fun ch hn => ?_, fun r t d => ?_⟩
    · intro e taken q sp n
      have arrives : ∀ p, exec (.tokenArrival c port vc p) s = .next (arrive s c port vc p) := fun p => next_congr (if_pos hl)
      have hcore : (s.setCore c taken).core c = taken := State.core_setCore_same ..
      refine ⟨(arrives true).trans (congrArg _ ((arrive_entry true hw he).trans (if_pos rfl))),
        fun hel => (arrives false).trans (congrArg _ ((arrive_entry false hw he).trans ((if_neg (by decide)).trans
          (if_neg (ne_true_of_eq_false hel))))), fun hel => ?_⟩
      have helastic : exec (.tokenArrival c port vc false) s = .next (runRecvs (placeElastic (s.setCore c taken) c ch t) c) :=
        (arrives false).trans (congrArg _ ((arrive_entry false hw he).trans ((if_neg (by decide)).trans (if_pos hel))))
      refine ⟨fun hs hq => ?_, fun hs hn hcap hwr => ?_, fun hq hn => ?_⟩
      · rw [helastic, placeElastic_queued (by rw [hcore]; exact hs) (by rw [hcore]; exact hq), hcore, State.setCore_setCore]
        rfl
      · rw [helastic, placeElastic_spilled (u := u) (by rw [hcore]; exact hs) (by rw [hcore]; exact hn) (by rw [hcore]; exact hcap)
          (by rw [hcore]; exact hwr), hcore]
        rfl
      · rw [helastic, placeElastic_overflows (by rw [hcore]; exact hq) (by rw [hcore]; exact hn), hcore]
        rfl
    · intro cap h hcap
      have refills : exec (.spillRefill c ch) s = .next (runRecvs (refill s c ch) c) := next_congr (if_pos hl)
      exact ⟨fun r hr => refills.trans (congrArg (fun x => Host.Outcome.next (runRecvs x c)) ((refill_passes hs hq hcap hr).1 r rfl)),
        fun f hr => refills.trans (congrArg (fun x => Host.Outcome.next (runRecvs x c)) ((refill_passes hs hq hcap hr).2 f rfl))⟩
    · intro back
      have returns : exec (.creditReturn c ch) s = .next (pumpChannel c ch 1 back) := next_congr ((if_pos hl).trans (if_neg hn))
      refine ⟨fun hq => returns.trans (congrArg _ ?_), fun _ => returns⟩
      have hback : Tab.get [] (back.core c).txq ch.val = [] := by
        rw [State.core_setCore_same]
        exact hq
      rw [pumpChannel, hback]
    · intro e hv ht hd i
      obtain ⟨⟨w, hcore⟩, hwire, hrest⟩ := sendOver (k := { k with routeReg := Tab.set [] k.routeReg r.val [] }) t hd rfl rfl
      have hreg : Tab.get [] ((putWire (s.setCore c { k with routeReg := Tab.set [] k.routeReg r.val [] }) c (RT.outPort e) (RT.outVc e) t).core
          c).routeReg r.val = [] := by
        rw [hcore]
        exact Tab.get_set_same [] k.routeReg r.val []
      exact ⟨_, next_congr ((if_pos hl).trans (forwardRoute_held hv ht)), hreg, hwire, hrest⟩

end Sys2Proof.Machine
end

section
/-!
LEMMA. Telemetry samples (18): what the sample leaves in the record of a chip-memory bank.
-/
namespace Sys2Proof.Machine

/-! ### Records of a sample (R511) -/

/-- Steps that each keep a part of the state keep it together. -/
theorem foldl_keeps {α β : Type} {step : State → α → State} {get : State → β} (l : List α) (s : State)
    (h : ∀ t, ∀ x ∈ l, get (step t x) = get t) : get (l.foldl step s) = get s := by
  induction l generalizing s with
  | nil => rfl
  | cons x l ih => exact (ih _ fun t y hy => h t y (.tail _ hy)).trans (h s x (.head _))

theorem record_setRecordAt_same (s : State) (i : Nat) (r : BitVec 512) : Tab.get 0 (setRecordAt s i r).tel.records i = r := Tab.get_set_same ..

theorem record_setRecordAt_ne (s : State) {i j : Nat} (r : BitVec 512) (h : j ≠ i) :
    Tab.get 0 (setRecordAt s i r).tel.records j = Tab.get 0 s.tel.records j := Tab.get_set_ne _ _ _ h

theorem ms_setRecordAt (s : State) (i : Nat) (r : BitVec 512) : (setRecordAt s i r).ms = s.ms := rfl

theorem ms_dieRecord (s : State) (d : Bool) : (dieRecord s d).2.ms = s.ms := rfl

/-- Each bank's record is the one made for it. -/
theorem record_foldl_banks {l : List BankId} (hl : l.Nodup) (s : State) {b : BankId} (hb : b ∈ l) :
    Tab.get 0 (l.foldl (fun t b => setRecordAt t (400 + b.val) (bankRecord t b)) s).tel.records (400 + b.val) = bankRecord s b := by
  induction l generalizing s with
  | nil => exact absurd hb List.not_mem_nil
  | cons x l ih =>
    obtain ⟨hx, hl⟩ := List.nodup_cons.1 hl
    rw [List.foldl_cons]
    by_cases hxb : b = x
    case neg => exact ih hl _ ((List.mem_cons.1 hb).resolve_left hxb)
    case pos =>
      subst hxb
      refine (foldl_keeps (get := fun t : State => Tab.get 0 t.tel.records (400 + b.val)) l _ fun t y hy => ?_).trans (record_setRecordAt_same ..)
      exact record_setRecordAt_ne _ _ fun h => hx (Fin.ext (Nat.add_left_cancel h) ▸ hy)

/-- A sample's record of a bank says whether the bank is gated. -/
theorem gated_telemetrySample {s : State} (hm : s.mgmtUp = true) (hb : s.mod.booted = true) (p1 p100 : Word) (e : Dword) (b : BankId) :
    bit (Tab.get 0 (telemetrySample s p1 p100 e).tel.records (400 + b.val)) 64 = ((s.bank b.val).power == .gated) := by
  have hrec : ∃ u : State, u.ms = s.ms ∧
      Tab.get 0 (telemetrySample s p1 p100 e).tel.records (400 + b.val) = bankRecord u b := by
    unfold telemetrySample
    rw [hm, hb, if_neg (by decide)]
    dsimp only
    refine ⟨_, ?_, (foldl_keeps (get := fun t : State => Tab.get 0 t.tel.records (400 + b.val)) _ _ fun t y _ => ?_).trans
      ((foldl_keeps (get := fun t : State => Tab.get 0 t.tel.records (400 + b.val)) _ _ fun t y _ => ?_).trans
        (record_foldl_banks (List.nodup_finRange 512) _ (List.mem_finRange b)))⟩
    · exact (foldl_keeps (get := State.ms) _ _ fun t y _ => ms_setRecordAt ..).trans
        ((foldl_keeps (get := State.ms) _ _ fun t y _ => (ms_setRecordAt ..).trans (ms_dieRecord t y)).trans (ms_setRecordAt ..))
    · exact record_setRecordAt_ne _ _ (by omega)
    · exact record_setRecordAt_ne _ _ (by omega)
  obtain ⟨u, hu, hrec⟩ := hrec
  have hpower : u.bank b.val = s.bank b.val := by rw [State.bank, State.bank, hu]
  have hfld : fld (bankRecord u b) 64 1 = b2n ((u.bank b.val).power == .gated) % 2 ^ 1 := fld_word 512 _ 2 rfl rfl (by decide)
  rw [hrec, bit_eq_fld, hfld, hpower]
  cases (s.bank b.val).power == .gated <;> rfl

/-- A device in service with one chip-memory bank waking. -/
def wakingState : State :=
  { State.reset with
    mod := { State.reset.mod with standby := true, powered := true, perst := false, booted := true }
    ms := { State.reset.ms with banks := [(0, { power := .waking })] } }

/-- Refutes O55: the sample says of a bank that wakes that it is not gated, where the statement asks for the bit of any bank that is not
awake. -/
theorem not_backgroundAndBlackBox : ¬ Obligations.BackgroundAndBlackBox := by
  unfold Obligations.BackgroundAndBlackBox
  rintro ⟨⟨h, -⟩, -⟩
  obtain ⟨t, ht, -, -, hbanks, -⟩ := h wakingState 0 0 0 rfl rfl
  obtain ⟨-, hbit, -⟩ := hbanks 0
  obtain rfl : telemetrySample wakingState 0 0 0 = t := Host.Outcome.next.inj ht
  rw [gated_telemetrySample rfl rfl] at hbit
  exact absurd hbit (by decide)

end Sys2Proof.Machine
end

section
/-!
LEMMA. Reads of records and the sideband (17, 18).
-/
namespace Sys2Proof.Machine

section
variable {s t : State} {r : CmdRef} {c : Cmd} {n : Nat} {bytes : List Byte}

/-- A read waits while a gather or an exchange fills its entry. -/
theorem readInto_waits (hc : c.ref = r) (h : capWaits s (capture s none (RD.handle c.payload)) = true) : readInto s c n bytes = s.defer r :=
  hc ▸ if_pos h

theorem readInto_writes (hc : c.ref = r) (h : capWaits s (capture s none (RD.handle c.payload)) = false)
    (hw : accessWrite s (some c.ring) (capture s none (RD.handle c.payload)) none (RD.row c.payload)
      ((rowsOf (bytes.length + 1) bytes).map fun x => (x, 0)) = (none, t)) :
    readInto s c n bytes = t.finish r { result := BitVec.ofNat 64 n } := by
  subst hc
  unfold readInto
  dsimp only
  rw [h, if_neg (by decide), hw]

/-- The three reads give their records to one write of rows. -/
theorem exec_telemetryRead (h : Startable s r 0x0601 c) :
    let l := telRead s (RD.count c.payload) (RD.first c.payload)
    exec (.telemetryRead r) s = .next (readInto s c l.length (l.flatMap fun x => toBytes x 64)) := next_congr (State.take_start _ h)

theorem exec_blackboxRead (h : Startable s r 0x0602 c) (ha : RD.audit c.payload = false) :
    let l := bbRead s (RD.first c.payload) (RD.count c.payload)
    exec (.blackboxRead r) s = .next (readInto s c l.length (l.flatMap fun x => toBytes x 64)) :=
  next_congr ((State.take_start _ h).trans (if_neg (ne_true_of_eq_false ha)))

theorem exec_auditRead (h : Startable s r 0x0602 c) (ha : RD.audit c.payload = true) :
    let l := auditFrom s (RD.first c.payload) (RD.count c.payload)
    exec (.auditRead r) s = .next (readInto s c l.length (l.flatMap fun x => toBytes x 256)) :=
  next_congr ((State.take_start _ h).trans (if_neg (by rw [ha]; decide)))

end

/-- A message is answered while the firmware runs, and does nothing otherwise (R519). -/
theorem sideband_answers (s : State) (a : List Byte) :
    (s.mgmtUp = true → s.mod.booted = true → sideband s a = { s with hostOut := s.hostOut ++ [HostOut.sideband a] }) ∧
    (s.mgmtUp = false ∨ s.mod.booted = false → sideband s a = s) := by
  refine ⟨fun hm hb => if_pos (by rw [hm, hb]; rfl), fun h => if_neg fun hx => ?_⟩
  obtain ⟨hm, hb⟩ := Bool.and_eq_true_iff.1 hx
  exact h.elim (fun h => Bool.noConfusion (h.symm.trans hm)) fun h => Bool.noConfusion (h.symm.trans hb)

/-- Settles O54: every read is one write of rows through its entry, and every message of the sideband one answer. -/
theorem recordReads : Obligations.RecordReads := by
  unfold Obligations.RecordReads
  refine ⟨fun s t r c => ?_, fun s q first n => ?_⟩
  case refine_1 =>
    intro p k reads
    refine ⟨fun hk => ⟨fun h => ?_, fun h => ?_⟩, fun hk => ⟨fun h hw => ?_, fun h ha hw => ?_, fun h ha hw => ?_⟩⟩
    · rw [exec_telemetryRead h, readInto_waits h.ref hk]
    · cases ha : RD.audit p
      case false => exact (exec_blackboxRead h ha).trans (congrArg _ (readInto_waits h.ref hk))
      case true => exact (exec_auditRead h ha).trans (congrArg _ (readInto_waits h.ref hk))
    · exact (exec_telemetryRead h).trans (congrArg _ (readInto_writes h.ref hk hw))
    · exact (exec_blackboxRead h ha).trans (congrArg _ (readInto_writes h.ref hk hw))
    · exact (exec_auditRead h ha).trans (congrArg _ (readInto_writes h.ref hk hw))
  case refine_2 =>
    intro answers
    have answered : ∀ i a, exec i s = .next (sideband s a) → answers i a := fun i a hi =>
      ⟨fun hm hb => hi.trans (congrArg _ ((sideband_answers s a).1 hm hb)), fun h => hi.trans (congrArg _ ((sideband_answers s a).2 h))⟩
    exact ⟨answered _ _ rfl, answered _ _ rfl, answered _ _ rfl, answered _ _ rfl, answered _ _ rfl, answered _ _ rfl⟩

end Sys2Proof.Machine
end

section
/-!
LEMMA. Link streams (13): a stream flit, by what the device and its stream are.
-/
namespace Sys2Proof.Machine

section
variable {s : State} {l : LinkId} {n : BitVec 16} {b : BitVec 1920}

/-- The next stream flit of a link. -/
theorem exec_streamFlit (h : streamNext s l n b = true) : exec (.streamFlit l n b) s = .next (
    if s.fab.devId.isNone then countLinkDrop (consumeRx s l 0 1 1) l
    else if s.ownId (BitVec.ofNat 20 (fld b 0 20)) then streamTake (consumeRx s l 0 1 1) l n.toNat ((toBytes b 240).drop 4)
    else if s.outOfService (BitVec.ofNat 20 (fld b 0 20)) then countLinkDrop (consumeRx s l 0 1 1) l
    else (s.streamLink (BitVec.ofNat 20 (fld b 0 20))).elim (countLinkDrop (consumeRx s l 0 1 1) l) fun k =>
      pushFlits (consumeRx s l 0 1 0) k [{ lane := 0, via := some l, bits := flitBits 2 0 false false false n.toNat (toBytes b 240) }]) := by
  have hn : ((n.toNat : Nat) : BitVec 16) = n := by simp
  refine next_congr ?_
  rw [hn]
  unfold streamFlit
  dsimp only
  rw [h, if_neg (by decide)]
  cases s.streamLink (BitVec.ofNat 20 (fld b 0 20)) <;> rfl

section
variable {u : State} {m : Nat} {body : List Byte}

theorem streamTake_drops (h : SE.valid (u.stream m).entry = false ∨ 1024 ≤ m ∨
      readRecords (((u.stream m).partialBytes ++ body).length + 1) ((u.stream m).partialBytes ++ body) = none) :
    streamTake u l m body = countLinkDrop u l := by
  unfold streamTake
  dsimp only
  by_cases hv : (!SE.valid (u.stream m).entry || decide (1024 ≤ m)) = true
  case pos => exact if_pos hv
  case neg =>
    rw [if_neg hv]
    rcases h with h | h | h
    · exact absurd (by rw [h]; rfl) hv
    · exact absurd (by rw [decide_eq_true h, Bool.or_true]) hv
    · rw [h]

theorem streamTake_records {rs : List StreamRec} {rest : List Byte}
    (hr : readRecords (((u.stream m).partialBytes ++ body).length + 1) ((u.stream m).partialBytes ++ body) = some (rs, rest)) :
    let suits := SE.valid (u.stream m).entry = true ∧ m < 1024 ∧ recordsSuit (u.stream m) rs = true
    (¬ suits → streamTake u l m body = countLinkDrop u l) ∧
    (suits → streamTake u l m body = wakeStream (rs.foldl (fun t y => deliver t m y)
      (u.setStream m { u.stream m with partialBytes := rest })) m) := by
  refine ⟨fun h => ?_, fun ⟨hv, hm, hs⟩ => ?_⟩
  case refine_1 =>
    by_cases hx : SE.valid (u.stream m).entry = false ∨ 1024 ≤ m
    case pos => exact streamTake_drops (hx.imp id .inl)
    case neg =>
      obtain ⟨hv, hm⟩ := not_or.1 hx
      have hs : recordsSuit (u.stream m) rs = false := eq_false_of_ne_true fun hs => h ⟨eq_true_of_ne_false hv, Nat.not_le.1 hm, hs⟩
      unfold streamTake
      dsimp only
      rw [eq_true_of_ne_false hv, decide_eq_false hm, if_neg (by decide), hr]
      dsimp only
      rw [hs]
      rfl
  case refine_2 =>
    unfold streamTake
    dsimp only
    rw [hv, decide_eq_false (Nat.not_le.2 hm), if_neg (by decide), hr]
    dsimp only
    rw [hs]
    rfl

end
end

/-- Settles O46: STREAM_BIND by its effect, a flit by what the device and its stream are, owed credits by the branch that sends them. -/
theorem streamsBindAndMove : Obligations.StreamsBindAndMove := by
  unfold Obligations.StreamsBindAndMove
  intro s r c
  refine ⟨fun h => next_congr (State.take_start _ h), fun l n b h => ?_, fun n hv ho => next_congr ((if_pos hv).trans (if_neg ho))⟩
  intro u dst
  have hx := exec_streamFlit h
  refine ⟨fun hd => hx.trans (congrArg _ (if_pos (by rw [hd]; rfl))), fun hown => ?_, fun hd hown hsvc => ⟨fun k hk => ?_, fun hk => ?_⟩⟩
  · have hd : ¬ s.fab.devId.isNone = true := by
      rw [eq_of_beq hown]
      exact Bool.false_ne_true
    have htake : exec (.streamFlit l n b) s = .next (streamTake u l n.toNat ((toBytes b 240).drop 4)) :=
      hx.trans (congrArg _ ((if_neg hd).trans (if_pos hown)))
    exact ⟨fun hbad => htake.trans (congrArg _ (streamTake_drops hbad)), fun rs rest hr =>
      ⟨fun hs => htake.trans (congrArg _ ((streamTake_records hr).1 hs)), fun hs => htake.trans (congrArg _ ((streamTake_records hr).2 hs))⟩⟩
  all_goals
    have hd' : ¬ s.fab.devId.isNone = true := by
      rw [← Option.not_isSome, hd]
      decide
    rw [hx, if_neg hd', if_neg (ne_true_of_eq_false hown), if_neg (ne_true_of_eq_false hsvc)]
    exact congrArg _ (by rw [show s.streamLink (BitVec.ofNat 20 (fld b 0 20)) = _ from hk]; rfl)

end Sys2Proof.Machine
end

section
/-!
LEMMA. Aborts and the triggers of resets (15).
-/
namespace Sys2Proof.Machine

/-- A trigger of an engine reset when none is under way. -/
theorem triggerEngine_idle {s : State} (he : s.rst.eng = .idle) (hd : s.rst.dev = false) (trig : Nat) (core : Option CoreId) (seq : Word) (no : Bool) :
    triggerEngine s trig core seq no = { s with rst := { s.rst with
      eng := .triggered
      trigger := trig
      trigCore := core
      trigSeq := seq
      noReplay := no
      recovery := s.rst.replaying.isSome
      replaying := s.rst.replaying.map fun q => if q.outcome = 0 then { q with outcome := 3 } else q } } :=
  if_neg fun h => h.elim (fun h => h he) fun h => Bool.noConfusion (hd.symm.trans h)

theorem triggerEngine_joins {s : State} (he : s.rst.eng ≠ .idle) (trig : Nat) (core : Option CoreId) (seq : Word) (no : Bool) :
    triggerEngine s trig core seq no = s := if_pos (.inl he)

/-! ### ABORT (R418, R419) -/

section
variable {s : State} {r : CmdRef} {c d : Cmd}

theorem exec_abort (h : Startable s r 0x0003 c) (ht : abortTarget s c.payload = some d) :
    exec (.abort r) s = .next (
      let t := s.updCmd r fun c => { c with phase := .running, target := some d.ref }
      if d.ref = r then s.finish r { status := St.nothingToAbort }
      else if abortPending s d.ref then s.defer r
      else if d.phase = .running then abortRunning t d else endCmd t St.aborted d) := by
  refine next_congr ((State.take_start _ h).trans ?_)
  dsimp only
  rw [ht]
  rfl

/-- A command that waits ends with a bare status, one that has its record keeps its flags. -/
theorem endCmd_waiting (st : Half) (h : d.phase = .waiting) : endCmd s st d = s.setPhase d.ref (.done { status := st }) := by
  have hx : overridden s d st = { status := st } := by simp [overridden, h]
  rw [endCmd, hx, h]

theorem endCmd_done {x : Record} (st : Half) (h : d.phase = .done x) : endCmd s st d = s.setPhase d.ref (.done { status := st, flags := x.flags }) := by
  rw [endCmd, overridden, h]

/-- A RUN that holds the grid is stopped, whatever stopped it before. -/
theorem abortRunning_run {q : RunSt} (ho : d.opcode = 0x0201) (hh : heldForReplay s d.ref = false) (hg : s.grid.ctx = some d.ring)
    (hq : (s.ctx d.ring).run = some q) (he : q.ended = false) :
    abortRunning s d = s.setCtx d.ring { s.ctx d.ring with run := some { q with stop := some St.aborted } } := by
  unfold abortRunning
  rw [if_pos ho, hh, if_neg (by decide), stopRun]
  dsimp only
  rw [hq]
  dsimp only
  rw [if_pos ⟨hg, he⟩, bne_self_eq_false, Bool.and_false, if_neg (by decide)]
  rfl

end

/-- Settles O47: an abort by what its target is doing, every trigger by the one rule of a trigger. -/
theorem abortsAndTriggers : Obligations.AbortsAndTriggers := by
  unfold Obligations.AbortsAndTriggers
  refine ⟨fun s r c d h => ?_, fun s r c => ?_⟩
  case refine_1 =>
    refine ⟨rfl, fun hn => next_congr ((State.take_start _ h).trans ?_), fun ht => ?_⟩
    · dsimp only
      rw [hn]
      rfl
    · have hx := exec_abort h ht
      refine ⟨fun hr => hx.trans (congrArg _ (if_pos hr)), fun hr hp => hx.trans (congrArg _ ((if_neg hr).trans (if_pos hp))), fun hr hp => ?_⟩
      intro t
      have hgo : exec (.abort r) s = .next (if d.phase = .running then abortRunning t d else endCmd t St.aborted d) :=
        hx.trans (congrArg _ ((if_neg hr).trans (if_neg (ne_true_of_eq_false hp))))
      refine ⟨fun hw => ?_, fun x hw => ?_, fun q hw ho hh hg hq he => ?_⟩
      · exact hgo.trans (congrArg _ ((if_neg (by rw [hw]; decide)).trans (endCmd_waiting _ hw)))
      · exact hgo.trans (congrArg _ ((if_neg (by rw [hw]; exact Phase.noConfusion)).trans (endCmd_done _ hw)))
      · rw [hgo, if_pos hw]
        exact congrArg _ (abortRunning_run ho hh hg hq he)
  case refine_2 =>
    intro triggered
    refine ⟨fun h => ⟨fun hd => next_congr ((State.take_start _ h).trans (if_pos hd)), fun hd hs => next_congr ((State.take_start _ h).trans ?_),
      fun hd hs => ⟨fun he hv => next_congr ((State.take_start _ h).trans ?_), fun he => next_congr ((State.take_start _ h).trans ?_)⟩⟩,
      fun he hv => ⟨fun hs => next_congr ((if_pos hs).trans (triggerEngine_idle he hv ..)), fun q hg hq ho => ?_⟩,
      fun h => ⟨fun hw => next_congr ((State.take_start _ h).trans (if_pos hw)), fun hw => next_congr ((State.take_start _ h).trans (if_neg ?_))⟩,
      fun m hs hw => next_congr (if_pos (by rw [hs, hw]; rfl))⟩
    · exact (if_neg (ne_true_of_eq_false hd)).trans (if_pos (by rw [hs]; rfl))
    · refine (if_neg (ne_true_of_eq_false hd)).trans ((if_neg (by rw [hs]; decide)).trans ?_)
      rw [triggerEngine_idle he hv]
      rfl
    · refine (if_neg (ne_true_of_eq_false hd)).trans ((if_neg (by rw [hs]; decide)).trans ?_)
      rw [triggerEngine_joins he]
      rfl
    · have hany : (s.grid.replay && s.rst.replaying.any fun q => q.outcome == 0) = true := by
        rw [hg, hq, Option.any_some, ho]
        rfl
      exact next_congr ((if_pos hany).trans (triggerEngine_idle he hv ..))
    · rw [hw]
      decide

end Sys2Proof.Machine
end

section
/-!
LEMMA. Islands, the cap loop, heat and ageing (16).
-/
namespace Sys2Proof.Machine

/-! ### Islands (R459, R470 to R472) -/

theorem island_setIsland (s : State) (i j : IslandId) (x : Island) : (s.setIsland i x).island j = if j = i then x else s.island j := by
  by_cases h : j = i
  case pos =>
    subst h
    rw [if_pos rfl]
    exact Tab.get_set_same ..
  case neg =>
    rw [if_neg h]
    exact Tab.get_set_ne _ _ _ fun hx => h (Fin.ext hx)

/-- A change of islands alone. -/
def OnlyIslands (s t : State) : Prop := t = s.setPower { s.power with islands := t.power.islands }

namespace OnlyIslands

theorem refl (s : State) : OnlyIslands s s := rfl

theorem trans {s t u : State} (h : OnlyIslands s t) (g : OnlyIslands t u) : OnlyIslands s u := by
  rw [OnlyIslands] at h g ⊢
  rw [g, h]
  rfl

theorem setIsland (s : State) (i : IslandId) (x : Island) : OnlyIslands s (s.setIsland i x) := rfl

theorem foldl {α : Type} {f : State → α → State} (h : ∀ t x, OnlyIslands t (f t x)) (l : List α) (s : State) : OnlyIslands s (l.foldl f s) := by
  induction l generalizing s with
  | nil => exact refl s
  | cons x l ih => exact (h s x).trans (ih _)

theorem newTarget (s : State) (i : IslandId) (f : Nat) : OnlyIslands s (newTarget s i f) := by
  unfold Machine.newTarget
  dsimp only
  split
  · exact setIsland ..
  · exact setIsland ..

theorem retarget (s : State) : OnlyIslands s (retarget s) := by
  refine foldl (fun t c => ?_) _ _
  split
  · exact refl t
  · exact newTarget ..

end OnlyIslands

/-- A step towards the target, of 5 MHz at most. -/
theorem frequencyStep_moves {s : State} {i : IslandId} (hd : (s.island i).drooping = false) (hr : (s.island i).recovering = false) :
    let f := islandFreq s i
    let g := islandTarget s i
    (f < g → frequencyStep s i = s.setIsland i { s.island i with freq := some (min g (f + 5)) }) ∧
    (g < f → frequencyStep s i = s.setIsland i { s.island i with freq := some (max g (f - 5)) }) ∧ (f = g → frequencyStep s i = s) := by
  intro f g
  have hx : frequencyStep s i = if (if f < g then min g (f + 5) else max g (f - 5)) = f then s
      else s.setIsland i { s.island i with freq := some (if f < g then min g (f + 5) else max g (f - 5)) } :=
    if_neg (by rw [hd, hr]; decide)
  rw [hx]
  clear_value f g
  refine ⟨fun h => ?_, fun h => ?_, fun h => ?_⟩
  · rw [if_pos h, if_neg (by omega)]
  · rw [if_neg (Nat.lt_asymm h), if_neg (by omega)]
  · rw [if_neg (Nat.not_lt.2 (Nat.le_of_eq h.symm)), if_pos (by omega)]

/-- A droop ends when both causes have cleared. -/
theorem droopClear_limit {s : State} {i : IslandId} {b : Bool} (h : (s.island i).drooping = true) (hs : (s.island i).supply = b) :
    droopClear s i true = s.setIsland i { s.island i with limit := false, recovering := !b } := by
  subst hs
  refine (if_neg (by rw [h]; decide)).trans ?_
  simp [Island.drooping]

theorem droopClear_supply {s : State} {i : IslandId} {b : Bool} (h : (s.island i).drooping = true) (hl : (s.island i).limit = b) :
    droopClear s i false = s.setIsland i { s.island i with supply := false, recovering := !b } := by
  subst hl
  refine (if_neg (by rw [h]; decide)).trans ?_
  simp [Island.drooping]

/-- A limit event of every island of a die droops each of them once. -/
theorem island_foldl_droop {l : List IslandId} (hl : l.Nodup) (s : State) (j : IslandId) :
    (l.foldl (fun t j => droopIsland t j true) s).island j = if j ∈ l then { s.island j with limit := true, recovering := false } else s.island j := by
  induction l generalizing s with
  | nil => rfl
  | cons i l ih =>
    obtain ⟨hi, hl⟩ := List.nodup_cons.1 hl
    have hone : (droopIsland s i true).island j = if j = i then { s.island i with limit := true, recovering := false } else s.island j := by
      simp only [droopIsland, Bool.not_true, Bool.or_false, Bool.or_true]
      exact island_setIsland ..
    rw [List.foldl_cons, ih hl, hone]
    by_cases hj : j = i
    case pos =>
      subst hj
      simp [hi]
    case neg => simp [hj]

/-! ### The cap loop (R464 to R467) -/

/-- F_new is the multiple of 5 next below the quotient (log 27). -/
theorem loopFrequency_floor (p : Power) {power core est : Nat} (h : power * core ≠ 0) :
    ∃ new : Int, loopFrequency p power core est = some new ∧ 5 ∣ new ∧
      let need : Int := p.cap * (if p.estimated then 990 else 980) * est - power * ((est : Int) - core)
      new * (power * core) ≤ p.ft * need ∧ p.ft * need < (new + 5) * (power * core) := by
  have hneed : ((capTarget p : Nat) : Int) = p.cap * (if p.estimated then 990 else 980) := by
    unfold capTarget
    split <;> push_cast <;> rfl
  refine ⟨_, if_neg h, Int.dvd_mul_left _ _, ?_⟩
  intro need
  rw [hneed]
  have hpos : (0 : Int) < 5 * (power * core) := by
    have : 0 < power * core := Nat.pos_of_ne_zero h
    exact_mod_cast Nat.mul_pos (by decide) this
  have hlo := Int.mul_fdiv_self_le (x := p.ft * need) hpos
  have hhi := Int.lt_mul_fdiv_self_add (x := p.ft * need) hpos
  change (p.ft * need).fdiv (5 * (power * core)) * 5 * (power * core) ≤ _ ∧ _ < ((p.ft * need).fdiv (5 * (power * core)) * 5 + 5) * (power * core)
  generalize (p.ft * need).fdiv (5 * (power * core)) = q at *
  constructor
  · linarith
  · linarith

/-- The bounds of a period's step. -/
theorem loopStep_bounds (p : Power) (new : Int) (hd : p.duty ≤ 8) :
    let n := loopStep p new
    400 ≤ n.1 ∧ n.1 ≤ 1350 ∧ (400 ≤ p.ft → n.1 ≤ p.ft + 50) ∧ 1 ≤ n.2 ∧ n.2 ≤ 8 ∧ (n.2 < 8 → n.1 = 400) := by
  intro n
  have hn : n = loopStep p new := rfl
  unfold loopStep at hn
  dsimp only at hn
  have hrise : (if (p.ft : Int) < new then min new (p.ft + 50) else new) ≤ p.ft + 50 := by
    split <;> omega
  generalize (if (p.ft : Int) < new then min new (p.ft + 50) else new) = f at hn hrise
  by_cases hlow : f < 400
  case pos =>
    have hprod : (p.duty : Int) * f ≤ 8 * 399 := by
      by_cases hf : 0 ≤ f
      case pos => exact Int.mul_le_mul (by exact_mod_cast hd) (by omega) hf (by decide)
      case neg => exact (Int.mul_nonpos_of_nonneg_of_nonpos (Int.natCast_nonneg _) (by omega)).trans (by decide)
    have hduty : ((p.duty : Int) * f).fdiv 400 ≤ 7 := by
      rw [Int.fdiv_eq_ediv_of_nonneg _ (by decide)]
      omega
    rw [if_pos hlow] at hn
    rw [hn]
    dsimp only
    omega
  case neg =>
    rw [if_neg hlow] at hn
    by_cases hfull : p.duty < 8
    case pos =>
      rw [if_pos hfull] at hn
      rw [hn]
      dsimp only
      omega
    case neg =>
      rw [if_neg hfull] at hn
      rw [hn]
      dsimp only
      omega

/-- A period ends with the settings that stood ready (R464, R469). -/
theorem capLoop_eq (s : State) (q : Period) : ∃ f ft duty, capLoop s q = retarget ({ s with free := f }.setPower { s.power with
    ft := ft, duty := duty, cap := s.power.capReady, estimated := s.power.estimatedReady
    dieLimit := some ((1020 * s.power.capReady - externalPower s q) / 2) }) := by
  unfold capLoop
  dsimp only
  cases loopFrequency s.power (loopPower s q) (corePower s q) (estimate s q)
  · exact ⟨_, _, _, rfl⟩
  · exact ⟨s.free, _, _, rfl⟩

/-- A gain changes by a tenth at most (R465). -/
theorem newGain_bounds (g x : Nat) : g * 9 / 10 ≤ newGain g x ∧ newGain g x ≤ g * 11 / 10 ∧
    (g * 9 / 10 ≤ x → x ≤ g * 11 / 10 → newGain g x = x) := by
  unfold newGain
  omega

/-! ### Heat (R473) -/

/-- A limit that is stored as 0 at the ceiling, and read as the least of itself and the ceiling. -/
theorem stored_limit {n ceil : Nat} (h : n = 0 → ceil = 0) :
    (if (if n = ceil then 0 else n) = 0 then ceil else min (if n = ceil then 0 else n) ceil) = min n ceil := by
  by_cases hn : n = ceil
  case pos => rw [if_pos hn, if_pos rfl, hn, Nat.min_self]
  case neg => rw [if_neg hn, if_neg fun h0 => hn (h0.trans (h h0).symm)]

theorem thermalLimit_eq (s : State) (c : CoreId) :
    thermalLimit s c = if Tab.get 0 s.power.limits c.val = 0 then ceiling s c else min (Tab.get 0 s.power.limits c.val) (ceiling s c) := by
  unfold thermalLimit
  split
  case h_1 h => rw [h, if_pos rfl]
  case h_2 h => rw [if_neg h]

theorem thermalLimit_le (s : State) (c : CoreId) : thermalLimit s c ≤ ceiling s c := by
  rw [thermalLimit_eq]
  split
  · exact le_refl _
  · exact Nat.min_le_right ..

/-- A table that has one value for each core. -/
theorem get_foldl_cores (g : CoreId → Nat) (c : CoreId) : Tab.get 0 (allCores.foldl (fun t c => Tab.set 0 t c.val (g c)) []) c.val = g c := by
  have key : ∀ (l : List CoreId) (t : Tab Nat), c ∈ l → Tab.get 0 (l.foldl (fun t c => Tab.set 0 t c.val (g c)) t) c.val = g c := by
    intro l
    induction l using List.reverseRecOn with
    | nil => exact fun t h => absurd h List.not_mem_nil
    | append_singleton l x ih =>
      intro t h
      rw [List.foldl_append, List.foldl_cons, List.foldl_nil]
      by_cases hx : c = x
      case pos =>
        subst hx
        exact Tab.get_set_same ..
      case neg =>
        rw [Tab.get_set_ne _ _ _ fun h => hx (Fin.ext h)]
        exact ih t ((List.mem_append.1 h).resolve_right fun h => hx (List.mem_singleton.1 h))
  exact key allCores [] (List.mem_finRange c)

/-- The sensor that decides a core's limit: its own, or the hottest of its die outside the cores. -/
def hottest (cores : List Int) (w e : Int) (c : CoreId) : Int :=
  max (cores.getD c.val (if c.val < 192 then w else e)) (if c.val < 192 then w else e)

/-- A core's limit as a read of the sensors stores it. -/
def storedLimit (s : State) (cores : List Int) (w e : Int) (c : CoreId) : Nat :=
  if nextLimit (thermalLimit s c) (ceiling s c) (hottest cores w e c) = ceiling s c then 0
  else nextLimit (thermalLimit s c) (ceiling s c) (hottest cores w e c)

theorem thermalRead_eq (s : State) (cores : List Int) (w e : Int) : thermalRead s cores w e = retarget (s.setPower { s.power with
    temps := allCores.foldl (fun t c => Tab.set 0 t c.val (cores.getD c.val 0)) []
    dieTempW := w
    dieTempE := e
    limits := allCores.foldl (fun t c => Tab.set 0 t c.val (storedLimit s cores w e c)) [] }) := by
  unfold thermalRead storedLimit hottest
  rfl

theorem siteOf_congr {s t : State} (h : t.power.moved = s.power.moved) (c : CoreId) : siteOf t c = siteOf s c := by
  have hu : columnUnused t (coreCol c) = columnUnused s (coreCol c) := by rw [columnUnused, columnUnused, h]
  rw [siteOf, siteOf, hu]

theorem ceiling_congr {s t : State} (hc : t.power.ceilings = s.power.ceilings) (hm : t.power.moved = s.power.moved) (c : CoreId) :
    ceiling t c = ceiling s c := by
  rw [ceiling, ceiling, siteOf_congr hm, hc]

/-- The limit of a core after a read of the sensors. -/
theorem thermalLimit_read (s : State) (p : Power) (c : CoreId) (hot : Int)
    (hc : p.ceilings = s.power.ceilings) (hm : p.moved = s.power.moved)
    (hl : Tab.get 0 p.limits c.val = if nextLimit (thermalLimit s c) (ceiling s c) hot = ceiling s c then 0
      else nextLimit (thermalLimit s c) (ceiling s c) hot) :
    thermalLimit (s.setPower p) c = min (nextLimit (thermalLimit s c) (ceiling s c) hot) (ceiling s c) := by
  have hceil : ceiling (s.setPower p) c = ceiling s c := ceiling_congr hc hm c
  rw [thermalLimit_eq, hceil, show Tab.get 0 (s.setPower p).power.limits c.val = _ from hl]
  refine stored_limit fun h => ?_
  have hle := thermalLimit_le s c
  unfold nextLimit at h
  split at h
  · omega
  · split at h
    · omega
    · rw [thermalLimit_eq] at h
      split at h
      · exact h
      · omega

/-! ### Ageing and remaps (R462, R463) -/

/-- A remap that is queued leaves its site in the queue and touches nothing else but what is noted of sites without a spare, and the
black box. -/
theorem queueRemap_eq (s : State) (c : CoreId) (new : Nat) : ∃ q l b,
    queueRemap s c new = { s with power := { s.power with remapQ := q, spareless := l }, bb := b } ∧
    (new < 1100 → siteOf s c ∈ q ∨ siteOf s c ∈ s.power.remapPending) ∧
    (1100 ≤ new ∨ siteOf s c ∈ s.power.remapQ ∨ siteOf s c ∈ s.power.remapPending → q = s.power.remapQ) := by
  unfold queueRemap
  dsimp only
  split
  case isTrue h =>
    obtain ⟨hnew, hq, hp⟩ := h
    have hnq : siteOf s c ∉ s.power.remapQ := by simpa using hq
    have hnp : siteOf s c ∉ s.power.remapPending := by simpa using hp
    obtain ⟨b, hb⟩ := bbAppend_eq (s.setPower { s.power with remapQ := s.power.remapQ ++ [siteOf s c] }) 9 none
      (word 384 [(0, 16, 1), (16, 5, coreCol c), (21, 4, coreRow c), (25, 1, 1), (208, 32, new)])
    have hnote : ∀ t : State, ∃ l b, noteSpareless t (siteOf s c) = { t with power := { t.power with spareless := l }, bb := b } := by
      intro t
      unfold noteSpareless
      split
      · exact ⟨t.power.spareless, t.bb, rfl⟩
      · obtain ⟨b, hb⟩ := bbAppend_eq (t.setPower { t.power with spareless := t.power.spareless ++ [siteOf s c] }) 9 none
          (word 384 [(0, 16, 2), (16, 5, coreCol (coreAt t (siteOf s c))), (21, 4, coreRow (coreAt t (siteOf s c))), (25, 1, 1),
            (208, 32, ceiling t (coreAt t (siteOf s c)))])
        exact ⟨_, b, hb⟩
    obtain ⟨l, b', hl⟩ := hnote (coreEvent (s.setPower { s.power with remapQ := s.power.remapQ ++ [siteOf s c] }) 1 c new)
    refine ⟨s.power.remapQ ++ [siteOf s c], l, b', ?_, fun _ => .inl (by simp), fun h => ?_⟩
    · rw [hl]
      unfold coreEvent
      rw [hb]
      rfl
    · exact absurd h (by simp [hnq, hnp, hnew])
  case isFalse h =>
    refine ⟨s.power.remapQ, s.power.spareless, s.bb, rfl, fun hnew => ?_, fun _ => rfl⟩
    by_cases hq : siteOf s c ∈ s.power.remapQ
    case pos => exact .inl hq
    case neg =>
      refine .inr (Classical.byContradiction fun hp => h ⟨hnew, ?_, ?_⟩)
      · simpa using hq
      · simpa using hp

theorem ceiling_le_fused (s : State) (c : CoreId) : ceiling s c ≤ fusedCeiling (siteOf s c) := by
  unfold ceiling
  dsimp only
  split
  · exact le_refl _
  · exact Nat.min_le_right ..

theorem ceiling_stored {s : State} {c : CoreId} {site x : Nat} (hs : siteOf s c = site) (hc : Tab.get none s.power.ceilings site = some x)
    (hx : x ≤ fusedCeiling site) : ceiling s c = x := by
  unfold ceiling
  dsimp only
  rw [hs, hc]
  exact Nat.min_eq_left hx

/-- A core whose ceiling falls: the ceiling alone changes, besides islands, before its remap is queued. -/
theorem ageing_falls {s : State} {c : CoreId} {m : Nat} (h : agedCeiling m < ceiling s c) : ∃ is,
    let v := s.setPower { s.power with islands := is, ceilings := Tab.set none s.power.ceilings (siteOf s c) (some (agedCeiling m)) }
    ageing s c m = queueRemap v c (agedCeiling m) ∧ siteOf v c = siteOf s c ∧ ceiling v c = agedCeiling m := by
  let u := s.setIsland (coreIsland c) { s.island (coreIsland c) with
    freq := some (islandFreq s (coreIsland c)), target := some (islandTarget s (coreIsland c)) }
  let w := u.setPower { u.power with ceilings := Tab.set none u.power.ceilings (siteOf u c) (some (agedCeiling m)) }
  have hu : siteOf u c = siteOf s c := siteOf_congr rfl c
  have hw : w = s.setPower { s.power with
      islands := u.power.islands, ceilings := Tab.set none s.power.ceilings (siteOf s c) (some (agedCeiling m)) } := by
    rw [← hu]
    rfl
  have hv := OnlyIslands.newTarget w (coreIsland c) (coreTarget w c)
  have hx : ageing s c m = queueRemap (newTarget w (coreIsland c) (coreTarget w c)) c (agedCeiling m) := if_neg (Nat.not_le.2 h)
  generalize newTarget w (coreIsland c) (coreTarget w c) = v at hv hx
  have hvs : v = s.setPower { s.power with
      islands := v.power.islands, ceilings := Tab.set none s.power.ceilings (siteOf s c) (some (agedCeiling m)) } :=
    Eq.trans hv (congrArg (fun z : State => z.setPower { z.power with islands := v.power.islands }) hw)
  refine ⟨v.power.islands, hx.trans (congrArg (queueRemap · c (agedCeiling m)) hvs), siteOf_congr rfl c, ?_⟩
  exact ceiling_stored (x := agedCeiling m) (siteOf_congr rfl c) (Tab.get_set_same none s.power.ceilings (siteOf s c) (some (agedCeiling m)))
    (h.le.trans (ceiling_le_fused s c))

/-- Settles O50: islands by the one change of an island, the loop by its arithmetic, limits by how they are stored, a ceiling by what
queues its remap. -/
theorem powerAndHeat : Obligations.PowerAndHeat := by
  unfold Obligations.PowerAndHeat
  refine ⟨⟨fun s i => ?_, fun s i draw => ⟨fun l hl hlt => ?_, fun h => ?_⟩⟩, ⟨fun s m w e => ?_, fun s m w e => ?_,
    fun p power core est => loopFrequency_floor p, fun p new => loopStep_bounds p new, fun s d m e he => ?_⟩, fun s cores w e hlen => ?_, fun s c m => ?_⟩
  · intro x f g
    refine ⟨fun hd hr => ?_, fun hr => next_congr (if_pos (by rw [hr, Bool.or_true])), fun hd => ⟨next_congr (if_pos (by rw [hd]; rfl)), fun hf => next_congr ?_,
      fun hf => next_congr ?_, fun hl => next_congr ?_, fun hs => next_congr ?_, fun hs => next_congr ?_, fun hl => next_congr ?_⟩,
      next_congr ?_, fun hr => next_congr (if_neg (by rw [hr]; decide)), fun y j => island_setIsland s i j y⟩
    · obtain ⟨h1, h2, h3⟩ := frequencyStep_moves hd hr
      exact ⟨fun h => next_congr (h1 h), fun h => next_congr (h2 h), fun h => next_congr (h3 h)⟩
    · exact (if_neg (by rw [hd, decide_eq_false (Nat.not_le.2 hf)]; decide))
    · exact (if_pos (by rw [decide_eq_true hf, Bool.or_true]))
    · exact droopClear_supply hd hl
    · exact droopClear_limit hd hs
    · exact droopClear_limit hd hs
    · exact droopClear_supply hd hl
    · simp [droop, droopIsland, x]
  · have hx : droop s i (.limit draw) = ((List.finRange 448).filter fun j => islandDie j == islandDie i).foldl (fun t j => droopIsland t j true) s :=
      if_pos (by rw [hl]; exact decide_eq_true hlt)
    refine ⟨_, next_congr hx, OnlyIslands.foldl (fun t j => OnlyIslands.setIsland t j _) _ s, fun j => ?_⟩
    rw [island_foldl_droop ((List.nodup_finRange 448).filter _)]
    simp
  · refine next_congr (if_neg fun hx => ?_)
    obtain ⟨l, hl, hlt⟩ := (Option.any_eq_true _ _).1 hx
    exact Nat.not_lt.2 (h l hl) (of_decide_eq_true hlt)
  · intro q
    obtain ⟨f, ft, duty, hx⟩ := capLoop_eq s q
    have hr := OnlyIslands.retarget ({ s with free := f }.setPower { s.power with
      ft := ft, duty := duty, cap := s.power.capReady, estimated := s.power.estimatedReady
      dieLimit := some ((1020 * s.power.capReady - externalPower s q) / 2) })
    rw [← hx] at hr
    exact ⟨capLoop s q, rfl, by rw [hr]; rfl, by rw [hr]; rfl, by rw [hr]; rfl⟩
  · intro q after
    refine next_congr ?_
    unfold capLoop
    dsimp only
    cases loopFrequency s.power (loopPower s q) (corePower s q) (estimate s q)
    · rfl
    · rfl
  · intro old
    refine ⟨newGain old (old * m / e), next_congr ?_, newGain_bounds ..⟩
    have hold : gain s.power d.val = old := by
      simp only [gain, old, Fin.ext_iff, Fin.val_zero]
    unfold calibrate
    dsimp only
    rw [if_neg he, hold]
  · refine ⟨_, next_congr (thermalRead_eq s cores w e), rfl, rfl, rfl, fun c => ?_⟩
    intro hot l
    have hhot : hottest cores w e c = hot := by
      simp only [hottest, hot, List.getD_eq_getElem?_getD, List.getElem?_eq_getElem (hlen.symm ▸ c.isLt : c.val < cores.length), Option.getD_some]
    have hstored := get_foldl_cores (storedLimit s cores w e) c
    have hread : l = min (nextLimit (thermalLimit s c) (ceiling s c) (hottest cores w e c)) (ceiling s c) := by
      refine thermalLimit_read s _ c _ rfl rfl ?_
      dsimp only
      rw [hstored]
      rfl
    rw [hhot] at hread
    have hle := thermalLimit_le s c
    rw [hread]
    unfold nextLimit degrees
    refine ⟨fun h => ?_, fun h => ?_, fun h1 h2 => ?_⟩
    · rw [if_pos h]
    · rw [if_neg (by omega), if_pos h]
      omega
    · rw [if_neg (by omega), if_neg (by omega)]
      omega
  · intro new site
    refine ⟨fun h => next_congr (if_pos h), fun h => ?_⟩
    obtain ⟨is, hx, hsite, hceil⟩ := ageing_falls (s := s) (c := c) (m := m) h
    obtain ⟨q, l, b, hq, hin, hkeep⟩ := queueRemap_eq (s.setPower { s.power with
      islands := is, ceilings := Tab.set none s.power.ceilings (siteOf s c) (some (agedCeiling m)) }) c (agedCeiling m)
    rw [hsite] at hin hkeep
    exact ⟨_, next_congr (hx.trans hq), (ceiling_congr rfl rfl c).trans hceil, hin, hkeep, rfl, rfl, rfl⟩

end Sys2Proof.Machine
end

section
/-!
LEMMA. Roles and attestation (17).
-/
namespace Sys2Proof.Machine

/-! ### SPDM (R486, R487, R495) -/

/-- A request is one of the two that are signed. -/
def Signed (q : List Byte) : Prop := SP.code q = SP.challenge ∨ SP.code q = SP.getMeasurements

theorem signedOps_contains (q : List Byte) : spdmSignedOps.contains (SP.code q) = true ↔ Signed q := by
  simp [spdmSignedOps, Signed]

theorem signedOps_not_contains {q : List Byte} (h : ¬ Signed q) : spdmSignedOps.contains (SP.code q) = false :=
  eq_false_of_ne_true fun hx => h ((signedOps_contains q).1 hx)

section
variable {s : State} {q : List Byte}

/-- While debug is open nothing is signed. -/
theorem spdmAnswer_debug (h : Signed q) (hd : s.sec.debugOpen = true) : spdmAnswer s q = spdmError 0x05 0 :=
  if_pos (by rw [(signedOps_contains q).2 h, hd]; rfl)

theorem spdmAnswer_past_debug (h : ¬ Signed q ∨ s.sec.debugOpen = false) : spdmAnswer s q =
    if SP.code q ≠ SP.getVersion ∧ SP.version q ≠ 0x13 then spdmError 0x41 0
    else if spdmOtherSlot q then spdmError 0x01 0
    else if spdmSignedOps.contains (SP.code q) then
      Config.spdmSigned q ((List.range 7).map fun i => s.meas (i + 1)) Config.certChain ((s.sec.idKey.map (·.2)).getD [])
    else if spdmPlainOps.contains (SP.code q) then Config.spdmPlain q Config.certChain spdmAlgorithms
    else spdmError 0x07 (SP.code q) := by
  refine if_neg fun hx => ?_
  obtain ⟨hs, hd⟩ := Bool.and_eq_true_iff.1 hx
  exact h.elim (fun h => h ((signedOps_contains q).1 hs)) fun h => Bool.noConfusion (h.symm.trans hd)

theorem spdmAnswer_version (h : ¬ Signed q ∨ s.sec.debugOpen = false) (hc : SP.code q ≠ SP.getVersion) (hv : SP.version q ≠ 0x13) :
    spdmAnswer s q = spdmError 0x41 0 := (spdmAnswer_past_debug h).trans (if_pos ⟨hc, hv⟩)

/-- A request whose version does. -/
theorem spdmAnswer_slot (h : ¬ Signed q ∨ s.sec.debugOpen = false) (hv : SP.code q = SP.getVersion ∨ SP.version q = 0x13)
    (hs : spdmOtherSlot q = true) : spdmAnswer s q = spdmError 0x01 0 :=
  (spdmAnswer_past_debug h).trans ((if_neg fun hx => hv.elim hx.1 hx.2).trans (if_pos hs))

theorem spdmAnswer_form (h : ¬ Signed q ∨ s.sec.debugOpen = false) (hv : SP.code q = SP.getVersion ∨ SP.version q = 0x13)
    (hs : spdmOtherSlot q = false) : spdmAnswer s q = if spdmSignedOps.contains (SP.code q) then
      Config.spdmSigned q ((List.range 7).map fun i => s.meas (i + 1)) Config.certChain ((s.sec.idKey.map (·.2)).getD [])
    else if spdmPlainOps.contains (SP.code q) then Config.spdmPlain q Config.certChain spdmAlgorithms
    else spdmError 0x07 (SP.code q) :=
  (spdmAnswer_past_debug h).trans ((if_neg fun hx => hv.elim hx.1 hx.2).trans (if_neg (ne_true_of_eq_false hs)))

end

/-- What names a certificate slot. -/
theorem spdmOtherSlot_eq_false {q : List Byte} (hc : SP.code q = SP.challenge → SP.slot q = 0) (hg : SP.code q ≠ SP.getCertificate) :
    spdmOtherSlot q = false := by
  unfold spdmOtherSlot
  rw [beq_false_of_ne hg, Bool.or_false]
  by_cases h : SP.code q = SP.challenge
  case pos => rw [hc h, bne_self_eq_false, Bool.and_false]
  case neg => rw [beq_false_of_ne h, Bool.false_and]

/-- The requests that are answered without a signature and name no slot. -/
theorem spdmAnswer_plain {s : State} {q : List Byte} (hv : SP.code q = SP.getVersion ∨ SP.version q = 0x13)
    (hc : SP.code q ∈ [SP.getVersion, SP.getCapabilities, SP.negotiateAlgorithms, SP.getDigests]) :
    spdmAnswer s q = Config.spdmPlain q Config.certChain spdmAlgorithms := by
  have apart : ∀ x, x ∉ [SP.getVersion, SP.getCapabilities, SP.negotiateAlgorithms, SP.getDigests] → SP.code q ≠ x := fun x hx h => hx (h ▸ hc)
  have hn : ¬ Signed q := fun h => h.elim (apart _ (by decide)) (apart _ (by decide))
  refine (spdmAnswer_form (.inl hn) hv (spdmOtherSlot_eq_false (fun h => absurd h (apart _ (by decide))) (apart _ (by decide)))).trans
    ((if_neg (ne_true_of_eq_false (signedOps_not_contains hn))).trans (if_pos ?_))
  have hall : ∀ x ∈ [SP.getVersion, SP.getCapabilities, SP.negotiateAlgorithms, SP.getDigests], spdmPlainOps.contains x = true := by decide
  exact hall _ hc

theorem attestation (s : State) (q : List Byte) :
    let signed := SP.code q = SP.challenge ∨ SP.code q = SP.getMeasurements
    let error := fun (n : Byte) (d : Byte) => ([0x13, 0x7F, n, d] : List Byte)
    (signed → s.sec.debugOpen = true → spdmAnswer s q = error 0x05 0) ∧
    (signed → s.sec.debugOpen = false → SP.version q = 0x13 → (SP.code q = SP.challenge → SP.slot q = 0) → spdmAnswer s q =
      Config.spdmSigned q [s.meas 1, s.meas 2, s.meas 3, s.meas 4, s.meas 5, s.meas 6, s.meas 7] Config.certChain
        ((s.sec.idKey.map (·.2)).getD [])) ∧
    (¬signed → SP.code q ≠ SP.getVersion → SP.version q ≠ 0x13 → spdmAnswer s q = error 0x41 0) ∧
    (SP.code q = SP.getCertificate → SP.version q = 0x13 → SP.slot q ≠ 0 → spdmAnswer s q = error 0x01 0) ∧
    (SP.code q = SP.challenge → s.sec.debugOpen = false → SP.version q = 0x13 → SP.slot q ≠ 0 → spdmAnswer s q = error 0x01 0) ∧
    (SP.version q = 0x13 → ¬signed → SP.code q ∉ [SP.getVersion, SP.getCapabilities, SP.negotiateAlgorithms, SP.getDigests, SP.getCertificate] →
      spdmAnswer s q = error 0x07 (BitVec.ofNat 8 (SP.code q))) ∧
    (SP.code q = SP.getVersion ∨ (SP.version q = 0x13 ∧ SP.code q ∈ [SP.getCapabilities, SP.negotiateAlgorithms, SP.getDigests]) →
      spdmAnswer s q = Config.spdmPlain q Config.certChain [0x13, 0x5A52, 0x0001]) := by
  intro signed error
  refine ⟨fun h hd => spdmAnswer_debug h hd, fun h hd hv hc => ?_, fun h hc hv => spdmAnswer_version (.inl h) hc hv, fun hc hv hs => ?_,
    fun hc hd hv hs => ?_, fun hv h hc => ?_, fun h => ?_⟩
  · have hg : SP.code q ≠ SP.getCertificate := fun hg => by
      rcases h with h | h <;> exact absurd (hg.symm.trans h) (by decide)
    exact (spdmAnswer_form (.inr hd) (.inr hv) (spdmOtherSlot_eq_false hc hg)).trans (if_pos ((signedOps_contains q).2 h))
  · have hn : ¬ Signed q := fun h => by
      rcases h with h | h <;> exact absurd (hc.symm.trans h) (by decide)
    exact spdmAnswer_slot (.inl hn) (.inr hv) (by simp [spdmOtherSlot, hc, hs])
  · exact spdmAnswer_slot (.inr hd) (.inr hv) (by simp [spdmOtherSlot, hc, hs])
  · simp only [List.mem_cons, List.not_mem_nil, or_false, not_or] at hc
    obtain ⟨h1, h2, h3, h4, h5⟩ := hc
    refine (spdmAnswer_form (.inl h) (.inr hv) (spdmOtherSlot_eq_false (fun hx => absurd (.inl hx) h) h5)).trans
      ((if_neg (ne_true_of_eq_false (signedOps_not_contains h))).trans (if_neg ?_))
    simp [spdmPlainOps, h1, h2, h3, h4, h5]
  · have hcode : SP.code q ∈ [SP.getVersion, SP.getCapabilities, SP.negotiateAlgorithms, SP.getDigests] :=
      h.elim (fun h => h ▸ List.mem_cons_self) fun h => List.mem_cons_of_mem _ h.2
    exact spdmAnswer_plain (h.imp id And.left) hcode

/-! ### Roles (R489 to R493) -/

section
variable {s : State} {r : CmdRef} {c : Cmd}

theorem challenge_sent (h : Startable s r 0x0801 c) : ∃ t : State, exec (.roleChallenge r) s = .next (t.finish r {}) ∧
    t.sec.challenges = s.sec.challenges + 1 ∧ t.cmds = s.cmds ∧ t.sec.role = s.sec.role ∧
    ∃ x, t.sec.challenge = some (x, BitVec.ofNat 2 (fld c.payload 0 2), s.time) ∧ fld x 256 64 = fuse s FU.serial 0 % 2 ^ 64 ∧
      fld x 320 2 = fld c.payload 0 2 ∧ fld x 512 64 = (s.sec.challenges + 1).toNat ∧
      t.hostOut = s.hostOut ++ [HostOut.bytes (BitVec.ofNat 64 (fld c.payload 128 64)) (toBytes x 128)] := by
  refine ⟨_, next_congr (State.take_start _ h), rfl, rfl, rfl, _, rfl, ?_, ?_, ?_, rfl⟩
  · exact fld_word 1024 _ 1 rfl rfl (by decide)
  · exact (fld_word 1024 _ 2 rfl rfl (by decide)).trans (Nat.mod_mod ..)
  · exact (fld_word 1024 _ 3 rfl rfl (by decide)).trans (Nat.mod_eq_of_lt (BitVec.isLt _))

theorem responseReason_none {role : Nat} {b : List Byte} (h : s.sec.challenge = none) : responseReason s role b = 2 := by
  rw [responseReason, h]

theorem responseReason_some {role : Nat} {b : List Byte} {x : BitVec 1024} {k : BitVec 2} {t : Dword} (h : s.sec.challenge = some (x, k, t)) :
    responseReason s role b = if k.toNat ≠ role ∨ within60 s t = false then 2 else if credentialOk s role b = false then 3
      else if signaturesOk x b = false then 4 else 0 := by
  rw [responseReason, h]
  simp only [Bool.not_eq_true']

/-- The third refusal within 60 s locks challenges out. -/
theorem countRefusal_locks (x : Security) (h : 2 ≤ (x.refusals.filter (within60 s)).length) : (countRefusal x s.time).lockout = some s.time :=
  if_pos (Nat.succ_le_succ h)

theorem countRefusal_kept (x : Security) (now : Dword) : (countRefusal x now).challenge = x.challenge ∧ (countRefusal x now).role = x.role ∧
    (countRefusal x now).auditQ = x.auditQ := ⟨rfl, rfl, rfl⟩

theorem response_settles {b : List Byte} (h : Startable s r 0x0802 c) (hb : b.length = 11910) :
    let why := responseReason s (fld c.payload 0 2) b
    ∃ t : State, exec (.roleResponse r b) s = .next t ∧ t.sec.challenge = none ∧ t.sec.role = s.sec.role ∧
      t.sec.auditQ.length = s.sec.auditQ.length + 1 ∧
      (if why = 0 then t.cmd? r = some { c with phase := .ending {}, data := b }
       else t.cmd? r = some { c with phase := .ending { status := St.roleDenied, detail := BitVec.ofNat 32 why } } ∧
        (2 ≤ (s.sec.refusals.filter (within60 s)).length → t.sec.lockout = some s.time)) := by
  intro why
  by_cases hw : why = 0
  case pos =>
    refine ⟨_, next_congr ((State.take_start _ h).trans ((if_neg (not_not.2 hb)).trans (if_pos hw))), rfl, rfl, List.length_append, ?_⟩
    rw [if_pos hw]
    exact (State.cmd_updCmd_same _ r (fun c => { c with phase := .ending {}, data := b }) fun _ => rfl).trans (congrArg (Option.map _) h.1)
  case neg =>
    refine ⟨_, next_congr ((State.take_start _ h).trans ((if_neg (not_not.2 hb)).trans (if_neg hw))), rfl, rfl, List.length_append, ?_⟩
    rw [if_neg hw]
    exact ⟨State.cmd_setPhase_same _ h.1, countRefusal_locks _⟩

theorem auditKind_auditRecord (s : State) (kind opcode status detail : Nat) (cred : Dword) (hash : BitVec 512) :
    auditKind (auditRecord s kind opcode status detail cred hash) = kind % 2 ^ 8 := fld_word 2048 _ 1 rfl rfl (by decide)

theorem drop_queued (h : Startable s r 0x0803 c) : ∃ x : BitVec 2048, auditKind x = AK.dropped ∧ exec (.roleDrop r) s =
    .next ((s.setSec { s.sec with auditQ := s.sec.auditQ ++ [(x, some r)] }).setPhase r (.ending {})) :=
  ⟨_, auditKind_auditRecord .., next_congr (State.take_start _ h)⟩

theorem lapse_queued (hr : s.sec.role ≠ .operator) (ht : 1800000000 ≤ (s.time - s.sec.grantTime).toNat) (hw : roleRecordWaits s = false) :
    ∃ x : BitVec 2048, auditKind x = AK.dropped ∧
      exec .roleLapse s = .next (s.setSec { s.sec with auditQ := s.sec.auditQ ++ [(x, none)] }) := by
  have hx : (roleExpired s && !roleRecordWaits s) = true := by
    rw [roleExpired, bne_iff_ne.2 hr, decide_eq_true ht, hw]
    rfl
  exact ⟨_, auditKind_auditRecord .., next_congr (if_pos hx)⟩

theorem lapse_kept (h : s.sec.role = .operator ∨ (s.time - s.sec.grantTime).toNat < 1800000000) : exec .roleLapse s = .next s := by
  have hx : roleExpired s = false := by
    rcases h with h | h
    · rw [roleExpired, h]
      rfl
    · rw [roleExpired, decide_eq_false (Nat.not_le.2 h), Bool.and_false]
  exact next_congr (if_neg (by rw [hx, Bool.false_and]; decide))

end

/-- Settles O53: roles by what each command queues, a response by its first failing reason, an SPDM request by the order of its checks. -/
theorem rolesAndAttestation : Obligations.RolesAndAttestation := by
  unfold Obligations.RolesAndAttestation
  refine ⟨fun s r c => ⟨challenge_sent, fun b h hb => response_settles h hb, fun l x p hl hw => ?_, fun role b => ⟨responseReason_none,
    fun x k t h => responseReason_some h⟩, drop_queued, lapse_queued, lapse_kept⟩, fun s r c q h hq => ?_, attestation⟩
  · refine if_pos ?_
    rw [lockedOut, hl]
    exact hw
  · exact next_congr ((State.take_start _ h).trans (if_neg (not_not.2 hq)))

end Sys2Proof.Machine
end

section
/-!
LEMMA. Fuses and the audit log (17).
-/
namespace Sys2Proof.Machine

/-! ### Fuses (R477, R478) -/

theorem testBit_fuse_setFuse (s : State) (f i v n : Nat) :
    (fuse (setFuse s f i v) f i).testBit n = true ↔ (fuse s f i).testBit n = true ∨ (fuseMask f v).testBit n = true := by
  unfold fuse
  rw [show Tab.get 0 (setFuse s f i v).sec.fuses (256 * f + i) = Tab.get 0 s.sec.fuses (256 * f + i) ||| fuseMask f v from Tab.get_set_same ..]
  simp only [Nat.testBit_or, Bool.or_eq_true]
  exact or_right_comm

theorem fuse_setFuse_ne (s : State) {f g i j : Nat} (v : Nat) (hi : i < 256) (hj : j < 256) (h : g ≠ f ∨ j ≠ i) :
    fuse (setFuse s f i v) g j = fuse s g j := by
  have hk : 256 * g + j ≠ 256 * f + i := by omega
  unfold fuse
  rw [show Tab.get 0 (setFuse s f i v).sec.fuses (256 * g + j) = Tab.get 0 s.sec.fuses (256 * g + j) from Tab.get_set_ne _ _ _ hk]

/-! ### Durable records (R497 to R500) -/

/-- A field that takes a whole bit vector. -/
theorem fld_put_toNat {n m : Nat} (v : BitVec n) (lo : Nat) (x : BitVec m) (h : lo + m ≤ n) : fld (put v lo m x.toNat) lo m = x.toNat := by
  rw [fld_put_same _ _ _ _ h]
  exact Nat.mod_eq_of_lt x.isLt

/-- A record keeps what it says, but for its SEQ and PREV. -/
theorem fld_numbered (s : State) (r : BitVec 2048) {lo w : Nat} (h1 : 64 ≤ lo) (h2 : lo + w ≤ 832) : fld (numbered s r) lo w = fld r lo w := by
  unfold numbered
  dsimp only
  rw [fld_put_apart _ _ _ _ _ _ (.inl h2), fld_put_apart _ _ _ _ _ _ (.inr (by omega))]

theorem numbered_seq (s : State) (r : BitVec 2048) : fld (numbered s r) 0 64 = s.sec.auditNext.toNat := by
  unfold numbered
  dsimp only
  rw [fld_put_apart _ _ _ _ _ _ (.inl (by decide))]
  exact fld_put_toNat r 0 s.sec.auditNext (by decide)

theorem numbered_prev (s : State) (r : BitVec 2048) : fld (numbered s r) 832 512 = if s.sec.auditNext.toNat = 0 then 0
    else (Config.sha3 (toBytes (Tab.get 0 s.sec.auditLog ((s.sec.auditNext.toNat - 1) % 16384)) 256)).toNat := by
  unfold numbered
  dsimp only
  refine (fld_put_toNat (n := 2048) (m := 512) _ 832 _ (by decide)).trans ?_
  by_cases h : s.sec.auditNext.toNat = 0
  case pos => 
    rw [if_pos h, if_pos h]
    exact BitVec.toNat_zero
  case neg => rw [if_neg h, if_neg h]

theorem fld_dropFields_kept (s : State) {r : BitVec 2048} (h : auditKind r ≠ AK.dropped) : dropFields s r = r := if_neg h

theorem dropFields_dropped (s : State) {r : BitVec 2048} (h : auditKind r = AK.dropped) :
    fld (dropFields s r) 136 2 = roleCode s.sec.role ∧ fld (dropFields s r) 256 64 = s.sec.credId.toNat := by
  rw [dropFields, if_pos h]
  refine ⟨?_, ?_⟩
  · rw [fld_put_apart _ _ _ _ _ _ (.inl (by decide)), fld_put_same _ _ _ _ (by decide)]
    cases s.sec.role <;> rfl
  · exact fld_put_toNat _ 256 s.sec.credId (by decide)

/-- The log after a record is written, and what else of the state that touches. -/
theorem writeAudit_log (s : State) (r : BitVec 2048) :
    let t := writeAudit s r
    let n := s.sec.auditNext.toNat
    Tab.get 0 t.sec.auditLog (n % 16384) = numbered s r ∧ (∀ i, i ≠ n % 16384 → Tab.get 0 t.sec.auditLog i = Tab.get 0 s.sec.auditLog i) ∧
    t.meas 7 = Config.sha3 (toBytes (numbered s r) 256) := by
  refine ⟨Tab.get_set_same .., fun i hi => Tab.get_set_ne _ _ _ hi, Tab.get_set_same ..⟩

/-- What waited for a durable record touches its command, and a grant the role. -/
theorem auditDone_eq (s : State) (k : Nat) (c : Cmd) : ∃ l ρ g i, auditDone s k c = { s with
      cmds := l, sec := { s.sec with role := ρ, grantTime := g, credId := i } } ∧
    (k ≠ AK.granted → ρ = s.sec.role ∧ i = s.sec.credId) := by
  unfold auditDone
  cases c.phase
  case ending x =>
    dsimp only
    by_cases h : k = AK.begin'
    case pos =>
      rw [if_pos h]
      exact ⟨_, _, _, _, rfl, fun _ => ⟨rfl, rfl⟩⟩
    case neg =>
      rw [if_neg h]
      by_cases hg : k = AK.granted
      case pos =>
        rw [if_pos hg]
        exact ⟨_, _, _, _, rfl, fun hn => absurd hg hn⟩
      case neg =>
        rw [if_neg hg]
        exact ⟨_, _, _, _, rfl, fun _ => ⟨rfl, rfl⟩⟩
  all_goals exact ⟨_, _, _, _, rfl, fun _ => ⟨rfl, rfl⟩⟩

/-- A record is written before what waited for it goes on. -/
def written (s : State) (r : BitVec 2048) : State :=
  if auditKind r = AK.dropped then loseRole (writeAudit s (dropFields s r)) else writeAudit s (dropFields s r)

theorem written_eq (s : State) (r : BitVec 2048) : ∃ l m ρ i, written s r = { s with
      sec := { s.sec with auditLog := l, auditNext := s.sec.auditNext + 1, meas := m, role := ρ, credId := i } } ∧
    (auditKind r ≠ AK.dropped → ρ = s.sec.role) ∧ (auditKind r = AK.dropped → ρ = .operator ∧ i = 0) ∧
    (let n := s.sec.auditNext.toNat
     Tab.get 0 l (n % 16384) = numbered s (dropFields s r) ∧ (∀ i, i ≠ n % 16384 → Tab.get 0 l i = Tab.get 0 s.sec.auditLog i) ∧
     Tab.get 0 m 7 = Config.sha3 (toBytes (numbered s (dropFields s r)) 256)) := by
  have hlog := writeAudit_log s (dropFields s r)
  by_cases h : auditKind r = AK.dropped
  case pos => exact ⟨_, _, _, _, if_pos h, fun hn => absurd h hn, fun _ => ⟨rfl, rfl⟩, hlog⟩
  case neg => exact ⟨_, _, _, _, if_neg h, fun _ => rfl, fun hn => absurd hn h, hlog⟩

section
variable {s : State} {x : BitVec 2048} {ref : Option CmdRef} {rest : List (BitVec 2048 × Option CmdRef)}

/-- The log without the record at its front. -/
def dequeued (s : State) (rest : List (BitVec 2048 × Option CmdRef)) : State := s.setSec { s.sec with auditQ := rest }

theorem auditDurable_written (hq : s.sec.auditQ = (x, ref) :: rest) : auditDurable s true =
    (ref.bind s.cmd?).elim (written (dequeued s rest) x) fun c => auditDone (written (dequeued s rest) x) (auditKind x) c := by
  unfold auditDurable auditWritten
  rw [hq]
  dsimp only
  rw [if_pos rfl, show (ref.bind fun y => (s.setSec { s.sec with auditQ := rest }).cmd? y) = ref.bind s.cmd? from rfl]
  cases ref.bind s.cmd? <;> rfl

theorem auditDurable_lost (hq : s.sec.auditQ = (x, ref) :: rest) : auditDurable s false =
    (ref.bind s.cmd?).elim (auditLost (dequeued s rest) x none) fun c => auditFailed (auditLost (dequeued s rest) x (some c)) (auditKind x) c := by
  unfold auditDurable
  rw [hq]
  dsimp only
  rw [if_neg (by decide), show (ref.bind fun y => (s.setSec { s.sec with auditQ := rest }).cmd? y) = ref.bind s.cmd? from rfl]
  cases ref.bind s.cmd? <;> rfl

end

/-- What waited goes on: which command, and to what. -/
theorem auditDone_cmd {s : State} {r : CmdRef} {c : Cmd} (k : Nat) (h : s.cmd? r = some c) :
    (c.phase = .begun → (auditDone s k c).cmd? r = some { c with phase := .cleared }) ∧
    (∀ z, c.phase = .ending z → k ≠ AK.begin' → (auditDone s k c).cmd? r = some { c with phase := .done z }) ∧
    (∀ z, c.phase = .ending z → k = AK.granted → (auditDone s k c).sec.role = roleOf (credRole c.data) ∧ (auditDone s k c).sec.grantTime = s.time) := by
  have hr : c.ref = r := ref_of_cmd h
  refine ⟨fun hp => ?_, fun z hp hk => ?_, fun z hp hk => ?_⟩
  · rw [auditDone, hp, hr]
    exact State.cmd_setPhase_same _ h
  · rw [auditDone, hp, hr]
    dsimp only
    rw [if_neg hk]
    refine State.cmd_setPhase_same _ ?_
    split
    · exact h
    · exact h
  · rw [auditDone, hp]
    dsimp only
    rw [if_neg (by rw [hk]; decide), if_pos hk]
    exact ⟨rfl, rfl⟩

theorem auditFailed_eq (s : State) (k : Nat) (c : Cmd) : ∃ l, auditFailed s k c = { s with cmds := l } := by
  unfold auditFailed
  cases c.phase
  case ending x =>
    dsimp only
    split
    · exact ⟨_, rfl⟩
    · exact ⟨_, rfl⟩
  all_goals exact ⟨_, rfl⟩

theorem auditFailed_cmd {s : State} {r : CmdRef} {c : Cmd} {k : Nat} (h : s.cmd? r = some c)
    (hp : c.phase = .begun ∨ ((∃ z, c.phase = .ending z) ∧ k ≠ AK.begin')) :
    (auditFailed s k c).cmd? r = some { c with phase := .done { status := St.roleDenied, detail := 6 } } := by
  have hx : auditFailed s k c = s.setPhase c.ref (.done { status := St.roleDenied, detail := 6 }) := by
    rcases hp with hp | ⟨⟨z, hp⟩, hk⟩
    · rw [auditFailed, hp]
    · rw [auditFailed, hp]
      exact if_neg hk
  rw [hx, ref_of_cmd h]
  exact State.cmd_setPhase_same _ h

/-- Settles O52: fuses bit by bit; a durable record by how it is written and by what it lets its command do. -/
theorem auditLogAndFuses : Obligations.AuditLogAndFuses := by
  unfold Obligations.AuditLogAndFuses
  refine ⟨fun s f i v hi => ⟨fun n h => (testBit_fuse_setFuse s f i v n).2 (.inl h), testBit_fuse_setFuse s f i v,
    fun g j hj h => fuse_setFuse_ne s v hi hj h⟩, fun s x ref rest hq => ?_⟩
  intro n
  refine ⟨?_, ?_⟩
  case refine_1 =>
    obtain ⟨l, m, ρ, i, hw, hrole, hdrop, hself, hother, hmeas⟩ := written_eq (dequeued s rest) x
    have hdone : ∃ cl g j σ, auditDurable s true = { written (dequeued s rest) x with
          cmds := cl, sec := { (written (dequeued s rest) x).sec with role := σ, grantTime := g, credId := j } } ∧
        (auditKind x ≠ AK.granted → σ = ρ ∧ j = i) := by
      rw [auditDurable_written hq]
      cases ref.bind s.cmd?
      case none => exact ⟨s.cmds, s.sec.grantTime, i, ρ, hw ▸ rfl, fun _ => ⟨rfl, rfl⟩⟩
      case some c =>
        obtain ⟨cl, σ, g, j, e, hσ⟩ := auditDone_eq (written (dequeued s rest) x) (auditKind x) c
        refine ⟨cl, g, j, σ, e, fun hk => ?_⟩
        obtain ⟨h1, h2⟩ := hσ hk
        rw [hw] at h1 h2
        exact ⟨h1, h2⟩
    obtain ⟨cl, g, j, σ, e, hσ⟩ := hdone
    rw [hw] at e
    refine ⟨auditDurable s true, rfl, by rw [e]; rfl, by rw [e]; rfl, fun k hk => by rw [e]; exact hother k hk, ?_, fun hg hd => ?_, by rw [e]; rfl, by rw [e]; rfl,
      fun r c hr hc => ?_⟩
    · have hy : Tab.get 0 (auditDurable s true).sec.auditLog (n % 16384) = numbered s (dropFields s x) := by
        rw [e]
        exact hself
      have hm : (auditDurable s true).meas 7 = Config.sha3 (toBytes (numbered s (dropFields s x)) 256) := by
        rw [e]
        exact hmeas
      intro y
      have hy' : y = numbered s (dropFields s x) := hy
      clear_value y
      subst hy'
      refine ⟨numbered_seq _ _, fun hn => ?_, fun hn => ?_, hm, fun hd => ?_, fun hd => ?_⟩
      · exact (numbered_prev _ _).trans (if_neg hn.ne')
      · exact (numbered_prev _ _).trans (if_pos hn)
      · rw [fld_numbered _ _ (by decide) (by decide), fld_dropFields_kept _ hd]
      · obtain ⟨hr, hi⟩ := dropFields_dropped s hd
        obtain ⟨hσ1, hσ2⟩ := hσ (by rw [hd]; decide)
        obtain ⟨hρ1, hi1⟩ := hdrop hd
        rw [fld_numbered _ _ (by decide) (by decide), fld_numbered _ _ (by decide) (by decide), e]
        exact ⟨hr, hi, hσ1.trans hρ1, hσ2.trans hi1⟩
    · rw [e]
      exact (hσ hg).1.trans (hrole hd)
    · have hcw : (written (dequeued s rest) x).cmd? r = some c := by
        rw [hw]
        exact hc
      have hx : auditDurable s true = auditDone (written (dequeued s rest) x) (auditKind x) c := by
        rw [auditDurable_written hq, hr, Option.bind_some, hc]
        rfl
      rw [hx]
      obtain ⟨h1, h2, h3⟩ := auditDone_cmd (auditKind x) hcw
      refine ⟨h1, h2, fun z hz hk => ?_⟩
      obtain ⟨hρ, hg⟩ := h3 z hz hk
      exact ⟨hρ, hg.trans (by rw [hw]; rfl)⟩
  case refine_2 =>
    have hbb : ∀ c, (∃ b, auditLost (dequeued s rest) x c = { dequeued s rest with bb := b }) ∧
        (auditLost (dequeued s rest) x c).bb.total = s.bb.total + 1 := fun c => ⟨bbAppend_eq .., bbAppend_total ..⟩
    have hkept : (auditDurable s false).sec = (dequeued s rest).sec ∧ (auditDurable s false).bb.total = s.bb.total + 1 := by
      rw [auditDurable_lost hq]
      cases ref.bind s.cmd?
      case none =>
        obtain ⟨⟨b, hb⟩, ht⟩ := hbb none
        exact ⟨hb ▸ rfl, ht⟩
      case some c =>
        obtain ⟨⟨b, hb⟩, ht⟩ := hbb (some c)
        obtain ⟨l, hl⟩ := auditFailed_eq (auditLost (dequeued s rest) x (some c)) (auditKind x) c
        exact ⟨(congrArg (·.sec) hl).trans (show (auditLost _ _ _).sec = _ from congrArg (·.sec) hb), (congrArg (·.bb.total) hl).trans ht⟩
    refine ⟨auditDurable s false, rfl, hkept.1, hkept.2, fun r c hr hc hp => ?_⟩
    have hx : auditDurable s false = auditFailed (auditLost (dequeued s rest) x (some c)) (auditKind x) c := by
      rw [auditDurable_lost hq, hr, Option.bind_some, hc]
      rfl
    rw [hx]
    refine auditFailed_cmd ?_ hp
    obtain ⟨⟨b, hb⟩, -⟩ := hbb (some c)
    rw [hb]
    exact hc

end Sys2Proof.Machine
end

section
/-!
LEMMA. Installer and maker commands between BEGIN and END (16, 17).
-/
namespace Sys2Proof.Machine

section
variable {s : State} {r : CmdRef} {c : Cmd} {op : Nat} {host : List Byte} {act : Cmd → State → State}

/-- The BEGIN record of a command is queued, and the command waits for it. -/
def begun (s : State) (r : CmdRef) (c : Cmd) (host : List Byte) : State :=
  (queueAudit s (auditRecord s AK.begin' c.opcode 0 0 s.sec.credId (Config.sha3 (toBytes c.payload 48 ++ host))) (some r)).updCmd r fun c =>
    { c with phase := .begun, data := host }

theorem audited_waiting (h : s.cmd? r = some c) (ho : c.opcode = op) (hp : c.phase = .waiting) (hm : s.mayStart c = true) :
    audited s r op host act = begun s r c host := by
  subst ho
  unfold audited
  rw [h]
  dsimp only
  rw [if_neg (fun hn => hn rfl), hp]
  exact if_pos hm

theorem audited_cleared (h : s.cmd? r = some c) (ho : c.opcode = op) (hp : c.phase = .cleared) : audited s r op host act = act c s := by
  unfold audited
  rw [h]
  dsimp only
  rw [if_neg (not_not.2 ho), hp]

theorem isWaiting_eq_false (h : c.phase ≠ .waiting) : c.isWaiting = false := decide_eq_false h

theorem firmware_started {a : Nat} {fin : Cmd → State → State} (h : s.cmd? r = some c) (ha : FW.action c.payload = a) (hp : c.phase ≠ .running) :
    firmware s r a host act fin = audited s r 0x0905 host act := by
  unfold firmware
  rw [h]
  dsimp only
  rw [if_neg (not_not.2 ha), if_neg fun hx => hp hx.1]

theorem firmware_running {a : Nat} {fin : Cmd → State → State} (h : s.cmd? r = some c) (ha : FW.action c.payload = a) (hp : c.phase = .running)
    (ho : c.opcode = 0x0905) : firmware s r a host act fin = fin c s := by
  unfold firmware
  rw [h]
  dsimp only
  rw [if_neg (not_not.2 ha), if_pos ⟨hp, ho⟩]

/-- The bytes that STAGE reads are asked for at its start alone. -/
theorem firmwareStage_reads (h : s.cmd? r = some c) (hl : c.phase = .waiting → host.length = FW.length c.payload) :
    firmwareStage s r host = firmware s r 0 host stageImage stageDone := by
  unfold firmwareStage
  rw [h]
  refine if_neg fun hx => ?_
  obtain ⟨hw, hn⟩ := Bool.and_eq_true_iff.1 hx
  exact (bne_iff_ne.1 hn) (hl (of_decide_eq_true hw))

/-- What FUSE_PROGRAM does between its two records. -/
def programFuse (c : Cmd) (s : State) : State :=
  let t := setFuse s (FP.field c.payload) (FP.index c.payload) (ofBytes c.data)
  endAudit (measureFuses t t.sec.debugOpen) c {}

theorem fuseProgram_reads (h : s.cmd? r = some c) (hl : c.phase = .waiting → host.length = FP.length c.payload) :
    fuseProgram s r host = audited s r 0x0A01 host programFuse := by
  unfold fuseProgram
  rw [h]
  refine if_neg fun hx => ?_
  obtain ⟨hw, hn⟩ := Bool.and_eq_true_iff.1 hx
  exact (bne_iff_ne.1 hn) (hl (of_decide_eq_true hw))

/-- Every audited command begins alike. -/
theorem auditedCommands_begin (h : s.cmd? r = some c) (hp : c.phase = .waiting) (hm : s.mayStart c = true) (host : List Byte) :
    let begins := fun (i : Instr) (h : List Byte) => exec i s = .next (begun s r c h)
    (c.opcode = 0x0901 → begins (.powerSet r) []) ∧
    (c.opcode = 0x0902 → begins (.resetLimitsSet r) []) ∧
    (c.opcode = 0x0903 → begins (.linkConfigSet r) []) ∧
    (c.opcode = 0x0904 → begins (.routeDefaultsWrite r) []) ∧
    (c.opcode = 0x0905 → FW.action c.payload = 0 → host.length = FW.length c.payload → begins (.firmwareStage r host) host) ∧
    (c.opcode = 0x0905 → FW.action c.payload = 1 → begins (.firmwareActivate r) []) ∧
    (c.opcode = 0x0905 → FW.action c.payload = 2 → begins (.firmwareCommit r) []) ∧
    (c.opcode = 0x0906 → begins (.deadboltClear r) []) ∧
    (c.opcode = 0x0907 → begins (.remapCommit r) []) ∧
    (c.opcode = 0x0A01 → host.length = FP.length c.payload → begins (.fuseProgram r host) host) ∧
    (c.opcode = 0x0A02 → begins (.debugUnlock r) []) := by
  intro begins
  have hr : c.phase ≠ .running := by
    rw [hp]
    intro hx
    cases hx
  refine ⟨fun ho => next_congr (audited_waiting h ho hp hm), fun ho => next_congr (audited_waiting h ho hp hm),
    fun ho => next_congr (audited_waiting h ho hp hm), fun ho => next_congr (audited_waiting h ho hp hm), fun ho ha hl => ?_,
    fun ho ha => ?_, fun ho ha => ?_, fun ho => next_congr (audited_waiting h ho hp hm), fun ho => next_congr (audited_waiting h ho hp hm),
    fun ho hl => ?_, fun ho => next_congr (audited_waiting h ho hp hm)⟩
  · exact next_congr ((firmwareStage_reads h fun _ => hl).trans ((firmware_started h ha hr).trans (audited_waiting h ho hp hm)))
  · exact next_congr ((firmware_started h ha hr).trans (audited_waiting h ho hp hm))
  · exact next_congr ((firmware_started h ha hr).trans (audited_waiting h ho hp hm))
  · exact next_congr ((fuseProgram_reads h fun _ => hl).trans (audited_waiting h ho hp hm))

theorem ite_setSlot_debugOpen (p : Prop) [Decidable p] (t : State) (b : Bool) (x : Slot) :
    (if p then setSlot t b x else t).sec.debugOpen = t.sec.debugOpen := by
  by_cases h : p
  case pos =>
    rw [if_pos h]
    cases b <;> rfl
  case neg => rw [if_neg h]

/-- COMMIT without the record of its end. -/
theorem commitImage_eq (c : Cmd) (s : State) :
    let t := setFuse s FU.rollback 0 (raiseTo s.sec.runningSvn (fuse s FU.rollback 0))
    let x := getSlot t (idleSlot t)
    let u := if slotSvn x < s.sec.runningSvn then setSlot t (idleSlot t) { x with invalid := true } else t
    commitImage c s = endAudit (extend u 6 (Config.fuseDigest (securityFuses u) s.sec.debugOpen)) c {} := by
  intro t x u
  have hu : u.sec.debugOpen = s.sec.debugOpen := ite_setSlot_debugOpen _ t (idleSlot t) _
  show endAudit (extend u 6 (Config.fuseDigest (securityFuses u) u.sec.debugOpen)) c {} = _
  rw [hu]

end

section
variable {s : State} {r : CmdRef} {c : Cmd}

/-- What each command does between its two records. -/
theorem auditedCommands_act (h : s.cmd? r = some c) (hp : c.phase = .cleared) :
    let p := c.payload
    let acts := fun (i : Instr) (t : State) => exec i s = .next (endAudit t c {})
    (c.opcode = 0x0901 → acts (.powerSet r)
      (resettle s (s.setPower { s.power with capNext := 1200 + 25 * fld p 0 6, estimatedNext := bit p 8 }))) ∧
    (c.opcode = 0x0902 → acts (.resetLimitsSet r) (resettle s (s.setRst { s.rst with limit := fld p 0 4, windowMin := fld p 16 11 }))) ∧
    (c.opcode = 0x0903 → acts (.linkConfigSet r) (resettle s { s with fab := { s.fab with cfgNext := linkCfg p } })) ∧
    (c.opcode = 0x0904 → acts (.routeDefaultsWrite r)
      (resettle s { s with fab := { s.fab with routeDefaults := writeRoutes s.fab.routeDefaults p } })) ∧
    (∀ b, c.opcode = 0x0905 → FW.action p = 0 → exec (.firmwareStage r b) s =
      .next ((setSlot s (idleSlot s) { image := c.data, staged := false }).setPhase r .running)) ∧
    (c.opcode = 0x0905 → FW.action p = 1 → exec (.firmwareActivate r) s = .next ((openActive s).setPhase r .running)) ∧
    (c.opcode = 0x0905 → FW.action p = 2 →
      let t := setFuse s FU.rollback 0 (raiseTo s.sec.runningSvn (fuse s FU.rollback 0))
      let x := getSlot t (idleSlot t)
      let u := if slotSvn x < s.sec.runningSvn then setSlot t (idleSlot t) { x with invalid := true } else t
      acts (.firmwareCommit r) (extend u 6 (Config.fuseDigest (securityFuses u) s.sec.debugOpen))) ∧
    (c.opcode = 0x0906 →
      (s.rst.devWanted = none → exec (.deadboltClear r) s = .next ({ s with rst := { s.rst with
        deadbolt := false, enterDeadbolt := false, history := [], devWanted := some 4, devCmd := some r } }.setPhase r .running)) ∧
      (s.rst.devWanted.isSome = true → exec (.deadboltClear r) s = .next s)) ∧
    (c.opcode = 0x0907 → acts (.remapCommit r) (commitRemaps s)) ∧
    (∀ b, c.opcode = 0x0A01 →
      let t := setFuse s (FP.field p) (FP.index p) (ofBytes c.data)
      acts (.fuseProgram r b) (extend t 6 (Config.fuseDigest (securityFuses t) s.sec.debugOpen))) ∧
    (c.opcode = 0x0A02 →
      let t := extend s 6 (Config.fuseDigest (securityFuses s) true)
      acts (.debugUnlock r) (t.setSec { t.sec with debugOpen := true })) := by
  intro p acts
  have hr : c.phase ≠ .running := by
    rw [hp]
    intro hx
    cases hx
  have hw : c.phase ≠ .waiting := by
    rw [hp]
    intro hx
    cases hx
  have href : c.ref = r := ref_of_cmd h
  refine ⟨fun ho => next_congr (audited_cleared h ho hp), fun ho => next_congr (audited_cleared h ho hp),
    fun ho => next_congr (audited_cleared h ho hp), fun ho => next_congr (audited_cleared h ho hp), fun b ho ha => ?_,
    fun ho ha => ?_, fun ho ha => ?_, fun ho => ⟨fun hd => ?_, fun hd => ?_⟩, fun ho => next_congr (audited_cleared h ho hp),
    fun b ho => ?_, fun ho => next_congr (audited_cleared h ho hp)⟩
  · refine next_congr ((firmwareStage_reads h fun hx => absurd hx hw).trans ((firmware_started h ha hr).trans ((audited_cleared h ho hp).trans ?_)))
    exact congrArg (fun x => (setSlot s (idleSlot s) { image := c.data }).setPhase x .running) href
  · refine next_congr ((firmware_started h ha hr).trans ((audited_cleared h ho hp).trans ?_))
    exact congrArg (fun x => (openActive s).setPhase x .running) href
  · exact next_congr ((firmware_started h ha hr).trans ((audited_cleared h ho hp).trans (commitImage_eq c s)))
  · refine next_congr ((audited_cleared h ho hp).trans ((if_neg (by rw [hd]; decide)).trans ?_))
    rw [href]
    rfl
  · exact next_congr ((audited_cleared h ho hp).trans (if_pos hd))
  · exact next_congr ((fuseProgram_reads h fun hx => absurd hx hw).trans (audited_cleared h ho hp))

/-- The flash write of STAGE and of ACTIVATE is over. -/
theorem firmware_written (h : s.cmd? r = some c) (hp : c.phase = .running) (ho : c.opcode = 0x0905) :
    (∀ b, FW.action c.payload = 0 → exec (.firmwareStage r b) s =
      .next (endAudit (setSlot s (idleSlot s) { image := c.data, staged := (verified s c.data).isSome }) c
        (if (verified s c.data).isSome then {} else { status := St.payloadInvalid, detail := 2 }))) ∧
    (FW.action c.payload = 1 → exec (.firmwareActivate r) s = .next (endAudit (writeActive s (idleSlot s)) c {})) := by
  have hw : c.phase ≠ .waiting := by
    rw [hp]
    intro hx
    cases hx
  refine ⟨fun b ha => ?_, fun ha => ?_⟩
  · exact next_congr ((firmwareStage_reads h fun hx => absurd hx hw).trans (firmware_running h ha hp ho))
  · exact next_congr (firmware_running h ha hp ho)

end

/-- The checks of the audited commands that may fail. -/
theorem auditedCommands_refused (s : State) (x : CtxId) (p : BitVec 384) :
    let refused := fun (d : Word) => some ({ status := St.payloadInvalid, detail := d } : Record)
    let y := getSlot s (idleSlot s)
    (firmwareBusy s = true → ownCheck s x 0x0905 p = refused 4) ∧
    (firmwareBusy s = false →
      (FW.action p = 1 → y.staged = false ∨ y.invalid = true → ownCheck s x 0x0905 p = refused 3) ∧
      (FW.action p = 2 → s.sec.runningSvn ≤ rollbackCount s → ownCheck s x 0x0905 p = refused 5)) ∧
    (fuseTaken s p = true → ownCheck s x 0x0A01 p = refused 0) ∧
    (fuse s FU.debugDisable 0 ≠ 0 → ownCheck s x 0x0A02 p = some { status := St.roleDenied, detail := 7 }) := by
  intro refused y
  refine ⟨fun hb => if_pos hb, fun hb => ⟨fun ha hy => ?_, fun ha hn => ?_⟩, fun ht => if_pos ht, fun hf => if_pos hf⟩
  · refine (if_neg (ne_true_of_eq_false hb)).trans (if_pos ⟨ha, ?_⟩)
    rcases hy with hy | hy
    · exact (congrArg (· && !y.invalid) hy).trans (Bool.false_and _)
    · exact (congrArg (y.staged && !·) hy).trans (Bool.and_false _)
  · refine (if_neg (ne_true_of_eq_false hb)).trans ((if_neg fun hx => ?_).trans (if_pos ⟨ha, hn⟩))
    exact absurd (hx.1.symm.trans ha) (by decide)

/-- Settles O51: every command by the two ends of its audit, the middle by what it sets. -/
theorem auditedCommands : Obligations.AuditedCommands := by
  unfold Obligations.AuditedCommands
  exact ⟨fun s r c host h hp hm => auditedCommands_begin h hp hm host, fun s r c h hp => auditedCommands_act h hp,
    fun s r c h hp ho => firmware_written h hp ho, fun _ _ => rfl, auditedCommands_refused⟩

end Sys2Proof.Machine
end

section
/-!
LEMMA. The cores one by one, watchdogs of the grid and context stops (08, 15).
-/
namespace Sys2Proof.Machine

/-! ### Every core is changed by itself -/

/-- Some cores become what they become by themselves. -/
def updateCores (f : CoreId → Core → Core) (l : List CoreId) (s : State) : State := l.foldl (fun s i => s.setCore i (f i (s.core i))) s

section
variable (f : CoreId → Core → Core) {l : List CoreId} (s : State)

theorem core_updateCores_apart {i : CoreId} (h : i ∉ l) : (updateCores f l s).core i = s.core i :=
  foldl_keeps (get := fun t => t.core i) _ _ fun _ _ hx => State.core_setCore_ne _ _ _ _ fun he => h (he ▸ hx)

theorem core_updateCores {i : CoreId} (hl : l.Nodup) (h : i ∈ l) : (updateCores f l s).core i = f i (s.core i) := by
  induction l generalizing s with
  | nil => exact absurd h List.not_mem_nil
  | cons x l ih =>
    obtain ⟨hx, hl⟩ := List.nodup_cons.1 hl
    by_cases he : i = x
    case pos =>
      subst he
      exact (core_updateCores_apart f _ hx).trans (State.core_setCore_same ..)
    case neg =>
      refine (ih _ hl ((List.mem_cons.1 h).resolve_left he)).trans ?_
      rw [State.core_setCore_ne _ _ _ _ he]

/-- The cores alone change. -/
theorem updateCores_eq (l : List CoreId) : ∃ cs, updateCores f l s = { s with cores := cs } := by
  induction l generalizing s with
  | nil => exact ⟨s.cores, rfl⟩
  | cons x l ih =>
    obtain ⟨cs, h⟩ := ih (s.setCore x (f x (s.core x)))
    exact ⟨cs, h⟩

theorem core_update_allCores (i : CoreId) : (updateCores f allCores s).core i = f i (s.core i) :=
  core_updateCores f s (List.nodup_finRange 384) (List.mem_finRange i)

end

/-! ### Watchdogs of the grid (R430, R433, R434) -/

section
variable {s : State}

theorem sectionTimeout_faults (hl : sectionLive s = true) (hr : s.grid.replay = false) :
    exec .sectionTimeout s = .next (raiseFault s s.grid.ctx St.sectionTimeout) :=
  next_congr ((if_neg (by rw [hl]; decide)).trans (if_neg (ne_true_of_eq_false hr)))

theorem sectionTimeout_triggers (hl : sectionLive s = true) (hr : s.grid.replay = true) :
    exec .sectionTimeout s = .next (triggerEngine s 0 none 0 true) :=
  next_congr ((if_neg (by rw [hl]; decide)).trans (if_pos hr))

theorem coreProgress_triggers {c : CoreId} (h : progressWatched s c = true) :
    exec (.coreProgressTimeout c) s = .next (triggerEngine s 0 (some c) 0 false) := next_congr (if_pos h)

theorem coreProgress_idle {c : CoreId} (h : progressWatched s c = false) : exec (.coreProgressTimeout c) s = .next s :=
  next_congr (if_neg (ne_true_of_eq_false h))

theorem drainBound_triggers (h : s.grid.phase = .draining) : exec .drainBoundExpiry s = .next (triggerEngine s 1 none 0 false) :=
  next_congr (if_pos h)

end

theorem gridWatchdogs (s : State) :
    let triggers := fun (i : Instr) (trig : Nat) (core : Option CoreId) (no : Bool) => exec i s = .next { s with rst := { s.rst with
      eng := .triggered
      trigger := trig
      trigCore := core
      trigSeq := 0
      noReplay := no
      recovery := s.rst.replaying.isSome
      replaying := s.rst.replaying.map fun q => if q.outcome = 0 then { q with outcome := 3 } else q } }
    (sectionLive s = true → s.grid.replay = false → exec .sectionTimeout s = .next (raiseFault s s.grid.ctx St.sectionTimeout)) ∧
    (s.rst.eng = .idle → s.rst.dev = false →
      (sectionLive s = true → s.grid.replay = true → triggers .sectionTimeout 0 none true) ∧
      (∀ c, progressWatched s c = true → triggers (.coreProgressTimeout c) 0 (some c) false) ∧
      (s.grid.phase = .draining → triggers .drainBoundExpiry 1 none false)) ∧
    (∀ c, progressWatched s c = false → exec (.coreProgressTimeout c) s = .next s) ∧
    (s.rst.eng ≠ .idle → (∀ c, exec (.coreProgressTimeout c) s = .next s) ∧ exec .drainBoundExpiry s = .next s) := by
  intro triggers
  refine ⟨sectionTimeout_faults, fun he hd => ⟨fun hl hr => ?_, fun c hc => ?_, fun hp => ?_⟩, fun c => coreProgress_idle, fun he => ⟨fun c => ?_, ?_⟩⟩
  · exact (sectionTimeout_triggers hl hr).trans (next_congr (triggerEngine_idle he hd ..))
  · exact (coreProgress_triggers hc).trans (next_congr (triggerEngine_idle he hd ..))
  · exact (drainBound_triggers hp).trans (next_congr (triggerEngine_idle he hd ..))
  · by_cases hc : progressWatched s c = true
    case pos => exact (coreProgress_triggers hc).trans (next_congr (triggerEngine_joins he ..))
    case neg => exact coreProgress_idle (eq_false_of_ne_true hc)
  · by_cases hp : s.grid.phase = .draining
    case pos => exact (drainBound_triggers hp).trans (next_congr (triggerEngine_joins he ..))
    case neg => exact next_congr (if_neg hp)

/-! ### Context stops (R429, R431) -/

/-- A core that a context stop has reached. -/
def Core.stopped (k : Core) : Core :=
  { k with active := false, arrayQ := [], flight := [], sends := [], recvs := [], tile := none, parked := none,
           deferred := [], fencing := false, waiting := 0, stall := none, heldBy := [], moves := 0, moveRows := [], stashes := 0 }

/-- Whose requests a context's stop abandons. -/
def Issuer.ofRun (c : CtxId) : Issuer → Bool
  | .gatherHdr d _ _ => d == c
  | .gatherRow d _ _ _ => d == c
  | .exch d _ => d == c
  | .notice d => d == c
  | _ => false

theorem abandonRun_reqs (s : State) (c : CtxId) : (abandonRun s c).fab.reqs = s.fab.reqs.map fun r =>
    if Issuer.ofRun c r.issuer then { r with issuer := .abandoned } else r := by
  show List.map _ _ = _
  refine List.map_congr_left fun q _ => ?_
  cases q.issuer <;> rfl

theorem ofRun_abandonRun {s : State} {c : CtxId} {q : Req} (h : q ∈ (abandonRun s c).fab.reqs) : Issuer.ofRun c q.issuer = false := by
  rw [abandonRun_reqs] at h
  obtain ⟨p, -, rfl⟩ := List.mem_map.1 h
  by_cases hp : Issuer.ofRun c p.issuer = true
  case pos => rw [if_pos hp]; rfl
  case neg => rw [if_neg hp]; exact eq_false_of_ne_true hp

theorem tags_abandonRun (s : State) (c : CtxId) : (abandonRun s c).fab.reqs.map (·.tag) = s.fab.reqs.map (·.tag) := by
  rw [abandonRun_reqs, List.map_map]
  refine List.map_congr_left fun q _ => ?_
  show (if Issuer.ofRun c q.issuer = true then _ else _ : Req).tag = q.tag
  split <;> rfl

section
variable {s : State} {c : CtxId}

theorem contextStop_eq (hc : s.grid.ctx = some c) (hx : (s.ctx c).fault.isSome = true ∨ (s.ctx c).run.any (·.stop.isSome) = true)
    (hp : s.grid.phase = .running ∨ s.grid.phase = .starting) :
    let t := updateCores (fun _ => Core.stopped) allCores s
    contextStop s c = abandonRun { t with grid := { t.grid with phase := .draining, waiting := [] } } c := by
  have hstop : ((s.ctx c).fault.isSome || (s.ctx c).run.any (·.stop.isSome)) = true := Bool.or_eq_true_iff.2 hx
  have hphase : (s.grid.phase == .running || s.grid.phase == .starting) = true := by
    rcases hp with h | h <;> rw [h] <;> rfl
  refine if_neg ?_
  rw [hstop, hphase, decide_eq_false (not_not.2 hc)]
  decide

theorem contextStop_stops (hc : s.grid.ctx = some c) (hx : (s.ctx c).fault.isSome = true ∨ (s.ctx c).run.any (·.stop.isSome) = true)
    (hp : s.grid.phase = .running ∨ s.grid.phase = .starting) :
    ∃ t : State, exec (.contextStop c) s = .next t ∧ t.grid = { s.grid with phase := .draining, waiting := [] } ∧
      (∀ i : CoreId, t.core i = (s.core i).stopped) ∧
      (∀ q ∈ t.fab.reqs, q.issuer ≠ .notice c ∧ (∀ a b, q.issuer ≠ .gatherHdr c a b) ∧ (∀ a b d, q.issuer ≠ .gatherRow c a b d) ∧
        ∀ e, q.issuer ≠ .exch c e) ∧ t.fab.reqs.map (·.tag) = s.fab.reqs.map (·.tag) ∧
      t.ms = s.ms ∧ t.ctxs = s.ctxs ∧ t.keys = s.keys ∧ t.cmds = s.cmds := by
  obtain ⟨cs, he⟩ := updateCores_eq (fun _ => Core.stopped) s allCores
  have hcore := core_update_allCores (fun _ => Core.stopped) s
  have heq := contextStop_eq hc hx hp
  dsimp only at heq
  rw [he] at heq hcore
  refine ⟨_, next_congr heq, rfl, hcore, fun q hq => ?_, tags_abandonRun _ _, rfl, rfl, rfl, rfl⟩
  have hno := ofRun_abandonRun hq
  have apart : ∀ i : Issuer, Issuer.ofRun c i = true → q.issuer ≠ i := fun i hi h => Bool.noConfusion (hno.symm.trans (h ▸ hi))
  exact ⟨apart _ (beq_self_eq_true c), fun _ _ => apart _ (beq_self_eq_true c), fun _ _ _ => apart _ (beq_self_eq_true c),
    fun _ => apart _ (beq_self_eq_true c)⟩

/-- The cores' flag summaries are clear. -/
def summariesClear (s : State) : State := allCores.foldl (fun s i => s.setCore i { s.core i with summary := 0 }) s

theorem joinFlags_eq (hc : s.grid.ctx = some c) : ∃ fl, joinFlags s = (summariesClear s).setCtx c { (summariesClear s).ctx c with accFlags := fl } := by
  refine ⟨allCores.foldl (fun (a : Byte) i => a ||| (s.core i).summary) (s.ctx c).accFlags, ?_⟩
  unfold joinFlags
  rw [hc]
  rfl

theorem ctxs_summariesClear (s : State) : (summariesClear s).ctxs = s.ctxs := foldl_keeps (get := State.ctxs) _ _ fun _ _ _ => rfl

/-- Flags that join a context leave its run and its fault. -/
theorem ctx_joinFlags (hc : s.grid.ctx = some c) : ((joinFlags s).ctx c).run = (s.ctx c).run ∧ ((joinFlags s).ctx c).fault = (s.ctx c).fault := by
  obtain ⟨fl, he⟩ := joinFlags_eq hc
  rw [he, State.ctx_setCtx_same]
  have hctx : (summariesClear s).ctx c = s.ctx c := by rw [State.ctx, ctxs_summariesClear, State.ctx]
  rw [hctx]
  exact ⟨rfl, rfl⟩

theorem contextDrained_eq (hc : s.grid.ctx = some c) (hp : s.grid.phase = .draining) (hb : bankPending s c = false) :
    let x := (joinFlags s).ctx c
    let own := if (x.run.bind (·.stop)).isSome then none else x.fault
    let t := finishRun (clearGrid (joinFlags s)) c ((x.run.bind (·.stop)).elim ((x.fault.map (·.status)).getD 0) id) ((own.map (·.ref)).getD 0)
      ((own.map (·.detail)).getD 0)
    let t := t.setCtx c { t.ctx c with switchedOut := false }
    contextDrained s c = chooseNext (applyHeld { t with grid := { t.grid with ctx := none } }) c := by
  refine (if_neg ?_).trans ?_
  · rw [hp, hb, decide_eq_false (not_not.2 hc)]
    decide
  · dsimp only
    cases ((joinFlags s).ctx c).run.bind (·.stop) <;> rfl

end

theorem contextDrained_ends {s : State} {c : CtxId} {r : RunSt} (hc : s.grid.ctx = some c) (hp : s.grid.phase = .draining)
    (hb : bankPending s c = false) (hr : (s.ctx c).run = some r) :
    let u := clearGrid (joinFlags s)
    let ends := fun (st : Half) (ref : Dword) (detail : Word) =>
      let t := finishRun u c st ref detail
      let t := t.setCtx c { t.ctx c with switchedOut := false }
      exec (.contextStopDrained c) s =
        .next (fenceOn (releaseReads (chooseNext (applyHeld { t with grid := { t.grid with ctx := none } }) c)))
    (∀ st, r.stop = some st → ends st 0 0) ∧
    (∀ f, r.stop = none → (s.ctx c).fault = some f → ends f.status f.ref f.detail) := by
  intro u ends
  obtain ⟨h1, h2⟩ := ctx_joinFlags hc
  have he := contextDrained_eq hc hp hb
  dsimp only at he
  rw [h1, h2, hr, Option.bind_some] at he
  refine ⟨fun st hst => ?_, fun f hst hf => ?_⟩
  · rw [hst] at he
    exact next_congr (congrArg (fun t => fenceOn (releaseReads t)) he)
  · rw [hst, hf] at he
    exact next_congr (congrArg (fun t => fenceOn (releaseReads t)) he)

/-- Settles O40: the watchdogs by what they trigger; a stop core by core, its drain by the run that it ends. -/
theorem gridStops : Obligations.GridStops := by
  unfold Obligations.GridStops
  exact ⟨gridWatchdogs, fun s c hc => ⟨fun hx hp => contextStop_stops hc hx hp, fun r hp hb hr => contextDrained_ends hc hp hb hr⟩⟩

end Sys2Proof.Machine
end

section
/-!
LEMMA. The course of an update program (12).
-/
namespace Sys2Proof.Machine

/-! ### The shard header (R351 to R354) -/

section
variable {h : Row} {t : Nat} {g : Option Nat}

/-- A header with which a program may go on. -/
def FineHeader (h : Row) (g : Option Nat) : Prop := SH'.hver h = 1 ∧ SH'.inconsistent h = false ∧ ∀ x, g = some x → x = SH'.granules h

/-- The reasons for which a header is inconsistent. -/
theorem not_fineHeader : ¬ FineHeader h g ↔
    SH'.hver h ≠ 1 ∨ SH'.inconsistent h = true ∨ g.any (fun g => g != SH'.granules h) = true := by
  unfold FineHeader
  cases g with
  | none =>
    simp only [reduceCtorEq, false_implies, implies_true, and_true, not_and_or, Option.any_none, Bool.false_eq_true, or_false, ne_eq,
      Bool.not_eq_false]
  | some x =>
    simp only [Option.some.injEq, forall_eq', not_and_or, Option.any_some, bne_iff_ne, ne_eq, Bool.not_eq_false]

theorem stepCheck_inconsistent (hf : ¬ FineHeader h g) : stepCheck h t g = St.shardInconsistent := if_pos (not_fineHeader.1 hf)

theorem stepCheck_fine (hf : FineHeader h g) : stepCheck h t g =
    if SH'.updating h then St.shardBusy else if SH'.step h ≠ (t + 2 ^ 32 - 1) % 2 ^ 32 then St.stepSkew else 0 :=
  if_neg fun hn => not_fineHeader.2 hn hf

theorem stepCheck_idle (hf : FineHeader h g) (hu : SH'.updating h = false) : stepCheck h t g =
    if SH'.step h ≠ (t + 2 ^ 32 - 1) % 2 ^ 32 then St.stepSkew else 0 := (stepCheck_fine hf).trans (if_neg (ne_true_of_eq_false hu))

/-- The step before a program's own. -/
theorem stepBefore_iff (h : Row) {t : Nat} (ht : t < 2 ^ 32) : SH'.step h = (t + 2 ^ 32 - 1) % 2 ^ 32 ↔ (SH'.step h + 1) % 2 ^ 32 = t := by
  have hs : SH'.step h < 2 ^ 32 := Nat.mod_lt _ (by decide)
  omega

theorem headerDone_fields (h : Row) {t : Nat} (ht : t < 2 ^ 32) (w k : Nat) :
    SH'.step (headerDone h t w k) = t ∧ SH'.updating (headerDone h t w k) = false ∧
    SH'.inconsistent (headerDone h t w k) = SH'.inconsistent h ∧ fld (headerDone h t w k) 128 32 = w % 2 ^ 32 ∧
    fld (headerDone h t w k) 160 32 = k % 2 ^ 32 := by
  unfold SH'.step SH'.updating SH'.inconsistent headerDone
  refine ⟨?_, ?_, ?_, ?_, ?_⟩
  · rw [fld_put_apart _ _ _ _ _ _ (.inl (by decide)), fld_put_apart _ _ _ _ _ _ (.inl (by decide)), fld_put_same _ _ _ _ (by decide),
      Nat.mod_eq_of_lt ht]
  · rw [bit_put_apart _ _ _ _ _ (.inl (by decide)), bit_put_apart _ _ _ _ _ (.inl (by decide)), bit_put_apart _ _ _ _ _ (.inl (by decide)),
      bit_eq_fld, fld_put_same _ _ _ _ (by decide)]
    rfl
  · rw [bit_put_apart _ _ _ _ _ (.inl (by decide)), bit_put_apart _ _ _ _ _ (.inl (by decide)), bit_put_apart _ _ _ _ _ (.inl (by decide)),
      bit_put_apart _ _ _ _ _ (.inr (by decide))]
  · rw [fld_put_apart _ _ _ _ _ _ (.inl (by decide)), fld_put_same _ _ _ _ (by decide)]
  · exact fld_put_same _ _ _ _ (by decide)

theorem headerUpdating_fields (h : Row) : SH'.updating (headerUpdating h) = true ∧ SH'.step (headerUpdating h) = SH'.step h := by
  unfold SH'.step SH'.updating headerUpdating
  refine ⟨?_, fld_put_apart _ _ _ _ _ _ (.inr (by decide))⟩
  rw [bit_eq_fld, fld_put_same _ _ _ _ (by decide)]
  rfl

theorem skewHeader_count (h : Row) (t : Nat) (hn : fld h 16 16 < 0xFFFF) : fld (skewHeader h t) 16 16 = fld h 16 16 + 1 := by
  unfold skewHeader
  dsimp only
  rw [if_neg (by omega), fld_put_apart _ _ _ _ _ _ (.inl (by decide)), fld_put_same _ _ _ _ (by decide)]
  exact Nat.mod_eq_of_lt (by omega)

theorem skewHeader_step (h : Row) {t : Nat} (ht : t < 2 ^ 32) : fld (skewHeader h t) 64 32 = t := by
  unfold skewHeader
  dsimp only
  rw [fld_put_same _ _ _ _ (by decide), Nat.mod_eq_of_lt ht]

end

/-! ### The engine's run (R356) -/

section
variable {s u : State} {e : Fin 8} {i : Nat} {q : List Nat} {a : Nat} {h : Row}

/-- A slot whose program's descriptor and header can be read. -/
theorem updateStart_checked {t : State} {v : BitVec 256} {d : Row} {st : Half}
    (ht : t = s.setEngine (updEngine e) { s.engine (updEngine e) with updateQ := q }) (hv : v = (s.engine (updEngine e)).slot i)
    (hd : d = fwRow t (SL.update v) (SL.updateRow v)) (hst : st = stepCheck h (UD.step d) (some (UD.granules d)))
    (hn : (s.engine (updEngine e)).updating = none) (hq : (s.engine (updEngine e)).updateQ = i :: q)
    (hdown : rowDown t (devRowAddr (t.devEntry (SL.update v)) (SL.updateRow v)) = false) (ha : slotHeader t v = some a)
    (hr : rawRead t a = .ok (h, 0)) : updateStart s e =
      if st = St.stepSkew then slotNotice (onSlotBucket (fwWrite t a (skewHeader h (UD.step d))) v fun b => { b with refused := st }) v
      else if st ≠ 0 then slotNotice (onSlotBucket t v fun b => { b with refused := st }) v
      else
        let w := fwWrite t a (headerUpdating h)
        let key := if UD.rmode d then some (drawKey w.jobSeed (BitVec.ofNat 32 (UD.step d)) (386 + e.val)) else none
        let (fl, wr, sk, bad, s) := granules d key (UD.granules d) 0 (0, 0, 0, none, w)
        let s := putUflags s v fl
        match bad with
        | some i => raiseFault (fwModify s a headerBroken) (some (Fin.ofNat 8 (SL.ctx v))) St.poisonConsumed i
        | none => s.setEngine (updEngine e) { s.engine (updEngine e) with updating := some (v, d, wr, sk) } := by
  unfold updateStart
  dsimp only at ht ⊢
  rw [hn] at ht
  rw [hn, hq]
  dsimp only
  rw [← hv, ← ht, ← hd, if_neg (ne_true_of_eq_false hdown), ha]
  dsimp only
  rw [hr]
  dsimp only
  have hchecked : (if (0 : BitVec 16) ≠ 0 then St.shardInconsistent else stepCheck h (UD.step d) (some (UD.granules d))) = st :=
    (if_neg fun hx => hx rfl).trans hst.symm
  rw [hchecked] <;> rfl

end

/-- Settles O41: the header field by field; the engine's run along its checks. -/
theorem updatePrograms : Obligations.UpdatePrograms := by
  unfold Obligations.UpdatePrograms
  refine ⟨fun h t g ht => ?_, fun s u e i q a h => ?_, fun s e v d wr sk a hu => ?_⟩
  case refine_1 =>
    intro fine
    refine ⟨stepCheck_inconsistent, fun hf hb => (stepCheck_fine hf).trans (if_pos hb), fun hf hb hs => (stepCheck_idle hf hb).trans (if_pos ?_),
      fun hf hb hs => (stepCheck_idle hf hb).trans (if_neg ?_), headerDone_fields h ht, headerUpdating_fields h, skewHeader_count h t,
      skewHeader_step h ht⟩
    · exact fun hx => hs ((stepBefore_iff h ht).1 hx)
    · exact not_not.2 ((stepBefore_iff h ht).2 hs)
  case refine_2 =>
    intro n g v t d hn hq hdown ha hr st
    have hrun := updateStart_checked (s := s) (e := e) (t := t) (v := v) (d := d) (st := st) rfl rfl rfl rfl hn hq hdown ha hr
    clear_value st d t v
    refine ⟨fun h0 hk => ?_, fun hk => ?_, fun fl wr sk h0 => ?_⟩
    · exact next_congr (hrun.trans ((if_neg hk).trans (if_pos h0)))
    · exact next_congr (hrun.trans (if_pos hk))
    · intro w hg x
      refine next_congr (hrun.trans ((if_neg (by rw [h0]; decide)).trans ((if_neg (not_not.2 h0)).trans ?_)))
      dsimp only
      rw [hg]
  case refine_3 =>
    intro t ha
    refine next_congr ?_
    unfold updateDone
    dsimp only
    rw [hu]
    dsimp only
    rw [ha]

end Sys2Proof.Machine
end

section
/-!
LEMMA. Commands of collectives (11).
-/
namespace Sys2Proof.Machine

section
variable {s : State} {r : CmdRef} {c : Cmd} {x : Collective}

/-- A collective that has been closed is open no more. -/
theorem coll_closeCollective {id : Nat} (h : s.coll id = some x) : (closeCollective s id).coll id = none := by
  unfold closeCollective
  rw [h]
  dsimp only
  refine Option.map_eq_none_iff.2 (List.find?_eq_none.2 fun y hy => ?_)
  have hne := (List.mem_filter.1 hy).2
  intro he
  rw [beq_iff_eq.1 he, bne_self_eq_false] at hne
  exact Bool.noConfusion hne

/-- A command awaits the requests whose TAGs it holds. -/
theorem settleTags_waits {d : Cmd} (hd : s.cmd? r = some d) (ht : d.tags ≠ []) : settleTags s r = s := by
  unfold settleTags
  rw [hd]
  refine if_neg ?_
  rintro ⟨-, hx, -⟩
  exact ht (List.isEmpty_iff.1 hx)

theorem settleTags_done {d : Cmd} (hd : s.cmd? r = some d) (ht : d.tags = []) (hq : d.queue = []) (hp : d.phase = .running)
    (hw : fenceWaits s d = false) (ho : d.opcode ≠ 0x0502) : settleTags s r = s.finish r { status := d.bad } := by
  unfold settleTags
  rw [hd]
  dsimp only
  rw [if_pos ⟨hp, List.isEmpty_iff.2 ht, List.isEmpty_iff.2 hq, hw⟩, if_neg ho]
  rfl

theorem exec_collectiveClose (h : Startable s r 0x0402 c) (hx : s.coll (fld c.payload 0 16) = some x) :
    let id := fld c.payload 0 16
    let t := closeCollective s id
    exec (.collectiveClose r) s = .next (settleTags (t.updCmd r fun c => { c with phase := .running, tags := senderTags t fun i _ => i == id }) r) :=
  next_congr ((State.take_start _ h).trans (if_neg (by rw [hx]; exact Bool.false_ne_true)))

/-! ### BUCKET_ARM (R322) -/

/-- The buckets that an arm acts on. -/
def armBuckets (x : Collective) (p : BitVec 384) : List Nat :=
  ((List.range (BA.count p)).map (BA.first p + ·)).filter fun k => decide (k < x.count)

theorem armRange_buckets (x : Collective) (p : BitVec 384) : ((armRange x p).map (·.1)).filter (fun k => decide (k < x.count)) = armBuckets x p := by
  unfold armRange armBuckets
  rw [List.map_map]
  rfl

/-- Notices or a distribution of a bucket's attempt before are still out. -/
def Collective.out (x : Collective) (k : Nat) : Bool :=
  (x.bucket k).distributing || !(x.bucket k).noticeTags.isEmpty || !(x.bucket k).noticeQ.isEmpty

theorem out_iff (x : Collective) (k : Nat) : x.out k = true ↔
    (x.bucket k).noticeTags ≠ [] ∨ (x.bucket k).noticeQ ≠ [] ∨ (x.bucket k).distributing = true := by
  unfold Collective.out
  simp only [Bool.or_eq_true, Bool.not_eq_true', List.isEmpty_eq_false_iff]
  exact ⟨fun h => h.elim (fun h => h.elim (fun h => .inr (.inr h)) .inl) fun h => .inr (.inl h),
    fun h => h.elim (fun h => .inl (.inr h)) fun h => h.elim .inr fun h => .inl (.inl h)⟩

theorem exec_bucketArm (h : Startable s r 0x0403 c) (hx : s.coll (BA.coll c.payload) = some x) :
    let p := c.payload
    exec (.bucketArm r) s = .next (if (armBuckets x p).any x.out then s.defer r
      else ((armBuckets x p).foldl (fun t k =>
        armOwner (armMember t (BA.coll p) k (BA.step p) (BA.cal p)) r.ctx (BA.coll p) k (BA.step p) (BA.cal p)) s).finish r {}) := by
  refine next_congr ((State.take_start _ h).trans ?_)
  dsimp only
  rw [hx]
  dsimp only
  rw [armRange_buckets]
  rfl

/-! ### BUCKET_WAIT (R334) -/

theorem serLater_self {a : Nat} (h : a < 2 ^ 32) : serLater 32 a a = false := by
  have hd : serDiff 32 a a = 0 := by
    unfold serDiff
    omega
  unfold serLater
  rw [hd]
  rfl

theorem waitOutcome_later {p : BitVec 384} (hx : s.coll (BW.coll p) = some x)
    (hl : serLater 32 (RC.step (bucketRecord s x (BW.bucket p))) (BW.step p) = true) :
    waitOutcome s p = some { status := St.bucketInvalid } := by
  unfold waitOutcome
  rw [hx]
  exact if_pos hl

/-- A wait on a bucket of its own step: by the verdict that the record holds. -/
theorem waitOutcome_step {p : BitVec 384} {v : Nat} (hx : s.coll (BW.coll p) = some x)
    (hs : RC.step (bucketRecord s x (BW.bucket p)) = BW.step p) (hv : RC.verdict (bucketRecord s x (BW.bucket p)) = v) :
    let fl := BitVec.ofNat 8 (RC.uflags (bucketRecord s x (BW.bucket p)))
    (v = 0 → waitOutcome s p = none) ∧
    (v = 1 → waitOutcome s p = some { status := (x.bucket (BW.bucket p)).refused, flags := fl }) ∧
    (v = 2 → waitOutcome s p = some { status := St.wardExhausted, flags := fl }) ∧
    (v = 3 → waitOutcome s p = some { status := St.gradientNonfinite, flags := fl }) := by
  have hlt : BW.step p < 2 ^ 32 := Nat.mod_lt _ (by decide)
  unfold waitOutcome
  rw [hx]
  dsimp only
  rw [hs, hv, serLater_self hlt, if_neg (by decide), if_neg (fun h => h rfl)]
  refine ⟨?_, ?_, ?_, ?_⟩ <;> (rintro rfl; rfl)

theorem exec_bucketWait (h : Startable s r 0x0404 c) :
    exec (.bucketWait r) s = .next ((waitOutcome s c.payload).elim (s.setPhase r .running) (s.finish r)) := by
  refine next_congr ((State.take_start _ h).trans ?_)
  cases waitOutcome s c.payload <;> rfl

/-! ### LAYOUT_SWITCH (R345) -/

theorem exec_layoutSwitch (h : Startable s r 0x0405 c) (hx : s.coll (LS.coll c.payload) = some x) :
    exec (.layoutSwitch r) s = .next (if x.switch.isSome then s.defer r
      else (s.setColl (LS.coll c.payload) { x with switch := some r }).setPhase r .running) := by
  refine next_congr ((State.take_start _ h).trans ?_)
  rw [hx]

/-- No bucket of a collective is armed, and every notice that it sent is acknowledged. -/
def Quiet (s : State) (x : Collective) : Prop :=
  (∀ k, k < x.count → RC.armed (bucketRecord s x k) = false) ∧ ∀ b ∈ x.buckets, b.2.noticeTags = [] ∧ b.2.noticeQ = []

theorem not_quiet_iff (s : State) (x : Collective) : ((List.range x.count).any (fun k => RC.armed (bucketRecord s x k)) ||
    x.buckets.any (fun b => !b.2.noticeTags.isEmpty || !b.2.noticeQ.isEmpty)) = true ↔ ¬ Quiet s x := by
  unfold Quiet
  simp only [Bool.or_eq_true, List.any_eq_true, List.mem_range, not_and_or, not_forall, Bool.not_eq_false, Bool.not_eq_true',
    List.isEmpty_eq_false_iff, exists_prop, ne_eq]

theorem exec_layoutSwitchEffect {id : BitVec 16} (hx : s.coll id.toNat = some x) (hs : x.switch = some r) (hc : s.cmd? r = some c) :
    let p := c.payload
    let t := releaseSlots s (slotOf id.toNat)
    let y := { x with epoch := LS.epoch p, count := LS.count p, switch := none,
                      buckets := keepDistributions x.buckets (captureList t (LS.list p) (LS.row p) (LS.count p)) }
    let v := t.setColl id.toNat y
    (Quiet s x → exec (.layoutSwitchEffect id) s = .next ((if LS.cal p then zeroRecords (fillAllScales v y) y else v).finish r {})) ∧
    (¬ Quiet s x → exec (.layoutSwitchEffect id) s = .next s) := by
  have hr : c.ref = r := ref_of_cmd hc
  refine ⟨fun hq => next_congr ?_, fun hq => next_congr ?_⟩
  · unfold layoutEffect
    rw [hx]
    dsimp only
    rw [hs, Option.bind_some, hc]
    dsimp only
    rw [if_neg fun h => (not_quiet_iff s x).1 h hq, hr]
    rfl
  · unfold layoutEffect
    rw [hx]
    dsimp only
    rw [hs, Option.bind_some, hc]
    exact if_pos ((not_quiet_iff s x).2 hq)

end

/-- Settles O42: each command by its equation. -/
theorem collectiveCommands : Obligations.CollectiveCommands := by
  unfold Obligations.CollectiveCommands
  intro s r c
  dsimp only
  refine ⟨fun h => ⟨fun hc => ?_, fun hc => ?_⟩, fun x h hx => ⟨coll_closeCollective hx, exec_collectiveClose h hx, fun d hd => ⟨settleTags_waits hd,
    fun ht hq ho hp => ?_⟩⟩, fun x h hx => ⟨fun ho => ?_, fun ho => ?_⟩, fun x h hx => ⟨fun hs => ?_, fun hl => ?_⟩,
    fun x h hx => ⟨fun hs => ?_, fun hs => ?_⟩, fun id x hx hs hc => ⟨fun hq => ⟨fun hb => ?_, fun hb => ?_⟩, (exec_layoutSwitchEffect hx hs hc).2⟩⟩
  · exact next_congr ((State.take_start _ h).trans (congrArg (State.finish · r {}) (if_neg (ne_true_of_eq_false hc))))
  · exact next_congr ((State.take_start _ h).trans (congrArg (State.finish · r {}) (if_pos hc)))
  · exact settleTags_done hd ht hq hp (by rw [fenceWaits, ho]; rfl) (by rw [ho]; decide)
  · obtain ⟨k, hk, hout⟩ := ho
    exact (exec_bucketArm h hx).trans (next_congr (if_pos (List.any_eq_true.2 ⟨k, hk, (out_iff x k).2 hout⟩)))
  · refine (exec_bucketArm h hx).trans (next_congr (if_neg fun ha => ?_))
    obtain ⟨k, hk, hout⟩ := List.any_eq_true.1 ha
    exact ho k hk ((out_iff x k).1 hout)
  · obtain ⟨h0, h1, h2, h3⟩ := waitOutcome_step hx hs rfl
    have hw := exec_bucketWait h
    exact ⟨fun hv => hw.trans (by rw [h0 hv]; rfl), fun hv => hw.trans (by rw [h1 hv]; rfl), fun hv => hw.trans (by rw [h2 hv]; rfl),
      fun hv => hw.trans (by rw [h3 hv]; rfl)⟩
  · exact (exec_bucketWait h).trans (by rw [waitOutcome_later hx hl]; rfl)
  · exact (exec_layoutSwitch h hx).trans (next_congr (if_neg (by rw [hs]; decide)))
  · exact (exec_layoutSwitch h hx).trans (next_congr (if_pos (Option.isSome_iff_ne_none.2 hs)))
  · exact ((exec_layoutSwitchEffect hx hs hc).1 hq).trans (next_congr (congrArg (State.finish · r {}) (if_neg (ne_true_of_eq_false hb))))
  · exact ((exec_layoutSwitchEffect hx hs hc).1 hq).trans (next_congr (congrArg (State.finish · r {}) (if_pos hb)))

end Sys2Proof.Machine
end

section
/-!
LEMMA. What serving the memory system leaves alone (03, 09, 15): a read or write of a row, with the bank that it wakes, the notice that
it sends and the fault that it raises, touches memory, the black box, commands and cores, but no run begins by it, no collective comes
or goes, and nothing else of the state changes.
-/
namespace Sys2Proof.Machine

/-- The parts of a state that no access to memory touches. -/
def State.beyondMemory (s : State) : State :=
  { s with mod := { s.mod with alert := false }, bb := {}, ctxs := [], fab := { s.fab with reqs := [] }, cmds := [], ms := {}, cores := [],
           engines := [], colls := [], grid := { s.grid with waiting := [] } }

theorem active_setCore (s : State) {c : CoreId} {x : Core} (h : x.active = (s.core c).active) (i : CoreId) :
    ((s.setCore c x).core i).active = (s.core i).active := by
  by_cases he : i = c
  case pos =>
    subst he
    rw [State.core_setCore_same]
    exact h
  case neg => rw [State.core_setCore_ne _ _ _ _ he]

theorem cores_addPoison (s : State) (a : Nat) (m : BitVec 16) : (addPoison s a m).cores = s.cores := by
  obtain ⟨l, ch, b, e⟩ := addPoison_eq s a m
  rw [e]

theorem active_addPoison {s t : State} (h : t.cores = s.cores) (a : Nat) (m : BitVec 16) (i : CoreId) :
    ((addPoison t a m).core i).active = (s.core i).active := by
  rw [State.core, cores_addPoison, h, State.core]

theorem active_placeFinding (s : State) (p : SparePlace) (f : Finding) (i : CoreId) : ((placeFinding s p f).core i).active = (s.core i).active := by
  cases f with
  | clean => rfl
  | corrected =>
    cases p with
    | core c k n => exact active_setCore s (x := { s.core c with cmCorrected := countErr (s.core c).cmCorrected }) rfl i
    | chip b n => rfl
  | uncorrectable m =>
    cases p with
    | core c k n => exact active_addPoison rfl _ m i
    | chip b n => exact active_addPoison rfl _ m i

theorem active_channelFinding (s : State) (c a : Nat) (f : Finding) (i : CoreId) :
    ((channelFinding s c a f).core i).active = (s.core i).active := by
  cases f with
  | clean => rfl
  | corrected => rfl
  | uncorrectable m => exact active_addPoison rfl a m i

/-- What a read finds may count a correction at a core, which goes on as it was. -/
theorem active_rowFinding (s : State) (a : Nat) (f : Finding) (i : CoreId) : ((rowFinding s a f).core i).active = (s.core i).active := by
  unfold rowFinding
  split
  · exact active_placeFinding ..
  · exact active_channelFinding ..
  · exact active_addPoison rfl ..
  · rfl

/-- What a collective is known by: its identity and the list entries of its buckets. -/
def listed (x : Nat × Collective) : Nat × Tab (BitVec 512) := (x.1, x.2.buckets.map fun b => (b.1, b.2.entry))

/-- One state comes from another by accesses to memory and the faults that they raise. -/
structure MemTraffic (o s : State) : Prop where
  rest : s.beyondMemory = o.beyondMemory
  lists : s.colls.map listed = o.colls.map listed
  runs : ∀ c, (o.ctx c).run = none → (s.ctx c).run = none
  active : ∀ i, (s.core i).active = (o.core i).active
  waits : o.grid.waiting = [] → s.grid.waiting = []

namespace MemTraffic
variable {o s : State}

theorem refl (s : State) : MemTraffic s s := ⟨rfl, rfl, fun _ h => h, fun _ => rfl, id⟩
theorem trans {t : State} (h : MemTraffic o s) (k : MemTraffic s t) : MemTraffic o t :=
  ⟨k.rest.trans h.rest, k.lists.trans h.lists, fun c hc => k.runs c (h.runs c hc), fun i => (k.active i).trans (h.active i), fun hw => k.waits (h.waits hw)⟩

theorem ids (h : MemTraffic o s) : s.colls.map (·.1) = o.colls.map (·.1) := by
  have he := congrArg (List.map (·.1)) h.lists
  rw [List.map_map, List.map_map] at he
  exact he
theorem job (h : MemTraffic o s) : s.job = o.job := (congrArg State.job h.rest :)
theorem streams (h : MemTraffic o s) : s.streams = o.streams := (congrArg State.streams h.rest :)
theorem arrivals (h : MemTraffic o s) : s.arrivals = o.arrivals := (congrArg State.arrivals h.rest :)
theorem rst (h : MemTraffic o s) : s.rst = o.rst := (congrArg State.rst h.rest :)
theorem keys (h : MemTraffic o s) : s.keys = o.keys := (congrArg State.keys h.rest :)

theorem foldl {α : Type} {f : State → α → State} {l : List α} (h : MemTraffic o s)
    (hf : ∀ s a, MemTraffic o s → MemTraffic o (f s a)) : MemTraffic o (l.foldl f s) := by
  induction l generalizing s with
  | nil => exact h
  | cons a l ih => exact ih (hf s a h)

/-! ### The state's parts -/

theorem setBank {b x} (h : MemTraffic o s) : MemTraffic o (s.setBank b x) := ⟨h.rest, h.lists, h.runs, h.active, h.waits⟩
theorem answer {x} (h : MemTraffic o s) : MemTraffic o (s.answer x) := ⟨h.rest, h.lists, h.runs, h.active, h.waits⟩
theorem setChan {c x} (h : MemTraffic o s) : MemTraffic o (s.setChan c x) := ⟨h.rest, h.lists, h.runs, h.active, h.waits⟩
theorem setCxl {p x} (h : MemTraffic o s) : MemTraffic o (s.setCxl p x) := ⟨h.rest, h.lists, h.runs, h.active, h.waits⟩
theorem setEngine {e x} (h : MemTraffic o s) : MemTraffic o (s.setEngine e x) := ⟨h.rest, h.lists, h.runs, h.active, h.waits⟩
theorem withMs {m} (h : MemTraffic o s) : MemTraffic o { s with ms := m } := ⟨h.rest, h.lists, h.runs, h.active, h.waits⟩
theorem updCmd {r f} (h : MemTraffic o s) : MemTraffic o (s.updCmd r f) := ⟨h.rest, h.lists, h.runs, h.active, h.waits⟩
theorem finish {r x} (h : MemTraffic o s) : MemTraffic o (s.finish r x) := ⟨h.rest, h.lists, h.runs, h.active, h.waits⟩
theorem abandonRun {c} (h : MemTraffic o s) : MemTraffic o (abandonRun s c) := ⟨h.rest, h.lists, h.runs, h.active, h.waits⟩
theorem requestDone {b} (h : MemTraffic o s) : MemTraffic o (requestDone s b) :=
  ⟨h.rest, h.lists, h.runs, h.active, fun hw => (congrArg (List.filter _) (h.waits hw)).trans rfl⟩
theorem lateWake {b q} (h : MemTraffic o s) : MemTraffic o (lateWake s b q) := ⟨h.rest, h.lists, h.runs, h.active, h.waits⟩
theorem gateBank {b} (h : MemTraffic o s) : MemTraffic o (gateBank s b) := h.setBank.requestDone.withMs
theorem countRowError {p} (h : MemTraffic o s) : MemTraffic o (countRowError s p) := ⟨h.rest, h.lists, h.runs, h.active, h.waits⟩

theorem bbFreeze (h : MemTraffic o s) : MemTraffic o (bbFreeze s) := by
  obtain ⟨b, e, -⟩ := bbFreeze_eq s
  rw [e]
  exact ⟨h.rest, h.lists, h.runs, h.active, h.waits⟩

theorem bbAppend {k c p} (h : MemTraffic o s) : MemTraffic o (bbAppend s k c p) := by
  obtain ⟨b, e⟩ := bbAppend_eq s k c p
  rw [e]
  exact ⟨h.rest, h.lists, h.runs, h.active, h.waits⟩

/-- A context changes, but gains no run. -/
theorem setCtx {c x} (h : MemTraffic o s) (hx : (s.ctx c).run = none → x.run = none) : MemTraffic o (s.setCtx c x) := by
  refine ⟨h.rest, h.lists, fun d hd => ?_, h.active, h.waits⟩
  by_cases he : d = c
  case pos =>
    subst he
    rw [State.ctx_setCtx_same]
    exact hx (h.runs _ hd)
  case neg =>
    rw [State.ctx_setCtx_ne _ _ _ _ he]
    exact h.runs d hd

/-! ### Faults -/

theorem faultRun {c f t} (h : MemTraffic o s) (e : faultRun s c f = some t) : MemTraffic o t := by
  unfold Machine.faultRun at e
  dsimp only at e
  cases hr : (s.ctx c).run with
  | some r =>
    rw [hr] at e
    dsimp only at e
    split at e
    · exact Option.some.inj e ▸ h
    · split at e
      · exact Option.some.inj e ▸ h.setCtx fun hn => nomatch hr.symm.trans hn
      · exact Option.some.inj e ▸ (h.abandonRun.setCtx fun _ => rfl).finish
  | none =>
    rw [hr] at e
    dsimp only at e
    split at e
    · exact Option.some.inj e ▸ h.updCmd
    · exact nomatch e

theorem raiseFault {c st i d} (h : MemTraffic o s) : MemTraffic o (raiseFault s c st i d) := by
  cases c with
  | none => exact h.bbAppend.bbFreeze
  | some c =>
    have hb := (h.bbAppend (k := 1) (c := some c) (p := faultPayload st (s.runSeq c) i)).bbFreeze
    unfold Machine.raiseFault
    dsimp only
    split
    next t he => exact hb.faultRun he
    next he =>
      split
      · exact hb
      · exact hb.setCtx fun hn => hn

theorem faultIssuer {c st a x} (h : MemTraffic o s) : MemTraffic o (faultIssuer s c st a x) := by
  unfold Machine.faultIssuer
  split
  · exact h.raiseFault
  · exact h

/-! ### Rows and their poison -/

theorem addPoison {a m} (h : MemTraffic o s) : MemTraffic o (addPoison s a m) := by
  obtain ⟨l, ch, b, e⟩ := addPoison_eq s a m
  rw [e]
  exact ⟨h.rest, h.lists, h.runs, h.active, h.waits⟩

theorem rowFinding {a f} (h : MemTraffic o s) : MemTraffic o (rowFinding s a f) := by
  have hactive := active_rowFinding s a f
  obtain ⟨k, l, b, ch, er, bb, e⟩ := rowFinding_eq s a f
  rw [e] at hactive ⊢
  exact ⟨h.rest, h.lists, h.runs, fun i => (hactive i).trans (h.active i), h.waits⟩

theorem transitCount {x} (h : MemTraffic o s) : MemTraffic o (transitCount s x) := by
  obtain ⟨l, e⟩ := transitCount_eq s x
  rw [e]
  exact h.withMs

theorem countCxlPoison {a m} (h : MemTraffic o s) : MemTraffic o (countCxlPoison s a m) := by
  unfold Machine.countCxlPoison
  split
  · exact h.setCxl
  · exact h

theorem rawWrite {a r p t} (h : MemTraffic o s) (e : rawWrite s a r p = .ok t) : MemTraffic o t := by
  obtain ⟨l, ch, b, rfl⟩ := rawWrite_ok e
  exact ⟨h.rest, h.lists, h.runs, h.active, h.waits⟩

theorem rawPut {a r p} (h : MemTraffic o s) : MemTraffic o (rawPut s a r p) := by
  unfold Machine.rawPut
  split
  next t he => exact h.rawWrite he
  next => exact h

theorem wordPut {a w x} (h : MemTraffic o s) : MemTraffic o (wordPut s a w x) := by
  unfold Machine.wordPut
  split
  · exact h.rawPut
  · exact h

/-! ### Engines -/

theorem faddAt {a w d l} (h : MemTraffic o s) : MemTraffic o (faddAt s a w d l).2 := by
  unfold Machine.faddAt
  split
  · split
    · exact h
    · exact h.rawPut
  · exact h

theorem noticeServe {c a w d} (h : MemTraffic o s) : MemTraffic o (noticeServe s c a w d) := by
  have hf := h.faddAt (a := a) (w := w) (d := d) (l := 0xFFFFFFFE)
  unfold Machine.noticeServe
  split
  next he =>
    rw [he] at hf
    exact hf
  next he =>
    rw [he] at hf
    exact hf.faultIssuer

theorem noticeAt {c a w d} (h : MemTraffic o s) : MemTraffic o (noticeAt s c a w d) := by
  unfold Machine.noticeAt
  split
  · exact h.noticeServe
  · dsimp only
    split
    · exact h.noticeServe
    · exact h.lateWake
    · exact h.setBank

theorem slotNotice {v} (h : MemTraffic o s) : MemTraffic o (slotNotice s v) := h.noticeAt

theorem countSlot {e i n wb nf} (h : MemTraffic o s) : MemTraffic o (countSlot s e i n wb nf) := by
  unfold Machine.countSlot
  dsimp only
  split
  · split
    · exact h.setEngine.setEngine
    · exact h.setEngine.slotNotice
  · exact h.setEngine

theorem addBlock {e a b} (h : MemTraffic o s) : MemTraffic o (addBlock s e a b) := by
  unfold Machine.addBlock
  split
  · dsimp only
    split
    · exact h.rawPut.rawPut.setEngine
    · exact h.rawPut.rawPut
  · exact h

theorem accServe {e g bs} (h : MemTraffic o s) : MemTraffic o (accServe s e g bs).2 := by
  unfold Machine.accServe
  dsimp only
  split
  · exact h
  · split
    · exact h.setEngine
    · split
      · exact h.setEngine
      · split
        · exact h
        · split
          · exact h
          · exact (h.foldl fun _ _ ht => ht.addBlock).countSlot

theorem replayClaim {a w n} (h : MemTraffic o s) : MemTraffic o (replayClaim s a w n) := by
  unfold Machine.replayClaim
  split
  · exact h
  · refine ⟨h.rest, Eq.trans ?_ h.lists, h.runs, h.active, h.waits⟩
    rw [List.map_map]
    refine List.map_congr_left fun x _ => Prod.ext rfl ((List.map_map ..).trans (List.map_congr_left fun b _ => ?_))
    dsimp only [Function.comp]
    split <;> rfl

/-! ### Banks and their queues -/

theorem serveReq {b r} (h : MemTraffic o s) : MemTraffic o (serveReq s b r) := by
  cases r with
  | read c a f x =>
    unfold Machine.serveReq
    dsimp only
    split
    · exact h.rowFinding.transitCount.countCxlPoison.answer
    · exact h.rowFinding.transitCount.answer
  | write c a x p t => exact h.transitCount.rawPut.answer
  | acc c a g x =>
    have ha := h.accServe (e := b) (g := gradHdr g) (bs := [(a.toNat, x)])
    unfold Machine.serveReq
    dsimp only
    split
    · exact ha.faultIssuer.answer
    · exact ha.answer
  | fadd c a d l =>
    have hf := h.faddAt (a := a.toNat / 512 * 512) (w := a.toNat % 512 / 4) (d := d.toNat) (l := l.toNat)
    unfold Machine.serveReq
    dsimp only
    split
    next he =>
      rw [he] at hf
      split
      · exact hf.replayClaim.answer
      · exact hf.answer
    next he =>
      rw [he] at hf
      exact hf.faultIssuer.answer
  | word a x => exact h.wordPut.answer
  | notice c a w d => exact h.noticeServe
  | gate => exact h.gateBank

theorem serveQueue {b q} (h : MemTraffic o s) : MemTraffic o (serveQueue b q s) := by
  induction q generalizing s with
  | nil => exact h.setBank
  | cons r q ih =>
    unfold Machine.serveQueue
    split
    · split
      · exact ih h.faultIssuer.answer
      · exact ih h
      · exact h.lateWake
    · exact ih h.serveReq

theorem wakeDone {b} (h : MemTraffic o s) : MemTraffic o (wakeDone s b) := by
  unfold Machine.wakeDone
  dsimp only
  split
  · refine serveQueue ?_
    split
    · exact h.setBank
    · exact h.setBank.requestDone
  · exact h

theorem gateDone {b} (h : MemTraffic o s) : MemTraffic o (gateDone s b) := by
  unfold Machine.gateDone
  dsimp only
  split
  · exact h.setBank.serveQueue
  · exact h

theorem settleBank {b} (h : MemTraffic o s) : MemTraffic o (settleBank s b) := h.foldl fun _ _ ht => ht.gateDone.wakeDone

theorem reachBank {a w} (h : MemTraffic o s) : MemTraffic o (reachBank s a w).2 := by
  unfold Machine.reachBank
  split
  · exact h
  · dsimp only
    split
    · split
      · exact h.settleBank.lateWake.setBank
      · exact h.settleBank
    · exact h.settleBank

/-! ### Rows as units reach them -/

theorem readRow {a} (h : MemTraffic o s) : MemTraffic o (readRow s a).2 := by
  have hr := h.reachBank (a := a) (w := false)
  unfold Machine.readRow
  dsimp only
  split
  · split
    · exact hr.countCxlPoison
    · exact hr
  · exact hr

theorem writeRow {a r p} (h : MemTraffic o s) : MemTraffic o (writeRow s a r p).2 := by
  have hr := h.reachBank (a := a) (w := true)
  unfold Machine.writeRow
  dsimp only
  split
  next he => exact hr.rawWrite he
  next => exact hr

theorem ctxModify {c a f} (h : MemTraffic o s) : MemTraffic o (ctxModify s c a f) := by
  have hw := h.writeRow (a := a) (r := f (fwRead s a)) (p := fwPoison s a)
  unfold Machine.ctxModify
  split
  next he =>
    rw [he] at hw
    exact hw
  next he =>
    rw [he] at hw
    exact hw.faultIssuer

theorem setRecord {c k x} (h : MemTraffic o s) : MemTraffic o (setRecord s c k x) := by
  unfold Machine.setRecord
  dsimp only
  split
  · exact h.ctxModify
  · exact h

end MemTraffic

end Sys2Proof.Machine
end

section
/-!
LEMMA. Jobs, fences, barriers and broadcasts (13, 15).
-/
namespace Sys2Proof.Machine

/-! ### Folds that reach every element -/

/-- What a step brings about for its own element, and every step keeps, holds of each element in the end. -/
theorem foldl_reaches {α : Type} {f : State → α → State} {P : α → State → Prop} {l : List α} {s : State} {c : α}
    (own : ∀ s c, P c (f s c)) (kept : ∀ s c d, P c s → P c (f s d)) (h : c ∈ l) : P c (l.foldl f s) := by
  have keep : ∀ (l : List α) (s : State), P c s → P c (l.foldl f s) := by
    intro l
    induction l with
    | nil => exact fun _ hs => hs
    | cons d l ih => exact fun s hs => ih _ (kept s c d hs)
  induction l generalizing s with
  | nil => exact absurd h List.not_mem_nil
  | cons d l ih =>
    rcases List.mem_cons.1 h with rfl | h
    · exact keep l _ (own s c)
    · exact ih h

/-! ### Runs that a fence stops (R456) -/

section
variable {s : State} {c : CtxId} {st : Half} {ref : Dword} {d : Word}

theorem finishRun_eq (s : State) (c : CtxId) (st : Half) (ref : Dword) (d : Word) : ∃ x l t, finishRun s c st ref d = { s with ctxs := x, cmds := l, rst := t } := by
  unfold finishRun
  dsimp only
  cases (s.ctx c).run with
  | none => exact ⟨s.ctxs, s.cmds, s.rst, rfl⟩
  | some r =>
    dsimp only
    split
    · exact ⟨_, s.cmds, _, rfl⟩
    · exact ⟨_, _, s.rst, rfl⟩

theorem ctxs_finishRun {r : RunSt} (h : (s.ctx c).run = some r) :
    (finishRun s c st ref d).ctxs = (s.setCtx c { s.ctx c with run := none, fault := none, accFlags := 0 }).ctxs := by
  unfold finishRun
  dsimp only
  rw [h]
  dsimp only
  split <;> rfl

theorem run_finishRun (s : State) (c : CtxId) (st : Half) (ref : Dword) (d : Word) : ((finishRun s c st ref d).ctx c).run = none := by
  cases h : (s.ctx c).run with
  | none =>
    unfold finishRun
    dsimp only
    rw [h]
    exact h
  | some r =>
    rw [State.ctx, ctxs_finishRun h]
    exact congrArg Context.run (State.ctx_setCtx_same ..)

theorem ctx_finishRun_ne {e : CtxId} (he : e ≠ c) : (finishRun s c st ref d).ctx e = s.ctx e := by
  cases h : (s.ctx c).run with
  | none =>
    unfold finishRun
    dsimp only
    rw [h]
  | some r =>
    rw [State.ctx, ctxs_finishRun h]
    exact State.ctx_setCtx_ne _ _ _ _ he

/-- A context whose run, if it has one, stops. -/
def Context.Stops (x : Context) : Prop := ∀ q, x.run = some q → q.stop.isSome = true ∨ x.fault.isSome = true

theorem Context.stops_of_idle {x : Context} (h : x.run = none) : x.Stops := fun _ hq => nomatch h.symm.trans hq

theorem ctx_endOffGrid_same (s : State) (c : CtxId) (st : Half) : ((endOffGrid s c st).ctx c).run = none := by
  unfold endOffGrid
  dsimp only
  rw [State.ctx_setCtx_same]
  exact run_finishRun (abandonRun s c) c st 0 0

theorem ctx_endOffGrid_ne {e : CtxId} (he : e ≠ c) : (endOffGrid s c st).ctx e = s.ctx e := by
  unfold endOffGrid
  dsimp only
  rw [State.ctx_setCtx_ne _ _ _ _ he, ctx_finishRun_ne he]
  rfl

theorem stopRun_stops (s : State) (c : CtxId) (st : Half) : ((stopRun s c st).ctx c).Stops := by
  unfold stopRun
  dsimp only
  cases hr : (s.ctx c).run with
  | none => exact Context.stops_of_idle hr
  | some r =>
    dsimp only
    split
    · split
      next hx =>
        have hstop := Bool.or_eq_true_iff.1 (Bool.and_eq_true_iff.1 hx).1
        intro q hq
        rw [hr] at hq
        cases hq
        exact hstop.symm
      next =>
        unfold State.setRun
        rw [State.ctx_setCtx_same]
        intro q hq
        cases hq
        exact .inl rfl
    · exact Context.stops_of_idle (ctx_endOffGrid_same s c st)

theorem ctx_stopRun_ne {e : CtxId} (he : e ≠ c) : (stopRun s c st).ctx e = s.ctx e := by
  unfold stopRun
  dsimp only
  cases (s.ctx c).run with
  | none => rfl
  | some r =>
    dsimp only
    split
    · split
      · rfl
      · exact State.ctx_setCtx_ne _ _ _ _ he
    · exact ctx_endOffGrid_ne he

theorem job_stopRun (s : State) (c : CtxId) (st : Half) : (stopRun s c st).job = s.job := by
  unfold stopRun
  dsimp only
  cases (s.ctx c).run with
  | none => rfl
  | some r =>
    dsimp only
    split
    · split <;> rfl
    · unfold endOffGrid
      obtain ⟨x, l, t, he⟩ := finishRun_eq (abandonRun s c) c st 0 0
      rw [he]
      rfl

end

/-- Every run is stopped. -/
def stopAll (s : State) : State := ((List.range 8).map (Fin.ofNat 8)).foldl (fun s c => stopRun s c St.jobFenced) s

theorem stopAll_stops (s : State) (c : CtxId) : ((stopAll s).ctx c).Stops := by
  have hmem : ∀ c : CtxId, c ∈ (List.range 8).map (Fin.ofNat 8) := by decide
  refine foldl_reaches (P := fun c s => (s.ctx c).Stops) (fun s c => stopRun_stops s c _) (fun s c d h => ?_) (hmem c)
  by_cases he : c = d
  case pos =>
    subst he
    exact stopRun_stops s c _
  case neg =>
    rw [ctx_stopRun_ne he]
    exact h

theorem job_stopAll (s : State) : (stopAll s).job = s.job := foldl_keeps (get := State.job) _ _ fun t c _ => job_stopRun t c _

theorem fenceJob_eq {s : State} {j : Job} (h : s.job = some j) : fenceJob s = { stopAll s with job := some { j with fenced := true, fencing := true } } := by
  have hj := (job_stopAll s).trans h
  unfold fenceJob
  show (match (stopAll s).job with
    | some j => { stopAll s with job := some { j with fenced := true, fencing := true } }
    | none => stopAll s) = _
  rw [hj]

/-! ### The rest of a fence (R456) -/

/-- A collective's slots, requests and records before it is gone. -/
def settledCollective (s : State) (id : Nat) (c : Collective) : State :=
  (List.range c.count).foldl (fun s k =>
    let r := bucketRecord s c k
    if RC.armed r && RC.verdict r == 0 then setRecord s c k (abandonRecord r) else s) (dropRetries (releaseSlots s (slotOf id)) fun i _ => i == id)

theorem MemTraffic.settledCollective (s : State) (id : Nat) (c : Collective) : MemTraffic s (settledCollective s id c) := by
  have hr : MemTraffic s (releaseSlots s (slotOf id)) := (MemTraffic.refl s).foldl fun _ _ h => h.setEngine
  have hd : MemTraffic s (dropRetries (releaseSlots s (slotOf id)) fun i _ => i == id) := ⟨hr.rest, hr.lists, hr.runs, hr.active, hr.waits⟩
  refine hd.foldl fun t k h => ?_
  dsimp only
  split
  · exact h.setRecord
  · exact h

theorem closeCollective_some {s : State} {id : Nat} {c : Collective} (h : s.coll id = some c) :
    closeCollective s id = { settledCollective s id c with colls := (settledCollective s id c).colls.filter fun x => x.1 != id } := by
  unfold closeCollective
  rw [h]
  rfl

theorem job_closeCollective (s : State) (id : Nat) : (closeCollective s id).job = s.job := by
  cases h : s.coll id with
  | none => rw [closeCollective, h]
  | some c =>
    rw [closeCollective_some h]
    exact (MemTraffic.settledCollective s id c).job

theorem ids_closeCollective (s : State) (id : Nat) : (closeCollective s id).colls.map (·.1) = (s.colls.map (·.1)).filter (· != id) := by
  cases h : s.coll id with
  | none =>
    rw [closeCollective, h]
    refine (List.filter_eq_self.2 fun i hi => ?_).symm
    obtain ⟨x, hx, rfl⟩ := List.mem_map.1 hi
    exact bne_iff_ne.2 fun he => List.find?_eq_none.1 (Option.map_eq_none_iff.1 h) x hx (beq_iff_eq.2 he)
  | some c =>
    rw [closeCollective_some h, ← (MemTraffic.settledCollective s id c).ids, List.filter_map]
    rfl

theorem ids_foldl_closeCollective (l : List Nat) (s : State) :
    (l.foldl closeCollective s).colls.map (·.1) = (s.colls.map (·.1)).filter fun i => !l.contains i := by
  induction l generalizing s with
  | nil => exact (List.filter_eq_self.2 fun _ _ => rfl).symm
  | cons d l ih =>
    rw [List.foldl_cons, ih, ids_closeCollective, List.filter_filter]
    refine List.filter_congr fun i _ => ?_
    rw [List.contains_cons, Bool.not_or, Bool.and_comm]
    rfl

theorem colls_closeAll (s : State) : ((s.colls.map (·.1)).foldl closeCollective s).colls = [] := by
  refine List.map_eq_nil_iff.1 ((ids_foldl_closeCollective _ s).trans (List.filter_eq_nil_iff.2 fun i hi => ?_))
  rw [List.contains_iff_mem.2 hi]
  decide

/-- The commands and collectives that a fence ends. -/
def fenceClosed (s : State) : State :=
  let t := (s.cmds.filter fun c => c.phase == .running && fenceEnds.contains c.opcode).foldl (fun s c => s.finishSt c.ref St.jobFenced) s
  (t.colls.map (·.1)).foldl closeCollective t

theorem job_fenceClosed (s : State) : (fenceClosed s).job = s.job :=
  (foldl_keeps (get := State.job) _ _ fun t i _ => job_closeCollective t i).trans (foldl_keeps (get := State.job) _ _ fun _ _ _ => rfl)

theorem fenceRest_fields {s : State} {j : Job} (h : s.job = some j) : (fenceRest s).job = some { j with fencing := false, groups := [] } ∧
    (fenceRest s).colls = [] ∧ (fenceRest s).streams = [] ∧ (fenceRest s).arrivals = [] := by
  have hj := (job_fenceClosed s).trans h
  have hc : (fenceClosed s).colls = [] := colls_closeAll _
  have he : ∃ f, fenceRest s = { fenceClosed s with fab := f, streams := [], arrivals := [], job := some { j with fencing := false, groups := [] } } := by
    unfold fenceRest
    dsimp only
    split
    next k hk =>
      cases Option.some.inj (hj.symm.trans hk)
      exact ⟨_, rfl⟩
    next hn => exact nomatch hj.symm.trans hn
  obtain ⟨f, he⟩ := he
  rw [he]
  exact ⟨rfl, hc, rfl, rfl⟩

theorem fenceOn_waits {s : State} (hr : runsLeft s = true) : fenceOn s = s := by
  unfold fenceOn
  rw [hr, Bool.not_true, Bool.and_false]
  rfl

theorem fenceOn_goes {s : State} {j : Job} (h : s.job = some j) (hf : j.fencing = true) (hr : runsLeft s = false) :
    fenceOn s = ((fenceRest s).cmds.filter fun d => d.phase == .running && (d.opcode == 0x0502 || d.opcode == 0x0704)).foldl
      (fun v d => awaitAll v d.ref) (fenceRest s) := by
  unfold fenceOn
  rw [h, Option.any_some, hf, hr]
  rfl

end Sys2Proof.Machine
end

section
/-!
LEMMA. Jobs, barriers and broadcasts as their commands and packets take effect (13).
-/
namespace Sys2Proof.Machine

section
variable {s : State} {r : CmdRef} {c : Cmd} {j : Job} {g : Group} {n : Nat}

/-! ### Waiting for every request (R370) -/

/-- The TAGs of the requests outstanding. -/
def outstanding (s : State) : List Nat := (s.fab.reqs.filter fun q => !q.retry).map (·.tag)

/-- A command waits for the requests outstanding. -/
def awaiting (s : State) (r : CmdRef) : State := s.updCmd r fun c => { c with phase := .running, tags := outstanding s }

theorem cmd_awaiting (h : s.cmd? r = some c) : (awaiting s r).cmd? r = some { c with phase := .running, tags := outstanding s } :=
  (State.cmd_updCmd_same s r (fun c => { c with phase := .running, tags := outstanding s }) fun _ => rfl).trans (congrArg (Option.map _) h)

/-- What settleTags asks of a command that awaits nothing. -/
theorem settleTags_eq {d : Cmd} (h : s.cmd? r = some d) (hp : d.phase = .running) (hq : d.queue = []) : settleTags s r =
    if d.tags = [] ∧ fenceWaits s d = false then (if d.opcode = 0x0502 then { s with job := none, arrivals := [] } else s).finish r { status := d.bad }
    else s := by
  unfold settleTags
  rw [h]
  dsimp only
  simp only [hp, hq, List.isEmpty_iff, List.isEmpty_nil, true_and]
  rfl

theorem awaitAll_eq (h : s.cmd? r = some c) (hq : c.queue = []) : awaitAll s r =
    if outstanding s = [] ∧ fenceWaits s c = false then
      (if c.opcode = 0x0502 then { awaiting s r with job := none, arrivals := [] } else awaiting s r).finish r { status := c.bad }
    else awaiting s r := settleTags_eq (cmd_awaiting h) rfl hq

theorem awaitAll_cases (h : s.cmd? r = some c) (hq : c.queue = []) :
    (outstanding s ≠ [] ∨ fenceWaits s c = true → awaitAll s r = awaiting s r) ∧
    (outstanding s = [] → fenceWaits s c = false → c.opcode ≠ 0x0502 → awaitAll s r = (awaiting s r).finish r { status := c.bad }) ∧
    (outstanding s = [] → fenceWaits s c = false → c.opcode = 0x0502 →
      awaitAll s r = { awaiting s r with job := none, arrivals := [] }.finish r { status := c.bad }) := by
  refine ⟨fun hw => (awaitAll_eq h hq).trans (if_neg ?_), fun ht hf ho => ?_, fun ht hf ho => ?_⟩
  · rintro ⟨ht, hf⟩
    exact hw.elim (fun hw => hw ht) fun hw => Bool.noConfusion (hf.symm.trans hw)
  · rw [awaitAll_eq h hq, if_pos ⟨ht, hf⟩, if_neg ho]
  · rw [awaitAll_eq h hq, if_pos ⟨ht, hf⟩, if_pos ho]

/-! ### JOB_FENCE and JOB_CLOSE (R370, R456) -/

theorem exec_jobFence (h : Startable s r 0x0704 c) (hj : s.job = some j) (hid : j.id.toNat = fld c.payload 0 16) :
    exec (.jobFence r) s = .next (fenceOn (awaitAll (if j.fenced then s else fenceJob s) r)) := by
  have hcheck : jobFenceCheck s c.payload = none := by
    refine if_pos ?_
    rw [hj]
    exact beq_iff_eq.2 hid
  have hf : s.fenced = j.fenced := by rw [State.fenced, hj, Option.any_some]
  refine next_congr ((State.take_start _ h).trans ?_)
  rw [hcheck, hf]

theorem jobFence_other (h : Startable s r 0x0704 c) (hj : ∀ j, s.job = some j → j.id.toNat ≠ fld c.payload 0 16) :
    exec (.jobFence r) s = .next (s.finish r { status := St.jobInvalid }) := by
  have hcheck : jobFenceCheck s c.payload = some { status := St.jobInvalid } := by
    refine if_neg fun ha => ?_
    obtain ⟨j, hs, he⟩ := (Option.any_eq_true _ _).1 ha
    exact hj j hs (beq_iff_eq.1 he)
  refine next_congr ((State.take_start _ h).trans ?_)
  rw [hcheck]

theorem exec_jobClose (h : Startable s r 0x0502 c) (hj : s.job = some j) :
    exec (.jobClose r) s = .next (fenceOn (awaitAll (if j.fenced then s else fenceJob s) r)) := by
  refine next_congr ((State.take_start _ h).trans ?_)
  rw [hj]

/-! ### Groups -/

theorem onGroupNo_eq (hj : s.job = some j) (n : Nat) (f : Group → Group) :
    s.onGroupNo n f = { s with job := some { j with groups := j.groups.map fun g => if GP.number g.entry = n then f g else g } } := by
  unfold State.onGroupNo
  rw [hj]

/-- A group that keeps its entry is found again as it was changed. -/
theorem group_onGroupNo (f : Group → Group) (hf : ∀ g, (f g).entry = g.entry) (h : s.group n = some g) :
    (s.onGroupNo n f).group n = some (f g) := by
  obtain ⟨j, hj, hg⟩ := Option.bind_eq_some_iff.1 h
  rw [onGroupNo_eq hj, State.group, Option.bind_some]
  dsimp only
  rw [List.find?_map]
  have hcomp : ((fun g : Group => GP.number g.entry == n) ∘ fun g => if GP.number g.entry = n then f g else g) = fun g => GP.number g.entry == n := by
    funext x
    dsimp only [Function.comp]
    split
    · rw [hf]
    · rfl
  rw [hcomp, hg, Option.map_some, if_pos (beq_iff_eq.1 (List.find?_some hg :))]

/-- What a release makes of the group. -/
def Group.released (step : Word) (g : Group) : Group := { g with step := step, bseq := g.bseq + 1, barrier := {}, entered := none }

theorem applyRelease_eq (h : s.group n = some g) (skew : Bool) (step : Word) : applyRelease s n skew step =
    g.entered.elim (s.onGroupNo n (Group.released step)) fun r => (s.onGroupNo n (Group.released step)).finish r
      { status := if skew then St.stepSkew else St.complete, result := BitVec.ofNat 64 step.toNat } := by
  unfold applyRelease
  rw [h]
  dsimp only
  cases g.entered <;> rfl

theorem group_applyRelease (h : s.group n = some g) (skew : Bool) (step : Word) :
    (applyRelease s n skew step).group n = some { g with step := step, bseq := g.bseq + 1, barrier := {}, entered := none } := by
  have hg := group_onGroupNo (Group.released step) (fun _ => rfl) h
  rw [applyRelease_eq h]
  cases g.entered with
  | none => exact hg
  | some r => exact hg

theorem cmds_onGroupNo (s : State) (n : Nat) (f : Group → Group) : (s.onGroupNo n f).cmds = s.cmds := by
  unfold State.onGroupNo
  split <;> rfl

theorem cmd_applyRelease (h : s.group n = some g) (skew : Bool) (step : Word) (he : g.entered = some r) (hc : s.cmd? r = some c)
    (hd : c.isDone = false) : (applyRelease s n skew step).cmd? r = some
      { c with phase := .done { status := if skew then St.stepSkew else St.complete, result := BitVec.ofNat 64 step.toNat } } := by
  rw [applyRelease_eq h, he]
  have hcmd : (s.onGroupNo n (Group.released step)).cmd? r = some c := by
    rw [State.cmd?, cmds_onGroupNo]
    exact hc
  exact (State.cmd_finish_same _ hcmd).trans (congrArg some (if_neg (ne_true_of_eq_false hd)))

/-! ### Arrivals (R374) -/

theorem takeArrival_counts {src : BitVec 20} {q step : Word} {adv : Bool} {i : Nat} (h : s.group n = some g)
    (hi : rankOf (groupMembers s g) src = some i) :
    let b : Barrier := { arrived := insertSorted i g.barrier.arrived, advance := some (g.barrier.advance.getD adv),
                         skew := g.barrier.skew || step != g.step || g.barrier.advance.any fun a => a != adv }
    let t := s.onGroupNo n fun g => { g with barrier := b }
    takeArrival s n src q step adv = if q ≠ g.bseq ∨ g.barrier.arrived.contains i = true ∨ s.ownId g.holder = false then s
      else if b.arrived.length = GP.members g.entry then releaseBarrier t n else t := by
  unfold takeArrival
  rw [h]
  dsimp only
  rw [hi]

theorem takeArrival_cases {src : BitVec 20} {q step : Word} {adv : Bool} {i : Nat} (h : s.group n = some g)
    (hi : rankOf (groupMembers s g) src = some i) :
    let b : Barrier := { arrived := insertSorted i g.barrier.arrived, advance := some (g.barrier.advance.getD adv),
                         skew := g.barrier.skew || step != g.step || g.barrier.advance.any fun a => a != adv }
    let t := s.onGroupNo n fun g => { g with barrier := b }
    (q ≠ g.bseq ∨ g.barrier.arrived.contains i = true ∨ s.ownId g.holder = false → takeArrival s n src q step adv = s) ∧
    (q = g.bseq → g.barrier.arrived.contains i = false → s.ownId g.holder = true →
      takeArrival s n src q step adv = if b.arrived.length = GP.members g.entry then releaseBarrier t n else t) := by
  have he := takeArrival_counts (q := q) (step := step) (adv := adv) h hi
  refine ⟨fun hx => he.trans (if_pos hx), fun hq hc ho => he.trans (if_neg ?_)⟩
  rintro (hx | hx | hx)
  · exact hx hq
  · exact Bool.noConfusion (hc.symm.trans hx)
  · exact Bool.noConfusion (ho.symm.trans hx)

/-! ### BARRIER_ENTER and GROUP_BROADCAST (R373, R377) -/

theorem exec_barrierEnter (h : Startable s r 0x0503 c) (hj : s.job = some j) (hg : s.group (BE.group c.payload) = some g) :
    let p := c.payload
    let held := s.onGroupNo (BE.group p) fun g => { g with entered := some r }
    exec (.barrierEnter r) s = .next (if g.entered.isSome then s.defer r
      else if s.ownId g.holder then takeArrival (held.setPhase r .running) (BE.group p) g.holder g.bseq (BE.step p) (BE.advance p)
      else if 16384 ≤ s.fab.reqs.length then s.defer r else issueCmd held r [arrivalPacket g.holder j.id.toNat g p]) := by
  refine next_congr ((State.take_start _ h).trans ?_)
  dsimp only
  rw [hj, hg]

/-- The packets of a broadcast: one to each other member. -/
def broadcastPackets (s : State) (g : Group) (p : BitVec 384) (rows : List Row) : List Packet :=
  ((groupMembers s g).filter fun m => !s.ownId m).map fun m =>
    { ptype := ptWrite, dst := m, src := 0, window := BitVec.ofNat 12 (GP.bcastWindow g.entry), nrows := BitVec.ofNat 4 rows.length,
      wgen := GP.bcastWgen g.entry, ext1 := word 128 [(0, 48, GB.offset p)], rows := rows }

theorem groupBroadcast_waits (h : Startable s r 0x0504 c) (hg : s.group (GB.group c.payload) = some g)
    (hw : capWaits s (capture s none (GB.src c.payload)) = true ∨
      capWaits s (capture s none (s.window (GP.bcastWindow g.entry)).handle) = true) :
    exec (.groupBroadcast r) s = .next (s.defer r) := by
  refine next_congr ((State.take_start _ h).trans ?_)
  dsimp only
  rw [hg]
  exact if_pos (Bool.or_eq_true_iff.2 hw)

theorem groupBroadcast_sends {u v : State} {rows : List Row} (h : Startable s r 0x0504 c) (hg : s.group (GB.group c.payload) = some g)
    (hw : ¬ (capWaits s (capture s none (GB.src c.payload)) = true ∨
      capWaits s (capture s none (s.window (GP.bcastWindow g.entry)).handle) = true))
    (hr : accessRead s (some r.ctx) (capture s none (GB.src c.payload)) none (GB.srcRow c.payload) (GB.rows c.payload) = (rows, none, u))
    (hv : accessWrite u (some r.ctx) (capture s none (s.window (GP.bcastWindow g.entry)).handle) none (GB.offset c.payload / 512)
      (rows.map fun x => (x, 0)) = (none, v)) :
    exec (.groupBroadcast r) s = .next (settleTags (pumpCmd (v.updCmd r fun d =>
      { d with phase := .running, queue := broadcastPackets v g c.payload rows }) r) r) := by
  refine next_congr ((State.take_start _ h).trans ?_)
  dsimp only
  rw [hg]
  dsimp only
  rw [if_neg fun hx => hw (Bool.or_eq_true_iff.1 hx), hr]
  dsimp only
  rw [hv]
  rfl

theorem groupWait_faults {n : Fin 16} (hg : s.group n.val = some g) (he : g.entered = some r) (hc : s.cmd? r = some c)
    (hp : c.phase = .running) (ht : c.tags = []) : exec (.groupWaitTimeout n) s = .next (faultCmd (clearEntered s r) c St.groupWaitTimeout) := by
  refine next_congr ?_
  unfold groupWaitExpired
  rw [hg, Option.bind_some, he]
  dsimp only
  rw [hc]
  exact if_pos ⟨hp, List.isEmpty_iff.2 ht⟩

end

/-! ### Arrivals and releases as packets (R374, R375) -/

section
variable {s : State} {via : Option LinkId} {p : Packet} {j : Job}

theorem takeNotice_acts {act : State → State} (hn : p.nrows = 0) (hs : s.serving = true) : takeNotice s p act = answerPacket (act s) p 0 0 :=
  (if_neg (not_not.2 hn)).trans (if_neg (by rw [hs]; decide))

theorem barrier_arrives (ha : Arrives s via p ptBarrier) (hs : (arrived s via p).serving = true) (hn : p.nrows = 0)
    (hj : (arrived s via p).job = some j) : exec (.barrier via p) s = .next (answerPacket (if j.id.toNat = BH.job p then
      takeArrival (arrived s via p) (BH.group p) p.src (BH.bseq p) (BH.step p) (BH.advance p) else arrived s via p) p 0 0) := by
  refine next_congr ((packetArrives_own ha).trans ((takeNotice_acts hn hs).trans ?_))
  rw [hj, Option.any_some]
  simp only [beq_iff_eq]

theorem release_arrives (ha : Arrives s via p ptNotice) (hx : fld p.ext1 0 8 = 0x20) (hs : (arrived s via p).serving = true) (hn : p.nrows = 0)
    (hj : (arrived s via p).job = some j) : exec (.barrierRelease via p) s = .next (answerPacket (if j.id.toNat = XN.job p then
      applyRelease (arrived s via p) (XN.group p) (bit p.ext1 8) (BitVec.ofNat 32 (fld p.ext1 96 32)) else arrived s via p) p 0 0) := by
  refine next_congr ((if_neg (not_not.2 hx)).trans ((packetArrives_own ha).trans ((takeNotice_acts hn hs).trans ?_)))
  rw [hj, Option.any_some]
  simp only [beq_iff_eq]

end

theorem job_fenceJob {s : State} {j : Job} (hj : s.job = some j) : (fenceJob s).job = some { j with fenced := true, fencing := true } :=
  congrArg State.job (fenceJob_eq hj)

theorem ctx_withJob (s : State) (j : Option Job) (c : CtxId) : ({ s with job := j } : State).ctx c = s.ctx c := rfl

theorem fenceJob_stops {s : State} {j : Job} (hj : s.job = some j) (c : CtxId) : ((fenceJob s).ctx c).Stops := by
  rw [fenceJob_eq hj, ctx_withJob]
  exact stopAll_stops s c

/-- Settles O45: jobs and fences by what they end, barriers and broadcasts by what they send. -/
theorem jobCommands : Obligations.JobCommands := by
  unfold Obligations.JobCommands
  refine ⟨⟨fun s r c => ?_, fun s j hj => ?_⟩, fun s u v r c j g rows => ?_, fun s via p j => ?_, fun s n i g src q step adv skew hg => ?_⟩
  case refine_1 =>
    refine ⟨fun h => next_congr (State.take_start _ h), fun j hj => ⟨fun h hid => exec_jobFence h hj hid, fun h => exec_jobClose h hj⟩,
      fun h hj => jobFence_other h hj, fun h hq => awaitAll_cases h hq⟩
  case refine_2 =>
    obtain ⟨h1, h2, h3, h4⟩ := fenceRest_fields hj
    exact ⟨job_fenceJob hj, fenceJob_stops hj, fun _ hr => fenceOn_waits hr, fun hf hr => ⟨h1, h2, h3, h4, fenceOn_goes hj hf hr⟩⟩
  case refine_3 =>
    intro p hj
    refine ⟨fun h hg => ⟨fun he => ?_, fun he ho => ?_, fun he ho hl => ?_⟩, fun h hg => ⟨fun hw => groupBroadcast_waits h hg hw,
      fun hw hr hv => groupBroadcast_sends h hg hw hr hv⟩, fun n hg he hc hp ht => groupWait_faults hg he hc hp ht⟩
    · exact (exec_barrierEnter h hj hg).trans (next_congr (if_pos (Option.isSome_iff_ne_none.2 he)))
    · exact (exec_barrierEnter h hj hg).trans (next_congr ((if_neg (by rw [he]; decide)).trans (if_pos ho)))
    · exact (exec_barrierEnter h hj hg).trans (next_congr ((if_neg (by rw [he]; decide)).trans ((if_neg (ne_true_of_eq_false ho)).trans
        (if_neg (Nat.not_le.2 hl)))))
  case refine_4 =>
    intro t hs hn hj
    refine ⟨fun ha => ⟨fun hid => ?_, fun hid => ?_⟩, fun ha hx => ⟨fun hid => ?_, fun hid => ?_⟩⟩
    · exact (barrier_arrives ha hs hn hj).trans (next_congr (congrArg (answerPacket · p 0 0) (if_pos hid)))
    · exact (barrier_arrives ha hs hn hj).trans (next_congr (congrArg (answerPacket · p 0 0) (if_neg hid)))
    · exact (release_arrives ha hx hs hn hj).trans (next_congr (congrArg (answerPacket · p 0 0) (if_pos hid)))
    · exact (release_arrives ha hx hs hn hj).trans (next_congr (congrArg (answerPacket · p 0 0) (if_neg hid)))
  case refine_5 =>
    exact ⟨fun hi => takeArrival_cases hg hi, group_applyRelease hg skew step, fun r c he hc hd => cmd_applyRelease hg skew step he hc hd⟩

end Sys2Proof.Machine
end

section
/-!
LEMMA. Why the statement on device resets fails (15).
-/
namespace Sys2Proof.Machine

/-- A command that waits, though it is marked as the owner of an update binding, in a context that holds a run of the same place. The
binding names one header, whose entry lies where no memory is. -/
def boundState : State :=
  { State.reset with
    mod := { State.reset.mod with standby := true, powered := true, perst := false, booted := true }
    cmds := [{ ring := 0, seq := 0, entry := BitVec.ofNat 512 (0x0201 + (2 ^ 99 + 0x8000 * 2 ^ 128 + 2 ^ 144) * 2 ^ 128), bound := true }]
    ctxs := [(0, { accFlags := 1, run := some { seq := 0, payload := 0, cur := 0, left := none } })]
    keys := [(0, 1 + 2 ^ 32), (1, BitVec.ofNat 256 (1 + 2 ^ 32 + 2 ^ 115))]
    ms := { State.reset.ms with mem := [(0, 1), (1, 0x80)] }
    grid := {}
    rst := { State.reset.rst with devWanted := some 3, dev := false, devCmd := none } }

/-- Breaking the header faults the context, whose run ends with its flags: the reset's status takes the place of the fault's, and the
flags stay. -/
theorem phases_deviceStart_boundState :
    (deviceStart boundState).cmds.map Cmd.phase = [.done { status := St.contextReset, flags := 1 }] := by decide +kernel

/-- Refutes O49: a waiting command marked as bound, whose context's run ends with flags as the reset breaks its header, is ended with
those flags, where the statement asks for a bare status. -/
theorem not_deviceResets : ¬ Obligations.DeviceResets := by
  unfold Obligations.DeviceResets
  rintro ⟨h, -⟩
  obtain ⟨t, ht, -, -, -, -, -, -, -, -, -, -, -, -, -, -, -, hc⟩ := (h boundState 3 0 { rate := none }).1 rfl rfl
  have hend := hc _ rfl rfl rfl
  have heq : deviceStart boundState = t := by
    injection ht
  rw [← heq] at hend
  have hphase := (congrArg (List.map Cmd.phase) hend).symm.trans phases_deviceStart_boundState
  exact absurd hphase (by decide)

end Sys2Proof.Machine
end

section
/-!
LEMMA. What an engine reset leaves alone (15): accesses through entries, held keyring writes and fences go on while a reset is in
progress, and touch neither its course nor the grid.
-/
namespace Sys2Proof.Machine

/-! ### Accesses through entries -/

namespace MemTraffic
variable {o s : State}

theorem markSeen {c k p} (h : MemTraffic o s) : MemTraffic o (markSeen s c k p) := by
  unfold Machine.markSeen
  split
  · dsimp only
    split
    next hr => exact h.setCtx fun hn => nomatch hr.symm.trans hn
    next => exact h
  · exact h

theorem begin' {c k p f} (h : MemTraffic o s) : MemTraffic o (begin' s c k p f).2 := by
  unfold Machine.begin'
  split
  · exact h
  · exact h.markSeen

theorem writeAt {k j r p} (h : MemTraffic o s) : MemTraffic o (writeAt s k j r p).2 := by
  unfold Machine.writeAt
  split
  · exact h
  next a ha =>
    have hw := h.writeRow (a := a) (r := r) (p := p)
    split
    · exact h
    · split
      next he =>
        rw [he] at hw
        exact hw
      next he =>
        rw [he] at hw
        exact hw

theorem putRows {k n l} (h : MemTraffic o s) : MemTraffic o (putRows k n l s).2 := by
  induction l generalizing s n with
  | nil => exact h
  | cons x l ih =>
    obtain ⟨r, p⟩ := x
    have hw := h.writeAt (k := k) (j := n) (r := r) (p := p)
    unfold Machine.putRows
    split
    next he =>
      rw [he] at hw
      exact ih hw
    next he =>
      rw [he] at hw
      exact hw

theorem accessWrite {c k f n l} (h : MemTraffic o s) : MemTraffic o (accessWrite s c k f n l).2 := by
  have hb := h.begin' (c := c) (k := k) (p := pWR) (f := f)
  unfold Machine.accessWrite
  split
  · exact h
  · split
    next he =>
      rw [he] at hb
      exact hb
    next he =>
      rw [he] at hb
      exact hb.putRows

theorem faultCmd {c st i d} (h : MemTraffic o s) : MemTraffic o (faultCmd s c st i d) := by
  have hb := (h.bbAppend (k := 1) (c := some c.ring) (p := faultPayload st c.seq i)).bbFreeze
  refine finish ?_
  cases he : Machine.faultRun (Machine.bbFreeze (Machine.bbAppend s 1 (some c.ring) (faultPayload st c.seq i))) c.ring ⟨st, s.nextRef, 0⟩ with
  | none => exact hb
  | some t => exact hb.faultRun he

theorem readDone {r} (h : MemTraffic o s) : MemTraffic o (readDone s r) := by
  unfold Machine.readDone
  split
  · exact h
  next c hc =>
    split
    · exact h
    next q hq =>
      dsimp only
      split
      · exact h
      · have hw := (h.updCmd (r := r) (f := fun c => { c with resp := none })).accessWrite (c := some c.ring)
          (k := capture s none (RP.handle c.payload)) (f := none) (n := RP.row c.payload) (l := respRows q)
        split
        next he =>
          rw [he] at hw
          exact hw.finish
        next he =>
          rw [he] at hw
          exact hw.faultCmd

theorem releaseReads (h : MemTraffic o s) : MemTraffic o (releaseReads s) := h.foldl fun _ _ ht => ht.readDone

theorem mapBinding {c p f} (h : MemTraffic o s) : MemTraffic o (mapBinding s c p f) := by
  refine h.foldl fun t b ht => ?_
  split
  · exact ht.ctxModify
  · exact ht

theorem settleBinding {c p st} (h : MemTraffic o s) : MemTraffic o (settleBinding s c p st) := by
  unfold Machine.settleBinding
  split
  · exact h.mapBinding
  · exact h

end MemTraffic

/-! ### What goes on during a reset -/

/-- One state comes from another without a move of the resets, of the grid or of a core, and no run begins. -/
structure Unmoved (o s : State) : Prop where
  rst : s.rst = o.rst
  host : s.host = o.host
  tel : s.tel = o.tel
  grid : o.grid.waiting = [] → s.grid = o.grid
  active : ∀ i, (s.core i).active = (o.core i).active
  runs : ∀ c, (o.ctx c).run = none → (s.ctx c).run = none

namespace Unmoved
variable {o s : State}

theorem refl (s : State) : Unmoved s s := ⟨rfl, rfl, rfl, fun _ => rfl, fun _ => rfl, fun _ h => h⟩

theorem of_memTraffic {t : State} (h : Unmoved o s) (k : MemTraffic s t) : Unmoved o t := by
  refine ⟨k.rst.trans h.rst, (congrArg State.host k.rest :).trans h.host, (congrArg State.tel k.rest :).trans h.tel, fun hw => ?_,
    fun i => (k.active i).trans (h.active i), fun c hc => k.runs c (h.runs c hc)⟩
  have hg : s.grid.waiting = [] := (congrArg Grid.waiting (h.grid hw)).trans hw
  have ht := k.waits hg
  have hrest : ({ t.grid with waiting := [] } : Grid) = { s.grid with waiting := [] } := congrArg State.grid k.rest
  rw [← h.grid hw]
  generalize t.grid = x at ht hrest
  generalize s.grid = y at hg hrest
  cases x
  cases y
  cases ht
  cases hg
  exact hrest

theorem foldl {α : Type} {f : State → α → State} {l : List α} (h : Unmoved o s)
    (hf : ∀ s a, Unmoved o s → Unmoved o (f s a)) : Unmoved o (l.foldl f s) := by
  induction l generalizing s with
  | nil => exact h
  | cons a l ih => exact ih (hf s a h)

theorem finish {r x} (h : Unmoved o s) : Unmoved o (s.finish r x) := ⟨h.rst, h.host, h.tel, h.grid, h.active, h.runs⟩
theorem updCmd {r f} (h : Unmoved o s) : Unmoved o (s.updCmd r f) := ⟨h.rst, h.host, h.tel, h.grid, h.active, h.runs⟩
theorem setKey {i x} (h : Unmoved o s) : Unmoved o (s.setKey i x) := ⟨h.rst, h.host, h.tel, h.grid, h.active, h.runs⟩
theorem abandonReqs {p} (h : Unmoved o s) : Unmoved o (abandonReqs s p) := ⟨h.rst, h.host, h.tel, h.grid, h.active, h.runs⟩

theorem keyApply {c} (h : Unmoved o s) : Unmoved o (keyApply s c) := by
  unfold Machine.keyApply
  split
  · exact h.setKey.finish
  · exact h.finish

theorem applyHeld (h : Unmoved o s) : Unmoved o (applyHeld s) := by
  have h0 : Unmoved o { s with held := [] } := ⟨h.rst, h.host, h.tel, h.grid, h.active, h.runs⟩
  refine h0.foldl fun t r ht => ?_
  split
  · split
    · exact ht
    · exact ht.keyApply
  · exact ht

theorem closeCollective {i} (h : Unmoved o s) : Unmoved o (closeCollective s i) := by
  cases hc : s.coll i with
  | none =>
    unfold Machine.closeCollective
    rw [hc]
    exact h
  | some c =>
    have hs := h.of_memTraffic (MemTraffic.settledCollective s i c)
    rw [closeCollective_some hc]
    exact ⟨hs.rst, hs.host, hs.tel, hs.grid, hs.active, hs.runs⟩

theorem fenceClosed (h : Unmoved o s) : Unmoved o (fenceClosed s) :=
  (h.foldl fun _ _ ht => ht.finish).foldl fun _ _ ht => ht.closeCollective

theorem fenceRest (h : Unmoved o s) : Unmoved o (fenceRest s) := by
  have hc := h.fenceClosed
  unfold Machine.fenceRest
  dsimp only
  split
  · exact ⟨hc.rst, hc.host, hc.tel, hc.grid, hc.active, hc.runs⟩
  · exact ⟨hc.rst, hc.host, hc.tel, hc.grid, hc.active, hc.runs⟩

theorem settleTags {r} (h : Unmoved o s) : Unmoved o (settleTags s r) := by
  unfold Machine.settleTags
  split
  · split
    · split
      · exact ⟨h.rst, h.host, h.tel, h.grid, h.active, h.runs⟩
      · exact h.finish
    · exact h
  · exact h

theorem fenceOn (h : Unmoved o s) : Unmoved o (fenceOn s) := by
  unfold Machine.fenceOn
  split
  · exact h.fenceRest.foldl fun _ _ ht => ht.updCmd.settleTags
  · exact h

end Unmoved

end Sys2Proof.Machine
end

section
/-!
LEMMA. The course of an engine reset, and its suspects (15).
-/
namespace Sys2Proof.Machine

/-! ### The state of the device -/

theorem LinkTraffic.sendPeerStates (s : State) : LinkTraffic s (sendPeerStates s) := by
  refine LinkTraffic.foldl (fun t l => ?_) allLinks s
  split
  · exact LinkTraffic.pushFlits t l _
  · exact LinkTraffic.refl t

theorem setDevState_eq (s : State) (d : DevState) : ∃ h o m, setDevState s d = { s with host := h, hostOut := o, mod := m } ∧ h.state = d := by
  unfold setDevState
  split
  next he => exact ⟨s.host, s.hostOut, s.mod, rfl, he⟩
  next =>
    unfold fireVector
    dsimp only
    split
    · exact ⟨_, s.hostOut, _, rfl, rfl⟩
    · exact ⟨_, _, _, rfl, rfl⟩

/-- A change of DEVICE_STATE reaches the host and the peers, and nothing else. -/
theorem changeState_eq (s : State) (d : DevState) : ∃ h o m f, changeState s d = { s with host := h, hostOut := o, mod := m, fab := f } ∧ h.state = d := by
  obtain ⟨h, o, m, e, hd⟩ := setDevState_eq s d
  unfold changeState
  dsimp only
  split
  · exact ⟨h, o, m, s.fab, e, hd⟩
  · obtain ⟨l, w, p, x, e'⟩ := LinkTraffic.sendPeerStates (setDevState s d)
    rw [e']
    rw [e]
    exact ⟨h, o, m, _, rfl, hd⟩

/-! ### The start (R439, R440, R447) -/

/-- What the reset's start has done before runs end: its record, the device's state, the count. -/
def resetBegun (s : State) : State :=
  let t := changeState (bbFreeze (bbAppend s 3 none (engineRecord s.rst))) .engineReset
  { t with tel := { t.tel with engineResets := countReset t.tel.engineResets } }

theorem resetBegun_eq (s : State) : (resetBegun s).rst = s.rst ∧ (resetBegun s).host.state = .engineReset ∧
    (resetBegun s).tel.engineResets = countReset s.tel.engineResets ∧ (resetBegun s).time = s.time := by
  obtain ⟨b, e⟩ := bbAppend_eq s 3 none (engineRecord s.rst)
  obtain ⟨b', e', -⟩ := bbFreeze_eq (bbAppend s 3 none (engineRecord s.rst))
  obtain ⟨h, o, m, f, ec, hd⟩ := changeState_eq (bbFreeze (bbAppend s 3 none (engineRecord s.rst))) .engineReset
  unfold resetBegun
  rw [ec, e', e]
  exact ⟨rfl, hd, rfl, rfl⟩

theorem holdGrid_eq (s : State) : ∃ cs, holdGrid s = { s with grid := { phase := .held }, cores := cs } :=
  updateCores_eq (fun _ k => { k with active := false }) { s with grid := { phase := .held } } allCores

theorem ctx_holdGrid (s : State) (c : CtxId) : (holdGrid s).ctx c = s.ctx c := by
  obtain ⟨cs, e⟩ := holdGrid_eq s
  rw [e]
  rfl

theorem active_holdGrid (s : State) (i : CoreId) : ((holdGrid s).core i).active = false :=
  congrArg Core.active (core_update_allCores (fun _ k => { k with active := false }) { s with grid := { phase := .held } } i)

/-- A run that becomes a suspect ends, and no other begins. -/
theorem suspectRun_ends (s : State) (c : CtxId) : ((suspectRun s c).ctx c).run = none := by
  unfold suspectRun
  dsimp only
  cases hr : (s.ctx c).run with
  | none => exact hr
  | some r =>
    dsimp only
    split
    · exact congrArg Context.run (State.ctx_setCtx_same _ c _)
    · exact congrArg Context.run (State.ctx_setCtx_same _ c _)

theorem MemTraffic.stopSender {o s : State} {c : CtxId} (h : MemTraffic o s) : MemTraffic o (stopSender s c) := by
  refine ⟨h.rest, Eq.trans ?_ h.lists, h.runs, h.active, h.waits⟩
  unfold Machine.stopSender
  dsimp only
  rw [List.map_map]
  refine List.map_congr_left fun x _ => ?_
  dsimp only [Function.comp]
  split
  · exact Prod.ext rfl (List.map_map ..)
  · rfl

/-- What ending a run does before it is listed among the suspects. -/
theorem suspectRun_eq (s : State) (c : CtxId) : ∃ t l, MemTraffic s t ∧ (suspectRun s c) = { t with rst := { t.rst with suspects := l } } := by
  unfold suspectRun
  dsimp only
  cases hr : (s.ctx c).run with
  | none => exact ⟨s, s.rst.suspects, .refl s, rfl⟩
  | some r =>
    have ht := (((MemTraffic.refl s).abandonRun (c := c)).stopSender (c := c)).settleBinding (c := c) (p := r.payload) (st := St.contextReset)
    have hu := (ht.updCmd (r := r.ref c) (f := fun d => { d with bound := false }))
    dsimp only
    split
    · exact ⟨_, _, (hu.setCtx (c := c) (x := { State.ctx _ c with run := none, fault := none, switchedOut := false, accFlags := 0 }) fun _ => rfl).finish, rfl⟩
    · exact ⟨_, _, hu.setCtx (c := c) (x := { State.ctx _ c with run := none, fault := none, switchedOut := false, accFlags := 0 }) fun _ => rfl, rfl⟩

/-- The resets but for their suspects. -/
def ResetCtl.course (x : ResetCtl) : ResetCtl := { x with suspects := [] }

theorem ResetCtl.of_course {x y : ResetCtl} (h : x.course = y.course) : x.eng = y.eng ∧ x.ref = y.ref ∧ x.history = y.history ∧
    x.enterDeadbolt = y.enterDeadbolt :=
  ⟨(congrArg ResetCtl.eng h :), (congrArg ResetCtl.ref h :), (congrArg ResetCtl.history h :), (congrArg ResetCtl.enterDeadbolt h :)⟩

theorem suspectRun_keeps (s : State) (c : CtxId) : (suspectRun s c).rst.course = s.rst.course ∧ (suspectRun s c).host = s.host ∧
    (suspectRun s c).tel = s.tel ∧ ∀ d, (s.ctx d).run = none → ((suspectRun s c).ctx d).run = none := by
  obtain ⟨t, l, ht, he⟩ := suspectRun_eq s c
  rw [he]
  exact ⟨(congrArg ResetCtl.course ht.rst :), (congrArg State.host ht.rest :), (congrArg State.tel ht.rest :), ht.runs⟩

/-- Every run ends. -/
def suspectsListed (s : State) : State := allCtxs.foldl suspectRun s

theorem suspectsListed_keeps (s : State) : (suspectsListed s).rst.course = s.rst.course ∧ (suspectsListed s).host = s.host ∧
    (suspectsListed s).tel = s.tel :=
  ⟨foldl_keeps (get := fun t => t.rst.course) _ _ fun t c _ => (suspectRun_keeps t c).1,
    foldl_keeps (get := State.host) _ _ fun t c _ => (suspectRun_keeps t c).2.1,
    foldl_keeps (get := State.tel) _ _ fun t c _ => (suspectRun_keeps t c).2.2.1⟩

theorem suspectsListed_ends (s : State) (c : CtxId) : ((suspectsListed s).ctx c).run = none :=
  foldl_reaches (P := fun c t => (t.ctx c).run = none) suspectRun_ends (fun t c d => (suspectRun_keeps t d).2.2.2 c) (List.mem_finRange c)

theorem setCtx_keeps (s : State) (c : CtxId) (x : Context) : (s.setCtx c x).rst = s.rst ∧ (s.setCtx c x).host = s.host ∧
    (s.setCtx c x).tel = s.tel := ⟨rfl, rfl, rfl⟩

theorem setRst_keeps (s : State) (x : ResetCtl) : (s.setRst x).rst = x ∧ (s.setRst x).host = s.host ∧ (s.setRst x).tel = s.tel := ⟨rfl, rfl, rfl⟩

theorem joinFlags_keeps (s : State) : (joinFlags s).rst = s.rst ∧ (joinFlags s).host = s.host ∧ (joinFlags s).tel = s.tel := by
  have hkept : ∀ t, (summariesClear t).rst = t.rst ∧ (summariesClear t).host = t.host ∧ (summariesClear t).tel = t.tel := fun t =>
    ⟨foldl_keeps (get := State.rst) _ _ fun _ _ _ => rfl, foldl_keeps (get := State.host) _ _ fun _ _ _ => rfl,
      foldl_keeps (get := State.tel) _ _ fun _ _ _ => rfl⟩
  cases hc : s.grid.ctx with
  | none =>
    unfold joinFlags
    rw [hc]
    exact ⟨rfl, rfl, rfl⟩
  | some c =>
    obtain ⟨fl, he⟩ := joinFlags_eq hc
    rw [he]
    obtain ⟨h1, h2, h3⟩ := setCtx_keeps (summariesClear s) c { (summariesClear s).ctx c with accFlags := fl }
    obtain ⟨k1, k2, k3⟩ := hkept s
    exact ⟨h1.trans k1, h2.trans k2, h3.trans k3⟩

/-- The resets as a reset that is not a recovery starts. -/
def resetEntered (s : State) : ResetCtl :=
  let x := { s.rst with eng := .started, ref := s.nextRef, history := s.rst.history ++ [s.time] }
  { x with enterDeadbolt := limitReached x s.time }

/-- Every run ended, the grid held, and what goes on all the same. -/
def runsEnded (s : State) : State := fenceOn (releaseReads (applyHeld (holdGrid (suspectsListed (joinFlags s)))))

theorem resetEntered_limit (s : State) :
    (resetEntered s).enterDeadbolt = limitReached { s.rst with history := s.rst.history ++ [s.time] } s.time := by
  unfold resetEntered limitReached
  rfl

theorem engineStart_eq {s : State} (he : s.rst.eng = .triggered) (hd : s.rst.dev = false) (hr : s.rst.recovery = false) :
    engineStart s = runsEnded ((resetBegun s).setRst (resetEntered s)) := by
  unfold engineStart
  rw [if_neg fun h => h.elim (fun h => h he) fun h => Bool.noConfusion (hd.symm.trans h)]
  dsimp only
  rw [if_neg (ne_true_of_eq_false hr)]
  have ht : (resetBegun s).time = s.time := (resetBegun_eq s).2.2.2
  unfold resetEntered
  dsimp only
  rw [← ht]
  rfl

theorem engineStart_recovers {s : State} (he : s.rst.eng = .triggered) (hd : s.rst.dev = false) (hr : s.rst.recovery = true) :
    engineStart s = applyHeld (holdGrid (dropReplay ((resetBegun s).setRst { s.rst with eng := .started }))) := by
  unfold engineStart
  rw [if_neg fun h => h.elim (fun h => h he) fun h => Bool.noConfusion (hd.symm.trans h)]
  dsimp only
  rw [if_pos hr]
  rfl

/-- A held grid stays held through what goes on. -/
theorem Unmoved.held {o s : State} (h : Unmoved (holdGrid o) s) : s.grid = { phase := .held } ∧ (∀ i, (s.core i).active = false) ∧
    s.rst = o.rst ∧ s.host = o.host ∧ s.tel = o.tel := by
  obtain ⟨cs, e⟩ := holdGrid_eq o
  have hgrid : (holdGrid o).grid = { phase := .held } := by rw [e]
  refine ⟨(h.grid (by rw [hgrid])).trans hgrid, fun i => (h.active i).trans (active_holdGrid o i), ?_, ?_, ?_⟩
  · exact h.rst.trans (by rw [e])
  · exact h.host.trans (by rw [e])
  · exact h.tel.trans (by rw [e])

theorem runsEnded_holds (s : State) : (runsEnded s).grid = { phase := .held } ∧ (∀ i, ((runsEnded s).core i).active = false) ∧
    (runsEnded s).rst.course = s.rst.course ∧ (runsEnded s).host = s.host ∧ (runsEnded s).tel = s.tel ∧ ∀ c, ((runsEnded s).ctx c).run = none := by
  have hu : Unmoved (holdGrid (suspectsListed (joinFlags s))) (runsEnded s) :=
    ((Unmoved.refl _).applyHeld.of_memTraffic (MemTraffic.refl _).releaseReads).fenceOn
  obtain ⟨hgrid, hactive, hrst, hhost, htel⟩ := hu.held
  obtain ⟨k1, k2, k3⟩ := suspectsListed_keeps (joinFlags s)
  obtain ⟨j1, j2, j3⟩ := joinFlags_keeps s
  refine ⟨hgrid, hactive, ?_, hhost.trans (k2.trans j2), htel.trans (k3.trans j3), fun c => hu.runs c ?_⟩
  · rw [hrst, k1, j1]
  · rw [ctx_holdGrid]
    exact suspectsListed_ends _ c

theorem engineReset_starts {s : State} (he : s.rst.eng = .triggered) (hd : s.rst.dev = false) (hr : s.rst.recovery = false) :
    ∃ t : State, exec .engineResetStart s = .next t ∧
      t.rst.eng = .started ∧ t.rst.ref = s.nextRef ∧ t.rst.history = s.rst.history ++ [s.time] ∧
      t.rst.enterDeadbolt = limitReached { s.rst with history := s.rst.history ++ [s.time] } s.time ∧
      t.grid = { phase := .held } ∧ t.host.state = .engineReset ∧ t.tel.engineResets = countReset s.tel.engineResets ∧
      (∀ i : CoreId, (t.core i).active = false) ∧ ∀ c : CtxId, (t.ctx c).run = none := by
  obtain ⟨hgrid, hactive, hrst, hhost, htel, hruns⟩ := runsEnded_holds ((resetBegun s).setRst (resetEntered s))
  obtain ⟨r1, r2, r3⟩ := setRst_keeps (resetBegun s) (resetEntered s)
  obtain ⟨-, b2, b3, -⟩ := resetBegun_eq s
  rw [r1] at hrst
  obtain ⟨h1, h2, h3, h4⟩ := ResetCtl.of_course hrst
  refine ⟨_, next_congr (engineStart_eq he hd hr), h1, h2, h3, h4.trans (resetEntered_limit s), hgrid, ?_, ?_, hactive, hruns⟩
  · exact (congrArg HostIf.state (hhost.trans r2)).trans b2
  · exact (congrArg Telemetry.engineResets (htel.trans r3)).trans b3

theorem dropReplay_keeps (s : State) : (dropReplay s).rst = s.rst ∧ (dropReplay s).host = s.host := by
  unfold dropReplay
  split <;> exact ⟨rfl, rfl⟩

theorem recovery_starts {s : State} (he : s.rst.eng = .triggered) (hd : s.rst.dev = false) (hr : s.rst.recovery = true) :
    ∃ t : State, exec .engineResetStart s = .next t ∧
      t.rst.eng = .started ∧ t.rst.history = s.rst.history ∧ t.rst.enterDeadbolt = s.rst.enterDeadbolt ∧ t.grid = { phase := .held } ∧
      t.host.state = .engineReset ∧ ∀ i : CoreId, (t.core i).active = false := by
  have hu := (Unmoved.refl (holdGrid (dropReplay ((resetBegun s).setRst { s.rst with eng := .started })))).applyHeld
  rw [← engineStart_recovers he hd hr] at hu
  obtain ⟨hgrid, hactive, hrst, hhost, -⟩ := hu.held
  obtain ⟨d1, d2⟩ := dropReplay_keeps ((resetBegun s).setRst { s.rst with eng := .started })
  obtain ⟨r1, r2, -⟩ := setRst_keeps (resetBegun s) { s.rst with eng := .started }
  have hcourse := hrst.trans (d1.trans r1)
  refine ⟨_, rfl, (congrArg ResetCtl.eng hcourse :), (congrArg ResetCtl.history hcourse :), (congrArg ResetCtl.enterDeadbolt hcourse :), hgrid, ?_, hactive⟩
  exact (congrArg HostIf.state (hhost.trans (d2.trans r2))).trans (resetBegun_eq s).2.1

/-! ### The closed edge (R439, R440) -/

/-- Core memory cleared. -/
def clearedMem (m : MemSys) : MemSys :=
  { m with
    mem := Mem.clear m.mem coreBase (384 * 0x200000)
    poison := m.poison.filter fun k => !(decide (coreBase ≤ k * 32) && decide (k * 32 < coreBase + 384 * 0x200000)) }

/-- What counts errors and instructions of a core stays. -/
def Core.cleared (k : Core) : Core := { vectors := k.vectors, vinstr := k.vinstr, cmCorrected := k.cmCorrected, obCorrected := k.obCorrected }

/-- What counts instructions of a core stays. -/
def Core.counts (k : Core) : Core := { vectors := k.vectors, vinstr := k.vinstr }

theorem clearCores_eq (s : State) : clearCores s = updateCores (fun _ => Core.cleared) allCores { s with ms := clearedMem s.ms } := by
  unfold clearCores updateCores Core.cleared clearedMem
  rfl

theorem engineEdge_eq {s : State} (he : s.rst.eng = .started) : engineEdge s =
    let t := updateCores (fun _ => Core.counts) allCores (clearCores s)
    { t with grid := { phase := .held }, rst := { t.rst with eng := .edgeClosed } } := if_neg (not_not.2 he)

theorem edge_closes {s : State} (he : s.rst.eng = .started) : ∃ t : State, exec .engineResetEdgeClosed s = .next t ∧ t.rst = { s.rst with eng := .edgeClosed } ∧
    (∀ i : CoreId, t.core i = { vectors := (s.core i).vectors, vinstr := (s.core i).vinstr }) ∧
    (∀ a, Mem.byte t.ms.mem a = if coreBase ≤ a ∧ a < coreBase + 384 * 0x200000 then 0 else Mem.byte s.ms.mem a) ∧
    t.keys = s.keys ∧ t.fab = s.fab ∧ t.cmds = s.cmds ∧ t.ctxs = s.ctxs := by
  have hcore : ∀ i, (updateCores (fun _ => Core.counts) allCores (clearCores s)).core i = (s.core i).counts := fun i => by
    rw [core_update_allCores, clearCores_eq, core_update_allCores]
    rfl
  obtain ⟨cs, e⟩ := updateCores_eq (fun _ => Core.counts) (clearCores s) allCores
  obtain ⟨cs', e'⟩ := updateCores_eq (fun _ => Core.cleared) { s with ms := clearedMem s.ms } allCores
  rw [← clearCores_eq] at e'
  rw [e, e'] at hcore
  have heq := engineEdge_eq he
  rw [e, e'] at heq
  exact ⟨_, next_congr heq, rfl, hcore, fun a => Mem.byte_clear .., rfl, rfl, rfl, rfl⟩

/-! ### The end of a reset (R439, R444, R445, R447) -/

section
variable {s : State}

/-- The compute domain is let go. -/
def resetFree (s : State) : State := { s with grid := {}, rst := { s.rst with eng := .idle, recovery := false } }

theorem engineDone_replayed {q : Suspect} (he : s.rst.eng = .edgeClosed) (hq : s.rst.replaying = some q) :
    let t := changeState (resetFree s) .ready
    engineDone s = settleNext (settleSuspect (t.setRst { t.rst with replaying := none }) q q.outcome) := by
  unfold engineDone
  rw [if_neg (not_not.2 he)]
  dsimp only
  split
  next x hx =>
    cases Option.some.inj (hq.symm.trans hx)
    rfl
  next hx => exact nomatch hq.symm.trans hx

theorem engineDone_deadbolt (he : s.rst.eng = .edgeClosed) (hq : s.rst.replaying = none) (hd : s.rst.enterDeadbolt = true) :
    engineDone s = resetEnded (enterDeadbolt (s.rst.suspects.foldl (fun t q => settleSuspect t q 0) (resetFree s)) fun c =>
      (s.rst.suspects.map fun q => q.run.ref q.ctx).contains c.ref) := by
  unfold engineDone
  rw [if_neg (not_not.2 he)]
  dsimp only
  split
  next x hx => exact nomatch hq.symm.trans hx
  next => exact if_pos hd

theorem engineDone_settles (he : s.rst.eng = .edgeClosed) (hq : s.rst.replaying = none) (hd : s.rst.enterDeadbolt = false) :
    let t := changeState (resetFree s) (if s.rst.deadbolt then .deadbolt else .ready)
    engineDone s = if s.rst.noReplay then resetEnded (s.rst.suspects.foldl (fun t q => settleSuspect t q 0) t) else settleNext t := by
  unfold engineDone
  rw [if_neg (not_not.2 he)]
  dsimp only
  split
  next x hx => exact nomatch hq.symm.trans hx
  next => exact if_neg (ne_true_of_eq_false hd)

theorem engineTimeout_asks (he : s.rst.eng = .started ∨ s.rst.eng = .edgeClosed) (hw : s.rst.devWanted = none) :
    exec .engineResetTimeout s = .next { s with rst := { s.rst with devWanted := some 0 } } := next_congr (if_pos ⟨he, by rw [hw]; rfl⟩)

end

/-! ### Suspects (R442 to R446) -/

section
variable {s : State} {q : Suspect} {l : List Suspect}

/-- A suspect that is to be replayed is what comes next. -/
theorem settleNext_replays (hs : s.rst.suspects = q :: l) (ha : q.aborted = false) (hr : replayable q.run = true) : settleNext s = s := by
  unfold settleNext
  rw [hs]
  unfold settleFrom
  rw [if_neg (ne_true_of_eq_false ha), if_pos hr, ← hs]
  rfl

theorem exec_suspectReplayStart (he : s.rst.eng = .idle) (hg : s.grid.phase = .idle) (hd : s.rst.dev = false) (hn : s.rst.replaying = none)
    (hs : s.rst.suspects = q :: l) (ha : q.aborted = false) (hr : replayable q.run = true) :
    let t := s.setRst { s.rst with suspects := l, replaying := some q }
    let t := t.setCtx q.ctx { t.ctx q.ctx with run := some (replayRun q.run), fault := none, accFlags := 0, switchedOut := false }
    exec .suspectReplayStart s = .next (loadSection { t with grid := { t.grid with replay := true } } q.ctx) := by
  refine next_congr ((if_neg ?_).trans ?_)
  · rintro (h | h | h | h)
    · exact h he
    · exact Bool.noConfusion (hd.symm.trans h)
    · rw [hn] at h
      exact Bool.noConfusion h
    · exact h hg
  · dsimp only
    rw [settleNext_replays hs ha hr]
    split
    next hx => exact nomatch hs.symm.trans hx
    next x y hx =>
      cases hs.symm.trans hx
      rfl

theorem exec_suspectReplayEnd (he : s.rst.eng = .idle) (hg : s.grid.phase = .idle) (hq : s.rst.replaying = some q) (ho : q.outcome ≠ 0) :
    exec .suspectReplayEnd s = .next (settleNext (settleSuspect (s.setRst { s.rst with replaying := none }) q q.outcome)) := by
  refine next_congr ?_
  unfold replayEnd
  split
  next x hx =>
    cases Option.some.inj (hq.symm.trans hx)
    exact if_neg fun h => h.elim ho fun h => h.elim (fun h => h he) fun h => h hg
  next hx => exact nomatch hq.symm.trans hx

theorem suspectRecord_aborted (n : Nat) (h : q.aborted = true) : suspectRecord s q n = { status := St.aborted, flags := q.flags } := if_pos h

theorem suspectRecord_guilty {n : Nat} (h : q.aborted = false) (hn : n = 3 ∨ n = 4) :
    suspectRecord s q n = { status := St.coreProgressTimeout, faultRef := s.rst.ref, flags := q.flags } :=
  (if_neg (ne_true_of_eq_false h)).trans (if_pos hn)

theorem suspectRecord_else {n : Nat} (h : q.aborted = false) (hn : ¬ (n = 3 ∨ n = 4)) : suspectRecord s q n =
    q.firstFault.elim { status := St.contextReset, flags := q.flags }
      fun f => { status := f.status, detail := f.detail, faultRef := f.ref, flags := q.flags } := by
  refine (if_neg (ne_true_of_eq_false h)).trans ((if_neg hn).trans ?_)
  cases q.firstFault <;> rfl

theorem suspectRecord_flags (n : Nat) : (suspectRecord s q n).flags = q.flags := by
  by_cases h : q.aborted = true
  case pos => rw [suspectRecord_aborted n h]
  case neg =>
    by_cases hn : n = 3 ∨ n = 4
    case pos => rw [suspectRecord_guilty (eq_false_of_ne_true h) hn]
    case neg =>
      rw [suspectRecord_else (eq_false_of_ne_true h) hn]
      cases q.firstFault <;> rfl

theorem cmd_settleSuspect {n : Nat} {c : Cmd} (ha : q.aborted = false) (hc : s.cmd? (q.run.ref q.ctx) = some c) (hd : c.isDone = false) :
    (settleSuspect s q n).cmd? (q.run.ref q.ctx) = some { c with phase := .done (suspectRecord s q n) } := by
  unfold settleSuspect
  dsimp only
  rw [if_neg (ne_true_of_eq_false ha)]
  obtain ⟨b, e⟩ := bbAppend_eq s 5 (some q.ctx) (word 384 [(0, 16, outcomeCode q n), (32, 32, q.run.seq.toNat), (240, 16, (suspectRecord s q n).status.toNat)])
  rw [e]
  exact (State.cmd_finish_same _ hc).trans (congrArg some (if_neg (ne_true_of_eq_false hd)))

end

/-- Settles O48: a reset along its course, its suspects by what becomes of each. -/
theorem engineResets : Obligations.EngineResets := by
  unfold Obligations.EngineResets
  refine ⟨fun s => ⟨engineReset_starts, recovery_starts, edge_closes, fun he => ⟨fun q hq => next_congr (engineDone_replayed he hq), fun hq hd => ⟨fun hn => ?_,
    fun hn => ?_⟩, fun hq hd => next_congr (engineDone_deadbolt he hq hd)⟩, engineTimeout_asks⟩,
    fun s q l he hg => ⟨exec_suspectReplayStart he hg, exec_suspectReplayEnd he hg⟩, fun s q n c => ?_⟩
  · exact next_congr ((engineDone_settles he hq hd).trans (if_pos hn))
  · exact next_congr ((engineDone_settles he hq hd).trans (if_neg (ne_true_of_eq_false hn)))
  · refine ⟨suspectRecord_flags n, fun ha => ?_, fun ha hn => ?_, fun ha h3 h4 f hf => ?_, fun ha h3 h4 hf => ?_, cmd_settleSuspect⟩
    · rw [suspectRecord_aborted n ha]
    · rw [suspectRecord_guilty ha hn]
      exact ⟨rfl, rfl⟩
    · rw [suspectRecord_else ha (not_or.2 ⟨h3, h4⟩), hf]
      exact ⟨rfl, rfl, rfl⟩
    · rw [suspectRecord_else ha (not_or.2 ⟨h3, h4⟩), hf]
      exact ⟨rfl, rfl, rfl⟩

end Sys2Proof.Machine
end

section
/-!
LEMMA. RUN, hinges and section starts (08).
-/
namespace Sys2Proof.Machine

/-! ### RUN (R226, R342, R358, R414) -/

theorem MemTraffic.bindHeaders {o s : State} {c : CtxId} {p : BitVec 384} (h : MemTraffic o s) : MemTraffic o (bindHeaders s c p).2 := by
  unfold Machine.bindHeaders
  dsimp only
  split
  · exact h.mapBinding
  · refine h.foldl fun t y ht => ?_
    split
    · split
      · exact ht.ctxModify
      · exact ht
    · exact ht

section
variable {s : State} {r : CmdRef} {c : Cmd}

/-- Nothing holds a run of a ring back. -/
def RunFree (s : State) (r : CmdRef) (c : Cmd) : Prop :=
  (∀ d ∈ s.earlier c, d.opcode ≠ 0x0201) ∧ (s.ctx r.ctx).run = none ∧ s.rst.eng = .idle ∧ s.rst.dev = false ∧
    s.rst.suspects = [] ∧ s.rst.replaying = none

theorem runMayBegin_iff (h : s.cmd? r = some c) : runMayBegin s c = true ↔
    RunFree s r c ∧ (RUN.replay c.payload = false ∨ (replayState s c.payload).1 = true) := by
  have hr : c.ring = r.ctx := congrArg CmdRef.ctx (ref_of_cmd h)
  unfold runMayBegin RunFree
  rw [hr]
  simp only [Bool.and_eq_true, Bool.not_eq_true', List.any_eq_false, beq_iff_eq, Option.isNone_iff_eq_none, List.isEmpty_iff, Bool.or_eq_true,
    and_assoc, ne_eq]

theorem beginRun_waits (h : Startable s r 0x0201 c) (hm : runMayBegin s c = false) : beginRun s r = s.defer r :=
  (State.take_start _ h).trans (if_pos (by rw [hm]; rfl))

theorem beginRun_nothing (h : Startable s r 0x0201 c) (hm : runMayBegin s c = true) (hp : RUN.replay c.payload = true)
    (hs : (replayState s c.payload).2 = false) : beginRun s r = s.finish r { status := St.nothingToReplay } :=
  (State.take_start _ h).trans ((if_neg (by rw [hm]; decide)).trans (if_pos (by rw [hp, hs]; rfl)))

/-- The header of a run's binding that lies behind a port that is down. -/
def boundDown (s : State) (p : BitVec 384) : Option Nat := if RUN.ub p then bindingDown s p else none

/-- A run begins on the state that its binding leaves. -/
def runBegun (s : State) (r : CmdRef) (p : BitVec 384) : State :=
  (s.updCmd r fun d => { d with phase := .running, began := true, bound := RUN.ub p }).setCtx r.ctx
    { s.ctx r.ctx with run := some { seq := r.seq, nth := r.nth, payload := p, cur := RUN.first p,
                                     left := if RUN.count p = 0 then none else some (RUN.count p) }, fault := none, accFlags := 0 }

/-- A run that nothing holds back: its binding decides. -/
theorem beginRun_bound (h : Startable s r 0x0201 c) (hm : runMayBegin s c = true) (hp : RUN.replay c.payload = false ∨ (replayState s c.payload).2 = true) :
    let p := c.payload
    (∀ b, boundDown s p = some b → beginRun s r =
      faultCmd s c St.cxlPortDown { handle := RUN.ubHandle p, index := RUN.ubRow p + b / 64 } (BitVec.ofNat 32 b)) ∧
    (boundDown s p = none → RUN.ub p = true →
      (∀ b st u, bindHeaders s r.ctx p = (some (b, st), u) → beginRun s r = u.finish r { status := st, detail := BitVec.ofNat 32 b }) ∧
      ∀ u, bindHeaders s r.ctx p = (none, u) → beginRun s r = runBegun u r p) ∧
    (RUN.ub p = false → beginRun s r = runBegun s r p) := by
  have hgo : ¬ (RUN.replay c.payload && !(replayState s c.payload).2) = true := by
    rcases hp with hp | hp <;> rw [hp]
    · exact Bool.false_ne_true
    · rw [Bool.not_true, Bool.and_false]
      decide
  refine ⟨fun b hb => ?_, fun hb hu => ⟨fun b st u he => ?_, fun u he => ?_⟩, fun hu => ?_⟩
  · refine (State.take_start _ h).trans ((if_neg (by rw [hm]; decide)).trans ((if_neg hgo).trans ?_))
    dsimp only
    rw [show (if RUN.ub c.payload = true then bindingDown s c.payload else none) = some b from hb]
    rfl
  · refine (State.take_start _ h).trans ((if_neg (by rw [hm]; decide)).trans ((if_neg hgo).trans ?_))
    dsimp only
    rw [show (if RUN.ub c.payload = true then bindingDown s c.payload else none) = none from hb, hu, he]
    rfl
  · refine (State.take_start _ h).trans ((if_neg (by rw [hm]; decide)).trans ((if_neg hgo).trans ?_))
    dsimp only
    rw [show (if RUN.ub c.payload = true then bindingDown s c.payload else none) = none from hb, hu, he]
    unfold runBegun
    rw [hu]
    rfl
  · refine (State.take_start _ h).trans ((if_neg (by rw [hm]; decide)).trans ((if_neg hgo).trans ?_))
    unfold runBegun
    rw [hu]
    rfl

/-- A RUN that does not begin leaves the grid alone. -/
theorem startRun_without (h : ((beginRun s r).ctx r.ctx).run = none) : startRun s r = beginRun s r :=
  if_neg fun hx => by
    rw [h] at hx
    exact Bool.noConfusion hx.2.2

theorem startRun_begun {u : State} {p : BitVec 384} (h : beginRun s r = runBegun u r p) (hr : (s.ctx r.ctx).run = none) :
    (s.grid.phase ≠ .idle → startRun s r = runBegun u r p) ∧ (s.grid.phase = .idle → startRun s r = loadSection (runBegun u r p) r.ctx) := by
  have hrun : ((runBegun u r p).ctx r.ctx).run.isSome = true := by
    unfold runBegun
    rw [State.ctx_setCtx_same]
    rfl
  refine ⟨fun hp => ?_, fun hp => ?_⟩
  · exact (if_neg fun hx => hp hx.1).trans h
  · rw [← h] at hrun ⊢
    exact if_pos ⟨hp, by rw [hr]; rfl, hrun⟩

end

section
variable {s v : State} {c : CtxId} {r : RunSt}

/-! ### The hinge (R226, R235 to R237, R250) -/

theorem hinge_tokens (hc : s.grid.ctx = some c) (hr : (s.ctx c).run = some r) (hl : sectionLive s = true) (hh : hingeReady s c = true)
    {i : CoreId} {ch : Nat} (hf : firstLeft s = some (i, ch)) : hinge s = coreFault s i St.hingeTokensLeft { index := ch } := by
  unfold hinge
  rw [hc]
  dsimp only
  rw [hr, hl, hh, hf]
  rfl

/-- The run's next section stands ready, or the run has ended. -/
def advanced (s : State) (c : CtxId) (r : RunSt) : State :=
  settleRun ((applyHeld (collectFlags s)).setRun c (advanceRun (applyHeld (collectFlags s)) r)) c

theorem hinge_advances (hc : s.grid.ctx = some c) (hr : (s.ctx c).run = some r) (hl : sectionLive s = true) (hh : hingeReady s c = true)
    (hf : firstLeft s = none) : hinge s = afterHinge (advanced s c r) c := by
  unfold hinge
  rw [hc]
  dsimp only
  rw [hr, hl, hh, hf]
  exact if_neg (by decide)

theorem advanceRun_ended (s : State) (r : RunSt) : (advanceRun s r).ended = true ↔ HD.next s.grid.hdr = 0xFFFF ∨ r.left.map (· - 1) = some 0 := by
  unfold advanceRun
  simp only [Bool.or_eq_true, beq_iff_eq]

theorem chooseNext_eq (s : State) (c : CtxId) : chooseNext s c =
    (readyFrom (ctxsAfter c) s).1.elim (idleGrid (readyFrom (ctxsAfter c) s).2) (loadSection (readyFrom (ctxsAfter c) s).2) := by
  unfold chooseNext
  generalize readyFrom (ctxsAfter c) s = x
  obtain ⟨d, t⟩ := x
  cases d <;> rfl

theorem afterHinge_slice (hg : runGoes s c = true) (ht : (s.time - s.grid.since).toNat < sliceTime (s.ctx c)) : afterHinge s c = loadSection s c :=
  (if_pos hg).trans (if_neg (Nat.not_le.2 ht))

theorem afterHinge_over (hg : runGoes s c = true) (ht : sliceTime (s.ctx c) ≤ (s.time - s.grid.since).toNat) : afterHinge s c =
    (readyFrom ((ctxsAfter c).filter fun d => d != c) s).1.elim (loadSection (readyFrom ((ctxsAfter c).filter fun d => d != c) s).2 c)
      (loadSection (readyFrom ((ctxsAfter c).filter fun d => d != c) s).2) := by
  refine (if_pos hg).trans ((if_pos ht).trans ?_)
  generalize readyFrom ((ctxsAfter c).filter fun d => d != c) s = x
  obtain ⟨d, t⟩ := x
  cases d <;> rfl

theorem afterHinge_ended (hg : runGoes s c = false) : afterHinge s c = chooseNext s c := if_neg (ne_true_of_eq_false hg)

/-! ### The next ready context (R250) -/

theorem readyFrom_goes (l : List CtxId) (hg : runGoes s c = true) : readyFrom (c :: l) s = (some c, s) := by
  unfold readyFrom
  dsimp only
  rw [if_pos hg, if_pos hg]

theorem readyFrom_none (l : List CtxId) (hg : runGoes s c = false) (hw : waitingRun s c = none) : readyFrom (c :: l) s = readyFrom l s := by
  conv_lhs => unfold readyFrom
  dsimp only
  rw [if_neg (ne_true_of_eq_false hg), hw, if_neg (ne_true_of_eq_false hg)]

theorem readyFrom_begins (l : List CtxId) {q : CmdRef} (hg : runGoes s c = false) (hw : waitingRun s c = some q) : readyFrom (c :: l) s =
    if runGoes (beginRun s q) c then (some c, beginRun s q) else readyFrom l (beginRun s q) := by
  conv_lhs => unfold readyFrom
  dsimp only
  rw [if_neg (ne_true_of_eq_false hg), hw]

/-! ### SECTION_START (R106, R203, R234, R237) -/

/-- A section's core: whether it takes part, and what its send entries at a port may send. -/
def Core.started (hdr : Row) (i : CoreId) (k : Core) : Core :=
  { k with
    active := HD.inMask hdr i
    credits := k.chans.foldl (fun x e => if portEntry e.2 && CH.send e.2 then Tab.set 0 x e.1 16 else x) [] }

/-- The section runs, before any image of the next is loaded. -/
def sectionRuns (s : State) (c : CtxId) (r : RunSt) : State :=
  (maskCores s.grid.hdr).foldl freeSpill (updateCores (Core.started s.grid.hdr) allCores
    (({ s with grid := { s.grid with phase := .running, mark := s.time } }).setRun c { r with begun := r.ordinal + 1 }))

theorem startSection_runs (hc : s.grid.ctx = some c) (hp : s.grid.phase = .starting) (hr : (s.ctx c).run = some r) (hf : (s.ctx c).fault = none)
    (hs : r.stop = none) (hw : s.grid.waiting = []) :
    let t := sectionRuns s c r
    (HD.preload s.grid.hdr = false ∨ HD.next s.grid.hdr = 0xFFFF → startSection s = t) ∧
    ∀ rows u, HD.preload s.grid.hdr = true → HD.next s.grid.hdr ≠ 0xFFFF →
      accessRead t (some c) (capture t none (RUN.list r.payload)) (some 0) (HD.next s.grid.hdr) 1 = (rows, none, u) → headerOk (rows.headD 0) = true →
      startSection s = preloadImages c (HD.next s.grid.hdr) (rows.headD 0) (maskCores (rows.headD 0)).zipIdx u := by
  have hgo : ¬ ((s.ctx c).fault.isSome || r.stop.isSome || !s.grid.waiting.isEmpty) = true := by
    rw [hf, hs, hw]
    decide
  have hstart : startSection s =
      if HD.preload s.grid.hdr && HD.next s.grid.hdr != 0xFFFF then
        match accessRead (sectionRuns s c r) (some c) (capture (sectionRuns s c r) none (RUN.list r.payload)) (some 0) (HD.next s.grid.hdr) 1 with
        | (_, some _, _) => sectionRuns s c r
        | (rows, none, u) => if headerOk (rows.headD 0) then preloadImages c (HD.next s.grid.hdr) (rows.headD 0) (maskCores (rows.headD 0)).zipIdx u else u
      else sectionRuns s c r := by
    unfold startSection
    split
    next d hd _ =>
      cases Option.some.inj (hc.symm.trans hd)
      split
      next hn => exact nomatch hr.symm.trans hn
      next q hq =>
        cases Option.some.inj (hr.symm.trans hq)
        exact if_neg hgo
    next hn => exact absurd hp (hn c hc)
  refine ⟨fun hx => hstart.trans (if_neg ?_), fun rows u hx hn he hh => hstart.trans ((if_pos ?_).trans ?_)⟩
  · rcases hx with hx | hx <;> rw [hx]
    · exact Bool.false_ne_true
    · rw [bne_self_eq_false, Bool.and_false]
      exact Bool.false_ne_true
  · rw [hx, bne_iff_ne.2 hn]
    rfl
  · rw [he]
    exact if_pos hh

end

/-- RUN, by what holds it back and by what its binding says. -/
theorem run_starts {s u : State} {r : CmdRef} {c : Cmd} (h : Startable s r 0x0201 c) :
    let p := c.payload
    (¬ RunFree s r c ∨ (RUN.replay p = true ∧ (replayState s p).1 = false) → exec (.run r) s = .next (s.defer r)) ∧
    (RunFree s r c → RUN.replay p = true → replayState s p = (true, false) → exec (.run r) s = .next (s.finish r { status := St.nothingToReplay })) ∧
    (RunFree s r c → RUN.replay p = false ∨ replayState s p = (true, true) →
      (∀ b, RUN.ub p = true → bindingDown s p = some b → exec (.run r) s = .next
        (faultCmd s c St.cxlPortDown { handle := RUN.ubHandle p, index := RUN.ubRow p + b / 64 } (BitVec.ofNat 32 b))) ∧
      ((RUN.ub p = true → bindingDown s p = none) →
        (∀ b st, RUN.ub p = true → bindHeaders s r.ctx p = (some (b, st), u) →
          exec (.run r) s = .next (u.finish r { status := st, detail := BitVec.ofNat 32 b })) ∧
        ((RUN.ub p = true → bindHeaders s r.ctx p = (none, u)) → (RUN.ub p = false → u = s) →
          (s.grid.phase ≠ .idle → exec (.run r) s = .next (runBegun u r p)) ∧
          (s.grid.phase = .idle → exec (.run r) s = .next (loadSection (runBegun u r p) r.ctx))))) := by
  have hm := runMayBegin_iff h.1
  have without : ∀ {t : State}, beginRun s r = t → MemTraffic s t → (s.ctx r.ctx).run = none → exec (.run r) s = .next t :=
    fun {t} he ht hn => next_congr ((startRun_without (by rw [he]; exact ht.runs _ hn)).trans he)
  dsimp only
  refine ⟨fun hx => ?_, fun hf hp hs => ?_, fun hf hp => ?_⟩
  case refine_1 =>
    have hw : beginRun s r = s.defer r := by
      refine beginRun_waits h (eq_false_of_ne_true fun ht => ?_)
      obtain ⟨hf, hs⟩ := hm.1 ht
      rcases hx with hx | ⟨h1, h2⟩
      · exact hx hf
      · exact hs.elim (fun hs => Bool.noConfusion (hs.symm.trans h1)) fun hs => Bool.noConfusion (h2.symm.trans hs)
    refine next_congr ?_
    have hno : startRun s r = beginRun s r := if_neg fun hx => by
      rw [hw] at hx
      obtain ⟨-, h1, h2⟩ := hx
      change (s.ctx r.ctx).run.isSome = true at h2
      rw [Option.isNone_iff_eq_none.1 h1] at h2
      exact Bool.noConfusion h2
    exact hno.trans hw
  case refine_2 =>
    have hs2 : (replayState s c.payload).2 = false := congrArg Prod.snd hs
    have hbegin := beginRun_nothing h (hm.2 ⟨hf, .inr (congrArg Prod.fst hs)⟩) hp hs2
    exact without hbegin (MemTraffic.refl s).finish hf.2.1
  case refine_3 =>
    have hmay : runMayBegin s c = true := hm.2 ⟨hf, hp.imp id fun hs => congrArg Prod.fst hs⟩
    obtain ⟨hdown, hbind, hfree⟩ := beginRun_bound h hmay (hp.imp id fun hs => congrArg Prod.snd hs)
    refine ⟨fun b hu hb => ?_, fun hn => ⟨fun b st hu he => ?_, fun hb hs => ?_⟩⟩
    · exact without (hdown b ((if_pos hu).trans hb)) (MemTraffic.refl s).faultCmd hf.2.1
    · have ht := (MemTraffic.refl s).bindHeaders (c := r.ctx) (p := c.payload)
      rw [he] at ht
      exact without ((hbind ((if_pos hu).trans (hn hu)) hu).1 b st u he) ht.finish hf.2.1
    · have hbegin : beginRun s r = runBegun u r c.payload := by
        by_cases hu : RUN.ub c.payload = true
        case pos => exact (hbind ((if_pos hu).trans (hn hu)) hu).2 u (hb hu)
        case neg =>
          rw [hs (eq_false_of_ne_true hu)]
          exact hfree (eq_false_of_ne_true hu)
      obtain ⟨h1, h2⟩ := startRun_begun hbegin hf.2.1
      exact ⟨fun hp => next_congr (h1 hp), fun hp => next_congr (h2 hp)⟩

/-- Settles O39: RUN by its checks, the hinge by where the run and the grid go, the section's start core by core. -/
theorem runsAndSections : Obligations.RunsAndSections := by
  unfold Obligations.RunsAndSections
  refine ⟨fun s u r c h => run_starts h, ⟨fun s v c r hc hr hl hh => ⟨fun i ch hf => next_congr (hinge_tokens hc hr hl hh hf), fun hf => ?_⟩, fun t d l => ?_⟩,
    fun s u c r hc hp hr hf hs hw => ?_⟩
  case refine_1 =>
    intro held n t
    have hx : exec .hingeBegin s = .next (afterHinge t c) := next_congr (hinge_advances hc hr hl hh hf)
    have hn : n.ended = true ↔ HD.next held.grid.hdr = 0xFFFF ∨ r.left.map (· - 1) = some 0 := advanceRun_ended held r
    clear_value t
    refine ⟨rfl, rfl, rfl, hn, fun hg => ⟨fun ht => hx.trans (next_congr (afterHinge_slice hg ht)), fun ht => ?_⟩, fun hg => ?_⟩
    · have he := hx.trans (next_congr (afterHinge_over hg ht))
      refine ⟨fun d hd => he.trans ?_, fun hd => he.trans ?_⟩ <;> rw [hd] <;> rfl
    · have he := hx.trans (next_congr ((afterHinge_ended hg).trans (chooseNext_eq t c)))
      refine ⟨fun d hd => he.trans ?_, fun hd => he.trans ?_⟩ <;> rw [hd] <;> rfl
  case refine_2 =>
    refine ⟨readyFrom_goes l, readyFrom_none l, fun q hg hw => ⟨fun hb => ?_, fun hb => ?_⟩⟩
    · exact (readyFrom_begins l hg hw).trans (if_pos hb)
    · exact (readyFrom_begins l hg hw).trans (if_neg (ne_true_of_eq_false hb))
  case refine_3 =>
    obtain ⟨h1, h2⟩ := startSection_runs hc hp hr hf hs hw
    refine ⟨fun hx => next_congr (h1 hx), fun rows hx hn he hh => next_congr (h2 rows u hx hn he hh), fun i => ?_⟩
    exact congrArg Core.active (core_update_allCores (Core.started s.grid.hdr) _ i)

end Sys2Proof.Machine
end

section
/-!
LEMMA. The bucket sender, verdicts and notices (11).
-/
namespace Sys2Proof.Machine

/-! ### The list entries of a collective's buckets -/

/-- The list entries of an open collective's buckets. -/
def entriesOf (s : State) (i : Nat) : Option (Tab (BitVec 512)) := (s.coll i).map fun x => x.buckets.map fun b => (b.1, b.2.entry)

theorem entriesOf_eq (s : State) (i : Nat) : entriesOf s i = ((s.colls.map listed).find? (·.1 == i)).map (·.2) := by
  rw [List.find?_map, Option.map_map, entriesOf, State.coll, Option.map_map]
  rfl

theorem get_entries (t : Tab Bucket) (k : Nat) : Tab.get 0 (t.map fun b => (b.1, b.2.entry)) k = (Tab.get {} t k).entry := by
  induction t with
  | nil => rfl
  | cons b t ih =>
    rw [List.map_cons, Tab.get, Tab.get]
    split
    · rfl
    · exact ih

/-- Accesses to memory leave every bucket the list entry that it has. -/
theorem MemTraffic.entry {o s : State} {i k : Nat} {x y : Collective} (h : MemTraffic o s) (hx : o.coll i = some x) (hy : s.coll i = some y) :
    (y.bucket k).entry = (x.bucket k).entry := by
  have he : entriesOf s i = entriesOf o i := by rw [entriesOf_eq, entriesOf_eq, h.lists]
  rw [entriesOf, entriesOf, hx, hy] at he
  have hl := congrArg (Tab.get 0 · k) (Option.some.inj he)
  exact (get_entries ..).symm.trans (hl.trans (get_entries ..))

theorem onBucket_congr {s : State} {i k : Nat} {f g : Bucket → Bucket} (h : ∀ y, s.coll i = some y → f (y.bucket k) = g (y.bucket k)) :
    onBucket s i k f = onBucket s i k g := by
  unfold onBucket
  split
  next y hy => rw [h y hy]
  next => rfl

/-! ### The sender (R324 to R329, R346) -/

section
variable {s : State} {i k : Nat} {x : Collective}

theorem readyPoll_sending (hx : s.coll i = some x) (hk : k < x.count) (hb : (x.bucket k).sending.isSome = true) :
    readyPoll s i k = sendBucket s i k := by
  unfold readyPoll
  rw [hx]
  exact if_pos ⟨hk, hb⟩

/-- A bucket that awaits its ready word starts where the claims have reached PARTS. -/
theorem readyPoll_awaiting (hx : s.coll i = some x) (hk : k < x.count) (hb : (x.bucket k).sending = none) (ha : (x.bucket k).awaiting = true) :
    readyPoll s i k = if readWord s (CD.ready x.desc) k - (x.bucket k).ignored < BK.parts (x.bucket k).entry then s
      else sendBucket (onBucket (updRecord s x k fun r => put r 37 1 0) i k fun y =>
        { y with awaiting := false, sending := some (BK.blocks (x.bucket k).entry), tags := [] }) i k := by
  have hn : ¬ (k < x.count ∧ (x.bucket k).sending.isSome = true) := fun h => absurd h.2 (by rw [hb]; exact Bool.false_ne_true)
  unfold readyPoll
  rw [hx]
  refine (if_neg hn).trans ?_
  split
  next h =>
    have hc := (h.resolve_left (Nat.not_le.2 hk)).resolve_left (ne_false_of_eq_true ha)
    exact (if_pos hc).symm
  next h =>
    have he : MemTraffic s (updRecord s x k fun r => put r 37 1 0) := (MemTraffic.refl s).setRecord
    rw [if_neg fun hc => h (.inr (.inr hc))]
    refine congrArg (sendBucket · i k) (onBucket_congr fun y hy => ?_)
    rw [he.entry hx hy]

theorem accRetry_found {t : Nat} {q : Req} (hq : s.fab.reqs.find? (fun q => q.tag == t && q.retry) = some q) :
    accRetry s t = dispatchPacket
      { s with fab := { s.fab with reqs := updFirst (fun (y : Req) => y.tag == t) (fun y => { y with retry := false }) s.fab.reqs } }
      none q.packet := by
  unfold accRetry
  rw [hq]

theorem epochAhead_found {t : Nat} {q : Req} {c : CtxId}
    (hq : s.fab.reqs.find? (fun q => q.tag == t && q.retry && q.refusal == accEpoch) = some q) (hi : q.issuer = .bucket c i k) :
    epochAhead s t = raiseFault
      (onBucket { s with fab := { s.fab with reqs := s.fab.reqs.filter fun y => y.tag != t } } i k fun y =>
        { y with tags := y.tags.filter fun z => z != t }) (some c) St.epochAhead (remoteFault q 4 accEpoch) := by
  unfold epochAhead
  rw [hq]
  dsimp only
  rw [hi]

/-! ### Waits that run out (R435) -/

/-- A refusal other than for the epoch stands among the requests of the bucket's sender. -/
theorem anyRetry_iff : (s.fab.reqs.any fun q => q.retry && q.issuer == .bucket x.ctx i k && q.refusal != accEpoch) = true ↔
    ∃ q ∈ s.fab.reqs, q.retry = true ∧ q.issuer = .bucket x.ctx i k ∧ q.refusal ≠ accEpoch := by
  simp only [List.any_eq_true, Bool.and_eq_true, beq_iff_eq, bne_iff_ne, and_assoc]

theorem anyCounted_iff : (bucketSlots s i k).any (fun y => SL.count y.2.2 != 0) = true ↔ ∃ v ∈ bucketSlots s i k, SL.count v.2.2 ≠ 0 := by
  simp only [List.any_eq_true, bne_iff_ne]

theorem senderRetry_expires (hx : s.coll i = some x) (hk : k < x.count)
    (h : ∃ q ∈ s.fab.reqs, q.retry = true ∧ q.issuer = .bucket x.ctx i k ∧ q.refusal ≠ accEpoch) :
    collWaitExpired s i k .senderRetry = raiseFault (onBucket (dropRetries (abandonBucket s i k) fun a j => a == i && j == k) i k fun y =>
      { y with sending := none, tags := [] }) (some x.ctx) St.collectiveWaitTimeout := by
  unfold collWaitExpired
  rw [hx]
  exact (if_neg (Nat.not_le.2 hk)).trans (if_pos (anyRetry_iff.2 h))

theorem ownerCompletion_expires (hx : s.coll i = some x) (hk : k < x.count) (ho : (x.bucket k).armedOwner = true)
    (h : ∃ v ∈ bucketSlots s i k, SL.count v.2.2 ≠ 0) :
    collWaitExpired s i k .ownerCompletion = raiseFault (onBucket (releaseSlots (abandonBucket s i k) (slotOfBucket i k)) i k fun y =>
      { y with armedOwner := false }) (some x.ctx) St.collectiveWaitTimeout := by
  unfold collWaitExpired
  rw [hx]
  exact (if_neg (Nat.not_le.2 hk)).trans (if_pos (Bool.and_eq_true_iff.2 ⟨ho, anyCounted_iff.2 h⟩))

theorem memberVerdict_expires (hx : s.coll i = some x) (hk : k < x.count) (hr : RC.armed (bucketRecord s x k) = true)
    (ha : (x.bucket k).awaiting = false) (hs : (x.bucket k).sending = none) (ht : (x.bucket k).tags = []) :
    collWaitExpired s i k .memberVerdict = raiseFault (abandonBucket s i k) (some x.ctx) St.collectiveWaitTimeout := by
  unfold collWaitExpired
  rw [hx]
  exact (if_neg (Nat.not_le.2 hk)).trans (if_pos (by rw [hr, ha, hs, ht]; rfl))

theorem bucketWait_expires {d : Cmd} (hx : s.coll i = some x) (hk : k < x.count) (hd : waitingCmd s i k = some d) :
    collWaitExpired s i k .bucketWait = waitFault (abandonBucket s i k) x d := by
  unfold collWaitExpired
  rw [hx]
  refine (if_neg (Nat.not_le.2 hk)).trans ?_
  rw [hd]

/-! ### The owner's verdict (R330, R343) -/

/-- What the owner's verdict on a bucket whose notices have all come is. -/
def ownerVerdict (s : State) (x : Collective) (i k : Nat) : State :=
  let n := readWord s (CD.notice x.desc) k
  let r := bucketRecord s x k
  let gen := generation (RC.step r) (RC.rescales r) (RC.cal r)
  let settled := onBucket s i k fun b => { b with armedOwner := false }
  if n / 65536 = 0 then distribute (settleRecord settled i k 1) i k
  else if (bucketSlots s i k).any fun y => SL.nf y.2.2 then sendNotices (settleRecord settled i k 3) i k 0x13 gen
  else if RC.rescales r < 3 then memberRescale (sendNotices (rearm s i k) i k 0x11 ((gen + 1) % 65536)) i k
  else sendNotices (settleRecord settled i k 2) i k 0x12 gen

theorem noticePoll_waits (hx : s.coll i = some x) (hn : readWord s (CD.notice x.desc) k % 65536 ≠ (bucketSlots s i k).length) :
    noticePoll s i k = s := by
  unfold noticePoll
  rw [hx]
  exact if_pos (.inr (.inr hn))

theorem noticePoll_complete (hx : s.coll i = some x) (hk : k < x.count) (ho : (x.bucket k).armedOwner = true)
    (hn : readWord s (CD.notice x.desc) k % 65536 = (bucketSlots s i k).length) : noticePoll s i k = ownerVerdict s x i k := by
  have h : ¬ (x.count ≤ k ∨ (x.bucket k).armedOwner = false ∨ readWord s (CD.notice x.desc) k % 65536 ≠ (bucketSlots s i k).length) := by
    rintro (h | h | h)
    · exact Nat.not_le.2 hk h
    · exact Bool.false_ne_true (h.symm.trans ho)
    · exact h hn
  unfold noticePoll
  rw [hx]
  exact if_neg h

theorem distributionDone_sends (hx : s.coll i = some x) (hd : (x.bucket k).distributing = true) (hq : (x.bucket k).scaleQ = [])
    (ht : (x.bucket k).scaleTags = []) : distributionDone s i k = pumpOwner (onBucket s i k fun y =>
      { y with distributing := false, noticeQ := y.noticeQ ++ y.cleanQ, cleanQ := [] }) i k := by
  unfold distributionDone
  rw [hx]
  exact (if_neg (by rw [hd]; decide)).trans ((if_neg (by rw [hq]; decide)).trans (if_neg (by rw [ht]; decide)))

end

/-! ### Notices at a member (R330, R341) -/

section
variable {s : State} {via : Option LinkId} {p : Packet}

/-- A verdict notice of its code, taken: it settles the record where it applies, and is answered. -/
theorem verdictArrives_taken {code v : Nat} (hc : NT.code p = code) (ha : Arrives s via p ptNotice) (hn : p.nrows = 0)
    (hs : (arrived s via p).serving = true) :
    (noticeApplies (arrived s via p) p = true →
      verdictArrives s via p code v = answerPacket (settleRecord (arrived s via p) (NT.coll p) (NT.bucket p) v) p 0 0) ∧
    (noticeApplies (arrived s via p) p = false → verdictArrives s via p code v = answerPacket (arrived s via p) p 0 0) := by
  have h : verdictArrives s via p code v = answerPacket (if noticeApplies (arrived s via p) p = true then
      settleRecord (arrived s via p) (NT.coll p) (NT.bucket p) v else arrived s via p) p 0 0 :=
    (if_neg (not_not.2 hc)).trans ((packetArrives_own ha).trans (takeNotice_acts hn hs))
  exact ⟨fun hy => h.trans (congrArg (answerPacket · p 0 0) (if_pos hy)),
    fun hy => h.trans (congrArg (answerPacket · p 0 0) (if_neg (ne_true_of_eq_false hy)))⟩

theorem rescaleArrives_taken (hc : NT.code p = 0x11) (ha : Arrives s via p ptNotice) (hn : p.nrows = 0) (hs : (arrived s via p).serving = true) :
    rescaleArrives s via p = answerPacket (if noticeApplies (arrived s via p) p = true then
      memberRescale (arrived s via p) (NT.coll p) (NT.bucket p) else arrived s via p) p 0 0 :=
  (if_neg (not_not.2 hc)).trans ((packetArrives_own ha).trans (takeNotice_acts hn hs))

end

/-- Settles O43: the sender and its waits by the bucket's state, the owner's verdict by its notice word, notices by whether they apply. -/
theorem bucketTraffic : Obligations.BucketTraffic := by
  unfold Obligations.BucketTraffic
  refine ⟨fun s id k x => ?_, fun s id k x hx hk => ⟨fun ho => ?_, fun hd hq ht => next_congr (distributionDone_sends hx hd hq ht)⟩,
    fun s via p ha hn => ?_⟩
  case refine_1 =>
    intro i n b timeout
    refine ⟨fun hx hk => ⟨fun hb => next_congr (readyPoll_sending hx hk hb), fun hb hw => ⟨fun hc => ?_, fun hc => ?_⟩⟩,
      fun tag q hq => next_congr (accRetry_found hq), fun tag q c hq hi => next_congr (epochAhead_found hq hi),
      fun hx hk => ⟨fun h => next_congr (senderRetry_expires hx hk h), fun ho h => next_congr (ownerCompletion_expires hx hk ho h),
        fun hr hw hs ht => next_congr (memberVerdict_expires hx hk hr hw hs ht), fun d hd => ⟨fun he => ?_, fun he => ?_⟩⟩⟩
    · exact next_congr ((readyPoll_awaiting hx hk hb hw).trans (if_pos hc))
    · exact next_congr ((readyPoll_awaiting hx hk hb hw).trans (if_neg (Nat.not_lt.2 hc)))
    · exact next_congr ((bucketWait_expires hx hk hd).trans (if_pos he))
    · exact next_congr ((bucketWait_expires hx hk hd).trans (if_neg he))
  case refine_2 =>
    refine ⟨fun hn => next_congr (noticePoll_waits hx hn), fun hn => ?_⟩
    have hv := noticePoll_complete hx hk ho hn
    refine ⟨fun hl => ?_, fun hg hf => ?_, fun hg hf hr => ?_, fun hg hf hr => ?_⟩
    · exact next_congr (hv.trans (if_pos (Nat.div_eq_of_lt hl)))
    all_goals have h0 : readWord s (CD.notice x.desc) k.toNat / 65536 ≠ 0 := (Nat.div_pos hg (by decide)).ne'
    · exact next_congr (hv.trans ((if_neg h0).trans (if_pos hf)))
    · exact next_congr (hv.trans ((if_neg h0).trans ((if_neg (ne_true_of_eq_false hf)).trans (if_pos hr))))
    · exact next_congr (hv.trans ((if_neg h0).trans ((if_neg (ne_true_of_eq_false hf)).trans (if_neg (by rw [hr]; decide)))))
  case refine_3 =>
    intro u hs i k verdict
    have taken : ∀ {code v : Nat} {y : Instr}, exec y s = .next (verdictArrives s via p code v) → NT.code p = code → verdict y v :=
      fun he hc => ⟨fun hy => he.trans (congrArg Host.Outcome.next ((verdictArrives_taken hc ha hn hs).1 hy)),
        fun hy => he.trans (congrArg Host.Outcome.next ((verdictArrives_taken hc ha hn hs).2 hy))⟩
    refine ⟨taken rfl, taken rfl, taken rfl, fun hc hy => ?_, fun hc hy => ?_⟩
    · exact next_congr ((rescaleArrives_taken hc ha hn hs).trans (congrArg (answerPacket · p 0 0) (if_pos hy)))
    · exact next_congr ((rescaleArrives_taken hc ha hn hs).trans (congrArg (answerPacket · p 0 0) (if_neg (ne_true_of_eq_false hy))))

end Sys2Proof.Machine
end

section
/-!
LEMMA. The gather engine and the exchange units (12, 13).
-/
namespace Sys2Proof.Machine

/-! ### Groups of the gather list (R361 to R366) -/

section
variable {s u : State} {c : CtxId} {r : RunSt}

/-- The list entry that a run's gathers have reached. -/
def gatherEntry (s : State) (r : RunSt) : BitVec 512 := fwEntry64 s (RUN.glHandle r.payload) (RUN.glRow r.payload) r.gatherNext

/-- The entries of the group that begins there. -/
def gatherGroup (s : State) (r : RunSt) : List (BitVec 512) :=
  (groupEntries s (RUN.glHandle r.payload) (RUN.glRow r.payload) (RUN.glCount r.payload - r.gatherNext) r.gatherNext).getD []

/-- What a group start does once the rows of the list are read. -/
def gatherBegun (u : State) (c : CtxId) (r : RunSt) (x : BitVec 512) (es : List (BitVec 512)) : State :=
  let e := r.gatherNext
  let stop := fun (st : Half) => faultEntry u c e ⟨st, { handle := GLE.dst x, index := e }⟩
  if !groupOk u c es then stop St.gatherListInvalid
  else if GLE.mode x ∧ DE.epochValid (u.key (hIndex (GLE.dst x))) = false then stop St.shardEpochChanged
  else
    let g : GatherGroup := { first := e, dst := GLE.dst x, regather := GLE.mode x, pieces := es.map fun y => { entry := y } }
    let q := ((u.ctx c).run).getD r
    let t := u.setRun c { q with gatherNext := e + es.length, gathers := q.gathers ++ [g] }
    let t := if GLE.mode x then t else t.setKey (hIndex (GLE.dst x)) (put (t.key (hIndex (GLE.dst x))) 144 1 0)
    (List.range es.length).foldl (fun t k => askHeader t c r.gathers.length k) t

theorem gatherStart_waits (hr : (s.ctx c).run = some r)
    (h : RUN.glCount r.payload ≤ r.gatherNext ∨ r.begun ≤ GLE.start (gatherEntry s r) ∨ 4 ≤ r.gathers.countP (fun g => !g.complete)) :
    gatherStart s c = s := by
  unfold gatherStart
  rw [hr]
  dsimp only
  refine if_pos ?_
  simp only [Bool.or_eq_true, decide_eq_true_eq]
  rcases h with h | h | h
  · exact .inl (.inl (.inr h))
  · exact .inl (.inr h)
  · exact .inr h

theorem gatherStart_reads {rows : List Row} (hr : (s.ctx c).run = some r) (hl : listLive s c r = true) (he : r.gatherNext < RUN.glCount r.payload)
    (hb : GLE.start (gatherEntry s r) < r.begun) (h4 : r.gathers.countP (fun g => !g.complete) < 4)
    (ha : accessRead s (some c) (capture s none (RUN.glHandle r.payload)) none (RUN.glRow r.payload + r.gatherNext / 8)
      (RUN.glRow r.payload + (r.gatherNext + max 1 (gatherGroup s r).length - 1) / 8 - (RUN.glRow r.payload + r.gatherNext / 8) + 1) =
      (rows, none, u)) :
    gatherStart s c = gatherBegun u c r (gatherEntry s r) (gatherGroup s r) := by
  have hg : ¬ (!listLive s c r || decide (RUN.glCount r.payload ≤ r.gatherNext) || decide (r.begun ≤ GLE.start (gatherEntry s r)) ||
      decide (4 ≤ r.gathers.countP fun g => !g.complete)) = true := by
    simp only [hl, Bool.not_true, Bool.false_or, Bool.or_eq_true, decide_eq_true_eq]
    omega
  unfold gatherStart
  rw [hr]
  dsimp only
  refine (if_neg hg).trans ?_
  unfold gatherGroup at ha
  rw [ha]
  exact if_neg Bool.false_ne_true

variable {x : BitVec 512} {es : List (BitVec 512)}

theorem gatherBegun_malformed (h : groupOk u c es = false) : gatherBegun u c r x es =
    faultEntry u c r.gatherNext ⟨St.gatherListInvalid, { handle := GLE.dst x, index := r.gatherNext }⟩ :=
  if_pos (by rw [h]; rfl)

theorem gatherBegun_changed (h : groupOk u c es = true) (hm : GLE.mode x = true) (hv : DE.epochValid (u.key (hIndex (GLE.dst x))) = false) :
    gatherBegun u c r x es = faultEntry u c r.gatherNext ⟨St.shardEpochChanged, { handle := GLE.dst x, index := r.gatherNext }⟩ :=
  (if_neg (by rw [h]; decide)).trans (if_pos ⟨hm, hv⟩)

theorem gatherBegun_asks (h : groupOk u c es = true) (hv : GLE.mode x = false ∨ DE.epochValid (u.key (hIndex (GLE.dst x))) = true) :
    let e := r.gatherNext
    let g : GatherGroup := { first := e, dst := GLE.dst x, regather := GLE.mode x, pieces := es.map fun y => { entry := y } }
    let q := ((u.ctx c).run).getD r
    let t := u.setRun c { q with gatherNext := e + es.length, gathers := q.gathers ++ [g] }
    let t := if GLE.mode x then t else t.setKey (hIndex (GLE.dst x)) (put (t.key (hIndex (GLE.dst x))) 144 1 0)
    gatherBegun u c r x es = (List.range es.length).foldl (fun t k => askHeader t c r.gathers.length k) t := by
  have hn : ¬ (GLE.mode x = true ∧ DE.epochValid (u.key (hIndex (GLE.dst x))) = false) := fun ⟨ha, hb⟩ =>
    hv.elim (fun hf => Bool.false_ne_true (hf.symm.trans ha)) fun ht => Bool.false_ne_true (hb.symm.trans ht)
  exact (if_neg (by rw [h]; decide)).trans (if_neg hn)

end

/-! ### Pieces (R364) -/

section
variable {s : State} {c : CtxId} {n g k : Nat} {gr : GatherGroup} {x : GatherPiece}

theorem headerRetry_found (hf : findPiece s c n = some (g, k)) (hp : getPiece s c g k = some (gr, x)) (hb : x.backoff.isSome = true)
    (ha : x.asking = false) (hc : x.complete = false) :
    headerRetry s c n =
      match issueReq s (.gatherHdr c g k) (readPacket (GLE.owner x.entry) (GLE.hdrWindow x.entry) (GLE.hdrWgen x.entry) (GLE.hdrOffset x.entry) 1) with
      | none => s
      | some (t, s) => onPiece s c g k fun x => { x with asking := true, tags := [t] } := by
  unfold headerRetry
  rw [hf]
  dsimp only
  rw [hp]
  exact if_pos (by rw [hb, ha, hc]; rfl)

theorem gatherTimeout_found (hf : findPiece s c n = some (g, k)) (hp : getPiece s c g k = some (gr, x)) :
    gatherTimeout s c n = if !gr.regather && !x.headerOk then faultEntry s c n ⟨St.gatherTimeout, { handle := gr.dst, index := n }⟩ else s := by
  unfold gatherTimeout
  rw [hf]
  dsimp only
  rw [hp]

end

/-- The last piece of a group that is complete gives its buffer the epoch. -/
theorem gatherComplete_done {s : State} {c : CtxId} {r : RunSt} {n : Nat} {x : GatherGroup} {y : GatherPiece} (hr : (s.ctx c).run = some r)
    (hx : r.gathers[n]? = some x) (hc : x.complete = false) (ha : ∀ z ∈ x.pieces, z.complete = true) (hl : listLive s c r = true)
    (hy : x.pieces.getLast? = some y) :
    gatherComplete s c n = entryReleased (onGroup
      (if x.regather then s else s.setKey (hIndex x.dst) (put (put (s.key (hIndex x.dst)) 160 32 (GLE.expect y.entry)) 144 1 1)) c n
      fun z => { z with complete := true }) c := by
  have hg : ¬ (x.complete || !x.pieces.all (·.complete) || !listLive s c r) = true := by
    rw [hc, List.all_eq_true.2 ha, hl]
    decide
  unfold gatherComplete
  rw [hr]
  dsimp only
  rw [hx]
  refine (if_neg hg).trans ?_
  rw [hy]
  rfl

theorem epoch_recorded (e : BitVec 256) (y : BitVec 512) :
    DE.epoch (put (put e 160 32 (GLE.expect y)) 144 1 1) = GLE.expect y ∧ DE.epochValid (put (put e 160 32 (GLE.expect y)) 144 1 1) = true := by
  constructor
  · unfold DE.epoch
    rw [fld_put_apart _ _ _ _ _ _ (by decide), fld_put_same _ _ _ _ (by decide)]
    exact Nat.mod_eq_of_lt (Nat.mod_lt _ (by decide))
  · unfold DE.epochValid
    rw [bit_put_same _ _ _ (by decide)]
    rfl

/-! ### The next entry of the exchange list (R388, R395, R397) -/

section
variable {s q u v : State} {c : CtxId} {r : RunSt} {i : Nat} {x : BitVec 512} {d : Row} {f : Flt}

/-- The list entry that a run's exchanges have reached. -/
def exchNextEntry (s : State) (r : RunSt) : BitVec 512 := fwEntry64 s (RUN.xlHandle r.payload) (RUN.xlRow r.payload) r.exchNext

/-- An entry as its checks see it. -/
def checkedExch (u : State) (i : Nat) (x : BitVec 512) (d : Row) : ExchEntry :=
  { index := i, entry := x, desc := d, dseq := BitVec.ofNat 16 (fld (exchStateRow u x) 0 16) }

/-- What an entry's start does once its ready word is cleared. -/
def exchCleared (t : State) (c : CtxId) (i : Nat) (x : BitVec 512) : State :=
  match readDesc t c x with
  | (.error f, s) => faultEntry s c i f
  | (.ok d, s) =>
    match exchCheck s c (checkedExch s i x d) with
    | (some f, s) => faultEntry s c i f
    | (none, s) => if XE.kind x = 0 then startDispatch s c i x d else startReturn s c i x d

/-- What an entry's start does once its row of the list is read. -/
def exchListed (q : State) (c : CtxId) (i : Nat) (x : BitVec 512) : State :=
  match exchFormFault q c x with
  | some f => faultEntry q c i f
  | none =>
    if (fwWord q (XE.ready x) (XE.readyWord x)).toNat < XE.parts x then q
    else if tablesWait q (fwRow q (XE.desc x) (XE.descRow x)) then q
    else exchCleared (entryWord q (XE.ready x) (XE.readyWord x) 0) c i x

theorem exchStart_waits (hr : (s.ctx c).run = some r)
    (h : RUN.xlCount r.payload ≤ r.exchNext ∨ r.begun ≤ XE.start (exchNextEntry s r) ∨ 4 ≤ exchsInProgress s) : exchStart s c = s := by
  unfold exchStart
  rw [hr]
  dsimp only
  refine if_pos ?_
  simp only [Bool.or_eq_true, decide_eq_true_eq]
  rcases h with h | h | h
  · exact .inl (.inl (.inr h))
  · exact .inl (.inr h)
  · exact .inr h

theorem exchStart_reads (hr : (s.ctx c).run = some r) (hl : listLive s c r = true) (hi : r.exchNext < RUN.xlCount r.payload)
    (hb : XE.start (exchNextEntry s r) < r.begun) (h4 : exchsInProgress s < 4)
    (hq : readTable s c (RUN.xlHandle r.payload) (RUN.xlRow r.payload + r.exchNext / 8) 1 = (none, q)) :
    exchStart s c = exchListed q c r.exchNext (exchNextEntry s r) := by
  have hg : ¬ (!listLive s c r || decide (RUN.xlCount r.payload ≤ r.exchNext) || decide (r.begun ≤ XE.start (exchNextEntry s r)) ||
      decide (4 ≤ exchsInProgress s)) = true := by
    simp only [hl, Bool.not_true, Bool.false_or, Bool.or_eq_true, decide_eq_true_eq]
    omega
  unfold exchStart
  rw [hr]
  dsimp only
  refine (if_neg hg).trans ?_
  rw [hq]
  rfl

theorem exchListed_malformed (h : exchFormFault q c x = some f) : exchListed q c i x = faultEntry q c i f := by
  unfold exchListed
  rw [h]

/-- An entry waits for its ready word, and for tables that are being filled. -/
theorem exchListed_waits (h : exchFormFault q c x = none) (hw : (fwWord q (XE.ready x) (XE.readyWord x)).toNat < XE.parts x ∨
    tablesWait q (fwRow q (XE.desc x) (XE.descRow x)) = true) : exchListed q c i x = q := by
  unfold exchListed
  rw [h]
  dsimp only
  split
  · rfl
  · exact if_pos (hw.resolve_left ‹_›)

theorem exchListed_clears (h : exchFormFault q c x = none) (hp : XE.parts x ≤ (fwWord q (XE.ready x) (XE.readyWord x)).toNat)
    (hw : tablesWait q (fwRow q (XE.desc x) (XE.descRow x)) = false) :
    exchListed q c i x = exchCleared (entryWord q (XE.ready x) (XE.readyWord x) 0) c i x := by
  unfold exchListed
  rw [h]
  exact (if_neg (Nat.not_lt.2 hp)).trans (if_neg (ne_true_of_eq_false hw))

theorem exchCleared_unread (h : readDesc s c x = (.error f, u)) : exchCleared s c i x = faultEntry u c i f := by
  unfold exchCleared
  rw [h]

theorem exchCleared_refused (h : readDesc s c x = (.ok d, u)) (hc : exchCheck u c (checkedExch u i x d) = (some f, v)) :
    exchCleared s c i x = faultEntry v c i f := by
  unfold exchCleared
  rw [h]
  dsimp only
  rw [hc]

theorem exchCleared_starts (h : readDesc s c x = (.ok d, u)) (hc : exchCheck u c (checkedExch u i x d) = (none, v)) :
    exchCleared s c i x = if XE.kind x = 0 then startDispatch v c i x d else startReturn v c i x d := by
  unfold exchCleared
  rw [h]
  dsimp only
  rw [hc]

end

/-! ### Grants and payload (R391, R393, R395) -/

section
variable {s : State} {c : CtxId} {r : RunSt} {n : Nat} {y : ExchEntry}

/-- The first poisoned count row of the round that an entry is to grant. -/
def countPoison (s : State) (y : ExchEntry) : Option Flt :=
  (List.range (exchMembers s y.desc).length).findSome? fun m =>
    windowPoison s (XD.countWindow y.desc) (4 * m + 2 * (y.dseq.toNat % 2) + y.granted)

/-- The count rows of that round are used up. -/
def countsTaken (s : State) (y : ExchEntry) : State :=
  { s with arrivals := s.arrivals.filter fun a =>
    !(a.kind == 0 && a.place == XD.countWindow y.desc && a.dseq == y.dseq && a.sub == y.granted) }

/-- The grant of a round whose counts are held and not poisoned. -/
def exchGranted (s : State) (c : CtxId) (n : Nat) (y : ExchEntry) : State :=
  let total := totalTokens s y.desc y.dseq (exchMembers s y.desc).length
  if y.granted = 0 ∧ 1048576 < total then faultExch (countsTaken s y) c y.entry n St.exchangeOverLimit
  else
    let t := if y.granted = 0 then setExchState (countsTaken s y) c y.entry fun r => put r 32 32 total else countsTaken s y
    sendGrants t c y y.granted

theorem exchGrant_held (hr : (s.ctx c).run = some r) (hl : listLive s c r = true) (hy : getExch s c n = some y) (hc : y.complete = false)
    (hk : XE.kind y.entry = 0) (hg : y.granted < rounds y.desc) (hh : countsHeld s y y.granted (exchMembers s y.desc) = true) :
    exchGrant s c n = match countPoison s y with | some f => faultEntry s c n f | none => exchGranted s c n y := by
  have h : ¬ (!listLive s c r || XE.kind y.entry != 0 || y.complete || decide (rounds y.desc ≤ y.granted) ||
      !countsHeld s y y.granted (exchMembers s y.desc)) = true := by
    rw [hl, hk, hc, hh, decide_eq_false (Nat.not_le.2 hg)]
    decide
  unfold exchGrant
  rw [hr, hy]
  exact if_neg h

theorem exchSend_open (hr : (s.ctx c).run = some r) (hl : listLive s c r = true) (hy : getExch s c n = some y) (hc : y.complete = false) :
    exchSend s c n = if XE.kind y.entry = 0 then dispatchSend s c y else if sourceWaits s y then s else returnSend s c y := by
  unfold exchSend
  rw [hr, hy]
  exact if_neg (by rw [hl, hc]; decide)

/-! ### Rows settled, and completion (R394, R396, R397) -/

theorem settleRows_all (hs : y.settled = false) (he : y.expect = some y.received) : settleRows s c y =
    match (if countsHere s y then accessWrite s (some c) (capture s none (XD.cnt y.desc)) none 0 [(countOutput s y, 0)] else (none, s)) with
    | (some f, s) => faultEntry s c y.index f
    | (none, s) => entryReleased (onExch s c y.index fun z => { z with settled := true }) c := by
  unfold settleRows
  refine if_neg ?_
  rw [hs, he, bne_self_eq_false]
  decide

theorem recordDispatch_complete (hk : XE.kind y.entry = 0) (hs : y.settled = true) (hr : y.recorded = false)
    (hg : grantsHeld s y (rounds y.desc - 1) (exchMembers s y.desc).length = true) : recordDispatch s c y =
    setExchState (onExch s c y.index fun z => { z with recorded := true }) c y.entry fun r => put r 16 1 1 := by
  unfold recordDispatch
  refine if_neg ?_
  rw [hk, hs, hr, hg]
  decide

theorem exchComplete_done (hr : (s.ctx c).run = some r) (hl : listLive s c r = true) (hy : getExch s c n = some y) (hc : y.complete = false)
    (hs : y.settled = true) (hd : XE.kind y.entry = 0 → y.recorded = true) (hp : y.payloadSent = true) (hq : y.queue = []) (ht : y.tags = []) :
    exchComplete s c n = entryReleased (onExch s c n fun z => { z with complete := true }) c := by
  have hk : (XE.kind y.entry == 0 && !y.recorded) = false := by
    by_cases h : XE.kind y.entry = 0
    case pos => rw [hd h, Bool.not_true, Bool.and_false]
    case neg => rw [beq_eq_false_iff_ne.2 h, Bool.false_and]
  unfold exchComplete
  rw [hr, hy]
  refine if_neg ?_
  rw [hl, hc, hs, hk, hp, hq, ht]
  decide

end

/-! ### Arrivals (R389, R395) -/

theorem readyArrives_taken {s : State} {via : Option LinkId} {p : Packet} (hc : fld p.ext1 0 8 = 0x21) (ha : Arrives s via p ptNotice)
    (hn : p.nrows = 0) (hs : (arrived s via p).serving = true) :
    let u := arrived s via p
    let a : Arrival := { kind := 1, place := XN.group p, dseq := BitVec.ofNat 16 (XN.seq p), sub := XN.xkind p, src := p.src }
    readyArrives s via p = answerPacket (if (u.job.any fun j => j.id.toNat == XN.job p) && !u.arrivals.contains a then
      { u with arrivals := u.arrivals ++ [a] } else u) p 0 0 :=
  (if_neg (not_not.2 hc)).trans ((packetArrives_own ha).trans (takeNotice_acts hn hs))

/-- The notice is of the open job, and none like it is held. -/
theorem readyHeld_iff {u : State} {p : Packet} {a : Arrival} : ((u.job.any fun j => j.id.toNat == XN.job p) && !u.arrivals.contains a) = true ↔
    (∃ j, u.job = some j ∧ j.id.toNat = XN.job p) ∧ a ∉ u.arrivals := by
  rw [Bool.and_eq_true_iff, Option.any_eq_true, Bool.not_eq_true', ← Bool.not_eq_true, List.contains_iff_mem]
  simp only [beq_iff_eq]

/-- Settles O44: groups and their pieces by the checks of the list, exchange entries by what has come. -/
theorem gathersAndExchanges : Obligations.GathersAndExchanges := by
  unfold Obligations.GathersAndExchanges
  refine ⟨fun s u c r n hr => ⟨fun hl => ?_, fun g k gr x hf hp => ?_, fun x y hx hc ha hl hy => ?_⟩,
    fun s q u v c r hr hl => ⟨fun h => next_congr (exchStart_waits hr h), fun hi hb h4 hq => ?_, fun n y hy hc => ?_⟩, fun s via p => ?_⟩
  case refine_1 =>
    refine ⟨fun h => next_congr (gatherStart_waits hr h), fun rows he hb h4 ha => ?_⟩
    have hs := gatherStart_reads hr hl he hb h4 ha
    exact ⟨fun hg => next_congr (hs.trans (gatherBegun_malformed hg)), fun hg hm hv => next_congr (hs.trans (gatherBegun_changed hg hm hv)),
      fun hg hv => next_congr (hs.trans (gatherBegun_asks hg hv))⟩
  case refine_2 =>
    refine ⟨fun hb ha hc => ⟨fun tag hi => ?_, fun hi => ?_⟩, fun hg hh => ?_, fun hh => ?_⟩
    · refine next_congr ((headerRetry_found hf hp hb ha hc).trans ?_)
      rw [hi]
    · refine next_congr ((headerRetry_found hf hp hb ha hc).trans ?_)
      rw [hi]
    · exact next_congr ((gatherTimeout_found hf hp).trans (if_pos (by rw [hg, hh]; rfl)))
    · exact next_congr ((gatherTimeout_found hf hp).trans (if_neg (by rw [hh]; simp)))
  case refine_3 =>
    refine ⟨next_congr (gatherComplete_done hr hx hc ha hl hy), fun hg => ?_⟩
    rw [hg, if_neg Bool.false_ne_true, State.key_setKey_same]
    exact epoch_recorded _ _
  case refine_4 =>
    have hs := exchStart_reads hr hl hi hb h4 hq
    refine ⟨fun f hf => next_congr (hs.trans (exchListed_malformed hf)), fun hf => ⟨fun hw => next_congr (hs.trans (exchListed_waits hf hw)),
      fun hp hw => ?_⟩⟩
    have ht := hs.trans (exchListed_clears hf hp hw)
    refine ⟨fun f hd => next_congr (ht.trans (exchCleared_unread hd)), fun d hd => ⟨fun f hk => next_congr (ht.trans (exchCleared_refused hd hk)),
      fun hk => ?_⟩⟩
    have hv := ht.trans (exchCleared_starts hd hk)
    exact ⟨fun h0 => next_congr (hv.trans (if_pos h0)), fun h0 => next_congr (hv.trans (if_neg h0))⟩
  case refine_5 =>
    refine ⟨fun hk hg hh => ?_, fun hk => next_congr ((exchSend_open hr hl hy hc).trans (if_pos hk)),
      fun hk hw => next_congr ((exchSend_open hr hl hy hc).trans ((if_neg hk).trans (if_neg (ne_true_of_eq_false hw)))),
      fun hk hw => next_congr ((exchSend_open hr hl hy hc).trans ((if_neg hk).trans (if_pos hw))), fun hs he => ⟨fun hh => ?_, fun hh ha => ?_⟩,
      fun hk hs hd hg => recordDispatch_complete hk hs hd hg, fun hs hd hp hq ht => next_congr (exchComplete_done hr hl hy hc hs hd hp hq ht)⟩
    · have he := exchGrant_held hr hl hy hc hk hg hh
      refine ⟨fun f hp => ?_, fun hp h0 ht => ?_, fun hp h0 ht => ?_, fun hp h0 => ?_⟩
      all_goals rw [show countPoison s y = _ from hp] at he
      · exact next_congr he
      · exact next_congr (he.trans (if_pos ⟨h0, ht⟩))
      · refine next_congr (he.trans ((if_neg fun h => Nat.not_lt.2 ht h.2).trans ?_))
        exact (congrArg (sendGrants · c y y.granted) (if_pos h0)).trans (congrArg (sendGrants _ c y) h0)
      · refine next_congr (he.trans ((if_neg fun h => h0 h.1).trans (congrArg (sendGrants · c y y.granted) (if_neg h0))))
    · rw [settleRows_all hs he, if_neg (ne_true_of_eq_false hh)]
    · rw [settleRows_all hs he, if_pos hh, ha]
  case refine_6 =>
    refine ⟨fun t ha hs hw => ?_, fun ha hx hn hs => ⟨fun hh => ?_, fun hh => ?_⟩⟩
    · refine next_congr ((packetArrives_own ha).trans ((request_accepted hs).trans ?_))
      unfold serveExchange
      simp only [hw]
    · exact next_congr ((readyArrives_taken hx ha hn hs).trans (congrArg (answerPacket · p 0 0) (if_pos (readyHeld_iff.2 hh))))
    · exact next_congr ((readyArrives_taken hx ha hn hs).trans (congrArg (answerPacket · p 0 0) (if_neg fun h => hh (readyHeld_iff.1 h))))

end Sys2Proof.Machine
end

section
/-!
LEMMA. Steering units (07).
-/
namespace Sys2Proof.Machine

section
variable {s : State} {c : CoreId} {t : Token} {u i ch : Nat}

/-! ### The control token (R213, R215) -/

theorem kind_differs_iff {k : Nat} {p : Bool} : ((k == 0) != p) = true ↔ ¬ (k = 0 ↔ p = true) := by
  rw [bne_iff_ne, ne_eq, Bool.eq_iff_iff, beq_iff_eq]

theorem ctrlStep_token (h : chHead s c (SD.ctrl ((s.core c).unit u)) = some t) (hc : t.isControl = true) (he : t.isEot = false) :
    let d := (s.core c).unit u
    let n := if SD.pred d then t.value % 2 else t.value
    let fan := if u = 0 then SD.nin d else if u = 1 then SD.nout d else 65536
    ctrlStep s c u = if (t.ckind == 0) != SD.pred d then .fault (SD.ctrl d) else if fan ≤ n then .fault (SD.ctrl d) else .index n := by
  intro d n fan
  unfold ctrlStep
  dsimp only
  rw [h]
  exact (if_neg (by rw [hc]; decide)).trans (if_neg (ne_true_of_eq_false he))

/-! ### SELECT and ROUTE -/

theorem moveFire_fault (hl : unitLive s c u = true) (hs : ctrlStep s c u = .fault ch) : moveFire s c u = steerFault s c u ch := by
  unfold moveFire
  dsimp only
  rw [hs]
  exact if_neg (by rw [hl]; decide)

theorem moveFire_index (hl : unitLive s c u = true) (hs : ctrlStep s c u = .index i)
    (hh : chHead s c (SD.inp ((s.core c).unit u) (if u = 0 then i else 0)) = some t) :
    let d := (s.core c).unit u
    let ip := SD.inp d (if u = 0 then i else 0)
    let op := SD.out d (if u = 0 then 0 else i)
    moveFire s c u = if !t.isData then steerFault s c u ip
      else if chCredit s c op then chSend (chPop (chPop s c ip) c (SD.ctrl d)) c op t else s := by
  intro d ip op
  unfold moveFire
  dsimp only
  rw [hs]
  dsimp only
  rw [hh]
  exact if_neg (by rw [hl]; decide)

/-! ### REPEAT -/

theorem repeatStep_fault (hl : unitLive s c 3 = true) (hs : ctrlStep s c 3 = .fault ch) : repeatStep s c = steerFault s c 3 ch := by
  unfold repeatStep
  dsimp only
  rw [hs]
  exact if_neg (by rw [hl]; decide)

theorem repeatStep_index (hl : unitLive s c 3 = true) (hs : ctrlStep s c 3 = .index i)
    (hh : chHead s c (SD.inp ((s.core c).unit 3) 0) = some t) :
    let d := (s.core c).unit 3
    let x := (s.core c).unitSt 3
    let both := fun (v : State) => chPop (chPop v c (SD.inp d 0)) c (SD.ctrl d)
    let sent := chSend s c (SD.out d 0) t
    repeatStep s c = if !t.isData then steerFault s c 3 (SD.inp d 0) else if i = 0 then both s else if !chCredit s c (SD.out d 0) then s
      else if i ≤ x.copies + 1 then both (setUnit sent c 3 { x with copies := 0 })
      else setUnit sent c 3 { x with copies := x.copies + 1 } := by
  intro d x both sent
  unfold repeatStep
  dsimp only
  rw [hs]
  dsimp only
  rw [hh]
  exact if_neg (by rw [hl]; decide)

/-! ### MERGE -/

theorem mergeStep_head (hl : unitLive s c 2 = true) (he : ((s.core c).unitSt 2).ended.length ≠ SD.nin ((s.core c).unit 2))
    (hh : chHead s c (SD.inp ((s.core c).unit 2) ((s.core c).unitSt 2).turn) = some t) :
    let d := (s.core c).unit 2
    let x := (s.core c).unitSt 2
    let sent := chSend (chPop s c (SD.inp d x.turn)) c (SD.out d 0) t
    mergeStep s c = if t.isEot then mergeEnd s c else if t.isControl then steerFault s c 2 (SD.inp d x.turn)
      else if !t.isData || !chCredit s c (SD.out d 0) then s
      else if SD.weight d x.turn ≤ x.taken + 1 then setUnit sent c 2 { x with taken := 0, turn := nextInput (SD.nin d) x.ended x.turn }
      else setUnit sent c 2 { x with taken := x.taken + 1 } := by
  intro d x sent
  unfold mergeStep
  dsimp only
  rw [hh]
  exact (if_neg (by rw [hl]; decide)).trans (if_neg he)

theorem Token.isControl_of_isData (h : t.isData = true) : t.isControl = false := by
  rw [Token.isData, beq_iff_eq] at h
  rw [Token.isControl, h]
  rfl

theorem Token.isEot_of_isData (h : t.isData = true) : t.isEot = false := by
  rw [Token.isEot, t.isControl_of_isData h, Bool.false_and]

theorem Token.isControl_of_isEot (h : t.isEot = true) : t.isControl = true := (Bool.and_eq_true_iff.1 h).1

theorem Token.isDone_of_isControl (h : t.isControl = true) : t.isDone = false := by
  rw [Token.isControl, beq_iff_eq] at h
  rw [Token.isDone, h]
  rfl

/-! ### Sets of done and end-of-tensor tokens (R214) -/

theorem out_mem_outs (d : BitVec 128) : SD.out d 0 ∈ SD.outs d := List.mem_map.2 ⟨0, List.mem_range.2 (Nat.succ_pos _), rfl⟩

theorem ctrl_mem_inputs {d : BitVec 128} (hu : u ≠ 2) : SD.ctrl d ∈ unitInputs d u := by
  rw [unitInputs, if_neg hu]
  exact List.mem_append_left _ (List.mem_singleton_self _)

theorem ins_mem_inputs {d : BitVec 128} (h : ch ∈ SD.ins d) : ch ∈ unitInputs d u := List.mem_append_right _ h

/-- A set of end-of-tensor tokens is none of done tokens, and its control token asks for nothing. -/
theorem eotSet (hu : u ≠ 2) (h : ∀ ch ∈ unitInputs ((s.core c).unit u) u, (chHead s c ch).any Token.isEot = true) :
    ((unitInputs ((s.core c).unit u) u).all fun ch => (chHead s c ch).any Token.isDone) = false ∧ ctrlStep s c u = .wait := by
  obtain ⟨t, ht, he⟩ := (Option.any_eq_true _ _).1 (h _ (ctrl_mem_inputs hu))
  constructor
  · refine List.all_eq_false.2 ⟨_, ctrl_mem_inputs hu, ?_⟩
    rw [ht]
    exact ne_true_of_eq_false (t.isDone_of_isControl (t.isControl_of_isEot he))
  · have hn : (SD.ins ((s.core c).unit u)).find? (fun ch => (chHead s c ch).any Token.isData) = none := by
      refine List.find?_eq_none.2 fun ch hch hd => ?_
      obtain ⟨x, hx, hxe⟩ := (Option.any_eq_true _ _).1 (h ch (ins_mem_inputs hch))
      rw [hx] at hd
      exact Bool.false_ne_true ((x.isEot_of_isData hd).symm.trans hxe)
    unfold ctrlStep
    dsimp only
    rw [ht, hn]
    exact (if_neg (by rw [t.isControl_of_isEot he]; decide)).trans (if_pos he)

theorem endPass_owed (hl : unitLive s c 2 = true) (he : ((s.core c).unitSt 2).ended.length = SD.nin ((s.core c).unit 2))
    (hc : chCredit s c (SD.out ((s.core c).unit 2) 0) = true) : endPass s c 2 = mergeOut s c :=
  (if_neg (by rw [hl]; decide)).trans ((if_pos ⟨rfl, he⟩).trans (if_pos hc))

variable (hl : unitLive s c u = true) (hr : ∀ ch ∈ SD.outs ((s.core c).unit u), chCredit s c ch = true)
include hl hr

theorem endPass_done (hm : u = 2 → ((s.core c).unitSt 2).ended.length ≠ SD.nin ((s.core c).unit 2))
    (hd : ∀ ch ∈ unitInputs ((s.core c).unit u) u, (chHead s c ch).any Token.isDone = true) :
    endPass s c u = sendAll c (SD.outs ((s.core c).unit u)) (doneToken c) (popAll c (unitInputs ((s.core c).unit u) u) s) :=
  (if_neg (by rw [hl]; decide)).trans ((if_neg fun ⟨hu, he⟩ => hm hu (hu ▸ he)).trans ((if_pos (List.all_eq_true.2 hd)).trans
    (if_pos (List.all_eq_true.2 hr))))

theorem endPass_eot (hu : u ≠ 2) (he : ∀ ch ∈ unitInputs ((s.core c).unit u) u, (chHead s c ch).any Token.isEot = true) :
    endPass s c u = sendAll c (SD.outs ((s.core c).unit u)) (controlToken 2 0) (popAll c (unitInputs ((s.core c).unit u) u) s) := by
  obtain ⟨hd, hw⟩ := eotSet hu he
  unfold endPass
  dsimp only
  rw [hw]
  exact (if_neg (by rw [hl]; decide)).trans ((if_neg fun h => hu h.1).trans ((if_neg (ne_true_of_eq_false hd)).trans ((if_neg hu).trans
    ((if_pos (List.all_eq_true.2 he)).trans (if_pos (List.all_eq_true.2 hr))))))

end

end Sys2Proof.Machine
end

section
/-!
LEMMA. What memory answers does not depend on the black box, on commands and requests, nor on the faults that contexts hold.
-/
namespace Sys2Proof.Machine

/-- The part of the state that decides what memory answers. -/
def State.memoryView (s : State) : State :=
  { s with free := 0, mod := { s.mod with alert := false }, bb := {}, ctxs := [], cmds := [], fab := { s.fab with reqs := [] } }

/-- Two states whose memory answers alike. -/
def Alike (s t : State) : Prop := s.memoryView = t.memoryView

/-! ### Faults change no answer -/

theorem memoryView_bbAppend (s : State) (k : Nat) (c : Option CtxId) (p : BitVec 384) : (bbAppend s k c p).memoryView = s.memoryView := by
  obtain ⟨b, e⟩ := bbAppend_eq s k c p
  rw [e]
  rfl

theorem memoryView_bbFreeze (s : State) : (bbFreeze s).memoryView = s.memoryView := by
  obtain ⟨b, e, -⟩ := bbFreeze_eq s
  rw [e]
  rfl

theorem memoryView_faultRun {s t : State} {c : CtxId} {f : FirstFault} (e : faultRun s c f = some t) : t.memoryView = s.memoryView := by
  unfold faultRun at e
  dsimp only at e
  split at e
  · split at e
    · obtain rfl := Option.some.inj e
      rfl
    · split at e
      · obtain rfl := Option.some.inj e
        rfl
      · obtain rfl := Option.some.inj e
        rfl
  · split at e
    · obtain rfl := Option.some.inj e
      rfl
    · exact nomatch e

theorem memoryView_raiseFault (s : State) (c : Option CtxId) (st : Half) (i : FaultInfo) (d : Word) :
    (raiseFault s c st i d).memoryView = s.memoryView := by
  cases c with
  | none => exact (memoryView_bbFreeze _).trans (memoryView_bbAppend ..)
  | some c =>
    have hb := (memoryView_bbFreeze (bbAppend s 1 (some c) (faultPayload st (s.runSeq c) i))).trans (memoryView_bbAppend ..)
    unfold raiseFault
    dsimp only
    split
    next t he => exact (memoryView_faultRun he).trans hb
    next =>
      split
      · exact hb
      · exact hb

namespace Alike
variable {s t : State}

theorem faultIssuer {c st a x} (h : Alike s t) : Alike (faultIssuer s c st a x) (faultIssuer t c st a x) := by
  unfold Machine.faultIssuer
  split
  · exact (memoryView_raiseFault ..).trans (h.trans (memoryView_raiseFault ..).symm)
  · exact h

/-! ### What is read of the state -/

theorem ms (h : Alike s t) : s.ms = t.ms := (congrArg State.ms h :)
theorem time (h : Alike s t) : s.time = t.time := (congrArg State.time h :)
theorem grid (h : Alike s t) : s.grid = t.grid := (congrArg State.grid h :)
theorem colls (h : Alike s t) : s.colls = t.colls := (congrArg State.colls h :)
theorem core (h : Alike s t) (c : CoreId) : s.core c = t.core c := (congrArg (State.core · c) h :)
theorem stream (h : Alike s t) (n : Nat) : s.stream n = t.stream n := (congrArg (State.stream · n) h :)
theorem engine (h : Alike s t) (e : Nat) : s.engine e = t.engine e := (congrArg (State.engine · e) h :)
theorem devEntry (h : Alike s t) (w : Half) : s.devEntry w = t.devEntry w := (congrArg (State.devEntry · w) h :)
theorem bank (h : Alike s t) (b : Nat) : s.bank b = t.bank b := (congrArg (State.bank · b) h :)
theorem chan (h : Alike s t) (c : Nat) : s.chan c = t.chan c := (congrArg (State.chan · c) h :)
theorem cxlPort (h : Alike s t) (p : Nat) : s.cxlPort p = t.cxlPort p := (congrArg (State.cxlPort · p) h :)
theorem cxlPortOf (h : Alike s t) (a : Nat) : cxlPortOf s a = cxlPortOf t a := (congrArg (Machine.cxlPortOf · a) h :)
theorem channelOf (h : Alike s t) (a : Nat) : channelOf s a = channelOf t a := (congrArg (Machine.channelOf · a) h :)
theorem region (h : Alike s t) (a : Nat) : region s a = region t a := (congrArg (Machine.region · a) h :)
theorem chipBank (h : Alike s t) (a : Nat) : chipBank s a = chipBank t a := (congrArg (Machine.chipBank · a) h :)
theorem rowPlace (h : Alike s t) (a : Nat) : rowPlace s a = rowPlace t a := (congrArg (Machine.rowPlace · a) h :)
theorem rawRead (h : Alike s t) (a : Nat) : rawRead s a = rawRead t a := (congrArg (Machine.rawRead · a) h :)
theorem rowDown (h : Alike s t) (a : Nat) : rowDown s a = rowDown t a := (congrArg (Machine.rowDown · a) h :)
theorem poisonCount (h : Alike s t) (c : Nat) : poisonCount s c = poisonCount t c := (congrArg (Machine.poisonCount · c) h :)
theorem wordAt (h : Alike s t) (a w : Nat) : wordAt s a w = wordAt t a w := (congrArg (Machine.wordAt · a w) h :)

theorem blockPoisoned (h : Alike s t) (a : Nat) : blockPoisoned s a = blockPoisoned t a := by
  unfold Machine.blockPoisoned
  rw [h.rawRead, h.rawRead]

theorem blockMismatch (h : Alike s t) (a : Nat) (x : BitVec 3104) : blockMismatch s a x = blockMismatch t a x := by
  unfold Machine.blockMismatch
  rw [h.rawRead, h.rawRead]

theorem blockSector (h : Alike s t) (a : Nat) : blockSector s a = blockSector t a := by
  unfold Machine.blockSector
  rw [h.rawRead, h.rawRead]

/-! ### The state's parts -/

theorem setBank {b x y} (h : Alike s t) (e : x = y) : Alike (s.setBank b x) (t.setBank b y) := by
  subst e
  exact (congrArg (State.setBank · b x) h :)

theorem setChan {c x y} (h : Alike s t) (e : x = y) : Alike (s.setChan c x) (t.setChan c y) := by
  subst e
  exact (congrArg (State.setChan · c x) h :)

theorem setCxl {p x y} (h : Alike s t) (e : x = y) : Alike (s.setCxl p x) (t.setCxl p y) := by
  subst e
  exact (congrArg (State.setCxl · p x) h :)

theorem setCore {c x y} (h : Alike s t) (e : x = y) : Alike (s.setCore c x) (t.setCore c y) := by
  subst e
  exact (congrArg (State.setCore · c x) h :)

theorem setEngine {g x y} (h : Alike s t) (e : x = y) : Alike (s.setEngine g x) (t.setEngine g y) := by
  subst e
  exact (congrArg (State.setEngine · g x) h :)

theorem withMs {m n} (h : Alike s t) (e : m = n) : Alike { s with ms := m } { t with ms := n } := by
  subst e
  exact (congrArg (fun v : State => { v with ms := m }) h :)

theorem answer {x} (h : Alike s t) : Alike (s.answer x) (t.answer x) := (congrArg (State.answer · x) h :)
theorem requestDone {b} (h : Alike s t) : Alike (requestDone s b) (requestDone t b) := (congrArg (Machine.requestDone · b) h :)
theorem lateWake {b q} (h : Alike s t) : Alike (lateWake s b q) (lateWake t b q) := (congrArg (Machine.lateWake · b q) h :)
theorem gateBank {b} (h : Alike s t) : Alike (gateBank s b) (gateBank t b) := (congrArg (Machine.gateBank · b) h :)
theorem countRowError {p} (h : Alike s t) : Alike (countRowError s p) (countRowError t p) := (congrArg (Machine.countRowError · p) h :)

theorem foldl {α : Type} {f : State → α → State} {l : List α} (h : Alike s t) (hf : ∀ s t a, Alike s t → Alike (f s a) (f t a)) :
    Alike (l.foldl f s) (l.foldl f t) := by
  induction l generalizing s t with
  | nil => exact h
  | cons a l ih => exact ih (hf s t a h)

/-! ### Rows and their poison -/

theorem poisonChannel {c} (h : Alike s t) : Alike (poisonChannel s c) (poisonChannel t c) := by
  unfold Machine.poisonChannel
  rw [h.chan]
  split
  · exact h
  · exact (memoryView_bbAppend ..).trans ((h.setChan rfl).trans (memoryView_bbAppend ..).symm)

theorem putPoison {a m} (h : Alike s t) : Alike (s.putPoison a m) (t.putPoison a m) := by
  unfold State.putPoison
  rw [h.region, h.ms, h.channelOf]
  split
  · dsimp only
    rw [(h.withMs rfl).poisonCount]
    split
    · exact h.withMs rfl
    · exact (h.withMs rfl).poisonChannel
  · exact h.withMs rfl
  · exact h.withMs rfl

theorem addPoison {a m} (h : Alike s t) : Alike (addPoison s a m) (addPoison t a m) := by
  unfold Machine.addPoison
  rw [h.ms]
  exact h.putPoison

theorem channelFinding {c a f} (h : Alike s t) : Alike (channelFinding s c a f) (channelFinding t c a f) := by
  cases f with
  | clean => exact h
  | corrected => exact h.setChan (by rw [h.chan])
  | uncorrectable m => exact (h.setChan (by rw [h.chan])).addPoison

theorem placeFinding {p f} (h : Alike s t) : Alike (placeFinding s p f) (placeFinding t p f) := by
  cases f with
  | clean => exact h
  | corrected =>
    cases p with
    | core c k n => exact (h.setCore (by rw [h.core])).countRowError
    | chip b n => exact (h.setBank (by rw [h.bank])).countRowError
  | uncorrectable m =>
    cases p with
    | core c k n => exact h.addPoison
    | chip b n => exact (h.setBank (by rw [h.bank])).addPoison

theorem rowFinding {a f} (h : Alike s t) : Alike (rowFinding s a f) (rowFinding t a f) := by
  unfold Machine.rowFinding
  rw [h.rowPlace, h.region, h.channelOf]
  split
  · exact h.placeFinding
  · exact h.channelFinding
  · exact h.addPoison
  · exact h

theorem transitCount {x} (h : Alike s t) : Alike (transitCount s x) (transitCount t x) := by
  unfold Machine.transitCount
  split
  · exact h.withMs (by rw [h.ms])
  · exact h

theorem countCxlPoison {a m} (h : Alike s t) : Alike (countCxlPoison s a m) (countCxlPoison t a m) := by
  unfold Machine.countCxlPoison
  rw [h.region, h.cxlPortOf]
  split
  · exact h.setCxl (by rw [h.cxlPort])
  · exact h

theorem rawPut {a r p} (h : Alike s t) : Alike (rawPut s a r p) (rawPut t a r p) := by
  have hw : Alike (State.putPoison { s with ms := { s.ms with mem := Mem.setRow s.ms.mem a r } } a p)
      (State.putPoison { t with ms := { t.ms with mem := Mem.setRow t.ms.mem a r } } a p) := (h.withMs (by rw [h.ms])).putPoison
  unfold Machine.rawPut Machine.rawWrite
  rw [h.region, h.cxlPort, h.cxlPortOf]
  cases Machine.region t a with
  | unmapped => exact h
  | config => exact h
  | cxl =>
    dsimp only
    by_cases hd : (t.cxlPort (Machine.cxlPortOf t a)).down = true
    · rw [if_pos hd, if_pos hd]
      exact h
    · rw [if_neg hd, if_neg hd]
      exact hw
  | gddr => exact hw
  | chip => exact hw
  | coreMem => exact hw

theorem wordPut {a w x} (h : Alike s t) : Alike (wordPut s a w x) (wordPut t a w x) := by
  unfold Machine.wordPut
  rw [h.rawRead]
  split
  · exact h.rawPut
  · exact h

/-! ### Engines -/

theorem faddAt {a w d l} (h : Alike s t) : (faddAt s a w d l).1 = (faddAt t a w d l).1 ∧ Alike (faddAt s a w d l).2 (faddAt t a w d l).2 := by
  unfold Machine.faddAt
  rw [h.rawRead]
  split
  · split
    · exact ⟨rfl, h⟩
    · exact ⟨rfl, h.rawPut⟩
  · exact ⟨rfl, h⟩

theorem noticeServe {c a w d} (h : Alike s t) : Alike (noticeServe s c a w d) (noticeServe t c a w d) := by
  obtain ⟨h1, h2⟩ := h.faddAt (a := a) (w := w) (d := d) (l := 0xFFFFFFFE)
  unfold Machine.noticeServe
  cases hs : Machine.faddAt s a w d 0xFFFFFFFE with | mk v s' => ?_
  cases ht : Machine.faddAt t a w d 0xFFFFFFFE with | mk v' t' => ?_
  rw [hs, ht] at h1 h2
  dsimp only at h1 h2
  subst h1
  cases v with
  | none => exact h2.faultIssuer
  | some v => exact h2

theorem noticeAt {c a w d} (h : Alike s t) : Alike (noticeAt s c a w d) (noticeAt t c a w d) := by
  unfold Machine.noticeAt
  rw [h.chipBank]
  split
  · exact h.noticeServe
  · rw [h.bank]
    dsimp only
    split
    · exact h.noticeServe
    · exact h.lateWake
    · exact h.setBank rfl

theorem slotNotice {v} (h : Alike s t) : Alike (slotNotice s v) (slotNotice t v) := by
  unfold Machine.slotNotice
  rw [h.devEntry]
  exact h.noticeAt

theorem countSlot {e i n wb nf} (h : Alike s t) : Alike (countSlot s e i n wb nf) (countSlot t e i n wb nf) := by
  have hv (v : BitVec 256) : Alike (s.setEngine e ((t.engine e).setSlot i v)) (t.setEngine e ((t.engine e).setSlot i v)) := h.setEngine rfl
  unfold Machine.countSlot
  rw [h.engine]
  dsimp only
  split
  · split
    · exact (hv _).setEngine (by rw [(hv _).engine])
    · exact (hv _).slotNotice
  · exact hv _

theorem addBlock {e a b} (h : Alike s t) : Alike (addBlock s e a b) (addBlock t e a b) := by
  unfold Machine.addBlock
  rw [h.rawRead, h.rawRead]
  split
  · dsimp only
    split
    · exact h.rawPut.rawPut.setEngine (by rw [h.rawPut.rawPut.engine])
    · exact h.rawPut.rawPut
  · exact h

theorem accServe {e g bs} (h : Alike s t) : (accServe s e g bs).1 = (accServe t e g bs).1 ∧ Alike (accServe s e g bs).2 (accServe t e g bs).2 := by
  have hb := h.foldl (f := fun v b => Machine.addBlock v e b.1 b.2) (l := bs) fun _ _ _ hv => hv.addBlock
  unfold Machine.accServe
  simp only [h.engine, h.blockPoisoned, h.blockMismatch]
  split
  · exact ⟨rfl, h⟩
  · split
    · exact ⟨rfl, h.setEngine rfl⟩
    · split
      · exact ⟨rfl, h.setEngine rfl⟩
      · split
        · exact ⟨rfl, h⟩
        · split
          · exact ⟨rfl, h⟩
          · exact ⟨rfl, hb.countSlot⟩

theorem replayClaim {a w n} (h : Alike s t) : Alike (replayClaim s a w n) (replayClaim t a w n) := by
  have hc : ∀ l m : List (Nat × Collective), l = m → Alike { s with colls := l } { t with colls := m } := by
    rintro l - rfl
    exact (congrArg (fun v : State => { v with colls := l }) h :)
  unfold Machine.replayClaim
  by_cases hr : (!s.grid.replay) = true
  · rw [if_pos hr, if_pos (h.grid ▸ hr)]
    exact h
  · rw [if_neg hr, if_neg (h.grid ▸ hr)]
    refine hc _ _ ?_
    rw [h.colls, funext h.devEntry]

/-! ### Banks and their queues -/

theorem serveReq {b r} (h : Alike s t) : Alike (serveReq s b r) (serveReq t b r) := by
  cases r with
  | read c a f x =>
    have hf : Alike _ _ := (h.rowFinding (a := a.toNat) (f := f)).transitCount (x := x)
    unfold Machine.serveReq
    dsimp only
    rw [hf.rawRead]
    split
    · exact hf.countCxlPoison.answer
    · exact hf.answer
  | write c a x p t => exact h.transitCount.rawPut.answer
  | acc c a g x =>
    obtain ⟨h1, h2⟩ := h.accServe (e := b) (g := gradHdr g) (bs := [(a.toNat, x)])
    unfold Machine.serveReq
    dsimp only
    rw [h1, h2.blockSector]
    split
    · exact h2.faultIssuer.answer
    · exact h2.answer
  | fadd c a d l =>
    obtain ⟨h1, h2⟩ := h.faddAt (a := a.toNat / 512 * 512) (w := a.toNat % 512 / 4) (d := d.toNat) (l := l.toNat)
    unfold Machine.serveReq
    dsimp only
    cases hs : Machine.faddAt s (a.toNat / 512 * 512) (a.toNat % 512 / 4) d.toNat l.toNat with | mk v s' => ?_
    cases ht : Machine.faddAt t (a.toNat / 512 * 512) (a.toNat % 512 / 4) d.toNat l.toNat with | mk v' t' => ?_
    rw [hs, ht] at h1 h2
    dsimp only at h1 h2
    subst h1
    cases v with
    | none => exact h2.faultIssuer.answer
    | some v =>
      dsimp only
      rw [h.grid, h.wordAt, h2.wordAt]
      split
      · exact h2.replayClaim.answer
      · exact h2.answer
  | word a x => exact h.wordPut.answer
  | notice c a w d => exact h.noticeServe
  | gate => exact h.gateBank

theorem serveQueue {b q} (h : Alike s t) : Alike (serveQueue b q s) (serveQueue b q t) := by
  induction q generalizing s t with
  | nil => exact h.setBank (by rw [h.bank])
  | cons r q ih =>
    unfold Machine.serveQueue
    rw [h.bank]
    split
    · cases r with
      | read c a f x => exact ih h.faultIssuer.answer
      | gate => exact ih h
      | write c a x p t => exact h.lateWake
      | acc c a g x => exact h.lateWake
      | fadd c a d l => exact h.lateWake
      | word a x => exact h.lateWake
      | notice c a w d => exact h.lateWake
    · exact ih h.serveReq

theorem gateDone {b} (h : Alike s t) : Alike (gateDone s b) (gateDone t b) := by
  unfold Machine.gateDone
  dsimp only
  rw [h.bank]
  split
  · exact (h.setBank rfl).serveQueue
  · exact h

theorem wakeDone {b} (h : Alike s t) : Alike (wakeDone s b) (wakeDone t b) := by
  unfold Machine.wakeDone
  dsimp only
  rw [h.bank]
  split
  · split
    · exact (h.setBank rfl).serveQueue
    · exact (h.setBank rfl).requestDone.serveQueue
  · exact h

theorem settleBank {b} (h : Alike s t) : Alike (settleBank s b) (settleBank t b) := by
  unfold Machine.settleBank
  rw [h.bank]
  exact h.foldl fun _ _ _ ht => ht.gateDone.wakeDone

theorem fwRead (h : Alike s t) (a : Nat) : fwRead s a = fwRead t a := by
  unfold Machine.fwRead
  rw [h.chipBank]
  split
  · dsimp only
    rw [h.settleBank.bank, h.settleBank.ms]
  · rw [h.rowDown, h.ms]

end Alike

end Sys2Proof.Machine
end

section
/-!
LEMMA. The deadlock detector (07): its snapshot, its records and its fault.
-/
namespace Sys2Proof.Machine

/-! ### The snapshot is of what memory and cores hold -/

namespace Alike
variable {s t : State}

theorem chHead (h : Alike s t) (c : CoreId) (ch : Nat) : chHead s c ch = chHead t c ch := by
  have ha (n i : Nat) : streamRowAddr s n i = streamRowAddr t n i := (congrArg (streamRowAddr · n i) h :)
  unfold Machine.chHead
  simp only [h.core, h.grid, h.stream, ha, h.fwRead]

theorem chCredit (h : Alike s t) (c : CoreId) (ch : Nat) : chCredit s c ch = chCredit t c ch := by
  unfold Machine.chCredit
  simp only [h.core, h.grid, h.stream]

theorem ctrlStep (h : Alike s t) (c : CoreId) (u : Nat) : ctrlStep s c u = ctrlStep t c u := by
  unfold Machine.ctrlStep
  simp only [h.core, h.chHead]

theorem unitNeeds (h : Alike s t) (c : CoreId) (u : Nat) : unitNeeds s c u = unitNeeds t c u := by
  unfold Machine.unitNeeds
  simp only [h.core, h.chHead, h.ctrlStep]

theorem unitTargets (h : Alike s t) (c : CoreId) (u : Nat) : unitTargets s c u = unitTargets t c u := by
  unfold Machine.unitTargets
  simp only [h.core, h.ctrlStep]

theorem sendBlocked (h : Alike s t) (c : CoreId) (ch : Nat) : sendBlocked s c ch = sendBlocked t c ch := by
  unfold Machine.sendBlocked unitBlocked
  simp only [h.core, h.chCredit, h.unitNeeds, h.unitTargets]

theorem coreSnapshot (h : Alike s t) (c : CoreId) : coreSnapshot s c = coreSnapshot t c := by
  unfold Machine.coreSnapshot
  simp only [h.core, h.unitNeeds, funext (h.sendBlocked c)]

end Alike

/-! ### Records that the black box takes -/

/-- The payload of a record of the black box. -/
def recPayload (r : Nat × BitVec 512) : Nat := r.2.toNat / 2 ^ 128

/-- A black box that has taken records of some payloads since; while it had room, they stand at its end. -/
structure BoxGrown (o b : BlackBox) (ps : List Nat) : Prop where
  seq : b.seq = o.seq + BitVec.ofNat 48 ps.length
  total : b.total = o.total + ps.length
  recs : o.recs.length + ps.length ≤ 4096 → ∃ l, b.recs = o.recs ++ l ∧ l.map recPayload = ps

theorem BoxGrown.refl (b : BlackBox) : BoxGrown b b [] := ⟨(BitVec.add_zero _).symm, rfl, fun _ => ⟨[], (List.append_nil _).symm, rfl⟩⟩

/-- The upper field of a word of two fields. -/
theorem upper_of_or {m n a b : Nat} (ha : a < 2 ^ m) (hb : b < 2 ^ n) : (a ||| b <<< m) % 2 ^ (m + n) / 2 ^ m = b := by
  have hs : b <<< m < 2 ^ (m + n) := by
    rw [Nat.shiftLeft_eq, Nat.pow_add, Nat.mul_comm]
    exact Nat.mul_lt_mul_of_pos_left hb (Nat.two_pow_pos m)
  have hl : a < 2 ^ (m + n) := Nat.lt_of_lt_of_le ha (Nat.pow_le_pow_right (by decide) (Nat.le_add_right m n))
  rw [Nat.mod_eq_of_lt (Nat.or_lt_two_pow hl hs), ← Nat.shiftRight_eq_div_pow, Nat.shiftRight_or_distrib, Nat.shiftLeft_shiftRight,
    Nat.shiftRight_eq_div_pow, Nat.div_eq_of_lt ha, Nat.zero_or]

theorem upper_of_ofNat {m n w : Nat} (hw : m + n = w) (a : BitVec m) (b : BitVec n) :
    (BitVec.ofNat w (a.toNat ||| b.toNat <<< m)).toNat / 2 ^ m = b.toNat := by
  subst hw
  rw [BitVec.toNat_ofNat]
  exact upper_of_or a.isLt b.isLt

theorem recPayload_record (n : Nat) (hdr : BitVec 128) (p : BitVec 384) :
    recPayload (n, BitVec.ofNat 512 (hdr.toNat ||| (p.toNat <<< 128))) = p.toNat := by
  unfold recPayload
  exact upper_of_ofNat (by decide) hdr p

theorem seq_add_one (q : BitVec 48) (n : Nat) : q + BitVec.ofNat 48 n + 1 = q + BitVec.ofNat 48 (n + 1) := by
  rw [BitVec.ofNat_add, BitVec.add_assoc]
  rfl

theorem bbAppend_grows {o : BlackBox} {s : State} {ps : List Nat} (h : BoxGrown o s.bb ps) (k : Nat) (c : Option CtxId) (p : BitVec 384) :
    ∃ b, bbAppend s k c p = { s with bb := b } ∧ BoxGrown o b (ps ++ [p.toNat]) := by
  have hq : s.bb.seq + 1 = o.seq + BitVec.ofNat 48 (ps ++ [p.toNat]).length := by
    rw [h.seq, seq_add_one, List.length_append]
    rfl
  have ht : s.bb.total + 1 = o.total + (ps ++ [p.toNat]).length := by
    rw [h.total, List.length_append]
    rfl
  have hroom : o.recs.length + (ps ++ [p.toNat]).length ≤ 4096 → s.bb.recs.length < 4096 := fun hr => by
    rw [List.length_append] at hr
    obtain ⟨l, hl, hp⟩ := h.recs (Nat.le_trans (Nat.le_succ _) hr)
    rw [hl, List.length_append, ← List.length_map (f := recPayload) (as := l), hp]
    exact hr
  unfold bbAppend
  dsimp only
  split
  next hs =>
    refine ⟨_, rfl, hq, ht, fun hr => ?_⟩
    rw [List.length_append] at hr
    obtain ⟨l, hl, hp⟩ := h.recs (Nat.le_trans (Nat.le_succ _) hr)
    refine ⟨l ++ [_], (congrArg (· ++ [_]) hl).trans (List.append_assoc ..), ?_⟩
    rw [List.map_append, hp]
    exact congrArg (fun x => ps ++ [x]) (recPayload_record ..)
  next hs =>
    split
    · exact ⟨_, rfl, hq, ht, fun hr => absurd (hroom hr) hs⟩
    · exact ⟨_, rfl, hq, ht, fun hr => absurd (hroom hr) hs⟩

theorem bbFreeze_grows {o : BlackBox} {s : State} {ps : List Nat} (h : BoxGrown o s.bb ps) :
    ∃ b, bbFreeze s = { s with bb := b, mod := { s.mod with alert := true } } ∧ BoxGrown o b ps := by
  unfold bbFreeze
  dsimp only
  split
  · exact ⟨_, rfl, h.seq, h.total, h.recs⟩
  · exact ⟨_, rfl, h.seq, h.total, h.recs⟩

theorem foldl_bbAppend_grows {α : Type} {o : BlackBox} (l : List α) (k : Nat) (g : α → BitVec 384) {s : State} {ps : List Nat}
    (h : BoxGrown o s.bb ps) : ∃ b, l.foldl (fun t c => bbAppend t k t.grid.ctx (g c)) s = { s with bb := b } ∧
      BoxGrown o b (ps ++ l.map fun c => (g c).toNat) := by
  induction l generalizing s ps with
  | nil => exact ⟨s.bb, rfl, (List.append_nil ps).symm ▸ h⟩
  | cons c l ih =>
    obtain ⟨b, e, hb⟩ := bbAppend_grows h k s.grid.ctx (g c)
    obtain ⟨b', e', hb'⟩ := ih (s := { s with bb := b }) hb
    refine ⟨b', ?_, ?_⟩
    · rw [List.foldl_cons, e]
      exact e'
    · rw [List.append_assoc] at hb'
      exact hb'

theorem faultRun_resident {s : State} {c : CtxId} {r : RunSt} (hg : s.grid.ctx = some c) (hr : (s.ctx c).run = some r)
    (hf : (s.ctx c).fault = none) (hs : r.stop = none) (f : FirstFault) :
    faultRun s c f = some (s.setCtx c { s.ctx c with fault := some f }) := by
  have hno : ¬ ((s.ctx c).fault.isSome || r.stop.isSome) = true := by
    rw [hf, hs]
    decide
  unfold faultRun
  dsimp only
  split
  next q hq =>
    cases Option.some.inj (hr.symm.trans hq)
    exact (if_neg hno).trans (if_pos hg)
  next hn => exact nomatch hr.symm.trans hn

/-- A fault of the context whose section runs: one record, and the context holds the fault. -/
theorem raiseFault_resident {o : BlackBox} {s : State} {c : CtxId} {r : RunSt} {ps : List Nat} (h : BoxGrown o s.bb ps) (hg : s.grid.ctx = some c)
    (hr : (s.ctx c).run = some r) (hf : (s.ctx c).fault = none) (hs : r.stop = none) (st : Half) :
    ∃ b a f x, raiseFault s (some c) st = ({ s with bb := b, mod := { s.mod with alert := a } } : State).setCtx c { s.ctx c with fault := some f } ∧
      f.status = st ∧ BoxGrown o b (ps ++ [x]) := by
  obtain ⟨b1, e1, h1⟩ := bbAppend_grows h 1 (some c) (faultPayload st (s.runSeq c) {})
  obtain ⟨b2, e2, h2⟩ := bbFreeze_grows (s := { s with bb := b1 }) h1
  refine ⟨b2, true, ⟨st, s.nextRef, 0⟩, _, ?_, rfl, h2⟩
  unfold raiseFault
  dsimp only
  rw [e1, e2, faultRun_resident (s := { s with bb := b2, mod := { s.mod with alert := true } }) hg hr hf hs]
  rfl

/-! ### The detector's run (R222, R224) -/

/-- What the summary of a snapshot says. -/
def SaysSummary (s : State) (m : Nat) : Prop :=
  m / 2 ^ 9 % 2 = 1 ∧ m / 2 ^ 48 % 2 ^ 5 = s.deadlockW % 2 ^ 5 ∧ m / 2 ^ 53 % 2 ^ 9 = (allCores.filter (coreOccupied s)).length ∧
    (m / 2 ^ 62 % 2 = 1 ↔ streamsOccupied s = true)

/-- The payload of the summary. -/
def summaryWord (s : State) (cyc : Word) : BitVec 384 :=
  word 384 [(9, 1, 1), (16, 32, cyc.toNat), (48, 5, s.deadlockW), (53, 9, (allCores.filter (coreOccupied s)).length),
    (62, 1, b2n (streamsOccupied s))]

theorem fld_eq_div {n : Nat} (v : BitVec n) (lo w : Nat) : v.toNat / 2 ^ lo % 2 ^ w = fld v lo w := by
  rw [fld, Nat.shiftRight_eq_div_pow]

theorem saysSummary_word (s : State) (cyc : Word) : SaysSummary s (summaryWord s cyc).toNat := by
  have hn : (allCores.filter (coreOccupied s)).length < 2 ^ 9 :=
    Nat.lt_of_le_of_lt (List.length_filter_le ..) (by rw [allCores, List.length_finRange]; decide)
  have h9 : fld (summaryWord s cyc) 9 1 = 1 % 2 ^ 1 := fld_word 384 _ 0 rfl rfl (by decide)
  have h48 : fld (summaryWord s cyc) 48 5 = s.deadlockW % 2 ^ 5 := fld_word 384 _ 2 rfl rfl (by decide)
  have h53 : fld (summaryWord s cyc) 53 9 = (allCores.filter (coreOccupied s)).length % 2 ^ 9 := fld_word 384 _ 3 rfl rfl (by decide)
  have h62 : fld (summaryWord s cyc) 62 1 = b2n (streamsOccupied s) % 2 ^ 1 := fld_word 384 _ 4 rfl rfl (by decide)
  refine ⟨(fld_eq_div _ 9 1).trans h9, (fld_eq_div _ 48 5).trans h48, (fld_eq_div _ 53 9).trans (h53.trans (Nat.mod_eq_of_lt hn)), ?_⟩
  rw [show (summaryWord s cyc).toNat / 2 ^ 62 % 2 = _ from (fld_eq_div _ 62 1).trans h62]
  cases streamsOccupied s <;> decide

/-- A fault of the context whose section runs stands already. -/
def gridFaulted (s : State) : Bool := s.grid.phase == .running && s.grid.ctx.any fun c => (s.ctx c).fault.isSome

/-- Something is held: a core's token or blocked channel, or a link stream's. -/
def gridHolds (s : State) : Prop := allCores.filter (coreOccupied s) ≠ [] ∨ streamsOccupied s = true

theorem deadlock_idle {s : State} (h : ¬ gridHolds s) : deadlock s = s := by
  have hc : allCores.filter (coreOccupied s) = [] := not_not.1 fun hc => h (.inl hc)
  have hl : streamsOccupied s = false := eq_false_of_ne_true fun hl => h (.inr hl)
  unfold deadlock
  dsimp only
  refine if_pos ?_
  rw [hc, hl]
  exact Bool.or_true _

/-- The snapshot: a summary, and a record of each core that holds something. -/
def snapshotTaken (s : State) : State :=
  let w := bbAppend (s.fresh 32).2 2 s.grid.ctx (summaryWord s (s.fresh 32).1)
  (allCores.filter (coreOccupied s)).foldl (fun t c => bbAppend t 2 t.grid.ctx (coreSnapshot w c)) w

/-- It takes the black box and a free value, and its records are of the state as it stands. -/
theorem snapshotTaken_eq (s : State) : ∃ b m, snapshotTaken s = { s with free := s.free + 1, bb := b } ∧ SaysSummary s m ∧
    BoxGrown s.bb b (m :: (allCores.filter (coreOccupied s)).map fun c => (coreSnapshot s c).toNat) := by
  obtain ⟨b1, e1, h1⟩ := bbAppend_grows (s := { s with free := s.free + 1 }) (.refl s.bb) 2 s.grid.ctx (summaryWord s (s.fresh 32).1)
  obtain ⟨b2, e2, h2⟩ := foldl_bbAppend_grows (allCores.filter (coreOccupied s)) 2 (coreSnapshot s) (s := { s with free := s.free + 1, bb := b1 }) h1
  have ha : Alike (bbAppend (s.fresh 32).2 2 s.grid.ctx (summaryWord s (s.fresh 32).1)) s := memoryView_bbAppend ..
  refine ⟨b2, _, ?_, saysSummary_word s (s.fresh 32).1, h2⟩
  unfold snapshotTaken
  dsimp only
  rw [funext ha.coreSnapshot, State.fresh_snd, e1]
  exact e2

theorem deadlock_records {s : State} (hl : (sectionLive s || gridFaulted s) = true) (h : gridHolds s) : deadlock s =
    if gridFaulted s then snapshotTaken s else raiseFault (snapshotTaken s) (snapshotTaken s).grid.ctx St.streamDeadlock := by
  refine if_neg ?_
  rw [show (sectionLive s || (s.grid.phase == .running && s.grid.ctx.any fun c => (s.ctx c).fault.isSome)) = true from hl, Bool.not_true,
    Bool.false_or, Bool.and_eq_true_iff, List.isEmpty_iff, Bool.not_eq_true']
  exact fun ⟨hc, hs⟩ => h.elim (fun hn => hn hc) fun ht => Bool.false_ne_true (hs.symm.trans ht)

theorem sectionLive_parts {s : State} (h : sectionLive s = true) : ∃ c r, s.grid.ctx = some c ∧ (s.ctx c).run = some r ∧
    (s.ctx c).fault = none ∧ r.stop = none := by
  unfold sectionLive at h
  obtain ⟨-, h⟩ := Bool.and_eq_true_iff.1 h
  split at h
  · exact absurd h Bool.false_ne_true
  next c hc =>
    obtain ⟨hf, hr⟩ := Bool.and_eq_true_iff.1 h
    obtain ⟨r, hr, hs⟩ := (Option.any_eq_true _ _).1 hr
    exact ⟨c, r, hc, hr, Option.isNone_iff_eq_none.1 hf, Option.isNone_iff_eq_none.1 hs⟩

theorem gridFaulted_live {s : State} (h : sectionLive s = true) : gridFaulted s = false := by
  obtain ⟨c, r, hc, -, hf, -⟩ := sectionLive_parts h
  rw [gridFaulted, hc, Option.any_some, hf]
  exact Bool.and_false _

/-- With nothing at fault the snapshot goes before the fault. -/
theorem deadlock_live {s : State} (hl : sectionLive s = true) (h : gridHolds s) : ∃ c f b a x m y,
    s.grid.ctx = some c ∧
    deadlock s = ({ s with free := f, bb := b, mod := { s.mod with alert := a } } : State).setCtx c { s.ctx c with fault := some x } ∧
    x.status = St.streamDeadlock ∧ SaysSummary s m ∧
    BoxGrown s.bb b ((m :: (allCores.filter (coreOccupied s)).map fun c => (coreSnapshot s c).toNat) ++ [y]) := by
  obtain ⟨c, r, hc, hr, hf, hs⟩ := sectionLive_parts hl
  obtain ⟨b, m, e, hm, hb⟩ := snapshotTaken_eq s
  obtain ⟨b', a, x, y, e', hx, hb'⟩ := raiseFault_resident (s := { s with free := s.free + 1, bb := b }) hb hc hr hf hs St.streamDeadlock
  refine ⟨c, s.free + 1, b', a, x, m, y, hc, ?_, hx, hm, hb'⟩
  rw [deadlock_records (by rw [hl]; rfl) h, gridFaulted_live hl, if_neg Bool.false_ne_true, e, hc, e']
  rfl

/-- The records since, while the black box has room. -/
theorem BoxGrown.payloads {o b : BlackBox} {ps : List Nat} (h : BoxGrown o b ps) (hr : o.recs.length + ps.length ≤ 4096) :
    (b.recs.drop o.recs.length).map recPayload = ps := by
  obtain ⟨l, hl, hp⟩ := h.recs hr
  rw [hl, List.drop_left, hp]

/-- Settles O38: the units by what stands at their heads, the detector by what it records. -/
theorem gridUnits : Obligations.GridUnits := by
  unfold Obligations.GridUnits
  refine ⟨fun s c t i => ?_, fun s => ?_⟩
  case refine_1 =>
    intro d x fan
    refine ⟨fun u hh hc he => ?_, fun ch hl hs => next_congr (moveFire_fault hl hs), fun ch hl hs => next_congr (moveFire_fault hl hs),
      fun ch hl hs => next_congr (repeatStep_fault hl hs), fun hl hs hh => ?_, fun hl hs hh => ?_, fun hl hs hh => ?_, fun hl he hh => ?_,
      fun u hl hr => ?_⟩
    case refine_1 =>
      have hn := ctrlStep_token hh hc he
      have hd := kind_differs_iff (k := t.ckind) (p := SD.pred (d u))
      refine ⟨fun hk hi => ?_, fun hb => ?_⟩
      · exact hn.trans ((if_neg fun h => hd.1 h hk).trans (if_neg (Nat.not_le.2 hi)))
      · by_cases hk : (t.ckind == 0) != SD.pred (d u)
        · exact hn.trans (if_pos hk)
        · exact hn.trans ((if_neg hk).trans (if_pos (hb.resolve_left fun h => hk (hd.2 h))))
    case refine_2 =>
      have hm := moveFire_index hl hs hh
      refine ⟨fun hd hc => ?_, fun hd => next_congr (hm.trans (if_pos (by rw [hd]; rfl)))⟩
      exact next_congr (hm.trans ((if_neg (by rw [hd]; decide)).trans (if_pos hc)))
    case refine_3 =>
      have hm := moveFire_index hl hs hh
      refine ⟨fun hd hc => ?_, fun hd => next_congr (hm.trans (if_pos (by rw [hd]; rfl)))⟩
      exact next_congr (hm.trans ((if_neg (by rw [hd]; decide)).trans (if_pos hc)))
    case refine_4 =>
      have hm := repeatStep_index hl hs hh
      intro both sent
      refine ⟨fun hd => next_congr (hm.trans (if_pos (by rw [hd]; rfl))), fun hd hi => ?_, fun hd hi hc => ?_⟩
      all_goals have hm := hm.trans (if_neg (by rw [hd]; decide))
      · exact next_congr (hm.trans (if_pos hi))
      · have hm := hm.trans ((if_neg hi).trans (if_neg (by rw [hc]; decide)))
        exact ⟨fun hn => next_congr (hm.trans (if_pos hn)), fun hn => next_congr (hm.trans (if_neg (Nat.not_le.2 hn)))⟩
    case refine_5 =>
      have hm := mergeStep_head hl he hh
      intro sent
      refine ⟨fun hc hn => next_congr (hm.trans ((if_neg (ne_true_of_eq_false hn)).trans (if_pos hc))), fun hd hc => ?_⟩
      have hm := hm.trans ((if_neg (ne_true_of_eq_false (t.isEot_of_isData hd))).trans
        ((if_neg (ne_true_of_eq_false (t.isControl_of_isData hd))).trans (if_neg (by rw [hd, hc]; decide))))
      exact ⟨fun hw => next_congr (hm.trans (if_neg (Nat.not_le.2 hw))), fun hw => next_congr (hm.trans (if_pos hw))⟩
    case refine_6 =>
      intro ins through
      refine ⟨fun hu he => ?_, fun hm hd => next_congr (endPass_done hl hr hm hd), fun hu he => next_congr (endPass_eot hl hr hu he)⟩
      rw [hu] at hl hr
      refine next_congr (Eq.trans ?_ (endPass_owed hl he (hr _ (out_mem_outs _))))
      rw [hu]
  case refine_2 =>
    intro cs held payload room summary
    refine ⟨fun _ hn => next_congr (deadlock_idle hn), fun hl hh => ?_, fun c hp hc hf hh => ?_⟩
    case refine_1 =>
      obtain ⟨c, f, b, a, x, m, y, hc, e, hx, hm, hb⟩ := deadlock_live hl hh
      have hlen : ((m :: cs.map fun c => (coreSnapshot s c).toNat) ++ [y]).length = cs.length + 2 := by
        rw [List.length_append, List.length_cons, List.length_map]
        rfl
      refine ⟨_, next_congr e, hlen ▸ hb.seq, hb.total.trans (congrArg (s.bb.total + ·) hlen), fun hr => ⟨m, y, hm, ?_⟩, fun d hd => ?_, rfl, rfl, rfl⟩
      · exact hb.payloads (by rw [hlen]; exact hr)
      · cases Option.some.inj (hc.symm.trans hd)
        rw [State.ctx_setCtx_same, Option.any_some, hx]
        exact beq_self_eq_true _
    case refine_2 =>
      have hg : gridFaulted s = true := by
        rw [gridFaulted, hp, hc, Option.any_some, Option.isSome_iff_ne_none.2 hf]
        rfl
      have hd := (deadlock_records (by rw [hg]; exact Bool.or_true _) hh).trans (if_pos hg)
      obtain ⟨b, m, e, hm, hb⟩ := snapshotTaken_eq s
      have hlen : (m :: cs.map fun c => (coreSnapshot s c).toNat).length = cs.length + 1 := by
        rw [List.length_cons, List.length_map]
      refine ⟨_, next_congr (hd.trans e), hlen ▸ hb.seq, fun hr => ⟨m, hm, ?_⟩, rfl, rfl, rfl, rfl⟩
      exact hb.payloads (by rw [hlen]; exact Nat.le_trans (Nat.le_succ _) hr)

end Sys2Proof.Machine
end
